-- ==== Sys2Proof/Word.lean ====
section
/-!
DEFINITION. The words of the machine (spec 00_scope.md, R5) and the plain data types that operands of
events carry: exact values, and what nature, the host and other packages hand to the device.
-/

namespace Sys2Proof

/-- A byte: 8 bits (R5). -/
abbrev Byte := BitVec 8
/-- A half: 16 bits (R5). -/
abbrev Half := BitVec 16
/-- A word: 32 bits (R5). -/
abbrev Word := BitVec 32
/-- A doubleword: 64 bits (R5). -/
abbrev DWord := BitVec 64

/-- An exact value of a number format (R59 to R71): not a number, an infinity, or
`(-1)^neg * m * 2^e`, where a zero keeps its sign. -/
inductive Num where
  | nan
  | inf (neg : Bool)
  | fin (neg : Bool) (m : Nat) (e : Int)
  deriving DecidableEq, Repr

/-- What a soft error did to a flight (R145, R146). `clean`: nothing. `parity`: a register file or
buffer parity error, which discards the flight. `pairFix`: one of three paired runs differed.
`pairNone`: all three differed. -/
inductive Upset where
  | clean
  | parity
  | pairFix (port : Nat)
  | pairNone (p q r : Nat)
  deriving DecidableEq, Repr

/-- What a check of stored data found: the patrol scrubber's in a line of memory (R283), SEC-DED's in a word of a scratchpad or of
accumulators or in a landing record, where `lost` says that it is beyond correction, and parity's in a line of an L1 (R146). -/
inductive ScrubFind where
  | clean
  | corrected
  | uncorrectable
  | scratch (die core inst off : Nat) (lost : Bool)
  | accum (die core inst off : Nat) (lost : Bool)
  | landing (gid : Nat) (lost : Bool)
  | l1 (die core : Nat)
  deriving DecidableEq, Repr

/-- An access performed at the core that owns a scratchpad (R233): a committed effect by its
number, or request `req` of gang `gid`. -/
inductive RemoteOp where
  | effect (id : Nat)
  | load (gid req : Nat)
  deriving DecidableEq, Repr

/-- An access that another package asks of this one (R326): a load of `n` bytes, a write, an atomic of one or more lanes with the
minor of R158, each with its offset from the address and its operands, or a copy combination with the REDOP of R330. -/
inductive FabOp where
  | load (n : Nat)
  | write (bytes : List Byte)
  | atomic (minor : Nat) (parts : List (Nat × DWord × DWord))
  | reduce (redop : Nat) (bytes : List Byte)
  deriving DecidableEq, Repr

/-- A fabric request: who asks, where, and what (R325, R326). -/
structure FabReq where
  src : Nat
  addr : Nat
  op : FabOp
  deriving DecidableEq, Repr

/-- What the sampling unit recorded of one tagged instruction (R299). -/
structure SampleData where
  header : DWord
  flight : DWord
  fetch : Half
  issue : Half
  operand : Half
  execute : Half
  writeBack : Half
  passes : Byte
  level : Byte
  port : BitVec 2
  core : BitVec 7
  index : BitVec 4
  discarded : Bool
  slot : Byte
  ctx : BitVec 6
  deriving DecidableEq, Repr

/-- What the dies read from their fuses at bring-up (R1, R118, R323): the grade and stepping, the
sites that are disabled, the lane masks that are not all ones as (die, site, port, mask), where the loaded firmware
starts, the vendor key held in fuses, the key under which the images' signature verifies (R319), and the enabled sites
whose cores fail their scan. -/
structure Fuses where
  grade : Byte
  stepping : Byte
  disabled : List (Nat × Nat)
  lanes : List (Nat × Nat × Nat × Word)
  ccEntry : DWord
  vendorKey : Nat
  signedBy : Nat
  failed : List (Nat × Nat)
  deriving DecidableEq, Repr

end Sys2Proof
end

