-- ==== Sys2Proof/Machine/Bits.lean ====
section
/-!
DEFINITION. Bit fields, counts and byte order: the small functions on words that every other file uses
(R5, R7).
-/

namespace Sys2Proof.Machine

/-- A Bool as a bit of a number. -/
def bit (b : Bool) : Nat := if b then 1 else 0

/-- The field `[lo + n - 1 : lo]` of a doubleword, as a number. -/
def field (x : DWord) (lo n : Nat) : Nat := x.toNat / 2 ^ lo % 2 ^ n

/-- The field `[lo + n - 1 : lo]` of a word, as a number. -/
def fieldW (x : Word) (lo n : Nat) : Nat := x.toNat / 2 ^ lo % 2 ^ n

/-- A word zero-extended to a doubleword. -/
def zext64 (w : Word) : DWord := w.setWidth 64

/-- A word sign-extended to a doubleword. -/
def sext64 (w : Word) : DWord := w.signExtend 64

/-- The `n` low bytes of a doubleword, little-endian (R5). -/
def bytesOf (n : Nat) (x : DWord) : List Byte := (List.range n).map (fun i => BitVec.ofNat 8 (x.toNat / 2 ^ (8 * i)))

/-- A little-endian list of bytes as a number (R5). -/
def natOfBytes : List Byte → Nat
  | [] => 0
  | b :: bs => b.toNat + 256 * natOfBytes bs

/-- A little-endian list of bytes as a doubleword. -/
def dwordOfBytes (bs : List Byte) : DWord := BitVec.ofNat 64 (natOfBytes bs)

/-- Little-endian words of a list of bytes. -/
def wordsOfBytes : Nat → List Byte → List Word
  | 0, _ => []
  | n + 1, bs => BitVec.ofNat 32 (natOfBytes (bs.take 4)) :: wordsOfBytes n (bs.drop 4)

/-- The bytes of words, little-endian. -/
def bytesOfWords (ws : List Word) : List Byte := ws.flatMap (fun w => bytesOf 4 (zext64 w))

/-- How many bits are one. -/
def popcount {n : Nat} (x : BitVec n) : Nat := (List.range n).countP (fun i => x.getLsbD i)

/-- How many leading bits are zero. -/
def leadingZeros {n : Nat} (x : BitVec n) : Nat := n - (List.range n).foldl (fun h i => if x.getLsbD i then i + 1 else h) 0

/-- A value of `size` bytes, sign- or zero-extended from a byte list to a doubleword. -/
def extend (sext : Bool) (bs : List Byte) : DWord :=
  let n := natOfBytes bs
  let top := 2 ^ (8 * bs.length - 1)
  if sext && decide (0 < bs.length) && decide (top ≤ n) then BitVec.ofInt 64 ((n : Int) - 2 ^ (8 * bs.length))
  else BitVec.ofNat 64 n

/-- Round a number up to a multiple. -/
def roundUp (n m : Nat) : Nat := (n + m - 1) / m * m

/-- The quotient rounded up. -/
def ceilDiv (n m : Nat) : Nat := (n + m - 1) / m

/-- A word whose bits are given by a function. -/
def maskOf (f : Nat → Bool) : Word :=
  (List.range 32).foldl (fun m i => if f i then m ||| (1#32 <<< i) else m) 0#32

/-- The bits that are one, in rising order. -/
def bitsOf {n : Nat} (x : BitVec n) : List Nat := (List.range n).filter (fun i => x.getLsbD i)

/-- The four lanes of a slice (R24). -/
def lanesOf (k : Nat) : List Nat := [4 * k, 4 * k + 1, 4 * k + 2, 4 * k + 3]

/-- The lanes of a slice as a mask. -/
def sliceMask (k : Nat) : Word := 0xF#32 <<< (4 * k)

/-- The lanes of a set of slices as a mask (R24). -/
def laneMask (slices : Byte) : Word := maskOf (fun l => slices.getLsbD (l / 4))

end Sys2Proof.Machine
end

