-- ==== Sys2Proof/Config.lean ====
section
/-!
DEFINITION. What the spec leaves open: constants with no body, so that no proof can rest on a value of
theirs. The numbers named in the docstrings are the entries of notes/assumptions.
-/

namespace Sys2Proof

/-- A choice the spec leaves open: the `n`-th one taken is read modulo the number of choices (DESIGN CHOICE, log 7). -/
opaque Config.choose : Nat → Nat

/-- A value the spec leaves open: the `n`-th one taken (DESIGN CHOICE, log 7). -/
opaque Config.freeWord : Nat → DWord

/-- A byte of another package's memory, as a read that this package makes by itself finds it: the count of
free values taken so far, the package and the address (DESIGN CHOICE, log 14). -/
opaque Config.fabricByte : Nat → Nat → Nat → Byte

/-- A byte of a line that was written under another owner's key, as it is read: zero or what decryption under the wrong key
gives; the count of free values taken so far, and the address (R318; DESIGN CHOICE, log 53). -/
opaque Config.foreignByte : Nat → Nat → Byte

/-- The integer that stands for a value that is no INT32 where an INT32 is wanted (DESIGN CHOICE, log 48). -/
opaque Config.openInt : Num → Int

/-- The golden scan signature of this stepping, SCANGOLD (R291; DESIGN CHOICE, log 5). -/
opaque Config.scanGold : DWord

/-- The signature part of an attestation report, from the report's other words (R319; DESIGN CHOICE, log 5). -/
opaque Config.attest : List Byte → List Byte

end Sys2Proof
end

