-- ==== Sys2Proof/Machine/Map.lean ====
section
/-!
DEFINITION. Sparse data by a natural number: a list of key and value pairs, keys strictly rising, with no
entry for a key that holds the default. Memory, register files and tables of the machine are such lists.
-/

namespace Sys2Proof.Machine

/-- The entry of a key, if the list has one. -/
def look? {α : Type} : List (Nat × α) → Nat → Option α
  | [], _ => none
  | (k, v) :: m, i => if k = i then some v else look? m i

/-- The value of a key: its entry, or the default. -/
def look {α : Type} (d : α) (m : List (Nat × α)) (i : Nat) : α := (look? m i).getD d

/-- Remove a key's entry. -/
def erase {α : Type} : List (Nat × α) → Nat → List (Nat × α)
  | [], _ => []
  | (k, v) :: m, i => if k = i then erase m i else (k, v) :: erase m i

/-- Insert an entry before the first greater key. -/
def insertAt {α : Type} : List (Nat × α) → Nat → α → List (Nat × α)
  | [], i, x => [(i, x)]
  | (k, v) :: m, i, x => if i < k then (i, x) :: (k, v) :: m else (k, v) :: insertAt m i x

/-- Give a key an entry, or none. -/
def put? {α : Type} (m : List (Nat × α)) (i : Nat) : Option α → List (Nat × α)
  | none => erase m i
  | some x => insertAt (erase m i) i x

/-- Give a key a value; the default is held by having no entry. -/
def put {α : Type} [DecidableEq α] (d : α) (m : List (Nat × α)) (i : Nat) (x : α) : List (Nat × α) :=
  put? m i (if x = d then none else some x)

/-- Whether keys rise strictly and every key is above `lo`. -/
def sortedAbove {α : Type} (lo : Nat) : List (Nat × α) → Bool
  | [] => true
  | (k, _) :: m => lo ≤ k && sortedAbove (k + 1) m

/-- The canonical form: keys strictly rising and no entry equal to the default. -/
def mapWf {α : Type} [DecidableEq α] (d : α) (m : List (Nat × α)) : Bool :=
  sortedAbove 0 m && m.all (fun e => decide (e.2 ≠ d))

/-- Change the value of a key. -/
def alter {α : Type} [DecidableEq α] (d : α) (m : List (Nat × α)) (i : Nat) (f : α → α) : List (Nat × α) :=
  put d m i (f (look d m i))

/-- Change the entry of a key that has one. -/
def alter? {α : Type} (m : List (Nat × α)) (i : Nat) (f : α → α) : List (Nat × α) :=
  put? m i ((look? m i).map f)

end Sys2Proof.Machine
end

