-- ==== Sys2Proof/Syntax.lean ====
section
/-!
DEFINITION. The one inductive of the machine's steps: a constructor for every row of the opcode table.
The first 280 are the instruction words of Yalyx (R31 to R34), their fields as the encoding has them;
the last 61 are the device's own events, which have no encoding, with the unit that acts and what the
outside hands in as operands.
-/

namespace Sys2Proof

/-- Instructions and events of the DF8, in the order of the opcode table. -/
inductive Instr where
  /-- `SADD` (R40). Adds two scalars modulo 2^64 in each executing slice. -/
  | sadd (d : BitVec 5) (a : BitVec 5) (b : BitVec 5)
  /-- `SSUB` (R40). Subtracts two scalars modulo 2^64. -/
  | ssub (d : BitVec 5) (a : BitVec 5) (b : BitVec 5)
  /-- `SMUL` (R40). Low 64 bits of a scalar product. -/
  | smul (d : BitVec 5) (a : BitVec 5) (b : BitVec 5)
  /-- `SMULH` (R40). High 64 bits of a signed scalar product. -/
  | smulh (d : BitVec 5) (a : BitVec 5) (b : BitVec 5)
  /-- `SMULHU` (R40). High 64 bits of an unsigned scalar product. -/
  | smulhu (d : BitVec 5) (a : BitVec 5) (b : BitVec 5)
  /-- `SAND` (R40). Bitwise AND of two scalars. -/
  | sand (d : BitVec 5) (a : BitVec 5) (b : BitVec 5)
  /-- `SOR` (R40). Bitwise OR of two scalars. -/
  | sor (d : BitVec 5) (a : BitVec 5) (b : BitVec 5)
  /-- `SXOR` (R40). Bitwise XOR of two scalars. -/
  | sxor (d : BitVec 5) (a : BitVec 5) (b : BitVec 5)
  /-- `SSHL` (R40). Shifts a scalar left by S[b][5:0]. -/
  | sshl (d : BitVec 5) (a : BitVec 5) (b : BitVec 5)
  /-- `SSHR` (R40). Shifts a scalar logically right. -/
  | sshr (d : BitVec 5) (a : BitVec 5) (b : BitVec 5)
  /-- `SSRA` (R40). Shifts a scalar arithmetically right. -/
  | ssra (d : BitVec 5) (a : BitVec 5) (b : BitVec 5)
  /-- `SMIN` (R40). Signed scalar minimum. -/
  | smin (d : BitVec 5) (a : BitVec 5) (b : BitVec 5)
  /-- `SMAX` (R40). Signed scalar maximum. -/
  | smax (d : BitVec 5) (a : BitVec 5) (b : BitVec 5)
  /-- `SMINU` (R40). Unsigned scalar minimum. -/
  | sminu (d : BitVec 5) (a : BitVec 5) (b : BitVec 5)
  /-- `SMAXU` (R40). Unsigned scalar maximum. -/
  | smaxu (d : BitVec 5) (a : BitVec 5) (b : BitVec 5)
  /-- `SSLT` (R40). Sets 1 if S[a] < S[b] signed. -/
  | sslt (d : BitVec 5) (a : BitVec 5) (b : BitVec 5)
  /-- `SSLTU` (R40). Sets 1 if S[a] < S[b] unsigned. -/
  | ssltu (d : BitVec 5) (a : BitVec 5) (b : BitVec 5)
  /-- `SDIV` (R40). Signed scalar division with defined results for zero and overflow. -/
  | sdiv (d : BitVec 5) (a : BitVec 5) (b : BitVec 5)
  /-- `SDIVU` (R40). Unsigned scalar division. -/
  | sdivu (d : BitVec 5) (a : BitVec 5) (b : BitVec 5)
  /-- `SREM` (R40). Signed scalar remainder. -/
  | srem (d : BitVec 5) (a : BitVec 5) (b : BitVec 5)
  /-- `SREMU` (R40). Unsigned scalar remainder. -/
  | sremu (d : BitVec 5) (a : BitVec 5) (b : BitVec 5)
  /-- `SCLZ` (R40). Counts leading zero bits of a scalar. -/
  | sclz (d : BitVec 5) (a : BitVec 5)
  /-- `SPOP` (R40). Counts one bits of a scalar. -/
  | spop (d : BitVec 5) (a : BitVec 5)
  /-- `SSEQ` (R40). Sets 1 if two scalars are equal. -/
  | sseq (d : BitVec 5) (a : BitVec 5) (b : BitVec 5)
  /-- `SADDI` (R41). Adds a sign-extended immediate to a scalar. -/
  | saddi (d : BitVec 5) (a : BitVec 5) (i : BitVec 10)
  /-- `SANDI` (R41). ANDs a scalar with an immediate. -/
  | sandi (d : BitVec 5) (a : BitVec 5) (i : BitVec 10)
  /-- `SORI` (R41). ORs a scalar with an immediate. -/
  | sori (d : BitVec 5) (a : BitVec 5) (i : BitVec 10)
  /-- `SXORI` (R41). XORs a scalar with an immediate. -/
  | sxori (d : BitVec 5) (a : BitVec 5) (i : BitVec 10)
  /-- `SSHLI` (R41). Shifts a scalar left by an immediate. -/
  | sshli (d : BitVec 5) (a : BitVec 5) (i : BitVec 6)
  /-- `SSHRI` (R41). Shifts a scalar logically right by an immediate. -/
  | sshri (d : BitVec 5) (a : BitVec 5) (i : BitVec 6)
  /-- `SSRAI` (R41). Shifts a scalar arithmetically right by an immediate. -/
  | ssrai (d : BitVec 5) (a : BitVec 5) (i : BitVec 6)
  /-- `SSLTI` (R41). Signed compare of a scalar with an immediate. -/
  | sslti (d : BitVec 5) (a : BitVec 5) (i : BitVec 10)
  /-- `SSLTIU` (R41). Unsigned compare of a scalar with a sign-extended immediate. -/
  | ssltiu (d : BitVec 5) (a : BitVec 5) (i : BitVec 10)
  /-- `SLUI` (R42). Loads a 20-bit upper immediate into a scalar, sign-extended. -/
  | slui (d : BitVec 5) (i : BitVec 20)
  /-- `SADR` (R42). Forms an address relative to the clause header. -/
  | sadr (d : BitVec 5) (i : BitVec 20)
  /-- `BRA` (R43). Unconditional branch relative to the clause header. -/
  | bra (o : BitVec 18)
  /-- `BZ` (R43). Per-slice branch when a scalar is zero. -/
  | bz (s : BitVec 5) (o : BitVec 18)
  /-- `BNZ` (R43). Per-slice branch when a scalar is non-zero. -/
  | bnz (s : BitVec 5) (o : BitVec 18)
  /-- `BMZ` (R43). Branch when the slice's exec-mask part is zero. -/
  | bmz (o : BitVec 18)
  /-- `BMNZ` (R43). Branch when the slice's exec-mask part is non-zero. -/
  | bmnz (o : BitVec 18)
  /-- `BLT` (R43). Branch when a scalar is negative. -/
  | blt (s : BitVec 5) (o : BitVec 18)
  /-- `CALL` (R44). Pushes the return address on the slice return stack and branches. -/
  | call (o : BitVec 18)
  /-- `JMP` (R44). Jumps to the address in a scalar. -/
  | jmp (a : BitVec 5)
  /-- `CALLR` (R44). Calls the address in a scalar. -/
  | callr (a : BitVec 5)
  /-- `RET` (R44). Pops the return stack and continues there. -/
  | ret
  /-- `REGANG` (R47). Ends the flight and parks the sub-gang on a rendezvous key until siblings merge. -/
  | regang (t : BitVec 12)
  /-- `MPUSH` (R49). Saves the exec mask and ANDs it with a predicate. -/
  | mpush (d : BitVec 5) (k : BitVec 7)
  /-- `MPOP` (R49). Restores the exec mask from a scalar. -/
  | mpop (a : BitVec 5)
  /-- `MELSE` (R49). Switches the exec mask to the other arm. -/
  | melse (a : BitVec 5)
  /-- `ALLON` (R50). Rendezvous of the whole gang that ends the flight and turns all occupied lanes on. -/
  | allon (d : BitVec 5)
  /-- `ALLOFF` (R50). Restores the mask saved by ALLON and clears the bracket mark. -/
  | alloff (a : BitVec 5)
  /-- `MGET` (R49). Reads the exec mask into a scalar. -/
  | mget (d : BitVec 5)
  /-- `MSET` (R49). Sets the exec mask from a scalar. -/
  | mset (a : BitVec 5)
  /-- `VADD` (R81). Per-lane 32-bit add. -/
  | vadd (d : BitVec 6) (a : BitVec 6) (b : BitVec 6) (g : BitVec 3) (n : BitVec 1)
  /-- `VSUB` (R81). Per-lane 32-bit subtract. -/
  | vsub (d : BitVec 6) (a : BitVec 6) (b : BitVec 6) (g : BitVec 3) (n : BitVec 1)
  /-- `VMUL` (R81). Per-lane low product. -/
  | vmul (d : BitVec 6) (a : BitVec 6) (b : BitVec 6) (g : BitVec 3) (n : BitVec 1)
  /-- `VMULH` (R81). Per-lane signed high product. -/
  | vmulh (d : BitVec 6) (a : BitVec 6) (b : BitVec 6) (g : BitVec 3) (n : BitVec 1)
  /-- `VMULHU` (R81). Per-lane unsigned high product. -/
  | vmulhu (d : BitVec 6) (a : BitVec 6) (b : BitVec 6) (g : BitVec 3) (n : BitVec 1)
  /-- `VMAD` (R81). Per-lane multiply-add into vD. -/
  | vmad (d : BitVec 6) (a : BitVec 6) (b : BitVec 6) (g : BitVec 3) (n : BitVec 1)
  /-- `VAND` (R81). Per-lane bitwise AND. -/
  | vand (d : BitVec 6) (a : BitVec 6) (b : BitVec 6) (g : BitVec 3) (n : BitVec 1)
  /-- `VOR` (R81). Per-lane bitwise OR. -/
  | vor (d : BitVec 6) (a : BitVec 6) (b : BitVec 6) (g : BitVec 3) (n : BitVec 1)
  /-- `VXOR` (R81). Per-lane bitwise XOR. -/
  | vxor (d : BitVec 6) (a : BitVec 6) (b : BitVec 6) (g : BitVec 3) (n : BitVec 1)
  /-- `VSHL` (R81). Per-lane shift left. -/
  | vshl (d : BitVec 6) (a : BitVec 6) (b : BitVec 6) (g : BitVec 3) (n : BitVec 1)
  /-- `VSHR` (R81). Per-lane logical shift right. -/
  | vshr (d : BitVec 6) (a : BitVec 6) (b : BitVec 6) (g : BitVec 3) (n : BitVec 1)
  /-- `VSRA` (R81). Per-lane arithmetic shift right. -/
  | vsra (d : BitVec 6) (a : BitVec 6) (b : BitVec 6) (g : BitVec 3) (n : BitVec 1)
  /-- `VMIN` (R81). Per-lane signed minimum. -/
  | vmin (d : BitVec 6) (a : BitVec 6) (b : BitVec 6) (g : BitVec 3) (n : BitVec 1)
  /-- `VMAX` (R81). Per-lane signed maximum. -/
  | vmax (d : BitVec 6) (a : BitVec 6) (b : BitVec 6) (g : BitVec 3) (n : BitVec 1)
  /-- `VMINU` (R81). Per-lane unsigned minimum. -/
  | vminu (d : BitVec 6) (a : BitVec 6) (b : BitVec 6) (g : BitVec 3) (n : BitVec 1)
  /-- `VMAXU` (R81). Per-lane unsigned maximum. -/
  | vmaxu (d : BitVec 6) (a : BitVec 6) (b : BitVec 6) (g : BitVec 3) (n : BitVec 1)
  /-- `VPOP` (R82). Per-lane population count. -/
  | vpop (d : BitVec 6) (a : BitVec 6) (g : BitVec 3) (n : BitVec 1)
  /-- `VCLZ` (R82). Per-lane leading-zero count. -/
  | vclz (d : BitVec 6) (a : BitVec 6) (g : BitVec 3) (n : BitVec 1)
  /-- `VBREV` (R82). Per-lane bit reversal. -/
  | vbrev (d : BitVec 6) (a : BitVec 6) (g : BitVec 3) (n : BitVec 1)
  /-- `VABSD` (R82). Per-lane absolute signed difference. -/
  | vabsd (d : BitVec 6) (a : BitVec 6) (b : BitVec 6) (g : BitVec 3) (n : BitVec 1)
  /-- `VSEL` (R82). Selects vA or vB per lane by the guard predicate. -/
  | vsel (d : BitVec 6) (a : BitVec 6) (b : BitVec 6) (g : BitVec 3) (n : BitVec 1)
  /-- `VMOV` (R82). Per-lane register copy. -/
  | vmov (d : BitVec 6) (a : BitVec 6) (g : BitVec 3) (n : BitVec 1)
  /-- `VDOT4` (R83). Accumulates four signed byte products. -/
  | vdot4 (d : BitVec 6) (a : BitVec 6) (b : BitVec 6) (g : BitVec 3) (n : BitVec 1)
  /-- `VDOT4U` (R83). Accumulates four unsigned byte products. -/
  | vdot4u (d : BitVec 6) (a : BitVec 6) (b : BitVec 6) (g : BitVec 3) (n : BitVec 1)
  /-- `VREQ8` (R84). Requantises INT32 to 8 bits with a scalar multiplier, shift and zero point. -/
  | vreq8 (d : BitVec 6) (a : BitVec 6) (b : BitVec 5) (g : BitVec 3) (n : BitVec 1)
  /-- `VREQ4` (R84). Requantises INT32 to 4 bits. -/
  | vreq4 (d : BitVec 6) (a : BitVec 6) (b : BitVec 5) (g : BitVec 3) (n : BitVec 1)
  /-- `VLANE` (R82). Writes each lane's virtual lane number. -/
  | vlane (d : BitVec 6) (g : BitVec 3) (n : BitVec 1)
  /-- `VTASK` (R82). Writes each lane's task number. -/
  | vtask (d : BitVec 6) (g : BitVec 3) (n : BitVec 1)
  /-- `VBCS` (R82). Broadcasts the low word of the lane's slice scalar. -/
  | vbcs (d : BitVec 6) (a : BitVec 5) (g : BitVec 3) (n : BitVec 1)
  /-- `VADDI` (R85). Per-lane add of an immediate. -/
  | vaddi (d : BitVec 6) (a : BitVec 6) (i : BitVec 10)
  /-- `VANDI` (R85). Per-lane AND with an immediate. -/
  | vandi (d : BitVec 6) (a : BitVec 6) (i : BitVec 10)
  /-- `VORI` (R85). Per-lane OR with an immediate. -/
  | vori (d : BitVec 6) (a : BitVec 6) (i : BitVec 10)
  /-- `VXORI` (R85). Per-lane XOR with an immediate. -/
  | vxori (d : BitVec 6) (a : BitVec 6) (i : BitVec 10)
  /-- `VSHLI` (R85). Per-lane shift left by an immediate. -/
  | vshli (d : BitVec 6) (a : BitVec 6) (i : BitVec 5)
  /-- `VSHRI` (R85). Per-lane logical shift right by an immediate. -/
  | vshri (d : BitVec 6) (a : BitVec 6) (i : BitVec 5)
  /-- `VSRAI` (R85). Per-lane arithmetic shift right by an immediate. -/
  | vsrai (d : BitVec 6) (a : BitVec 6) (i : BitVec 5)
  /-- `VMINI` (R85). Per-lane signed minimum with an immediate. -/
  | vmini (d : BitVec 6) (a : BitVec 6) (i : BitVec 10)
  /-- `VMAXI` (R85). Per-lane signed maximum with an immediate. -/
  | vmaxi (d : BitVec 6) (a : BitVec 6) (i : BitVec 10)
  /-- `VMOVI` (R85). Writes a sign-extended immediate to each active lane. -/
  | vmovi (d : BitVec 6) (i : BitVec 10)
  /-- `VUNPK` (R85). Extracts one byte per lane, sign- or zero-extended. -/
  | vunpk (d : BitVec 6) (a : BitVec 6) (n : BitVec 3)
  /-- `VLUI` (R86). Writes a 20-bit upper immediate to each active lane. -/
  | vlui (d : BitVec 6) (i : BitVec 20)
  /-- `VCMP` (R87). Integer compare of two vectors into a predicate. -/
  | vcmp (p : BitVec 7) (a : BitVec 6) (b : BitVec 6) (c : BitVec 3)
  /-- `VCMPS` (R87). Integer compare of a vector with a scalar into a predicate. -/
  | vcmps (p : BitVec 7) (a : BitVec 6) (b : BitVec 5) (c : BitVec 3)
  /-- `FCMP` (R88). FP32 compare of two vectors into a predicate. -/
  | fcmp (p : BitVec 7) (a : BitVec 6) (b : BitVec 6) (c : BitVec 3)
  /-- `FCMPS` (R88). FP32 compare of a vector with a scalar into a predicate. -/
  | fcmps (p : BitVec 7) (a : BitVec 6) (b : BitVec 5) (c : BitVec 3)
  /-- `DCMP` (R87). FP64 pair compare into a predicate. -/
  | dcmp (p : BitVec 7) (a : BitVec 5) (b : BitVec 5) (c : BitVec 3)
  /-- `PAND` (R89). Predicate AND. -/
  | pand (d : BitVec 7) (a : BitVec 7) (b : BitVec 7)
  /-- `POR` (R89). Predicate OR. -/
  | por (d : BitVec 7) (a : BitVec 7) (b : BitVec 7)
  /-- `PXOR` (R89). Predicate XOR. -/
  | pxor (d : BitVec 7) (a : BitVec 7) (b : BitVec 7)
  /-- `PANDN` (R89). Predicate AND NOT. -/
  | pandn (d : BitVec 7) (a : BitVec 7) (b : BitVec 7)
  /-- `PNOT` (R89). Predicate NOT. -/
  | pnot (d : BitVec 7) (a : BitVec 7)
  /-- `PMOV` (R89). Predicate copy. -/
  | pmov (d : BitVec 7) (a : BitVec 7)
  /-- `PSET` (R89). Sets a predicate to 1 in active lanes. -/
  | pset (d : BitVec 7)
  /-- `PCLR` (R89). Clears a predicate in active lanes. -/
  | pclr (d : BitVec 7)
  /-- `FADD` (R90). FP32 add rounded in the FPCTL mode. -/
  | fadd (d : BitVec 6) (a : BitVec 6) (b : BitVec 6) (g : BitVec 3) (n : BitVec 1)
  /-- `FSUB` (R90). FP32 subtract. -/
  | fsub (d : BitVec 6) (a : BitVec 6) (b : BitVec 6) (g : BitVec 3) (n : BitVec 1)
  /-- `FMUL` (R90). FP32 multiply. -/
  | fmul (d : BitVec 6) (a : BitVec 6) (b : BitVec 6) (g : BitVec 3) (n : BitVec 1)
  /-- `FFMA` (R90). FP32 fused multiply-add with one rounding. -/
  | ffma (d : BitVec 6) (a : BitVec 6) (b : BitVec 6) (g : BitVec 3) (n : BitVec 1)
  /-- `FFMS` (R90). FP32 fused multiply-subtract with one rounding. -/
  | ffms (d : BitVec 6) (a : BitVec 6) (b : BitVec 6) (g : BitVec 3) (n : BitVec 1)
  /-- `FMIN` (R91). IEEE minimum of FP32 values. -/
  | fmin (d : BitVec 6) (a : BitVec 6) (b : BitVec 6) (g : BitVec 3) (n : BitVec 1)
  /-- `FMAX` (R91). IEEE maximum of FP32 values. -/
  | fmax (d : BitVec 6) (a : BitVec 6) (b : BitVec 6) (g : BitVec 3) (n : BitVec 1)
  /-- `FMINN` (R91). IEEE minimumNumber of FP32 values. -/
  | fminn (d : BitVec 6) (a : BitVec 6) (b : BitVec 6) (g : BitVec 3) (n : BitVec 1)
  /-- `FMAXN` (R91). IEEE maximumNumber of FP32 values. -/
  | fmaxn (d : BitVec 6) (a : BitVec 6) (b : BitVec 6) (g : BitVec 3) (n : BitVec 1)
  /-- `FABS` (R90). Clears the sign bit. -/
  | fabs (d : BitVec 6) (a : BitVec 6) (g : BitVec 3) (n : BitVec 1)
  /-- `FNEG` (R90). Inverts the sign bit. -/
  | fneg (d : BitVec 6) (a : BitVec 6) (g : BitVec 3) (n : BitVec 1)
  /-- `FCPYS` (R90). Copies the sign of vB onto vA. -/
  | fcpys (d : BitVec 6) (a : BitVec 6) (b : BitVec 6) (g : BitVec 3) (n : BitVec 1)
  /-- `FSCL` (R90). Scales an FP32 value by a power of two. -/
  | fscl (d : BitVec 6) (a : BitVec 6) (b : BitVec 6) (g : BitVec 3) (n : BitVec 1)
  /-- `FCLS` (R92). Writes the class mask of an FP32 value. -/
  | fcls (d : BitVec 6) (a : BitVec 6) (g : BitVec 3) (n : BitVec 1)
  /-- `FRND` (R90). Rounds an FP32 value to an integral value. -/
  | frnd (d : BitVec 6) (a : BitVec 6) (g : BitVec 3) (n : BitVec 1)
  /-- `FCVT` (R94). Converts between register formats with a named rounding mode and optional saturation. -/
  | fcvt (d : BitVec 6) (a : BitVec 6) (c : BitVec 6) (g : BitVec 3) (n : BitVec 1) (s : BitVec 1) (r : BitVec 3)
  /-- `HADD2` (R95). Packed FP16 add. -/
  | hadd2 (d : BitVec 6) (a : BitVec 6) (b : BitVec 6) (g : BitVec 3) (n : BitVec 1)
  /-- `HSUB2` (R95). Packed FP16 subtract. -/
  | hsub2 (d : BitVec 6) (a : BitVec 6) (b : BitVec 6) (g : BitVec 3) (n : BitVec 1)
  /-- `HMUL2` (R95). Packed FP16 multiply. -/
  | hmul2 (d : BitVec 6) (a : BitVec 6) (b : BitVec 6) (g : BitVec 3) (n : BitVec 1)
  /-- `HFMA2` (R95). Packed FP16 fused multiply-add. -/
  | hfma2 (d : BitVec 6) (a : BitVec 6) (b : BitVec 6) (g : BitVec 3) (n : BitVec 1)
  /-- `HMIN2` (R95). Packed FP16 IEEE minimum. -/
  | hmin2 (d : BitVec 6) (a : BitVec 6) (b : BitVec 6) (g : BitVec 3) (n : BitVec 1)
  /-- `HMAX2` (R95). Packed FP16 IEEE maximum. -/
  | hmax2 (d : BitVec 6) (a : BitVec 6) (b : BitVec 6) (g : BitVec 3) (n : BitVec 1)
  /-- `BADD2` (R95). Packed BF16 add. -/
  | badd2 (d : BitVec 6) (a : BitVec 6) (b : BitVec 6) (g : BitVec 3) (n : BitVec 1)
  /-- `BSUB2` (R95). Packed BF16 subtract. -/
  | bsub2 (d : BitVec 6) (a : BitVec 6) (b : BitVec 6) (g : BitVec 3) (n : BitVec 1)
  /-- `BMUL2` (R95). Packed BF16 multiply. -/
  | bmul2 (d : BitVec 6) (a : BitVec 6) (b : BitVec 6) (g : BitVec 3) (n : BitVec 1)
  /-- `BFMA2` (R95). Packed BF16 fused multiply-add. -/
  | bfma2 (d : BitVec 6) (a : BitVec 6) (b : BitVec 6) (g : BitVec 3) (n : BitVec 1)
  /-- `DADD` (R96). FP64 pair add. -/
  | dadd (d : BitVec 5) (a : BitVec 5) (b : BitVec 5) (g : BitVec 3) (n : BitVec 1)
  /-- `DSUB` (R96). FP64 pair subtract. -/
  | dsub (d : BitVec 5) (a : BitVec 5) (b : BitVec 5) (g : BitVec 3) (n : BitVec 1)
  /-- `DMUL` (R96). FP64 pair multiply. -/
  | dmul (d : BitVec 5) (a : BitVec 5) (b : BitVec 5) (g : BitVec 3) (n : BitVec 1)
  /-- `DFMA` (R96). FP64 pair fused multiply-add. -/
  | dfma (d : BitVec 5) (a : BitVec 5) (b : BitVec 5) (g : BitVec 3) (n : BitVec 1)
  /-- `DMIN` (R96). FP64 pair IEEE minimum. -/
  | dmin (d : BitVec 5) (a : BitVec 5) (b : BitVec 5) (g : BitVec 3) (n : BitVec 1)
  /-- `DMAX` (R96). FP64 pair IEEE maximum. -/
  | dmax (d : BitVec 5) (a : BitVec 5) (b : BitVec 5) (g : BitVec 3) (n : BitVec 1)
  /-- `EXP2` (R97). Correctly rounded 2^x. -/
  | exp2 (d : BitVec 6) (a : BitVec 6) (g : BitVec 3) (n : BitVec 1)
  /-- `LOG2` (R97). Correctly rounded log2 x. -/
  | log2 (d : BitVec 6) (a : BitVec 6) (g : BitVec 3) (n : BitVec 1)
  /-- `RCP` (R97). Correctly rounded reciprocal. -/
  | rcp (d : BitVec 6) (a : BitVec 6) (g : BitVec 3) (n : BitVec 1)
  /-- `RSQ` (R97). Correctly rounded reciprocal square root. -/
  | rsq (d : BitVec 6) (a : BitVec 6) (g : BitVec 3) (n : BitVec 1)
  /-- `SQRT` (R97). Square root rounded in the FPCTL mode. -/
  | sqrt (d : BitVec 6) (a : BitVec 6) (g : BitVec 3) (n : BitVec 1)
  /-- `SINPI` (R97). Correctly rounded sin(pi x). -/
  | sinpi (d : BitVec 6) (a : BitVec 6) (g : BitVec 3) (n : BitVec 1)
  /-- `COSPI` (R97). Correctly rounded cos(pi x). -/
  | cospi (d : BitVec 6) (a : BitVec 6) (g : BitVec 3) (n : BitVec 1)
  /-- `TANH` (R97). Correctly rounded tanh x. -/
  | tanh (d : BitVec 6) (a : BitVec 6) (g : BitVec 3) (n : BitVec 1)
  /-- `SHFL` (R105). Reads vA from a lane chosen per lane by vB. -/
  | shfl (d : BitVec 6) (a : BitVec 6) (b : BitVec 6) (g : BitVec 3) (n : BitVec 1)
  /-- `SHFLX` (R105). Reads vA from lane l XOR k. -/
  | shflx (d : BitVec 6) (a : BitVec 6) (k : BitVec 5) (g : BitVec 3) (n : BitVec 1)
  /-- `SHFLUP` (R105). Reads vA from lane l - k. -/
  | shflup (d : BitVec 6) (a : BitVec 6) (k : BitVec 5) (g : BitVec 3) (n : BitVec 1)
  /-- `SHFLDN` (R105). Reads vA from lane l + k. -/
  | shfldn (d : BitVec 6) (a : BitVec 6) (k : BitVec 5) (g : BitVec 3) (n : BitVec 1)
  /-- `BCAST` (R105). Broadcasts vA of lane k. -/
  | bcast (d : BitVec 6) (a : BitVec 6) (k : BitVec 5) (g : BitVec 3) (n : BitVec 1)
  /-- `VBAL` (R106). Writes the ballot of a predicate over participating lanes. -/
  | vbal (d : BitVec 5) (p : BitVec 7)
  /-- `VANY` (R106). Writes 1 if any participating lane's predicate is set. -/
  | vany (d : BitVec 5) (p : BitVec 7)
  /-- `VALL` (R106). Writes 1 if every participating lane's predicate is set. -/
  | vall (d : BitVec 5) (p : BitVec 7)
  /-- `VCNT` (R106). Counts participating lanes whose predicate is set. -/
  | vcnt (d : BitVec 5) (p : BitVec 7)
  /-- `RED_ADD` (R107). Integer sum over participating lanes. -/
  | redAdd (d : BitVec 6) (a : BitVec 6) (g : BitVec 3) (n : BitVec 1)
  /-- `RED_FADD` (R108). FP32 sum by the fixed pairwise tree. -/
  | redFadd (d : BitVec 6) (a : BitVec 6) (g : BitVec 3) (n : BitVec 1)
  /-- `RED_MAX` (R107). Signed maximum over participating lanes. -/
  | redMax (d : BitVec 6) (a : BitVec 6) (g : BitVec 3) (n : BitVec 1)
  /-- `RED_MIN` (R107). Signed minimum over participating lanes. -/
  | redMin (d : BitVec 6) (a : BitVec 6) (g : BitVec 3) (n : BitVec 1)
  /-- `RED_MAXU` (R107). Unsigned maximum over participating lanes. -/
  | redMaxu (d : BitVec 6) (a : BitVec 6) (g : BitVec 3) (n : BitVec 1)
  /-- `RED_MINU` (R107). Unsigned minimum over participating lanes. -/
  | redMinu (d : BitVec 6) (a : BitVec 6) (g : BitVec 3) (n : BitVec 1)
  /-- `RED_FMAX` (R107). IEEE FP32 maximum over participating lanes. -/
  | redFmax (d : BitVec 6) (a : BitVec 6) (g : BitVec 3) (n : BitVec 1)
  /-- `RED_FMIN` (R107). IEEE FP32 minimum over participating lanes. -/
  | redFmin (d : BitVec 6) (a : BitVec 6) (g : BitVec 3) (n : BitVec 1)
  /-- `RED_AND` (R107). Bitwise AND over participating lanes. -/
  | redAnd (d : BitVec 6) (a : BitVec 6) (g : BitVec 3) (n : BitVec 1)
  /-- `RED_OR` (R107). Bitwise OR over participating lanes. -/
  | redOr (d : BitVec 6) (a : BitVec 6) (g : BitVec 3) (n : BitVec 1)
  /-- `RED_XOR` (R107). Bitwise XOR over participating lanes. -/
  | redXor (d : BitVec 6) (a : BitVec 6) (g : BitVec 3) (n : BitVec 1)
  /-- `RED_MAXI` (R109). Signed maximum with lowest-index ties, value and index. -/
  | redMaxi (d : BitVec 6) (a : BitVec 6) (b : BitVec 6) (g : BitVec 3) (n : BitVec 1)
  /-- `RED_MINI` (R109). Signed minimum with lowest-index ties, value and index. -/
  | redMini (d : BitVec 6) (a : BitVec 6) (b : BitVec 6) (g : BitVec 3) (n : BitVec 1)
  /-- `RED_FMAXI` (R109). FP32 maximum under fkey with index. -/
  | redFmaxi (d : BitVec 6) (a : BitVec 6) (b : BitVec 6) (g : BitVec 3) (n : BitVec 1)
  /-- `RED_FMINI` (R109). FP32 minimum under fkey with index. -/
  | redFmini (d : BitVec 6) (a : BitVec 6) (b : BitVec 6) (g : BitVec 3) (n : BitVec 1)
  /-- `SCAN_ADD` (R110). Inclusive integer prefix sum. -/
  | scanAdd (d : BitVec 6) (a : BitVec 6) (g : BitVec 3) (n : BitVec 1)
  /-- `SCANX_ADD` (R110). Exclusive integer prefix sum. -/
  | scanxAdd (d : BitVec 6) (a : BitVec 6) (g : BitVec 3) (n : BitVec 1)
  /-- `SCAN_FADD` (R111). Inclusive FP32 prefix sum from tree nodes. -/
  | scanFadd (d : BitVec 6) (a : BitVec 6) (g : BitVec 3) (n : BitVec 1)
  /-- `SCANX_FADD` (R111). Exclusive FP32 prefix sum from tree nodes. -/
  | scanxFadd (d : BitVec 6) (a : BitVec 6) (g : BitVec 3) (n : BitVec 1)
  /-- `SCAN_MAX` (R110). Inclusive signed prefix maximum. -/
  | scanMax (d : BitVec 6) (a : BitVec 6) (g : BitVec 3) (n : BitVec 1)
  /-- `SCAN_MIN` (R110). Inclusive signed prefix minimum. -/
  | scanMin (d : BitVec 6) (a : BitVec 6) (g : BitVec 3) (n : BitVec 1)
  /-- `SCAN_OR` (R110). Inclusive prefix OR. -/
  | scanOr (d : BitVec 6) (a : BitVec 6) (g : BitVec 3) (n : BitVec 1)
  /-- `KSORT` (R113). Sorts participating (value, index) pairs descending under fkey. -/
  | ksort (d : BitVec 6) (a : BitVec 6) (b : BitVec 6) (g : BitVec 3) (n : BitVec 1)
  /-- `KMERGE` (R114). Keeps the top pairs of two lists in descending order. -/
  | kmerge (d : BitVec 6) (a : BitVec 6) (b : BitVec 6) (g : BitVec 3) (n : BitVec 1)
  /-- `RNG` (R115). Counter-based random 32-bit word per lane. -/
  | rng (d : BitVec 6) (a : BitVec 6) (b : BitVec 5) (g : BitVec 3) (n : BitVec 1)
  /-- `RNGF` (R115). Counter-based random FP32 in [0, 1) per lane. -/
  | rngf (d : BitVec 6) (a : BitVec 6) (b : BitVec 5) (g : BitVec 3) (n : BitVec 1)
  /-- `SLD_B` (R154). Scalar load of a sign-extended byte, pending until park. -/
  | sldB (d : BitVec 5) (s : BitVec 5) (o : BitVec 5)
  /-- `SLD_BU` (R154). Scalar load of a zero-extended byte. -/
  | sldBu (d : BitVec 5) (s : BitVec 5) (o : BitVec 5)
  /-- `SLD_H` (R154). Scalar load of a sign-extended half. -/
  | sldH (d : BitVec 5) (s : BitVec 5) (o : BitVec 5)
  /-- `SLD_HU` (R154). Scalar load of a zero-extended half. -/
  | sldHu (d : BitVec 5) (s : BitVec 5) (o : BitVec 5)
  /-- `SLD_W` (R154). Scalar load of a sign-extended word. -/
  | sldW (d : BitVec 5) (s : BitVec 5) (o : BitVec 5)
  /-- `SLD_WU` (R154). Scalar load of a zero-extended word. -/
  | sldWu (d : BitVec 5) (s : BitVec 5) (o : BitVec 5)
  /-- `SLD_D` (R154). Scalar load of a doubleword. -/
  | sldD (d : BitVec 5) (s : BitVec 5) (o : BitVec 5)
  /-- `SST_B` (R154). Holds a scalar byte store until commit. -/
  | sstB (d : BitVec 5) (s : BitVec 5) (o : BitVec 5)
  /-- `SST_H` (R154). Holds a scalar half store until commit. -/
  | sstH (d : BitVec 5) (s : BitVec 5) (o : BitVec 5)
  /-- `SST_W` (R154). Holds a scalar word store until commit. -/
  | sstW (d : BitVec 5) (s : BitVec 5) (o : BitVec 5)
  /-- `SST_D` (R154). Holds a scalar doubleword store until commit. -/
  | sstD (d : BitVec 5) (s : BitVec 5) (o : BitVec 5)
  /-- `VLD_B` (R155). Vector load of sign-extended bytes, indexed or one address. -/
  | vldB (d : BitVec 6) (s : BitVec 5) (e : BitVec 1) (x : BitVec 5) (o : BitVec 5)
  /-- `VLD_BU` (R155). Vector load of zero-extended bytes. -/
  | vldBu (d : BitVec 6) (s : BitVec 5) (e : BitVec 1) (x : BitVec 5) (o : BitVec 5)
  /-- `VLD_H` (R155). Vector load of sign-extended halves. -/
  | vldH (d : BitVec 6) (s : BitVec 5) (e : BitVec 1) (x : BitVec 5) (o : BitVec 5)
  /-- `VLD_HU` (R155). Vector load of zero-extended halves. -/
  | vldHu (d : BitVec 6) (s : BitVec 5) (e : BitVec 1) (x : BitVec 5) (o : BitVec 5)
  /-- `VLD_W` (R155). Vector load of words. -/
  | vldW (d : BitVec 6) (s : BitVec 5) (e : BitVec 1) (x : BitVec 5) (o : BitVec 5)
  /-- `VLD_D` (R155). Vector load of doublewords into a register pair. -/
  | vldD (d : BitVec 5) (s : BitVec 5) (e : BitVec 1) (x : BitVec 5) (o : BitVec 5)
  /-- `VLDS_W` (R155). Strided vector word load. -/
  | vldsW (d : BitVec 6) (s : BitVec 5) (x : BitVec 5) (o : BitVec 5)
  /-- `VLDB_W` (R155). Loads one word once and delivers it to every active lane. -/
  | vldbW (d : BitVec 6) (s : BitVec 5) (o : BitVec 5)
  /-- `VST_B` (R155). Holds per-lane byte stores. -/
  | vstB (d : BitVec 6) (s : BitVec 5) (e : BitVec 1) (x : BitVec 5) (o : BitVec 5)
  /-- `VST_H` (R155). Holds per-lane half stores. -/
  | vstH (d : BitVec 6) (s : BitVec 5) (e : BitVec 1) (x : BitVec 5) (o : BitVec 5)
  /-- `VST_W` (R155). Holds per-lane word stores. -/
  | vstW (d : BitVec 6) (s : BitVec 5) (e : BitVec 1) (x : BitVec 5) (o : BitVec 5)
  /-- `VST_D` (R155). Holds per-lane doubleword stores from a pair. -/
  | vstD (d : BitVec 5) (s : BitVec 5) (e : BitVec 1) (x : BitVec 5) (o : BitVec 5)
  /-- `VSTS_W` (R155). Holds strided per-lane word stores. -/
  | vstsW (d : BitVec 6) (s : BitVec 5) (x : BitVec 5) (o : BitVec 5)
  /-- `TLD` (R156). Loads a 32x32 scratchpad block into 32 registers, row per register. -/
  | tld (d : BitVec 1) (s : BitVec 5) (x : BitVec 5) (o : BitVec 5)
  /-- `TLDT` (R156). Loads a 32x32 scratchpad block turned, column per register. -/
  | tldt (d : BitVec 1) (s : BitVec 5) (x : BitVec 5) (o : BitVec 5)
  /-- `TST` (R156). Holds a store of 32 registers as a scratchpad block. -/
  | tst (d : BitVec 1) (s : BitVec 5) (x : BitVec 5) (o : BitVec 5)
  /-- `TSTT` (R156). Holds a turned store of 32 registers as a scratchpad block. -/
  | tstt (d : BitVec 1) (s : BitVec 5) (x : BitVec 5) (o : BitVec 5)
  /-- `AADD` (R158). Held atomic add returning the old word. -/
  | aadd (d : BitVec 6) (s : BitVec 5) (e : BitVec 1) (x : BitVec 5) (o : BitVec 2) (c : BitVec 3)
  /-- `AMIN` (R158). Held atomic signed minimum. -/
  | amin (d : BitVec 6) (s : BitVec 5) (e : BitVec 1) (x : BitVec 5) (o : BitVec 2) (c : BitVec 3)
  /-- `AMAX` (R158). Held atomic signed maximum. -/
  | amax (d : BitVec 6) (s : BitVec 5) (e : BitVec 1) (x : BitVec 5) (o : BitVec 2) (c : BitVec 3)
  /-- `AMINU` (R158). Held atomic unsigned minimum. -/
  | aminu (d : BitVec 6) (s : BitVec 5) (e : BitVec 1) (x : BitVec 5) (o : BitVec 2) (c : BitVec 3)
  /-- `AMAXU` (R158). Held atomic unsigned maximum. -/
  | amaxu (d : BitVec 6) (s : BitVec 5) (e : BitVec 1) (x : BitVec 5) (o : BitVec 2) (c : BitVec 3)
  /-- `AAND` (R158). Held atomic AND. -/
  | aand (d : BitVec 6) (s : BitVec 5) (e : BitVec 1) (x : BitVec 5) (o : BitVec 2) (c : BitVec 3)
  /-- `AOR` (R158). Held atomic OR. -/
  | aor (d : BitVec 6) (s : BitVec 5) (e : BitVec 1) (x : BitVec 5) (o : BitVec 2) (c : BitVec 3)
  /-- `AXOR` (R158). Held atomic XOR. -/
  | axor (d : BitVec 6) (s : BitVec 5) (e : BitVec 1) (x : BitVec 5) (o : BitVec 2) (c : BitVec 3)
  /-- `AXCH` (R158). Held atomic exchange. -/
  | axch (d : BitVec 6) (s : BitVec 5) (e : BitVec 1) (x : BitVec 5) (o : BitVec 2) (c : BitVec 3)
  /-- `ACAS` (R158). Held atomic compare-and-swap of a word. -/
  | acas (d : BitVec 6) (s : BitVec 5) (e : BitVec 1) (x : BitVec 5) (o : BitVec 2) (c : BitVec 3)
  /-- `AFADD` (R158). Held atomic FP32 add rounded RNE. -/
  | afadd (d : BitVec 6) (s : BitVec 5) (e : BitVec 1) (x : BitVec 5) (o : BitVec 2) (c : BitVec 3)
  /-- `AADD_D` (R158). Held 64-bit atomic add. -/
  | aaddD (d : BitVec 5) (s : BitVec 5) (e : BitVec 1) (x : BitVec 5) (o : BitVec 2) (c : BitVec 3)
  /-- `AMAXU_D` (R158). Held 64-bit atomic unsigned maximum. -/
  | amaxuD (d : BitVec 5) (s : BitVec 5) (e : BitVec 1) (x : BitVec 5) (o : BitVec 2) (c : BitVec 3)
  /-- `ACAS_D` (R158). Held 64-bit atomic compare-and-swap. -/
  | acasD (d : BitVec 5) (s : BitVec 5) (e : BitVec 1) (x : BitVec 5) (o : BitVec 2) (c : BitVec 3)
  /-- `FENCE_REL` (R160). Orders earlier held effects before later ones at the scope. -/
  | fenceRel (c : BitVec 3)
  /-- `FENCE_ACQ` (R160). Ends the flight so the next flight performs after all its loads and atomics. -/
  | fenceAcq (c : BitVec 3)
  /-- `FENCE_FULL` (R160). Ends the flight and continues only once all held effects are acknowledged at the scope. -/
  | fenceFull (c : BitVec 3)
  /-- `QFENCE` (R163). Holds a join entry in each named engine queue. -/
  | qfence (m : BitVec 5)
  /-- `WAITA` (R161). Ends the flight and parks until a word equals a value. -/
  | waita (d : BitVec 5) (a : BitVec 5)
  /-- `WAITQ` (R163). Ends the flight and parks until a queue's completion sequence reaches a value. -/
  | waitq (d : BitVec 5) (q : BitVec 3)
  /-- `CPY` (R165). Reads a copy command block and holds its enqueue in a copy queue. -/
  | cpy (d : BitVec 5) (a : BitVec 5) (q : BitVec 2)
  /-- `QSEQ` (R163). Reads a queue's completion sequence and ERR flag, pending until park. -/
  | qseq (d : BitVec 5) (q : BitVec 3)
  /-- `TNDEF` (R176). Reads and checks a tensor descriptor and binds an identifier to it. -/
  | tndef (a : BitVec 5) (t : BitVec 8)
  /-- `TNREL` (R176). Empties a tensor identifier. -/
  | tnrel (t : BitVec 8)
  /-- `TNGET` (R176). Reads the BASE of a bound tensor identifier. -/
  | tnget (d : BitVec 5) (t : BitVec 8)
  /-- `MLEAF` (R183). Appends a view of a bound tensor as a leaf node. -/
  | mleaf (d : BitVec 4) (s : BitVec 5) (k : BitVec 8) (t : BitVec 1)
  /-- `MCONST` (R184). Appends a constant node. -/
  | mconst (d : BitVec 4) (s : BitVec 5) (y : BitVec 1) (k : BitVec 2)
  /-- `MTRI` (R185). Appends a triangle-masked node. -/
  | mtri (d : BitVec 4) (a : BitVec 4) (s : BitVec 5)
  /-- `MSCL` (R186). Appends a node scaled by an FP32 constant. -/
  | mscl (d : BitVec 4) (a : BitVec 4) (s : BitVec 5)
  /-- `MMUL` (R188). Appends a matrix product node. -/
  | mmul (d : BitVec 4) (a : BitVec 4) (b : BitVec 4) (t : BitVec 1) (k : BitVec 1) (s : BitVec 1) (q : BitVec 2)
  /-- `MEADD` (R189). Appends an elementwise sum node. -/
  | meadd (d : BitVec 4) (a : BitVec 4) (b : BitVec 4) (s : BitVec 1)
  /-- `MESUB` (R189). Appends an elementwise difference node. -/
  | mesub (d : BitVec 4) (a : BitVec 4) (b : BitVec 4) (s : BitVec 1)
  /-- `MEMUL` (R189). Appends an elementwise product node. -/
  | memul (d : BitVec 4) (a : BitVec 4) (b : BitVec 4) (s : BitVec 1)
  /-- `MTRN` (R187). Appends a transpose node. -/
  | mtrn (d : BitVec 4) (a : BitVec 4)
  /-- `MCVT` (R190). Appends a format conversion node. -/
  | mcvt (d : BitVec 4) (a : BitVec 4) (t : BitVec 1) (r : BitVec 3) (f : BitVec 6)
  /-- `MACT` (R190). Appends an activation node (RELU, GELU, SILU). -/
  | mact (d : BitVec 4) (a : BitVec 4) (k : BitVec 4)
  /-- `FORCE` (R192). Requests evaluation of every tile of a node; the commit waits for it. -/
  | force (n : BitVec 4)
  /-- `MDROP` (R192). Empties a node register, releasing its reference at commit. -/
  | mdrop (n : BitVec 4)
  /-- `MRD` (R193). Forces and reads one row strip of a node into lanes, pending. -/
  | mrd (d : BitVec 6) (n : BitVec 4) (s : BitVec 5)
  /-- `MST` (R194). Evaluates a node and holds its store into a tensor. -/
  | mst (n : BitVec 4) (t : BitVec 8) (s : BitVec 5) (f : BitVec 1)
  /-- `MACC` (R195). Holds a matrix-queue command that accumulates a node into a slot and signals a counter. -/
  | macc (n : BitVec 4) (k : BitVec 6) (s : BitVec 5) (t : BitVec 1) (i : BitVec 1)
  /-- `MSTAT` (R196). Reads a node's shape, type, sticky flags and state. -/
  | mstat (n : BitVec 4) (d : BitVec 5)
  /-- `TEND` (R52). Ends the flight and retires the active lanes at commit. -/
  | tend
  /-- `TINST` (R51). Reads the instance slot, die and context. -/
  | tinst (d : BitVec 5)
  /-- `TSTG` (R51). Reads the stage number. -/
  | tstg (d : BitVec 5)
  /-- `TBUD` (R51). Reads the instance's remaining budget of a kind. -/
  | tbud (d : BitVec 5) (k : BitVec 12)
  /-- `TSLK` (R51). Reads the remaining slack in ns. -/
  | tslk (d : BitVec 5)
  /-- `ENQ` (R271). Reads a record from memory per acting slice and holds its enqueue to a stage. -/
  | enq (a : BitVec 5) (n : BitVec 4) (g : BitVec 4)
  /-- `ENQV` (R271). Holds one enqueue per active lane from vector registers. -/
  | enqv (f : BitVec 5) (n : BitVec 4) (g : BitVec 4)
  /-- `LAUNCH` (R273). Holds a request to admit an instance on a die; status pending. -/
  | launch (d : BitVec 5) (a : BitVec 5) (t : BitVec 3)
  /-- `DEPNEW` (R275). Takes a dependence counter slot with an initial count. -/
  | depnew (d : BitVec 5) (a : BitVec 5)
  /-- `DEPSIG` (R275). Holds per-lane decrements of a dependence counter. -/
  | depsig (a : BitVec 5) (m : BitVec 12)
  /-- `DEPWAIT` (R275). Ends the flight and parks until a counter fires. -/
  | depwait (a : BitVec 5)
  /-- `DEPARM` (R275). Holds the arming of a counter with a record for a stage. -/
  | deparm (d : BitVec 5) (a : BitVec 5) (n : BitVec 4) (g : BitVec 4)
  /-- `GNEW` (R240). Reserves a group slot; identifier pending and making held. -/
  | gnew (d : BitVec 5)
  /-- `GJOIN` (R240). Holds each active lane's task joining a group. -/
  | gjoin (a : BitVec 5)
  /-- `GLEAVE` (R240). Holds each active lane's task leaving a group. -/
  | gleave (a : BitVec 5)
  /-- `GBAR` (R241). Ends the flight and arrives at a group barrier. -/
  | gbar (a : BitVec 5)
  /-- `GSIZE` (R240). Reads a group's member count, pending. -/
  | gsize (d : BitVec 5) (a : BitVec 5)
  /-- `SYSR` (R53). Reads a system register. -/
  | sysr (d : BitVec 5) (n : BitVec 12)
  /-- `SYSW` (R53). Writes a system register. -/
  | sysw (a : BitVec 5) (n : BitVec 12)
  /-- `TRAP` (R54). Raises TRAPINS with a code. -/
  | trap (c : BitVec 12)
  /-- `NOP` (R54). Does nothing. -/
  | nop
  /-- `CDRAIN` (R294). Holds a drain of a core: stop gathering, pre-empt and move records. -/
  | cdrain (d : BitVec 5) (a : BitVec 5)
  /-- `CSCAN` (R294). Holds a run of the scan pattern set on a drained core. -/
  | cscan (d : BitVec 5) (a : BitVec 5)
  /-- `CSIG` (R294). Reads the signature of a core's last scan. -/
  | csig (d : BitVec 5) (a : BitVec 5)
  /-- `CMAPRM` (R294). Removes a drained core from the logical core map. -/
  | cmaprm (a : BitVec 5)
  /-- `CMAPAD` (R294). Maps a physical site to a free logical core number. -/
  | cmapad (a : BitVec 5)
  /-- `CRESET` (R294). Resets a context as on a pre-emption timeout. -/
  | creset (a : BitVec 5)
  /-- `ERET` (R293). Commits the firmware handler and replays the faulted flight from its anchor. -/
  | eret
  /-- `CLAUSE_ISSUE` (R37). At a clause boundary the port picks a gang, fetches and checks the clause header, words and signature, then issues it whole. -/
  | clauseIssue (die core port : Nat) (flips : List (Nat × Word))
  /-- `FLIGHT_COMMIT` (R129). After forced evaluations finish, the flight commits its held effects in order and the gang continues or parks. -/
  | flightCommit (gid : Nat) (upset : Upset)
  /-- `RESULT_ARRIVAL` (R55). A long-latency result arrives and is entered for delivery at the park point. -/
  | resultArrival (gid req : Nat) (ext : List Byte)
  /-- `PAGE_WALK` (R157). A die walker completes a translation, giving a mapping or PAGE, PROT or POISON. -/
  | pageWalk (gid vpn : Nat)
  /-- `SCRATCH_REFILL` (R150). An unpinned scratchpad page finishes refilling from L2 and the waiting access proceeds. -/
  | scratchRefill (die core slot page : Nat)
  /-- `RELAUNCH` (R139). An eligible landing record relaunches on a port of its home core. -/
  | relaunch (gid port : Nat)
  /-- `PREEMPT_GANG` (R126). A resident gang is pre-empted at its next clause boundary and leaves as a PREEMPT record. -/
  | preemptGang (gid : Nat)
  /-- `RECORD_MOVE` (R266). A record that waited 10 us for a port is moved to another core's Landing. -/
  | recordMove (gid die core : Nat)
  /-- `GATHER_TIMEOUT` (R123). A gang open for 64 core cycles closes with the slices it has. -/
  | gatherTimeout (gather : Nat)
  /-- `DISPATCH` (R264). The dispatcher takes a record, assigns its task number and sends it to a core. -/
  | dispatch (die : Nat)
  /-- `ADMISSION` (R262). The Vestibule checks a LAUNCH request in order and admits the instance whole or refuses it. -/
  | admission (die : Nat)
  /-- `ENQUEUE_OFFER` (R268). An enqueue is offered to a stage queue and accepted or refused. -/
  | enqueueOffer (win : Nat)
  /-- `ENQUEUE_BACKOFF` (R268). The back-off after a refusal expires and the port resends from the refused enqueue. -/
  | enqueueBackoff (win : Nat)
  /-- `COUNTER_DECREMENT` (R274). A decrement reaches a counter's home and may fire it, enqueuing its record and waking waiters. -/
  | counterDecrement (id : Nat)
  /-- `GBAR_ARRIVAL` (R241). A barrier arrival is counted once the flight's effects are visible, releasing the group when complete. -/
  | gbarArrival (gid : Nat)
  /-- `WATCH_CHANGE` (R161). A watched word's home reports a change and a matching record becomes eligible. -/
  | watchChange (gid : Nat)
  /-- `HOME_STORE` (R151). A committed store reaches its home L2 slice, invalidates L1 copies and is acknowledged. -/
  | homeStore (id : Nat)
  /-- `HOME_ATOMIC` (R282). A home slice performs an atomic request in one indivisible step. -/
  | homeAtomic (id : Nat)
  /-- `REMOTE_SCRATCH_ACCESS` (R233). A cluster-window access is performed at the owning core's scratchpad. -/
  | remoteScratchAccess (op : RemoteOp)
  /-- `CLUSTER_PATH_FAIL` (R250). A cluster path failing 16 consecutive checks is marked failed. -/
  | clusterPathFail (die src dst : Nat)
  /-- `COPY_BEAT` (R167). The copy engine moves one beat of a command, translating, reducing and charging it. -/
  | copyBeat (die core q : Nat) (ext : List Byte)
  /-- `COPY_NOTIFY` (R167). Once all payload is visible the engine writes the notify word, releases the follow-on and completes the command. -/
  | copyNotify (die core q : Nat)
  /-- `ARRAY_OPERAND_STEP` (R224). The array performs one operand or tile step for the earliest-deadline context. -/
  | arrayOperandStep (die core : Nat)
  /-- `EMULATED_STEP_DONE` (R222). Firmware or the host returns an emulated step's value. -/
  | emulatedStepDone (die core : Nat) (host : List Num)
  /-- `DEADMISS` (R270). Die time passes an instance's deadline with tasks unretired. -/
  | deadmiss (die slot : Nat)
  /-- `PREEMPT_TIMEOUT` (R278). A context drain outlasting its timer resets the context. -/
  | preemptTimeout (ctx : Nat)
  /-- `CONTEXT_DRAIN_DONE` (R320). A switched-out context finishes draining and its state is written to SAVE. -/
  | contextDrainDone (ctx : Nat)
  /-- `WAITFOR_BUILD` (R297). Every millisecond firmware builds wait-for graphs and reports deadlocks. -/
  | waitforBuild (die : Nat)
  /-- `SAMPLE_WINDOW` (R298). A sampling window ends and the tagged instruction's record is written. -/
  | sampleWindow (die : Nat) (data : SampleData)
  /-- `TLBINV` (R287). A write to TLBINV starts a shootdown request. -/
  | tlbinv (die : Nat) (v : DWord)
  /-- `SHOOTDOWN_COMPLETE` (R287). A shootdown completes, TLBDONE rises and TLBWORD is written. -/
  | shootdownComplete (die : Nat)
  /-- `EVDONE` (R292). A write to EVDONE reports a service complete and wakes the parked record or engine. -/
  | evdone (die : Nat) (tag : DWord)
  /-- `DBGRESUME` (R296). A write to DBGRESUME makes a stopped gang eligible. -/
  | dbgresume (die : Nat) (tag : DWord)
  /-- `SAMPCTL` (R298). A write to SAMPCTL changes sampling and writes a MARK. -/
  | sampctl (die : Nat) (v : DWord)
  /-- `CONTAIN` (R291). A write of a logical core number selects which count CONTAIN reads. -/
  | contain (die : Nat) (v : DWord)
  /-- `CDRAIN_DONE` (R294). A core drain ends or its 100 us limit passes and the status is delivered. -/
  | cdrainDone (die core : Nat)
  /-- `CSCAN_DONE` (R294). A core scan completes and its status is delivered. -/
  | cscanDone (die core : Nat) (sig : DWord)
  /-- `CAUSAL_MESSAGE` (R308). A die receives a causal message and applies its writes once its vector allows. -/
  | causalMessage (src dst : Nat)
  /-- `REPLICA_FILL` (R307). A home die replies with a line and its vector and the replica is installed. -/
  | replicaFill (die line : Nat)
  /-- `D2D_LINK_FAIL` (R306). A die-to-die link direction failing 16 times is marked failed. -/
  | d2dLinkFail (src dst : Nat)
  /-- `FABRIC_REQUEST` (R326). A target package performs a fabric access at its home slice if a window admits it. -/
  | fabricRequest (req : FabReq)
  /-- `FABRIC_ACK` (R327). A fabric write is acknowledged, releasing held accesses of the next flight. -/
  | fabricAck (id : Nat) (data : List Byte)
  /-- `FABRIC_LINK_FAIL` (R329). A fabric link failing 16 times is marked failed and traffic moves. -/
  | fabricLinkFail (link : Nat)
  /-- `FABRIC_TIMEOUT` (R329). A fabric request unacknowledged within FABTIMEOUT fails its path. -/
  | fabricTimeout (id : Nat)
  /-- `PATROL_SCRUB` (R146, R283). The patrol scrubber reads a line, correcting or poisoning it; or SEC-DED finds an error in a word of a
  core's scratchpad or accumulators, or in a landing record. -/
  | patrolScrub (line : Nat) (found : ScrubFind)
  /-- `POWER_THROTTLE` (R322). Near the power or coolant limit the governor lowers permits and clock. -/
  | powerThrottle (die permits mhz : Nat)
  /-- `BRING_UP` (R323). After power-good the package loads firmware, trains links, scans cores and brings the host link up. -/
  | bringUp (fuses : Fuses)
  /-- `ATTESTATION_REQUEST` (R319). The host requests a signed attestation report with a nonce. -/
  | attestationRequest (nonce : BitVec 256)
  /-- `TAIL` (R316). A write to TAIL lets the device read further launch records. -/
  | tail (c : Nat) (v : DWord)
  /-- `CHAIN_RECORD` (R316). The device reads a launch record from the chain and presents it for admission. -/
  | chainRecord (c : Nat)
  /-- `FRCONS` (R317). The host advances the fault-ring consumer index, freeing room for waiting records. -/
  | frcons (c : Nat) (v : DWord)
  /-- `CTXCTL_START` (R314). CTXCTL command 1 starts a context. -/
  | ctxctlStart (c : Nat)
  /-- `CTXCTL_SWITCH_OUT` (R314). CTXCTL command 2 switches a context out and starts its drain. -/
  | ctxctlSwitchOut (c : Nat)
  /-- `CTXCTL_RESUME` (R320). CTXCTL command 3 restores a context from SAVE. -/
  | ctxctlResume (c : Nat)
  /-- `CTXCTL_END` (R314). CTXCTL command 4 ends a context. -/
  | ctxctlEnd (c : Nat)
  /-- `CTXBASE` (R315). A write sets the context table address while no context is started. -/
  | ctxbase (v : DWord)
  /-- `FABID` (R315). A write sets the fabric package identifier while no context is started. -/
  | fabid (v : DWord)
  /-- `REGISTER_WRITE` (R315). A write to a package register without behaviour of its own. -/
  | registerWrite (off : BitVec 16) (v : DWord)
  /-- `CLASSIFIER_WINDOW` (R265). At the end of each window of 65,536 die-time ticks the classifier classes each instance COMPUTE or MEMORY from its charged cycles and moved beats. -/
  | classifierWindow (die : Nat)
  /-- `REPLICA_DROP` (R307). A die drops its L2 replica of a line homed on another die and tells the home, which stops sending updates for that line. -/
  | replicaDrop (die line : Nat)
  /-- `HOST_ADMISSION_ANSWER` (R291). In host-assisted admission the host's answer to the forwarded terms of checks 6 to 9 arrives and decides them. -/
  | hostAdmissionAnswer (die status : Nat)
  deriving DecidableEq, Repr

end Sys2Proof
end

