-- ==== Sys2Proof/Machine/State.lean ====
section
/-!
DEFINITION. The state of the machine, as plain data: everything the spec gives the package, its dies,
instances, cores, gangs and ports, and the model's own agenda, clock and counters. `State.reset` is the
package at power-good, before bring-up (R323).
-/

namespace Sys2Proof.Machine

/-! ## Addresses and effects -/

/-- Where a byte lives: a physical address (R280), a scratchpad byte of the accessing instance at a
logical core (R150), the accumulator window (R173), or another package (R324). -/
inductive Loc where
  | phys (pa : Nat)
  | scratch (core off : Nat)
  | acc (off : Nat)
  | fabric (pkg pa : Nat)
  deriving DecidableEq, Repr

/-- What a leaf of the page table gives (R286). -/
structure Leaf where
  frame : Nat
  bits : Nat
  owner : Nat
  pkgid : Nat
  pkg : Bool
  near : Bool
  tso : Bool
  x : Bool
  w : Bool
  r : Bool
  deriving DecidableEq, Repr

/-- What a walk gives: a mapping, or the fault it found; `path` where the way to a table's home has failed (R285, R286, R283,
R306). -/
inductive Walk where
  | ok (l : Leaf)
  | page
  | prot
  | poison
  | path
  deriving DecidableEq, Repr

/-- A TLB entry: context, base address of the page, and its leaf (R284). -/
structure TlbEntry where
  ctx : Nat
  base : Nat
  leaf : Leaf
  deriving DecidableEq, Repr

/-- The contents of a valid tensor descriptor (R173). -/
structure TDesc where
  base : DWord
  rows : Nat
  cols : Nat
  pitch : Nat
  fmt : Nat
  colMajor : Bool
  sparseN : Nat
  scale : Nat
  lenient : Bool
  strict : Bool
  aux : DWord
  deriving DecidableEq, Repr

/-- A copy command block (R164). -/
structure Block where
  src : DWord
  dst : DWord
  rowBytes : Nat
  rows : Nat
  spitch : Nat
  dpitch : Nat
  naddr : DWord
  nval : Word
  ctrl : Word
  mcmask : Word
  zero : Word
  depctr : DWord
  deriving DecidableEq, Repr

/-- Bytes written to one place. -/
structure Write where
  loc : Loc
  va : DWord
  bytes : List Byte
  tso : Bool
  deriving DecidableEq, Repr

/-- One lane's share of an atomic: where, its data and its swap data (R158). -/
structure AtomPart where
  lane : Nat
  loc : Loc
  va : DWord
  v : DWord
  w : DWord
  deriving DecidableEq, Repr

/-- A task: the stage of an instance slot and its number (R82). -/
structure TaskId where
  inst : Nat
  stage : Nat
  num : Nat
  deriving DecidableEq, Repr

/-- A fault as it is reported (R38, R288). -/
structure FaultInfo where
  code : Nat
  info : DWord
  pc : DWord
  deriving DecidableEq, Repr

/-- A held effect of a flight (R127). Accesses name an access of the gang whose places are known once
its pages are. `ended` is what a retirement brings outside the core: the tasks that end, each with the list it received
and whether a trap launched it (R52). -/
inductive Eff where
  | store (acc : Nat) (data : List (List Byte))
  | atomic (minor order scope acc : Nat) (data : List (DWord × DWord)) (tag : Nat)
  | enq (stage : Nat) (words : List Word)
  | launch (desc : DWord) (die tag : Nat)
  | depsig (parts : List (DWord × Nat))
  | deparm (ctr : DWord) (stage : Nat) (words : List Word)
  | gnew (id : DWord)
  | gjoin (parts : List (Nat × DWord))
  | gleave (parts : List (Nat × DWord))
  | gbar (id : DWord)
  | cpy (q : Nat) (blk : Block) (node tag slice : Nat)
  | qfence (mask : Nat)
  | mst (desc : TDesc) (row col : Nat) (sat : Bool) (rows cols acc tag : Nat) (vals : List (Nat × List Num))
  | macc (node slot : Nat) (i32 sat : Bool) (ctr : Option DWord)
  | retire (lanes : Word)
  | ended (ts : List (Nat × Option Nat × Bool))
  | bind (k : Nat) (desc : Option TDesc)
  | fence (scope : Nat)
  | qseq (q tag : Nat)
  | cdrain (core tag : Nat)
  | cscan (core tag : Nat)
  | csig (core tag : Nat)
  | cmaprm (a : DWord)
  | cmapad (a : DWord)
  | creset (ctx : Nat)
  deriving DecidableEq, Repr

/-- A held effect with the instruction that issued it, its place in program order, and the buffer
entries it takes (R128). -/
structure Held where
  seq : Nat
  pc : DWord
  idx : Nat
  entries : Nat
  eff : Eff
  deriving DecidableEq, Repr

/-! ## Registers of a gang -/

/-- The state of a gang that a landing record saves and an anchor restores (R23, R130, R132): slices,
masks, pc, registers by (register * 32 + lane), (slice * 32 + register), (slice * 16 + entry), node
handles, stacks, signature, FP control and status, FLIGHTID, the bracket mark, the sets of saved
registers (R135) and the poison marks of register lanes (R153; scalars count from 2048). -/
structure Arch where
  slices : Byte
  occ : Word
  exec : Word
  pc : DWord
  v : List (Nat × Word)
  p : List (Nat × Word)
  s : List (Nat × DWord)
  n : List (Nat × Nat)
  depth : Nat
  rstack : List (Nat × DWord)
  split : List (Nat × List Byte)
  sigval : List (Nat × Half)
  fpctl : List (Nat × BitVec 3)
  fpstat : List (Nat × BitVec 5)
  flightid : DWord
  bracket : Bool
  vlive : DWord
  slive : Word
  plive : Half
  nlive : Half
  poison : List (Nat × DWord)
  deriving DecidableEq, Repr

/-- A value to deliver to a register lane at the park point (R55): the vector key or scalar key, and
the address whose poison it carries. -/
structure Deliv where
  vec : Bool
  key : Nat
  val : DWord
  poison : Option DWord
  deriving DecidableEq, Repr

/-- An entry of the pending list (R132): its tag, register file and register, how many registers it
covers, and its values that have arrived. `lanes` holds a lane for each part still awaited in it, `left`
counts the other answers still awaited. -/
structure Pend where
  tag : Nat
  file : Nat
  reg : Nat
  cnt : Nat
  lanes : List Nat
  left : Nat
  vals : List Deliv
  deriving DecidableEq, Repr

/-- One lane's part of an access (R149, R152), with its place once it is translated. -/
structure APart where
  lane : Nat
  va : DWord
  size : Nat
  loc : Option Loc
  tso : Bool
  deriving DecidableEq, Repr

/-- How a loaded lane is delivered: to vector keys or a scalar key, and whether it is sign-extended. A
doubleword of a vector fills two keys, a word broadcast to lanes the key of each. -/
structure Dest where
  vec : Bool
  keys : List Nat
  sext : Bool
  deriving DecidableEq, Repr

/-- What an access does when its places are known. -/
inductive AccKind where
  | load (tag : Nat) (dests : List Dest)
  | store
  | atomic
  | watch
  deriving DecidableEq, Repr

/-- An access of the flight: the instruction, its kind and parts, and whether all its parts are in
place (R153, R157). Numbers rise in program order. `wide` says that each part acts for its slice's four lanes, as a scalar
form does (R149). -/
structure Access where
  id : Nat
  pc : DWord
  idx : Nat
  kind : AccKind
  parts : List APart
  ready : Bool
  wide : Bool := false
  deriving DecidableEq, Repr

/-- An outstanding load request (R152): the parts of access `acc` in one 64-byte line, and the numbers
of the effects and requests that must be performed before it (R56). -/
structure Req where
  id : Nat
  acc : Nat
  line : Loc
  parts : List (APart × Dest)
  after : List Nat
  deriving DecidableEq, Repr

/-- An identifier binding made by the flight (R176); `isDef` for TNDEF. -/
structure Bind where
  k : Nat
  desc : Option TDesc
  isDef : Bool
  deriving DecidableEq, Repr

/-- What a node computes (R183 to R190). `mat` is a materialised node (R218). -/
inductive NodeOp where
  | leaf (d : TDesc) (r0 c0 : Nat) (t : Bool)
  | const (kind : Nat) (int : Bool) (pat : Word)
  | tri (a : Nat) (d : Int) (side fill : Nat)
  | scl (a : Nat) (c : Word)
  | mul (a b : Nat) (assoc splitk sat : Bool)
  | ew (op a b : Nat) (assoc : Bool)
  | trn (a : Nat)
  | cvt (a fmt mode : Nat) (sat : Bool)
  | act (a kind : Nat)
  | mat
  deriving DecidableEq, Repr

/-- A node of a Gallery (R177): shape, value type, append site, values of evaluated row strips by
(row * 2048 + strip) (R209), sticky bits as in MSTAT [10:4], the age of its last evaluation, whether its values are in
the graph spill area (R219), and where a materialised node's value lies there (R218). `base` holds the sticky bits that no
open flight's evaluation can take back (R196, R225). -/
structure Node where
  op : NodeOp
  rows : Nat
  cols : Nat
  fmt : Nat
  site : DWord
  siteIdx : Nat
  ctx : Nat
  inst : Nat
  vals : List (Nat × List Num)
  sticky : BitVec 7
  evalAge : Nat
  spilled : Bool
  spillAt : Option Nat
  base : BitVec 7 := 0#7
  deriving DecidableEq, Repr

/-- A task in a lane: its number, its three per-task accounts, the groups it belongs to, and the fault
that its handler task was launched for, with the list of that fault's record (R82, R269, R239, R53, R290). `trap` says that
its instance is held under TRAP for it (R270). -/
structure Task where
  num : Nat
  issue : Int
  array : Int
  copy : Int
  groups : List DWord
  fault : FaultInfo
  area : Option Nat
  trap : Bool := false
  deriving DecidableEq, Repr

/-- Where a gang is: on a port, in its core's Landing, or at an address of its context's spill area
(R137). -/
inductive Place where
  | port (p : Nat)
  | landing
  | spill (addr : Nat)
  deriving DecidableEq, Repr

/-- What a gang is doing: running a flight, ended and awaiting its commit (R129), or parked. -/
inductive Phase where
  | run
  | ending
  | parked
  deriving DecidableEq, Repr

/-- A clause being issued (R27, R37): its header's address and fields, the issue buffer, the next word,
its cycles so far on its port, on the port of a paired gang's other run and on that of a third run (R145), the result of a transfer
for each slice (next address and call depth), and whether an instruction has ended the flight. -/
structure Clause where
  addr : DWord
  count : Nat
  cls : Nat
  wait : Nat
  chk : Bool
  sig : Half
  words : List Word
  idx : Nat
  cycles : Nat
  next : List (Nat × DWord)
  ended : Bool
  cycles2 : Nat := 0
  cycles3 : Nat := 0
  deriving DecidableEq, Repr

/-- A gang or sub-gang (R24), with what its landing record holds beside the registers (R132): the task
gang it belongs to, home, stage, context, age, lanes, flight in progress, wake condition and causal
vector. `hit` says of a parked gang that its barrier arrival is counted, or that its watched word has had
the value; `paused` is the clause that stands at an instruction which waits, and `wants` the lines of other dies' memory that
it waits for (R55, R203, R307), `waitsFor` the loads that it follows (R56, R313); `owes` the effects of its core that were still to
come at its last commit there, which its forces read after (R171); `spent`, `spent2` and `spent3` are its open flight's cycles on its
port, on its other run's and on a third run's, `lost` the ns of slack that moves between dies have taken (R261). `fwd` holds, for the loads of a committed flight that are outstanding, what that
flight stored before them (R56); `granted` the register bytes it holds on its port and `pair` the port of a paired gang's other
run (R124, R145); `ran` the ports of its flight's runs when it left them, `parity` the
ports of its open flight's parity replays (R146), `backTo` the port that its replay takes, `sigPort` the port whose signature failed first and `sigMoved` whether
the flight now runs on another (R143); `anchorAt` where its anchor lies in the spill area, `anchorWritten` the anchor's record as it was
put there, and `written` the gang's record as it was (R137). `made` gives for each node the strips that its forces made and the flags they
raised. Fetch may give it the words that stores have overwritten since
the place `fetchFrom` in the list of them; `fenced` says that a FENCE.FULL ended its flight, which moves that place once it is
acknowledged (R39). -/
structure Gang where
  gid : Nat
  root : Nat
  die : Nat
  core : Nat
  place : Place
  inst : Nat
  stage : Nat
  ctx : Nat
  age : Nat
  lanes : List (Nat × Task)
  arch : Arch
  anchor : Arch
  held : List Held
  pend : List Pend
  accs : List Access
  reqs : List Req
  used : List Nat
  appends : List Nat
  gresv : List DWord
  cresv : List DWord
  binds : List Bind
  evals : List Nat
  made : List (Nat × List Nat × BitVec 7)
  autos : List (Nat × Node)
  phase : Phase
  wakeKind : Nat
  wakeOp : DWord
  wakeOp2 : DWord
  ackScope : Nat
  woken : Bool
  since : Option Nat
  slack : Int
  preempt : Bool
  suspended : Bool
  skipBrk : Option DWord
  pathFault : Option DWord
  flight : Nat
  stall : Bool
  sigPorts : List Nat
  parity : List Nat
  causal : List Nat
  handler : Bool
  nexts : List (Nat × DWord)
  allonD : Nat
  hit : Bool
  spent : Nat
  lost : Nat
  paused : Option Clause
  wants : List Nat
  fwd : List (Nat × Loc × List (Option Byte)) := []
  granted : Nat := 0
  pair : Option Nat := none
  spent2 : Nat := 0
  backTo : Option Nat := none
  anchorAt : Option Nat := none
  written : List Byte := []
  fetchFrom : Nat := 0
  fenced : Bool := false
  sigPort : Option Nat := none
  sigMoved : Bool := false
  spent3 : Nat := 0
  anchorWritten : List Byte := []
  waitsFor : List Nat := []
  owes : List Nat := []
  ran : List Nat := []
  deriving DecidableEq, Repr

/-- A port at work: the gang that issues, held here and not in the table, and its clause (R28). -/
structure Running where
  gang : Gang
  cl : Clause
  deriving DecidableEq, Repr

/-! ## Effects on their way -/

/-- For whom an effect acts: where, for which instance and tasks, and of which flight. -/
structure Who where
  die : Nat
  core : Nat
  inst : Nat
  ctx : Nat
  root : Nat
  stage : Nat
  tasks : List Nat
  lanes : List Nat
  flight : Nat
  handler : Bool
  deriving DecidableEq, Repr

/-- A store, one of the bits of bytes that a mask has, or one lane's atomic, to be performed in order with others. -/
inductive Act where
  | write (w : Write)
  | merge (w : Write) (mask : List Byte)
  | atom (minor : Nat) (p : AtomPart) (tag : Nat)
  deriving DecidableEq, Repr

/-- What is on its way to its home (R127, R170); towards replicas also that a line is poisoned no more (R283). -/
inductive Cargo where
  | acts (as : List Act)
  | eff (e : Eff)
  | clean (line : Nat)
  deriving DecidableEq, Repr

/-- A replica of a line of another die: its bytes, and whether it is poisoned (R283, R307). -/
structure Replica where
  bytes : List Byte
  bad : Bool
  deriving DecidableEq, Repr

/-- Part of committed effects, not yet performed: its number, the effects it is part of, the numbers that
must be performed before it, its owner, whether it is in a causal message, whether it completes a store of
a whole line (R283), the causal vector of its commit, the earlier parts of its commit's stores to the core's own
scratchpad or of its changes of groups, whether a change of groups may come after the stores and atomics of its flight, which of
those numbers one causal message takes with it, since only the order of an address asks for them, and the lanes that made it (R56, R159,
R160, R169, R170, R239, R256, R308, R329). -/
structure Out where
  id : Nat
  effs : List Nat
  after : List Nat
  who : Who
  sent : Bool
  clears : Bool
  vec : List Nat
  cargo : Cargo
  parts : List Nat := []
  loose : Bool := false
  mates : List Nat := []
  made : List Nat := []
  deriving DecidableEq, Repr

/-- A causal message (R308): the vector and the writes for its destination, with the numbers of the
effects it performs at their home; replica writes have number 0. -/
structure Msg where
  vec : List Nat
  writes : List (Nat × Cargo)
  deriving DecidableEq, Repr

/-! ## Instances -/

/-- A stage descriptor (R258). -/
structure Stage where
  entry : DWord
  args : Nat
  regs : Nat
  record : Nat
  depth : Nat
  pages : Nat
  slots : Nat
  nodes : Nat
  sarrays : Nat
  flags : Byte
  backoff : Nat
  backcap : Nat
  tissue : Nat
  tarray : Nat
  tcopy : Nat
  initcount : Nat
  deriving DecidableEq, Repr

/-- A record of a stage queue: its words, the fault of a handler record, the task number of a record that is
dispatched again and the cluster that it then avoids (R244), the causal vector it carries (R272), the list in
the spill area that it tells of (R290), and whether its instance is held under TRAP for it (R270). -/
structure Rec where
  words : List Word
  fault : Option FaultInfo
  num : Option Nat
  vec : List Nat
  avoid : Option Nat
  area : Option Nat
  trap : Bool := false
  deriving DecidableEq, Repr

/-- An admitted instance (R257, R260, R262). `whole` says that it was here for all of the classifier's window (R265). `overruns` has bit k for class k reported, bit 3 for
DEADMISS (R270); `trap` counts the handler tasks awaited under TRAP, and `trapMark` is the count of fault-ring records that
ends the hold where no handler task was launched. `tried` holds the FUSEDL1 stages that have been placed (R236), `scratchBad` and `accBad` the
poisoned words of scratchpads and accumulators (R146), and `wasReset` says that its context was reset (R276). -/
structure Inst where
  ctx : Nat
  order : Nat
  nstages : Nat
  handler : Nat
  policy : Nat
  arrays : Nat
  param : DWord
  key : DWord
  sppages : Nat
  accslots : Nat
  itiles : Nat
  gnodes : Nat
  landbytes : Nat
  gspill : Nat
  stages : List Stage
  deadline : Option Nat
  issue : Int
  array : Int
  copy : Int
  accounts : Bool
  overruns : BitVec 4
  trap : Option Nat
  queues : List (Nat × List Rec)
  inflight : List (Nat × Nat)
  nextTask : List (Nat × Nat)
  retained : List ((Nat × Nat) × Rec)
  errFlags : List Nat
  cls : Nat
  compute : Nat
  memory : Nat
  whole : Bool
  launchAddr : Option DWord
  cfgmis : Bool
  scratch : List (Nat × Byte)
  acc : List (Nat × Word)
  pinned : List Nat
  tried : List Nat
  scratchBad : List Nat := []
  accBad : List Nat := []
  wasReset : Bool := false
  trapMark : Nat := 0
  deriving DecidableEq, Repr

/-- A request to the Vestibule (R262, R273, R316): the descriptor, who asks (a pending tag of a gang or
the chain), whether it comes from another die, the vector it carries, the host's answer, the effects of its flight
that its descriptor is read after, and when it came to this die (R261). -/
structure LaunchReq where
  ctx : Nat
  desc : DWord
  tag : Nat
  record : Option DWord
  forwarded : Bool
  vec : List Nat
  answer : Option Nat
  after : List Nat
  received : Nat := 0
  deriving DecidableEq, Repr

/-- Who sends enqueues to a queue (R268): a core's enqueue port, the counter table, or the die's fault
delivery. -/
inductive Sender where
  | core (die core : Nat)
  | counter (die slot : Nat)
  | die
  deriving DecidableEq, Repr

/-- A waiting enqueue: its record, the refusals counted, the task gang that it is of, the flight whose
commit released it, the effects that must be visible before it, and whether a handler's task sent it (R268, R272, R289). -/
structure Waiting where
  record : Rec
  refusals : Nat
  root : Nat
  flight : Nat
  after : List Nat := []
  handler : Bool := false
  deriving DecidableEq, Repr

/-- A replay window towards one stage queue (R268). `due` is when the back-off ends. -/
structure Window where
  id : Nat
  src : Sender
  inst : Nat
  stage : Nat
  entries : List Waiting
  wait : Nat
  due : Option Nat
  deriving DecidableEq, Repr

/-! ## Cores -/

/-- A gang being gathered (R123): its target port, when it opened, its records, and the port of a paired gang's other run (R145). -/
structure Gather where
  id : Nat
  inst : Nat
  stage : Nat
  port : Nat
  opened : Nat
  age : Nat
  recs : List (Nat × Rec)
  pair : Option Nat := none
  deriving DecidableEq, Repr

/-- A piece of an evaluation plan (R206), its operands by their place in the plan. `scl` keeps its scalar as
written, for R210, and `mul` covers the
positions `lo` to `hi` of K in chunks of `kc`; `join` adds the parts of a split product in the order
chosen, `none` standing for the slot's start value (R215); `same` takes its operand's elements, for a transpose that has values of
its own (R191). -/
inductive POp where
  | leaf (d : TDesc) (r0 c0 : Nat) (t : Bool)
  | const (kind : Nat) (int : Bool) (pat : Word)
  | kept (node : Nat) (t : Bool)
  | mul (a b kc lo hi : Nat) (int dbl sat : Bool) (slot : Option Nat)
  | join (parts : List (Option Nat)) (int sat : Bool) (slot : Option Nat)
  | sum (terms : List (Bool × Nat)) (int dbl : Bool)
  | had (a b : Nat) (int dbl : Bool)
  | scl (a : Nat) (c : Num) (dbl : Bool) (pat : Word)
  | tri (a : Nat) (d : Int) (side fill : Nat)
  | cvt (a fmt mode : Nat) (sat : Bool)
  | act (a kind fmt : Nat)
  | same (a : Nat)
  deriving DecidableEq, Repr

/-- A node of a plan: the Gallery nodes that it computes, as they stand or transposed (none for an
intermediate), the nodes that take its sticky flags, its shape and format, its contract bits, what keeps it
from being shared, its append site and order, the strips that earlier forces gave, those it makes, the
strips it is to make for each row, and the flags it has raised. `csite`, `csIdx` and `cOrder` are of the node that is being computed, an
MTRN where its operand is bypassed (R208, R220); `also` are the nodes below an MTRN with values of its own, which supply what they have. -/
structure PNode where
  op : POp
  outs : List (Nat × Bool)
  flagsTo : List Nat
  rows : Nat
  cols : Nat
  fmt : Nat
  assoc : Bool
  splitk : Bool
  tag : Nat
  site : DWord
  siteIdx : Nat
  order : Nat
  had : List (Nat × List Num)
  vals : List (Nat × List Num)
  need : List (Nat × List Nat)
  flags : BitVec 7
  csite : DWord := 0#64
  csIdx : Nat := 0
  cOrder : Nat := 0
  also : List (Nat × Bool) := []
  deriving DecidableEq, Repr

/-- One step of the array (R199, R332): a plan node, the rows of a tile and its strip, the positions of K
from `k0` to `k1`, whether it is emulated (R222), and its cycles. -/
structure PStep where
  p : Nat
  rows : List Nat
  strip : Nat
  k0 : Nat
  k1 : Nat
  emul : Bool
  cycles : Nat
  deriving DecidableEq, Repr

/-- What an evaluation is for (R192, R195, R204, R218). -/
inductive EKind where
  | force
  | read (tag d row col width : Nat) (lanes : List Nat)
  | store
  | auto
  | macc (seq slot : Nat) (i32 sat : Bool) (ctr : Option DWord)
  | follow (seq : Nat)
  deriving DecidableEq, Repr

/-- An evaluation in the matrix queue (R198): for whom, of which node, planned once it starts; the cores whose
arrays help it (R215), an emulated step's values that are back and wait for its context (R223), and the committed effects that
precede it where it entered its queue at their commit (R195, R198). -/
structure Eval where
  id : Nat
  gid : Nat
  who : Who
  pc : DWord
  idx : Nat
  node : Nat
  kind : EKind
  planned : Bool
  pnodes : List PNode
  steps : List PStep
  wait : Option Nat
  busy : Bool
  helpers : List Nat
  back : Option (List Num)
  after : List Nat
  deriving DecidableEq, Repr

/-- A command of an engine queue (R162 to R168, R198); `age` gives the order in which commands and joins of all contexts entered. A join names
the queues it waits for. -/
inductive Cmd where
  | copy (seq : Nat) (blk : Block) (node : Nat) (who : Who) (age : Nat)
  | eval (id : Nat)
  | join (id mask age : Nat)
  deriving DecidableEq, Repr

/-- A copy command in progress (R167): row, beat, the service that it waits for, and the numbers of its writes
that are on their way. -/
structure Copying where
  row : Nat
  beat : Nat
  wait : Option Nat
  outs : List Nat
  deriving DecidableEq, Repr

/-- A core's engines and units (R123, R162, R198). Sequences are keyed by context * 5 + queue. `scan` is 0 in service, 1 draining, 2 drained and
3 under scan, `scanned` says that a drained core's scan has been completed with another signature (R294, R295), `errors` are its error
counters (R146, R147). -/
structure Core where
  gathers : List Gather
  queues : List (Nat × List Cmd)
  issued : List (Nat × BitVec 63)
  done : List (Nat × BitVec 63)
  copying : List (Nat × Copying)
  nodes : List (Nat × Node)
  evals : List Eval
  l1 : List Nat
  tlb : List TlbEntry
  scan : Nat
  drainAt : Option Nat
  scanTag : Option (Nat × Nat)
  drainTags : List Nat
  lastSig : DWord
  contain : Nat
  errors : List (Nat × Nat) := []
  scanned : Bool := false
  deriving DecidableEq, Repr

/-! ## Dies -/

/-- A slot of the group table (R238, R239). -/
structure Group where
  gen : Nat
  ctx : Nat
  inst : Nat
  reserved : Bool
  live : Bool
  members : List TaskId
  arrived : List TaskId
  generation : Nat
  failed : Bool
  progress : Word
  deriving DecidableEq, Repr

/-- A slot of the counter table (R274). An armed record is kept with the die, instance and stage that it is for. -/
structure Counter where
  gen : Nat
  ctx : Nat
  live : Bool
  count : Nat
  armed : Option (Nat × Nat × Nat × List Word)
  fired : Bool
  progress : Word
  deriving DecidableEq, Repr

/-- A service request in the event ring (R292): kind, context, tag, address and FAULTINFO. -/
structure Event where
  kind : Nat
  ctx : Nat
  tag : Nat
  addr : DWord
  info : DWord
  deriving DecidableEq, Repr

/-- For whom a service runs: a parked gang, a copy queue of a core, the matrix queue of a core, an emulated step of
an evaluation there, or nobody who waits. -/
inductive Client where
  | gang (gid : Nat)
  | copy (core q : Nat)
  | array (core eval : Nat)
  | step (core eval : Nat)
  | other
  deriving DecidableEq, Repr

/-- An instruction that the sampling unit has tagged: its clause's address, FLIGHTID, passes, port, core, word index,
instance slot, context and the DTC at its issue, the gang and the number of its flight, and whether that was discarded, once it has
ended (R298, R299). -/
structure Tagged where
  header : DWord
  flight : DWord
  passes : Nat
  port : Nat
  core : Nat
  index : Nat
  slot : Nat
  ctx : Nat
  dtc : Nat
  gid : Nat
  num : Nat
  lost : Option Bool
  deriving DecidableEq, Repr

/-- What the control core is told of the ways between cores and dies: a cluster path or a link has failed (R250, R306). -/
inductive Notice where
  | path (src dst : Nat)
  | link (src dst : Nat)
  deriving DecidableEq, Repr

/-- A shootdown in progress (R287): its number and the range it removes, with the pages, by base address and size in bits, of the
larger entries that went. -/
structure Shoot where
  num : Nat
  va : Nat
  bits : Nat
  all : Bool
  ctx : Nat
  gone : List (Nat × Nat) := []
  deriving DecidableEq, Repr

/-- A die. Ports are keyed by site * 4 + port, system registers of the control core and SAMPCTL by
their number; the walk cache holds non-leaf entries by context, level and address, the newest first (R284); `pathChecks` counts for
two sites of a cluster the transfers that failed in a row (R250); `sampled` holds for
a port the instructions of its sampling window so far and the one to be tagged, `tagged` those whose records are due (R298). -/
structure Die where
  sites : List Nat
  lanemap : List (Nat × Word)
  coremap : List (Nat × Nat)
  suspect : List Nat
  portCounts : List (Nat × List Nat)
  dtcBase : Nat
  permits : Nat
  mhz : Nat
  vestibule : List LaunchReq
  admitted : Nat
  sent : Nat
  applied : List Nat
  replicas : List (Nat × Replica)
  pendingFill : List (Nat × Replica × List Nat)
  sysregs : List (Nat × DWord)
  evPos : Nat
  evHeld : List Event
  services : List (Nat × Client)
  shoots : List Shoot
  shootNum : Nat
  clusterTlb : List (Nat × List TlbEntry)
  walkCache : List (Nat × DWord)
  fused : List (Nat × Nat)
  deadPaths : List (Nat × Nat)
  pathChecks : List (Nat × Nat)
  groups : List (Nat × Group)
  counters : List (Nat × Counter)
  watched : List (Nat × Word)
  errors : List (Nat × Nat)
  insts : List (Nat × Inst)
  windows : List Window
  cores : List (Nat × Core)
  containSel : Nat
  lastGraph : List (Nat × List Nat)
  ccReset : Nat
  ccFault : FaultInfo
  sampled : List (Nat × (Nat × Nat))
  tagged : List Tagged
  notices : List Notice := []
  l2 : List Nat := []
  deriving DecidableEq, Repr

/-! ## Package -/

/-- A context (R314, R316, R317): what its entry holds once it is started, its page-table root and key
mask among it, its launch chain, its completion count, its fault ring, and the lists in its spill area, by
address and bytes (R290). `run` is 0 not started, 1 started, 2 draining, 3 switched out. -/
structure Ctx where
  run : Nat
  root : DWord
  keymask : DWord
  compaddr : DWord
  fring : DWord
  frsize : Nat
  ptimer : Nat
  lspill : DWord
  lsize : Nat
  gspill : DWord
  gsize : Nat
  maxinst : Nat
  maxarrays : Nat
  diemask : Byte
  save : DWord
  chainNext : DWord
  chainSeq : Nat
  chainStop : Bool
  completions : Nat
  compHeld : List (Nat × Nat × Nat)
  produced : Nat
  ring : List (List Word)
  drainEnd : Option Nat
  lists : List (Nat × Nat)
  tensors : List (Nat × TDesc)
  saved : List (Nat × Int)
  image : List Byte := []
  deriving DecidableEq, Repr

/-- A request to another package awaiting its acknowledgement (R327, R329): the effect or load it
serves, the target, the time it left, and where. -/
inductive FabClient where
  | out (id : Nat)
  | load (gid req : Nat)
  | copy (core key row beat : Nat)
  deriving DecidableEq, Repr

structure FabOut where
  id : Nat
  client : FabClient
  die : Nat
  pkg : Nat
  addr : Nat
  sentAt : Nat
  deriving DecidableEq, Repr

/-- The package and its registers (R315). `replies` are the answers to other packages: to whom, whether a window admitted the access,
and the bytes read (R325, R326); `hostVecs` the causal vectors of the writes that lines of host memory hold (R310). -/
structure Package where
  grade : Byte
  stepping : Byte
  ready : Bool
  ctxbase : DWord
  fabid : Half
  fabtimeout : Half
  tails : List (Nat × DWord)
  frcons : List (Nat × DWord)
  ctxctl : List (Nat × Byte)
  fabwin : List (Nat × DWord)
  fabroute : List (Nat × DWord)
  deadLinks : List Nat
  deadFabric : List Nat
  deadPkgs : List Nat
  ctxs : List (Nat × Ctx)
  keys : List (Nat × Nat)
  reports : List (List Byte)
  fabricOut : List FabOut
  replies : List (Nat × Bool × List Byte)
  hostVecs : List (Nat × List Nat)
  deriving DecidableEq, Repr

/-- An event of the agenda: what happens, and not before when (DESIGN CHOICE, log 6). -/
structure Due where
  time : Nat
  op : Instr
  deriving DecidableEq, Repr


/-- The machine. `cur` is the port that is issuing a clause; `gangs` are all others; `drain` the
committed effects on their way; `msgs` the causal messages, keyed by source * 4 + destination; `olds` the words of memory that
stores have overwritten, the newest last, by word address (R39); `owners` the owner keys, plus one, under which lines were written
(R318). The agenda, the clock, the counter of free values and the supply of numbers are the model's own (DESIGN CHOICE, log 4, 6,
7). -/
structure State where
  cur : Option Running
  gangs : List Gang
  agenda : List Due
  time : Nat
  free : Nat
  nextId : Nat
  mem : List Host.Cell
  poison : List (Nat × Bool)
  pkg : Package
  dies : List (Nat × Die)
  drain : List Out
  msgs : List (Nat × List Msg)
  olds : List (Nat × Word)
  owners : List (Nat × Nat)
  deriving DecidableEq, Repr

/-- The lanes that a port is made with (R3); which of them are bad is read from the fuses at bring-up. -/
def allLanes : Word := 0xFFFFFFFF#32

/-- A core that has done nothing. -/
def Core.idle : Core :=
  { gathers := [], queues := [], issued := [], done := [], copying := [], nodes := [], evals := [], l1 := [], tlb := [],
    scan := 0, drainAt := none, scanTag := none, drainTags := [], lastSig := 0#64, contain := 0 }

/-- A die at power-good (DESIGN CHOICE, log 1, DESIGN CHOICE, log 2): every site enabled, no logical core map yet (R122). -/
def Die.reset : Die :=
  { sites := List.range 128, lanemap := [], coremap := [], suspect := [], portCounts := [], dtcBase := 0, permits := 128,
    mhz := 1900, vestibule := [], admitted := 0, sent := 0, applied := [0, 0, 0, 0], replicas := [], pendingFill := [],
    sysregs := [], evPos := 0, evHeld := [], services := [], shoots := [], shootNum := 0, clusterTlb := [], walkCache := [],
    fused := [], deadPaths := [], pathChecks := [], groups := [], counters := [], watched := [], errors := [], insts := [], windows := [],
    cores := [], containSel := 0, lastGraph := [], ccReset := 0, ccFault := ⟨0, 0#64, 0#64⟩, sampled := [], tagged := [] }

/-- A context that is not started. -/
def Ctx.idle : Ctx :=
  { run := 0, root := 0#64, keymask := 0#64, compaddr := 0#64, fring := 0#64, frsize := 16, ptimer := 0, lspill := 0#64,
    lsize := 0, gspill := 0#64, gsize := 0, maxinst := 0, maxarrays := 0, diemask := 0#8, save := 0#64, chainNext := 0#64,
    chainSeq := 0, chainStop := false, completions := 0, compHeld := [], produced := 0, ring := [], drainEnd := none,
    lists := [], tensors := [], saved := [] }

/-- The package registers at power-good (R315; DESIGN CHOICE, log 1): READY is 0 until bring-up is complete. -/
def Package.reset : Package :=
  { grade := 0#8, stepping := 0#8, ready := false, ctxbase := 0#64, fabid := 0#16, fabtimeout := 0#16, tails := [],
    frcons := [], ctxctl := [], fabwin := [], fabroute := [], deadLinks := [], deadFabric := [], deadPkgs := [], ctxs := [],
    keys := [], reports := [], fabricOut := [], replies := [], hostVecs := [] }

/-- The machine right after reset: power-good, before bring-up, with no gang and nothing on the agenda.
The values the spec does not give are those of log 1 to log 7. -/
def State.reset : State :=
  { cur := none, gangs := [], agenda := [], time := 0, free := 0, nextId := 1, mem := [], poison := [], pkg := Package.reset,
    dies := [(0, Die.reset), (1, Die.reset), (2, Die.reset), (3, Die.reset)], drain := [], msgs := [], olds := [], owners := [] }

/-- Why a step stops with a fault of the model. -/
inductive Fault where
  /-- Raised by an instruction's meaning when no port is issuing: instructions act for a gang (R28).
  Safe: the step never comes to it, since it runs an instruction only for the gang that issues. -/
  | noGang
  /-- Raised by an event's meaning when the agenda asks for an event that cannot happen in this state.
  Safe: the machine itself never does what its state does not enable. -/
  | notEnabled (event : String)
  deriving DecidableEq, Repr

/-- Why a step is refused. -/
inductive Refusal where
  /-- Raised by the dispatcher's arm of an instruction that has no meaning yet. Safe: nothing is
  claimed of it. -/
  | notModelled (mnemonic : String)
  deriving DecidableEq, Repr

end Sys2Proof.Machine
end

