-- ==== Sys2Proof/Machine/Ops.lean ====
section
/-!
DEFINITION. The named operations over memory and registers, and taking an exception as one shared
operation, with the return from one beside it.
-/

namespace Sys2Proof.Machine

/-- What a meaning answers. -/
abbrev Res := Host.Outcome State Fault Refusal

/-! ## The parts of the state -/

/-- The context number of the control cores' own flights (R291): no tenant's. -/
def firmware : Nat := 64

/-- The core number of a die's control core. -/
def controlCore : Nat := 128

def State.die (s : State) (d : Nat) : Die := look Die.reset s.dies d
def State.setDie (s : State) (d : Nat) (x : Die) : State := { s with dies := put? s.dies d (some x) }
def State.onDie (s : State) (d : Nat) (f : Die → Die) : State := s.setDie d (f (s.die d))
def Die.core (x : Die) (c : Nat) : Core := look Core.idle x.cores c
def Die.onCore (x : Die) (c : Nat) (f : Core → Core) : Die := { x with cores := put Core.idle x.cores c (f (x.core c)) }
def State.core (s : State) (d c : Nat) : Core := (s.die d).core c
def State.onCore (s : State) (d c : Nat) (f : Core → Core) : State := s.onDie d (fun x => x.onCore c f)

/-- The die and slot of the instance that a die knows under a number: its own instances by their slots, those of
another die, whose records have moved here (R266), by numbers from 1024 (DESIGN CHOICE, log 16). -/
def homeInst (d i : Nat) : Nat × Nat := if i < 1024 then (d, i) else ((i - 1024) / 256, i % 256)

/-- The number under which a die knows an instance. -/
def instName (e : Nat) (h : Nat × Nat) : Nat := if h.1 = e then h.2 else 1024 + h.1 * 256 + h.2

/-- A core in an instance's tables: a core of its own die by its number, one of another die apart (DESIGN CHOICE, log 16). -/
def coreOf (d i c : Nat) : Nat := if i < 1024 then c else c + 128 * (d + 1)

def State.inst? (s : State) (d i : Nat) : Option Inst := look? (s.die (homeInst d i).1).insts (homeInst d i).2
def State.onInst (s : State) (d i : Nat) (f : Inst → Inst) : State :=
  s.onDie (homeInst d i).1 (fun x => { x with insts := alter? x.insts (homeInst d i).2 f })

/-- Whether a gang is of the instance in a slot of a die. -/
def Gang.isOf (g : Gang) (h : Nat × Nat) : Bool := homeInst g.die g.inst == h && g.ctx != firmware
def Who.isOf (w : Who) (h : Nat × Nat) : Bool := homeInst w.die w.inst == h
def State.ctx (s : State) (c : Nat) : Ctx := look Ctx.idle s.pkg.ctxs c
def State.onCtx (s : State) (c : Nat) (f : Ctx → Ctx) : State :=
  { s with pkg := { s.pkg with ctxs := put Ctx.idle s.pkg.ctxs c (f (s.ctx c)) } }
def State.gang? (s : State) (gid : Nat) : Option Gang := s.gangs.find? (fun g => g.gid == gid)
def State.onGang (s : State) (gid : Nat) (f : Gang → Gang) : State :=
  { s with gangs := s.gangs.map (fun g => if g.gid = gid then f g else g) }
def State.dropGang (s : State) (gid : Nat) : State := { s with gangs := s.gangs.filter (fun g => g.gid != gid) }

/-- The die time counter, in ns (R53, R9). -/
def State.dtc (s : State) (d : Nat) : Nat := s.time + (s.die d).dtcBase

/-- A fresh number of the model. -/
def State.fresh (s : State) : Nat × State := (s.nextId, { s with nextId := s.nextId + 1 })

/-- One of `n` choices that the spec leaves open; no choice is taken where there is one. -/
def State.pick (s : State) (n : Nat) : Nat × State :=
  if n ≤ 1 then (0, s) else (Config.choose s.free % n, { s with free := s.free + 1 })

/-- Count an occurrence in the die's error counters (R283, R289). The number names the kind. -/
def State.countError (s : State) (d kind : Nat) : State :=
  s.onDie d (fun x => { x with errors := alter 0 x.errors kind (· + 1) })

/-- Count an error of a core's own stores in the core's error counters (R146, R147). -/
def State.countCore (s : State) (d core kind : Nat) : State :=
  s.onCore d core fun c => { c with errors := alter 0 c.errors kind (· + 1) }

def Die.sysreg (x : Die) (n : Nat) : DWord := look 0#64 x.sysregs n
def Die.setSysreg (x : Die) (n : Nat) (v : DWord) : Die := { x with sysregs := put 0#64 x.sysregs n v }

/-- A gang's deadline in its die's time: a record moved to another die keeps its remaining slack less 1,000 ns
(R260, R261). -/
def State.deadlineOf (s : State) (g : Gang) : Option Int :=
  ((s.inst? g.die g.inst).bind (·.deadline)).map fun t =>
    (t : Int) + (s.die g.die).dtcBase - (s.die (homeInst g.die g.inst).1).dtcBase - g.lost

/-- SLACK of a landing record as it is written (R132): to the deadline, or the longest there is. -/
def State.slackOf (s : State) (g : Gang) : Int :=
  match s.deadlineOf g with
  | some t => t - s.dtc g.die
  | none => 2 ^ 63 - 1

/-- The stage of a gang (R258). -/
def State.stage? (s : State) (g : Gang) : Option Stage := (s.inst? g.die g.inst).bind (fun i => i.stages[g.stage]?)

/-! ## Sites, cores and ports -/

/-- The site of a logical core (R122). -/
def Die.site? (x : Die) (c : Nat) : Option Nat := look? x.coremap c

/-- The logical core at a site. -/
def Die.coreAt? (x : Die) (site : Nat) : Option Nat := (x.coremap.find? (fun e => e.2 == site)).map (·.1)

/-- The cluster of a logical core and its position in it (R122). -/
def Die.cluster (x : Die) (c : Nat) : Nat := ((x.site? c).getD c) / 16
def Die.position (x : Die) (c : Nat) : Nat := ((x.site? c).getD c) % 16

/-- The good lanes of a port of a site, 0 for a disabled port or site (R118). -/
def Die.laneMap (x : Die) (site port : Nat) : Word :=
  let m := look allLanes x.lanemap (site * 4 + port)
  if x.sites.contains site && decide (24 ≤ popcount m) then m else 0#32

/-- The count of good lanes of a core's port; the control core has one port of 32 (R291). -/
def Die.good (x : Die) (c port : Nat) : Nat :=
  if c = controlCore then 32 else popcount (x.laneMap ((x.site? c).getD c) port)

def Die.suspectPort (x : Die) (c port : Nat) : Bool := x.suspect.contains ((x.site? c).getD c * 4 + port)

/-- The enabled, non-suspect ports of a core (R144). -/
def Die.portsOf (x : Die) (c : Nat) : List Nat :=
  if c = controlCore then [0] else [0, 1, 2, 3].filter (fun p => decide (0 < x.good c p) && !x.suspectPort c p)

/-- The enabled cores of a cluster, in the order of their positions. -/
def Die.clusterCores (x : Die) (cluster : Nat) : List Nat :=
  (List.range 16).filterMap fun p => if x.sites.contains (cluster * 16 + p) then x.coreAt? (cluster * 16 + p) else none

/-- The core whose L1 holds a line that a core reads: its own, or in a fused cluster the one core that may (R236), by
the physical line number (DEDUCED, log 81). -/
def Die.l1Core (x : Die) (core line : Nat) : Nat :=
  let cs := x.clusterCores (x.cluster core)
  if (look? x.fused (x.cluster core)).isSome then cs.getD (line % cs.length) core else core

/-- Where the virtual lanes of a gang's present slices lie on a port, in increasing order: the lane, the pass and the physical
lane (R118). -/
def lanePlaces (slices : Byte) (good : Word) : List (Nat × Nat × Nat) :=
  let ps := bitsOf good
  let ls := bitsOf (laneMask slices)
  (ls.zip (List.range ls.length)).map fun e => (e.1, e.2 / ps.length, ps.getD (e.2 % ps.length) 0)

/-- The passes a gang takes on a port (R119). -/
def passesOn (slices : Byte) (good : Nat) : Nat := if good = 0 then 1 else ceilDiv (4 * popcount slices) good

/-! ## Physical memory -/

/-- What an unlisted byte of memory reads as (DESIGN CHOICE, log 3). -/
def unlisted : Byte := 0#8

def State.byte (s : State) (pa : Nat) : Byte := look unlisted s.mem pa
def State.setByte (s : State) (pa : Nat) (b : Byte) : State := { s with mem := put unlisted s.mem pa b }
def State.bytes (s : State) (pa n : Nat) : List Byte := (List.range n).map (fun i => s.byte (pa + i))
def State.setBytes (s : State) (pa : Nat) : List Byte → State
  | [] => s
  | b :: bs => (s.setByte pa b).setBytes (pa + 1) bs

/-- The canonical form of memory. -/
abbrev Memory.wf (m : List Host.Cell) : Prop := mapWf unlisted m = true

/-- Whether a line of memory is poisoned (R283). -/
def State.poisoned (s : State) (pa : Nat) : Bool := look false s.poison (pa / 64)
def State.setPoison (s : State) (pa : Nat) (b : Bool) : State := { s with poison := put false s.poison (pa / 64) b }

/-- The home die of a physical address: its DIE field on package DRAM; host lines go through die 0
(R280, R312). -/
def homeDie (pa : Nat) : Nat := if pa / 2 ^ 38 % 16 = 0 then pa / 2 ^ 36 % 4 else 0

/-- The home slice of a line in its die (R280). -/
def homeSlice (pa : Nat) : Nat :=
  let f := fun lo => pa / 2 ^ lo % 32
  f 6 ^^^ f 11 ^^^ f 16 ^^^ f 21 ^^^ f 26 ^^^ f 31

/-- The DRAM channel of a line (R281). -/
def channel (pa : Nat) (near : Bool) : Nat :=
  let ch := pa / 2 ^ 29 % 128
  if near then ch else ch ^^^ (pa / 2 ^ 12 % 128)

/-- Whether a line is homed on the host (R312). -/
def isHost (pa : Nat) : Bool := pa / 2 ^ 38 % 16 == 1

/-- A byte as die `d` reads it: from its replica of a line homed elsewhere, else from the home (R307). -/
def State.dieByte (s : State) (d pa : Nat) : Byte :=
  if homeDie pa = d || isHost pa then s.byte pa
  else match look? (s.die d).replicas (pa / 64) with
    | some x => x.bytes.getD (pa % 64) unlisted
    | none => s.byte pa

/-- Whether a line is poisoned as die `d` reads it: poison travels with a replica (R283, R307). -/
def State.badAt (s : State) (d pa : Nat) : Bool :=
  if homeDie pa = d || isHost pa then s.poisoned pa
  else match look? (s.die d).replicas (pa / 64) with
    | some x => x.bad
    | none => s.poisoned pa

/-! ## Causal counters (R308) -/

/-- Whether a 32-bit counter has reached another, modulo 2^32. -/
def ge32 (a b : Nat) : Bool := decide ((a + 2 ^ 32 - b % 2 ^ 32) % 2 ^ 32 < 2 ^ 31)

/-- The later of two causal vectors, for each die. -/
def mergeVec (v w : List Nat) : List Nat := (v.zip w).map fun e => if ge32 e.1 e.2 then e.1 else e.2

/-! ## Places -/

/-- The place `n` bytes further. -/
def Loc.plus (l : Loc) (n : Nat) : Loc :=
  match l with
  | .phys pa => .phys (pa + n)
  | .scratch c o => .scratch c (o + n)
  | .acc o => .acc (o + n)
  | .fabric p a => .fabric p (a + n)

/-- The 64-byte line of a place. -/
def Loc.line : Loc → Loc
  | .phys pa => .phys (pa / 64 * 64)
  | .scratch c o => .scratch c (o / 64 * 64)
  | .acc o => .acc (o / 64 * 64)
  | .fabric p a => .fabric p (a / 64 * 64)

/-! ## Acts on their way -/

/-- The virtual address of an act, and its place. -/
def Act.va : Act → DWord
  | .write w | .merge w _ => w.va
  | .atom _ p _ => p.va
def Act.loc : Act → Loc
  | .write w | .merge w _ => w.loc
  | .atom _ p _ => p.loc
def Act.isAtom : Act → Bool
  | .write _ | .merge _ _ => false
  | .atom _ _ _ => true

/-- The acts of an Out. -/
def Out.acts (o : Out) : List Act :=
  match o.cargo with
  | .acts as => as
  | _ => []

/-- Whether the die's own writes to a remote line are still travelling through its home (R308). -/
def State.travelling (s : State) (d : Nat) (l : Loc) : Bool :=
  s.drain.any fun o => o.who.die == d && o.sent && o.acts.any fun a => a.loc.line == l.line

/-- Whether a line can be read on a die now: homed here, on the host, or through a replica with none of the
die's own writes on their way. -/
def State.readable (s : State) (d : Nat) (l : Loc) : Bool :=
  match l with
  | .phys pa => isHost pa || homeDie pa == d || ((look? (s.die d).replicas (pa / 64)).isSome && !s.travelling d l)
  | _ => true

/-- Whether the path from a die to a place has failed (R306, R329). -/
def State.pathDown (s : State) (d : Nat) : Loc → Bool
  | .phys pa => !isHost pa && homeDie pa != d &&
      (s.pkg.deadLinks.contains (d * 4 + homeDie pa) || s.pkg.deadLinks.contains (homeDie pa * 4 + d))
  | .fabric p _ => s.pkg.deadPkgs.contains p ||
      ((List.range 256).find? (fun e => field (look 0#64 s.pkg.fabroute e) 32 1 == 1 &&
          field (look 0#64 s.pkg.fabroute e) 0 16 == p)).all (fun e =>
        (List.range 16).all (fun k => !(look 0#64 s.pkg.fabroute e).getLsbD (16 + k) || s.pkg.deadFabric.contains k))
  | _ => false

/-- Whether the path from a core of a die to the scratchpad of another has failed (R250). -/
def State.clusterDown (s : State) (d core c : Nat) : Bool :=
  let x := s.die d
  x.deadPaths.contains ((x.site? core).getD core, (x.site? c).getD c)

/-- Whether a die cannot read a line: it has no replica of it, and the path to its home has failed (R306). -/
def State.outOfReach (s : State) (d pa : Nat) : Bool := !s.readable d (.phys pa) && s.pathDown d (.phys pa)

/-! ## Translation -/

/-- The number of no die: what it reads is what the homes hold. -/
def noDie : Nat := 4

/-- A table entry at a physical address, read as a die-scope load (R285). -/
def State.entry (s : State) (d pa : Nat) : DWord := dwordOfBytes ((List.range 8).map fun i => s.dieByte d (pa + i))

/-- Whether a non-leaf entry has a bit set that it must not have (R286). -/
def badNonLeaf (e : DWord) : Bool := e.toNat / 2 ^ 42 != 0 || e.toNat / 2 % 2 ^ 11 != 0

/-- A leaf entry's frame size and the leaf, or none when it is malformed (R286, R312, R324). `va` picks
the frame of a C64 group. -/
def leafOf (fabid : Half) (e : DWord) (level : Nat) (va : Nat) : Option Leaf :=
  let frame := field e 12 30 * 4096
  let c64 := e.getLsbD 8
  let pkg := e.getLsbD 7
  let region := field e 38 4
  let bits := if level = 2 then 30 else if level = 1 then 21 else if c64 then 16 else 12
  if field e 9 3 ≠ 0 || decide (2 < level) || (c64 && decide (level ≠ 0))
      || (decide (level ≠ 0) && decide (frame % 2 ^ bits ≠ 0)) then none
  else if pkg && (decide (region ≠ 2) || decide (field e 42 16 = 0) || decide (field e 42 16 = fabid.toNat) || decide (fabid = 0#16)) then none
  else if !pkg && (decide (region ≥ 2) || decide (field e 42 16 ≠ 0)) then none
  else
    some { frame := if c64 then frame - va / 4096 % 16 * 4096 else frame, bits := bits, owner := field e 58 6,
           pkgid := field e 42 16, pkg := pkg, near := e.getLsbD 6, tso := e.getLsbD 5, x := e.getLsbD 4, w := e.getLsbD 3,
           r := e.getLsbD 2 }

/-- The index of a level's table that an address selects (R285). -/
def levelIndex (va level : Nat) : Nat := if level = 4 then va / 2 ^ 48 % 256 else va / 2 ^ (12 + 9 * level) % 512

/-- The key of a non-leaf entry in the walk cache. -/
def walkKey (ctx va level : Nat) : Nat := va / 2 ^ (12 + 9 * level) * 512 + ctx * 8 + level

/-- Walk from a table at a level for a die (R285, R286): what is found, the non-leaf entries read from memory on the
way, and the lines read. -/
def walkFrom (s : State) (d ctx va : Nat) : Nat → Nat → Nat → Walk × List (Nat × DWord) × List Nat
  | 0, _, _ => (.prot, [], [])
  | n + 1, table, level =>
    let pa := table + 8 * levelIndex va level
    match (s.die d).walkCache.find? fun q => q.1 == walkKey ctx va level with
    | some q => walkFrom s d ctx va n (field q.2 12 30 * 4096) (level - 1)
    | none =>
      let e := s.entry d pa
      if s.outOfReach d pa then (.path, [], [pa / 64])
      else if s.badAt d pa then (.poison, [], [pa / 64])
      else if !e.getLsbD 0 then (.page, [], [pa / 64])
      else if e.getLsbD 1 then
        (match leafOf s.pkg.fabid e level va with
         | some l => .ok l
         | none => .prot, [], [pa / 64])
      else if level = 0 || badNonLeaf e then (.prot, [], [pa / 64])
      else
        let (w, es, ls) := walkFrom s d ctx va n (field e 12 30 * 4096) (level - 1)
        (w, (walkKey ctx va level, e) :: es, pa / 64 :: ls)

/-- The walk of a context's page on a die, with what it reads (R285). Firmware's addresses are physical (PRESUMED, log 8). -/
def State.walked (s : State) (d ctx va : Nat) : Walk × List (Nat × DWord) × List Nat :=
  if ctx = firmware then
    (.ok ⟨va / 4096 * 4096 % 2 ^ 42, 12, 0, 0, false, false, false, true, true, true⟩, [], [])
  else walkFrom s d ctx va 5 (s.ctx ctx).root.toNat 4

def State.walk (s : State) (d ctx va : Nat) : Walk := (s.walked d ctx va).1

/-- Enter the non-leaf entries of a walk in the die's walk cache, the oldest leaving when it is full (R284; DESIGN
CHOICE, log 9). -/
def State.fillWalk (s : State) (d : Nat) (es : List (Nat × DWord)) : State :=
  if es.isEmpty then s else s.onDie d fun x => { x with walkCache := (es ++ x.walkCache).take 1024 }

/-- Whether a TLB entry translates an address. -/
def TlbEntry.hit (e : TlbEntry) (ctx va : Nat) : Bool := e.ctx == ctx && va / 2 ^ e.leaf.bits == e.base / 2 ^ e.leaf.bits

/-- The leaf of an address in the core's or the cluster's TLB (R284). -/
def State.tlb? (s : State) (d c ctx va : Nat) : Option Leaf :=
  let x := s.die d
  match (x.core c).tlb.find? (·.hit ctx va) with
  | some e => some e.leaf
  | none => ((look [] x.clusterTlb (x.cluster c)).find? (·.hit ctx va)).map (·.leaf)

/-- Enter a translation in the core's and the cluster's TLB, the oldest leaving when they are full
(R284; DESIGN CHOICE, log 9). -/
def State.fillTlb (s : State) (d c ctx va : Nat) (l : Leaf) : State :=
  let e : TlbEntry := ⟨ctx, va / 2 ^ l.bits * 2 ^ l.bits, l⟩
  s.onDie d (fun x =>
    let y := x.onCore c (fun k => { k with tlb := (e :: k.tlb.filter (fun o => !o.hit ctx va)).take 256 })
    { y with clusterTlb := alter [] y.clusterTlb (x.cluster c) (fun t => (e :: t.filter (fun o => !o.hit ctx va)).take 4096) })

/-- Translate at once: through the TLBs, else by a walk whose mapping is kept (R284). -/
def State.translate (s : State) (d c ctx va : Nat) : Walk × State :=
  match s.tlb? d c ctx va with
  | some l => (.ok l, s)
  | none =>
    let (w, es, _) := s.walked d ctx va
    let t := s.fillWalk d es
    match w with
    | .ok l => (.ok l, t.fillTlb d c ctx va l)
    | w => (w, t)

/-- The place of an address under a leaf: physical, or in another package's DRAM (R324). -/
def Leaf.place (l : Leaf) (va : Nat) : Loc :=
  let pa := l.frame + va % 2 ^ l.bits
  if l.pkg then .fabric l.pkgid (pa % 2 ^ 38) else .phys pa

/-- Whether a leaf allows a context an access: 0 read, 1 write, 2 execute, 3 read and write (R286, R157). -/
def State.allows (s : State) (ctx : Nat) (l : Leaf) (kind : Nat) : Bool :=
  ctx == firmware || ((s.ctx ctx).keymask.getLsbD l.owner &&
    (match kind with
     | 0 => l.r
     | 1 => l.w
     | 2 => l.x
     | _ => l.r && l.w))

/-- The regions of R148. -/
inductive Region where
  | global
  | local_ (off : Nat)
  | cluster (pos off : Nat)
  | accum (off : Nat)
  | none_
  | badCluster
  deriving DecidableEq, Repr

def regionOf (a : DWord) : Region :=
  let top := field a 48 16
  if field a 56 8 = 0 then .global
  else if top = 0xFFF0 then .local_ (field a 0 48)
  else if top = 0xFFF1 then (if field a 24 24 = 0 then .cluster (field a 20 4) (field a 0 20) else .badCluster)
  else if top = 0xFFF2 then .accum (field a 0 48)
  else .none_

/-- What decoding and translating an address finds, besides a miss (R148, R157): a place, or the code of
the fault and the FORM field of its FAULTINFO. -/
inductive Found where
  | at_ (l : Loc) (tso : Bool)
  | miss (page : Nat)
  | bad (code form : Nat)
  deriving DecidableEq, Repr

def codeIllins : Nat := 0x0001
def codeIllclause : Nat := 0x0002
def codePenduse : Nat := 0x0003
def codeMisalign : Nat := 0x0004
def codePrivilege : Nat := 0x0005
def codeTrapins : Nat := 0x0006
def codePage : Nat := 0x0010
def codeProt : Nat := 0x0011
def codeScratch : Nat := 0x0012
def codePoison : Nat := 0x0013
def codeShape : Nat := 0x0020
def codeBadnode : Nat := 0x0021
def codeBadrec : Nat := 0x0022
def codeBadmask : Nat := 0x0023
def codeRcode : Nat := 0x0024
def codeGallery : Nat := 0x0025
def codeGspace : Nat := 0x0026
def codeTnbad : Nat := 0x0027
def codeBadattr : Nat := 0x0028
def codeRecsize : Nat := 0x0030
def codeLandovf : Nat := 0x0031
def codeQnack : Nat := 0x0032
def codeOverissue : Nat := 0x0040
def codeDeadmiss : Nat := 0x0043
def codePreemptto : Nat := 0x0044
def codeSigfail : Nat := 0x0050
def codePairfix : Nat := 0x0051
def codePairnomaj : Nat := 0x0052
def codeDeadlock : Nat := 0x0060

/-- A transfer between a core and a place of its cluster has passed its check: the path's failures are no longer in a row (R250). -/
def State.crossed (s : State) (d core : Nat) (l : Loc) : State :=
  match l with
  | .scratch c _ => s.onDie d fun x =>
      { x with pathChecks := erase x.pathChecks ((x.site? core).getD core * 128 + (x.site? c).getD c) }
  | _ => s

/-- Decode a scratchpad address for an instance on a core (R148, R150). A window address of a core that
is not enabled, or beyond the quota, is SCRATCH; a failed cluster path is PROT in form 1 (R250), found before a fault of the
offset or the page (DESIGN CHOICE, log 60). -/
def State.scratchAt (s : State) (d c inst : Nat) (r : Region) : Found :=
  let x := s.die d
  let quota := ((s.inst? d inst).map (·.sppages)).getD 0
  let check := fun (core off : Nat) =>
    if off < 0x80000 && decide (off / 4096 < quota) then Found.at_ (.scratch core off) false else .bad codeScratch 0
  match r with
  | .local_ off => check c off
  | .cluster pos off =>
    match x.coreAt? (x.cluster c * 16 + pos) with
    | some core =>
      if x.deadPaths.contains (x.site? c |>.getD c, x.cluster c * 16 + pos) then .bad codeProt 1
      else if x.sites.contains (x.cluster c * 16 + pos) then check core off else .bad codeScratch 0
    | none => .bad codeScratch 0
  | .accum _ | .none_ => .bad codeProt 0
  | .badCluster => .bad codeScratch 0
  | .global => .bad codeScratch 0

/-- Whether an access of a kind finds the path that it needs failed: a read that the die's own replica serves needs none (R306, R329). -/
def State.needsPath (s : State) (d kind : Nat) (l : Loc) : Bool :=
  s.pathDown d l && !((kind == 0 || kind == 2) && (match l with
    | .phys _ => s.readable d l
    | _ => false))

/-- Where a leaf puts an access, or why it may not (R157, R306, R329). -/
def State.byLeaf (s : State) (d ctx : Nat) (l : Leaf) (va kind : Nat) : Found :=
  if !s.allows ctx l kind then .bad codeProt 0
  else if s.needsPath d kind (l.place va) then .bad codeProt 1
  else .at_ (l.place va) l.tso

/-- Decode an address for an access of a kind, through the TLBs only: a page not there is a miss
(R148, R157). -/
def State.find (s : State) (d c inst ctx : Nat) (a : DWord) (kind : Nat) : Found :=
  match regionOf a with
  | .global =>
    match s.tlb? d c ctx a.toNat with
    | some l => s.byLeaf d ctx l a.toNat kind
    | none => .miss (a.toNat / 4096)
  | r => s.scratchAt d c inst r

/-- Decode an address with a walk where the TLBs miss. -/
def State.findNow (s : State) (d c inst ctx : Nat) (a : DWord) (kind : Nat) : Found × State :=
  match regionOf a with
  | .global =>
    match s.translate d c ctx a.toNat with
    | (.ok l, t) => (s.byLeaf d ctx l a.toNat kind, t)
    | (.page, t) => (.bad codePage 0, t)
    | (.prot, t) => (.bad codeProt 0, t)
    | (.poison, t) => (.bad codePoison 0, t)
    | (.path, t) => (.bad codeProt 1, t)
  | r => (s.scratchAt d c inst r, s)

/-- Read a byte of a place, for an instance on a die (R150, R307). Another package's byte is not here. -/
def State.read (s : State) (d inst : Nat) : Loc → Byte
  | .phys pa => s.dieByte d pa
  | .scratch core off => ((s.inst? d inst).map (fun i => look 0#8 i.scratch (coreOf d inst core * 0x80000 + off))).getD 0#8
  | .acc off => ((s.inst? d inst).map (fun i =>
      BitVec.ofNat 8 ((look 0#32 i.acc (off / 4)).toNat / 2 ^ (8 * (off % 4))))).getD 0#8
  | .fabric _ _ => 0#8

/-- How far a place lies after another in the same space. -/
def Loc.after (l from_ : Loc) : Option Nat :=
  match l, from_ with
  | .phys a, .phys b => if b ≤ a then some (a - b) else none
  | .scratch c a, .scratch e b => if c = e && decide (b ≤ a) then some (a - b) else none
  | .acc a, .acc b => if b ≤ a then some (a - b) else none
  | .fabric p a, .fabric q b => if p = q && decide (b ≤ a) then some (a - b) else none
  | _, _ => none

def State.readN (s : State) (d inst : Nat) (l : Loc) (n : Nat) : List Byte :=
  (List.range n).map (fun i => s.read d inst (l.plus i))

/-- The number of the word that holds a byte of a core's scratchpad, in its instance's list of poisoned words. -/
def scratchWord (d inst core off : Nat) : Nat := (coreOf d inst core * 0x80000 + off) / 4

/-- Whether a place's data is poisoned as a die reads it for an instance (R146, R283). -/
def State.bad (s : State) (d inst : Nat) : Loc → Bool
  | .phys pa => s.badAt d pa
  | .scratch core off => ((s.inst? d inst).map fun i => i.scratchBad.contains (scratchWord d inst core off)).getD false
  | .acc off => ((s.inst? d inst).map fun i => i.accBad.contains (off / 4)).getD false
  | .fabric _ _ => false

/-- Whether any of the words that hold `n` bytes is poisoned (R153, R167). -/
def State.badN (s : State) (d inst : Nat) (l : Loc) (n : Nat) : Bool := (List.range n).any fun i => s.bad d inst (l.plus i)

/-- Whether a place's scratchpad page is pinned. -/
def State.pinned (s : State) (d inst : Nat) : Loc → Bool
  | .scratch core off => ((s.inst? d inst).map fun i => i.pinned.contains (coreOf d inst core * 128 + off / 4096)).getD true
  | _ => true

/-- The words of a stretch of bytes that it holds whole. -/
def wholeWords (off n : Nat) : List Nat := (List.range (n / 4 + 1)).filterMap fun i =>
  let w := ceilDiv off 4 + i
  if 4 * w + 4 ≤ off + n then some w else none

/-- A word of a scratchpad or of accumulators that is stored whole is poisoned no more (R146; DESIGN CHOICE, log 52). -/
def State.heal (s : State) (d inst : Nat) (l : Loc) (n : Nat) : State :=
  match l with
  | .scratch core off => s.onInst d inst fun i =>
      if i.scratchBad.isEmpty then i else { i with scratchBad := i.scratchBad.filter fun w => !(wholeWords (coreOf d inst core * 0x80000 + off) n).contains w }
  | .acc off => s.onInst d inst fun i => if i.accBad.isEmpty then i else { i with accBad := i.accBad.filter fun w => !(wholeWords off n).contains w }
  | _ => s

/-- The lines of some that a die must still get from their homes before it can read them; one whose path has failed
it does not wait for: an access through it faults (R306). -/
def State.unread (s : State) (d : Nat) (lines : List Nat) : List Nat :=
  lines.filter fun l => !s.readable d (.phys (64 * l)) && !s.pathDown d (.phys (64 * l))

/-- The lines that reading `n` bytes at an address of a context waits for: those of the walk, where the TLBs miss, then
those of the data, if any (R285, R307). -/
def State.reachWants (s : State) (d c inst ctx : Nat) (a : DWord) (n kind : Nat) : List Nat :=
  let at_ := fun (va : Nat) (m : Nat) =>
    match regionOf (BitVec.ofNat 64 va) with
    | .global =>
      let ws := if (s.tlb? d c ctx va).isSome then [] else s.unread d (s.walked d ctx va).2.2
      if !ws.isEmpty then ws
      else match s.findNow d c inst ctx (BitVec.ofNat 64 va) kind with
        | (.at_ (.phys pa) _, _) => if m = 0 then [] else s.unread d ((List.range (ceilDiv (pa % 64 + m) 64)).map fun i => pa / 64 + i)
        | _ => []
    | _ => []
  let m := min n (4096 - a.toNat % 4096)
  at_ a.toNat m ++ (if m = n then [] else at_ (a.toNat + m) (n - m))

/-- Write a byte of a place at its home (R247); accumulator words are written whole elsewhere. -/
def State.write (s : State) (d inst : Nat) (l : Loc) (b : Byte) : State :=
  match l with
  | .phys pa => s.setByte pa b
  | .scratch core off => s.onInst d inst (fun i => { i with scratch := put 0#8 i.scratch (coreOf d inst core * 0x80000 + off) b })
  | .acc off => s.onInst d inst (fun i =>
      let old := look 0#32 i.acc (off / 4)
      let sh := 8 * (off % 4)
      { i with acc := put 0#32 i.acc (off / 4) ((old &&& ~~~(0xFF#32 <<< sh)) ||| ((b.setWidth 32) <<< sh)) })
  | .fabric _ _ => s

def State.writeN (s : State) (d inst : Nat) (l : Loc) : List Byte → State
  | [] => s
  | b :: bs => (s.write d inst l b).writeN d inst (l.plus 1) bs

/-- Whether a die holds a replica of a line, or one is on its way to it. -/
def Die.replicates (x : Die) (line : Nat) : Bool := (look? x.replicas line).isSome || x.pendingFill.any fun e => e.1 == line

/-- A die sends the other dies a message, each with its own writes. A link that has failed carries nothing
(DESIGN CHOICE, log 18). -/
def State.announce (s : State) (d : Nat) (vec : List Nat) (sends : Nat → List (Nat × Cargo)) : State :=
  let c := ((s.die d).sent + 1) % 2 ^ 32
  let s1 := s.onDie d fun x => { x with sent := c }
  ([0, 1, 2, 3].filter (· != d)).foldl (fun s e =>
    if s.pkg.deadLinks.contains (d * 4 + e) then s.onDie e fun x => { x with applied := x.applied.set d c }
    else { s with msgs := alter [] s.msgs (d * 4 + e) (· ++ [⟨vec.set d c, sends e⟩]) }) s1

/-- Bytes from a place on, cut at the multiples of `k`. -/
def cutsAt (k : Nat) : Nat → Nat → List Byte → List (Nat × List Byte)
  | 0, _, _ => []
  | n + 1, a, bs => if bs.isEmpty then [] else
      let m := k - a % k
      (a, bs.take m) :: cutsAt k n (a + m) (bs.drop m)

/-- What the device has written at its home leaves the L1s there, and goes by the home's next message to the dies that hold replicas of its
lines (R307, R308). A line of host memory has no home. -/
def State.refresh (s : State) (pa : Nat) (bs : List Byte) : State :=
  let cuts := cutsAt 64 (bs.length / 64 + 2) pa bs
  let t : State := { s with dies := s.dies.map fun x => (x.1, { x.2 with cores := x.2.cores.map fun e =>
    (e.1, { e.2 with l1 := e.2.l1.filter fun l => !cuts.any fun c => c.1 / 64 == l && (isHost c.1 || homeDie c.1 == x.1) }) }) }
  [0, 1, 2, 3].foldl (fun (t : State) h =>
    let sends := fun (e : Nat) => cuts.filterMap fun c =>
      if e != h && !isHost c.1 && homeDie c.1 == h && (t.die e).replicates (c.1 / 64) then some (0, Cargo.acts [.write ⟨.phys c.1, 0#64, c.2, false⟩]) else none
    if [0, 1, 2, 3].all fun e => (sends e).isEmpty then t else t.announce h ((t.die h).applied.set h (t.die h).sent) sends) t

/-- Write bytes of memory as the device itself does: rings, watched words of firmware, completions. -/
def State.device (s : State) (pa : Nat) (bs : List Byte) : State := (s.setBytes pa bs).refresh pa bs

/-- Write bytes at a context's virtual address as the device does on a die, page by page, where it is mapped (DESIGN CHOICE, log 10). -/
def State.writeVa (s : State) (d ctx : Nat) (va : Nat) (bs : List Byte) : State :=
  (cutsAt 4096 (bs.length / 4096 + 2) va bs).foldl (fun (s : State) c => match s.walk d ctx c.1 with
    | .ok l => (match l.place c.1 with
        | .phys pa => s.device pa c.2
        | _ => s)
    | _ => s) s

/-! ## Registers -/

/-- Scalar `r` of slice `k`; s0 reads zero (R23). -/
def Arch.sget (a : Arch) (k r : Nat) : DWord := if r = 0 then 0#64 else look 0#64 a.s (k * 32 + r)

/-- Write a scalar; a write of s0 is discarded. The write clears the poison mark (R153) and puts the
register among those saved (R135). -/
def Arch.sset (a : Arch) (k r : Nat) (x : DWord) : Arch :=
  if r = 0 then a
  else { a with s := put 0#64 a.s (k * 32 + r) x, slive := a.slive ||| (1#32 <<< r), poison := erase a.poison (2048 + k * 32 + r) }

def Arch.vget (a : Arch) (r l : Nat) : Word := look 0#32 a.v (r * 32 + l)

/-- Write a vector register in a lane (R135, R153). -/
def Arch.vset (a : Arch) (r l : Nat) (x : Word) : Arch :=
  { a with v := put 0#32 a.v (r * 32 + l) x, vlive := a.vlive ||| (1#64 <<< r), poison := erase a.poison (r * 32 + l) }

/-- The lanes of a predicate. -/
def Arch.pmask (a : Arch) (k : Nat) : Word := look 0#32 a.p k
def Arch.pget (a : Arch) (k l : Nat) : Bool := (a.pmask k).getLsbD l

/-- Write a predicate in the lanes of a mask (R135; DEDUCED, log 58: predicate k is in group k / 8). -/
def Arch.pset (a : Arch) (k : Nat) (lanes x : Word) : Arch :=
  if lanes = 0#32 then a
  else { a with p := put 0#32 a.p k ((a.pmask k &&& ~~~lanes) ||| (x &&& lanes)), plive := a.plive ||| (1#16 <<< (k / 8)) }

def Arch.nget (a : Arch) (r : Nat) : Nat := look 0 a.n r
def Arch.nset (a : Arch) (r id : Nat) : Arch := { a with n := put 0 a.n r id, nlive := a.nlive ||| (1#16 <<< r) }

/-- A pair of vector registers as a doubleword, the low half in the even register (R33). -/
def Arch.dget (a : Arch) (r l : Nat) : DWord := a.vget (r + 1) l ++ a.vget r l
def Arch.dset (a : Arch) (r l : Nat) (x : DWord) : Arch := (a.vset r l (x.extractLsb' 0 32)).vset (r + 1) l (x.extractLsb' 32 32)

/-- The executing slices: those present (R24). -/
def Arch.slicesList (a : Arch) : List Nat := bitsOf a.slices

/-- The exec-mask part of a slice. -/
def Arch.part (a : Arch) (k : Nat) : BitVec 4 := a.exec.extractLsb' (4 * k) 4

/-- The acting slices of a memory or gang-uniform instruction: exec-mask part not 0000 (R154). -/
def Arch.acting (a : Arch) : List Nat := a.slicesList.filter (fun k => a.part k != 0#4)

/-- The occupied lanes. -/
def Arch.occupied (a : Arch) : List Nat := bitsOf a.occ

/-- The active lanes under a guard (R33): exec-mask bit set, and the guard's predicate true. -/
def Arch.active (a : Arch) (g : BitVec 3) (gn : BitVec 1) : List Nat :=
  (bitsOf a.exec).filter (fun l => g == 0#3 || (a.pget g.toNat l != (gn == 1#1)))

/-- Replace a slice's part of a mask. -/
def setPart (m : Word) (k : Nat) (x : BitVec 4) : Word := (m &&& ~~~sliceMask k) ||| ((x.setWidth 32) <<< (4 * k))

/-- A map keyed by `key * w + slice` or lane, restricted to the lanes of a mask. -/
def keepKeys {α : Type} (m : List (Nat × α)) (own : Nat → Bool) : List (Nat × α) := m.filter fun e => own e.1

/-- The state of some of a gang's slices alone. -/
def Arch.restrict (a : Arch) (sl : Byte) : Arch :=
  let lane := fun (l : Nat) => sl.getLsbD (l / 4)
  { a with
    slices := sl, occ := a.occ &&& laneMask sl, exec := a.exec &&& laneMask sl
    v := keepKeys a.v fun k => lane (k % 32)
    p := a.p.foldl (fun m e => put 0#32 m e.1 (e.2 &&& laneMask sl)) []
    s := keepKeys a.s fun k => sl.getLsbD (k / 32)
    rstack := keepKeys a.rstack fun k => sl.getLsbD (k / 16)
    split := keepKeys a.split fun k => sl.getLsbD k
    sigval := keepKeys a.sigval fun k => sl.getLsbD k
    fpctl := keepKeys a.fpctl fun k => sl.getLsbD k
    fpstat := keepKeys a.fpstat fun k => sl.getLsbD k
    poison := keepKeys a.poison fun k => if k < 2048 then lane (k % 32) else sl.getLsbD ((k - 2048) / 32) }

/-- The state without some lanes, which keep none, nor do slices in which no lane is left (R52). -/
def Arch.vacate (a : Arch) (lanes : Word) : Arch :=
  let occ := a.occ &&& ~~~lanes
  let sl := (List.range 8).foldl (fun (m : Byte) k => if occ &&& sliceMask k = 0#32 then m else m ||| (1#8 <<< k)) 0#8
  let b := a.restrict (sl &&& a.slices)
  { b with
    occ := occ, exec := a.exec &&& occ
    v := keepKeys b.v fun k => !lanes.getLsbD (k % 32)
    p := b.p.foldl (fun m e => put 0#32 m e.1 (e.2 &&& ~~~lanes)) []
    poison := keepKeys b.poison fun k => decide (2048 ≤ k) || !lanes.getLsbD (k % 32) }

/-! ## Fault records -/

/-- The 16 words of a fault record (R290) (DEDUCED, log 20). -/
def recordWords (f : FaultInfo) (kind stage slot task : Nat) (occ exec : Word) (flight site : DWord)
    (siteIdx queue core : Nat) (w13 : DWord) (w15 : Nat) : List Word :=
  let lo := fun (x : DWord) => x.extractLsb' 0 32
  let hi := fun (x : DWord) => x.extractLsb' 32 32
  let pc := if kind = 0 then f.pc else 0#64
  [BitVec.ofNat 32 (f.code % 65536 + stage % 16 * 2 ^ 16 + kind % 16 * 2 ^ 20 + slot % 256 * 2 ^ 24), lo pc, hi pc, lo f.info, hi f.info,
   BitVec.ofNat 32 task, occ, exec, lo flight, hi flight, lo site, hi site,
   BitVec.ofNat 32 (siteIdx % 16 + queue % 8 * 16 + core % 128 * 256), lo w13, hi w13, BitVec.ofNat 32 w15]

/-- The task number that stands for no task (R290). -/
def noTask : Nat := 0xFFFFFFFF

/-- Put a record in a replay window towards a stage queue, making the window where there is none
(R268, R289). -/
def State.send (s : State) (src : Sender) (d inst stage root flight : Nat) (r : Rec) (after : List Nat := []) (handler : Bool := false) : State :=
  let w : Waiting := ⟨r, 0, root, flight, after, handler⟩
  let x := s.die d
  if x.windows.any (fun q => q.src == src && q.inst == inst && q.stage == stage) then
    s.onDie d (fun x => { x with windows := x.windows.map (fun q =>
      if q.src == src && q.inst == inst && q.stage == stage then { q with entries := q.entries ++ [w] } else q) })
  else
    let (id, t) := s.fresh
    t.onDie d (fun x => { x with windows := x.windows ++ [⟨id, src, inst, stage, [w], 0, none⟩] })

/-- Put a record in a context's fault ring, or keep it until there is room (R317). -/
def State.toHost (s : State) (ctx : Nat) (words : List Word) : State := s.onCtx ctx (fun c => { c with ring := c.ring ++ [words] })

/-- The committed effects of some owners that are still on their way. -/
def State.effectsOf (s : State) (p : Who → Bool) : List Nat := (s.drain.filter fun o => p o.who).flatMap (·.effs)

/-- Deliver a fault record to the instance's handler stage, or to the host when there is none or the
fault is the handler's own (R289). `area` is the list in the spill area that the record tells of (R290), `after` are the
effects that the handler must see beside those of `root`, and `trap` says that its instance is held for it (R270). -/
def State.reportList (s : State) (d slot ctx : Nat) (fromHandler : Bool) (root : Nat) (f : FaultInfo) (words : List Word) (area : Option Nat)
    (after : List Nat := []) (trap : Bool := false) : State :=
  match s.inst? d slot with
  | some i =>
    if i.handler = 0xFF || fromHandler then s.toHost ctx words
    else
      let args := ((i.stages[i.handler]?).map (·.args)).getD 16
      let h := homeInst d slot
      s.send .die h.1 h.2 i.handler root 0 ⟨words.take args, some f, none, (s.die d).applied.set d (s.die d).sent, none, area, trap⟩ after
  | none => s.toHost ctx words

/-- Deliver a fault record that tells of no list. -/
def State.report (s : State) (d slot ctx : Nat) (fromHandler : Bool) (root : Nat) (f : FaultInfo) (words : List Word) : State :=
  s.reportList d slot ctx fromHandler root f words none

/-- SIZE of a landing record (R134). -/
def Arch.recordSize (a : Arch) : Nat :=
  roundUp (256 + popcount a.slices * (16 + 8 * a.depth + 8 * popcount a.slive) + 128 * popcount a.vlive
    + 32 * popcount a.plive + 4 * popcount a.nlive) 8

/-- The records and anchors of a context that lie in its spill area: address and size. -/
def State.spilled (s : State) (ctx : Nat) : List (Nat × Nat) :=
  ((s.gangs ++ (s.cur.map (·.gang)).toList).filter (·.ctx == ctx)).flatMap fun g =>
    (match g.place with
     | .spill a => [(a, g.arch.recordSize)]
     | _ => []) ++ (g.anchorAt.map fun a => (a, g.anchor.recordSize)).toList

/-- A place in a context's spill area for `n` bytes, beside the records and lists that lie there (R137, R290; DESIGN CHOICE, log 10). -/
def State.spillPlace (s : State) (ctx n : Nat) : Option Nat :=
  let c := s.ctx ctx
  let lo := c.lspill.toNat
  let taken := c.lists ++ s.spilled ctx
  (lo :: taken.map fun e => e.1 + e.2).find? fun a =>
    lo ≤ a && a + n ≤ lo + c.lsize && taken.all fun e => a + n ≤ e.1 || e.1 + e.2 ≤ a

/-- Put a list in a context's spill area, where it lies until it is freed (R290); none where it has no room (DESIGN CHOICE, log 10). -/
def State.putList (s : State) (d ctx : Nat) (bs : List Byte) : Option Nat × State :=
  let n := roundUp bs.length 8
  match s.spillPlace ctx n with
  | some a => (some a, (s.onCtx ctx fun c => { c with lists := c.lists ++ [(a, n)] }).writeVa d ctx a bs)
  | none => (none, s)

/-- Write a list of task numbers, in rising order, into the spill area (R290). -/
def State.taskList (s : State) (d ctx : Nat) (nums : List Nat) : Option Nat × State :=
  s.putList d ctx (bytesOfWords ((nums.mergeSort (· ≤ ·)).map (BitVec.ofNat 32)))

/-- Put a service request in the event ring, or hold it back while the ring is full; its tag is fresh
(R292). -/
def State.request (s : State) (d kind ctx : Nat) (addr info : DWord) (cl : Option Client) : Nat × State :=
  let (tag, t) := s.fresh
  let u := t.onDie d (fun x => { x with evHeld := x.evHeld ++ [⟨kind, ctx, tag, addr, info⟩],
                                        services := put? x.services tag (some (cl.getD .other)) })
  (tag, u)

/-! ## Groups -/

/-- The slot of a group or counter identifier, and its die and context (R238, R274). -/
def idDie (x : DWord) : Nat := field x 32 2
def idCtx (x : DWord) : Nat := field x 34 6
/-- An identifier from its fields: `low` bits of slot and generation below the die and the context. -/
def makeId (low die ctx : Nat) : DWord := BitVec.ofNat 64 (low % 2 ^ 32 + die % 4 * 2 ^ 32 + ctx % 64 * 2 ^ 34)
def groupSlot (x : DWord) : Nat := field x 0 12
def groupGen (x : DWord) : Nat := field x 12 20
def counterSlot (x : DWord) : Nat := field x 0 14
def counterGen (x : DWord) : Nat := field x 14 18

/-- The group that an identifier names, if it is live (R238). -/
def State.group? (s : State) (id : DWord) : Option Group :=
  match look? (s.die (idDie id)).groups (groupSlot id) with
  | some g => if g.live && g.gen == groupGen id && g.ctx == idCtx id && field id 40 24 == 0 then some g else none
  | none => none

def State.setGroup (s : State) (id : DWord) (g : Group) : State :=
  s.onDie (idDie id) (fun x => { x with groups := put? x.groups (groupSlot id) (some g) })

/-- The counter that an identifier names, if it is live (R274). -/
def State.counter? (s : State) (id : DWord) : Option Counter :=
  match look? (s.die (idDie id)).counters (counterSlot id) with
  | some c => if c.live && c.gen == counterGen id && c.ctx == idCtx id && field id 40 24 == 0 then some c else none
  | none => none

def State.setCounter (s : State) (id : DWord) (c : Counter) : State :=
  s.onDie (idDie id) (fun x => { x with counters := put? x.counters (counterSlot id) (some c) })

/-- Wake every gang parked with a wake kind on an operand (R133). -/
def State.wake (s : State) (kind : Nat) (op : DWord) (p : Gang → Bool) : State :=
  { s with gangs := s.gangs.map (fun g =>
      if g.phase == .parked && g.wakeKind == kind && g.wakeOp == op && p g then { g with woken := true } else g) }

/-- Release a group's barrier: the next generation, no arrivals, its waiters eligible (R241). -/
def State.release (s : State) (id : DWord) (g : Group) : State :=
  (s.setGroup id { g with generation := g.generation + 1, arrived := [], progress := g.progress + 1#32 }).wake 5 id
    (fun w => w.wakeOp2 == BitVec.ofNat 64 g.generation)

/-- Release where every member has arrived; dissolve where the last member has left (R239, R241). A FAILED group releases nobody:
its waiting members raise POISON (R245; DEDUCED, log 61). -/
def State.groupCheck (s : State) (id : DWord) : State :=
  match s.group? id with
  | none => s
  | some g =>
    if g.members.isEmpty then s.setGroup id { g with live := false, arrived := [] }
    else if !g.failed && g.arrived.length = g.members.length then s.release id g else s

/-- A task leaves a group (R240, R241). -/
def State.leave (s : State) (id : DWord) (t : TaskId) : State :=
  match s.group? id with
  | none => s
  | some g =>
    if g.members.contains t then
      (s.setGroup id { g with members := g.members.erase t, arrived := g.arrived.erase t, progress := g.progress + 1#32 }).groupCheck id
    else s

/-! ## Retirement -/

/-- A handler task of a held instance has retired: under TRAP the instance goes on as under DEMOTE when
all have (R270). -/
def Inst.trapDone (i : Inst) : Inst :=
  match i.trap with
  | some n => if n ≤ 1 then { i with trap := none, deadline := none, accounts := false } else { i with trap := some (n - 1) }
  | none => i

/-- The groups of a die that a task belongs to (R239). -/
def State.groupsWith (s : State) (d : Nat) (t : TaskId) : List DWord :=
  (s.die d).groups.filterMap fun e => if e.2.live && e.2.members.contains t then some (makeId (e.1 + e.2.gen * 2 ^ 12) d e.2.ctx) else none

/-- A task ends: it leaves its groups, its stage has one task fewer in flight, its retained record goes, and the
list of the record that it received is freed (R52, R240, R243, R290). `trap` says that its instance is held for it. -/
def State.endTask (s : State) (d inst stage ctx num : Nat) (area : Option Nat) (trap : Bool) : State :=
  let s0 := match area with
    | some a => s.onCtx ctx fun c => { c with lists := c.lists.filter fun e => e.1 != a }
    | none => s
  let me : TaskId := ⟨inst, stage, num⟩
  let s1 := (s0.groupsWith d me).foldl (fun (s : State) id => s.leave id me) s0
  s1.onInst d inst (fun i =>
    let j := { i with inflight := alter 0 i.inflight stage (· - 1),
                      retained := i.retained.filter (fun e => e.1 != (stage, num)) }
    if trap then j.trapDone else j)

/-- The tasks in some lanes of a gang, as a retirement names them. -/
def Gang.tasksIn (g : Gang) (lanes : Word) : List (Nat × Option Nat × Bool) :=
  (g.lanes.filter fun e => lanes.getLsbD e.1).map fun e => (e.2.num, e.2.area, e.2.trap)

/-- What a retirement brings outside the core: tasks end (R52). -/
def State.endTasks (s : State) (d inst stage ctx : Nat) (ts : List (Nat × Option Nat × Bool)) : State :=
  ts.foldl (fun (s : State) t => s.endTask d inst stage ctx t.1 t.2.1 t.2.2) s

/-- What a retirement brings in the core: the lanes keep no state, a slice with no occupied lane is no longer present,
and a gang with no occupied lane is freed (R52). -/
def State.vacate (s : State) (gid : Nat) (lanes : Word) : State :=
  match s.gang? gid with
  | none => s
  | some g =>
    let rest := g.lanes.filter (fun e => !lanes.getLsbD e.1)
    if rest.isEmpty then s.dropGang gid
    else s.onGang gid (fun g => { g with lanes := rest, arch := g.arch.vacate lanes, anchor := g.anchor.vacate lanes })

/-- Retire lanes of a gang at once (R52). -/
def State.retire (s : State) (gid : Nat) (lanes : Word) : State :=
  match s.gang? gid with
  | none => s
  | some g => (s.endTasks g.die g.inst g.stage g.ctx (g.tasksIn lanes)).vacate gid lanes

/-! ## Discarding a flight -/

/-- Free the slots that an uncommitted flight reserved (R240, R275). -/
def State.freeSlots (s : State) (g : Gang) : State :=
  let s1 := g.gresv.foldl (fun s id => s.onDie (idDie id) (fun x =>
    { x with groups := alter? x.groups (groupSlot id) (fun q => { q with reserved := false }) })) s
  g.cresv.foldl (fun s id => s.onDie (idDie id) (fun x =>
    { x with counters := alter? x.counters (counterSlot id) (fun q => { q with live := false }) })) s1

/-- Whether an evaluation has planned with the value of one of some nodes. -/
def Eval.usesOf (v : Eval) (ns : List Nat) : Bool :=
  v.planned && v.pnodes.any fun p => (p.outs ++ p.also).any (fun o => ns.contains o.1) || (match p.op with
    | .kept n _ => ns.contains n
    | _ => false)

/-- The sticky bits that the open flights of a core's other gangs have raised in a node (R196). -/
def State.openFlags (s : State) (but d core n : Nat) : BitVec 7 :=
  (s.gangs ++ (s.cur.map (·.gang)).toList).foldl (fun (m : BitVec 7) g =>
    if g.gid != but && g.die == d && g.core == core then m ||| ((look? g.made n).map (·.2)).getD 0#7 else m) 0#7

/-- Remove a flight's appends, the values its forces made with the sticky bits that they alone raised, and its evaluations;
another evaluation that took such values is planned again (R131, R191, R196, R225). What an auto-force materialised or released is there again as it
was, without what that force gave it (R191, R218). -/
def State.undoGraph (s : State) (g : Gang) : State :=
  s.onCore g.die g.core (fun c =>
    { c with nodes := ((g.autos.foldl (fun ns e => put? ns e.1 (some e.2)) c.nodes).filter (fun e => !g.appends.contains e.1)).map (fun e =>
               match look? g.made e.1 with
               | some (ks, _) => (e.1, { e.2 with vals := e.2.vals.filter (fun v => !ks.contains v.1),
                                                  sticky := e.2.base ||| s.openFlags g.gid g.die g.core e.1 })
               | none => e),
             evals := (c.evals.filter (fun e => !(e.gid == g.gid && g.evals.contains e.id))).map fun e =>
               if e.usesOf (g.made.map (·.1)) then { e with planned := false } else e,
             queues := c.queues.map (fun e => (e.1, e.2.filter (fun q => match q with
               | .eval id => !g.evals.contains id
               | _ => true))) })

/-- The flight's own fields, empty: nothing held, pending, outstanding or reserved. -/
def Gang.clearFlight (g : Gang) : Gang :=
  { g with held := [], pend := [], accs := [], reqs := [], used := [], appends := [], gresv := [], cresv := [], binds := [], evals := [],
           made := [], autos := [], nexts := [] }

/-- Note for the tagged instructions of a gang's flight whether it has been discarded (R298, R299). -/
def State.noteSample (s : State) (g : Gang) (lost : Bool) : State :=
  if (s.die g.die).tagged.isEmpty then s
  else s.onDie g.die fun x => { x with tagged := x.tagged.map fun t =>
    if t.gid = g.gid && t.num = g.flight && t.lost.isNone then { t with lost := some lost } else t }

/-- Discard a gang's flight: its held effects, responses, appends and reservations go, and every register,
mask, stack, FPCTL, FPSTAT and SIGVAL comes back from the anchor (R131). A gang that has left its port meanwhile replays
where one takes it, and so does one whose anchor lies in the spill area: that record is read back first (R137, R146). -/
def State.discard (s : State) (gid : Nat) : State :=
  match s.gang? gid with
  | none => s
  | some g =>
    (((s.freeSlots g).undoGraph g).noteSample g true).onGang gid (fun g =>
      let h := { g.clearFlight with arch := g.anchor, phase := .run, stall := false, paused := none, wants := [], waitsFor := [], fenced := false, spent := 0,
                                    spent2 := 0, spent3 := 0, ackScope := 0 }
      let waits := { h with phase := .parked, wakeKind := 9, wakeOp := 0#64, wakeOp2 := 0#64, woken := true, slack := s.slackOf g }
      match g.anchorAt, g.place with
      | some a, _ => { waits with place := .spill a, anchorAt := none, written := g.anchorWritten, granted := 0, pair := none }
      | none, .port _ => h
      | none, .spill _ => if g.phase == .ending || g.paused.isSome then { waits with place := .landing } else waits
      | none, .landing => waits)

/-! ## Ends of instances, budgets and overruns -/

/-- The status dword of a launch record: status, slot, die, CFGMIS, DONE and how it ended (R316). -/
def statusWord (status slot die : Nat) (cfgmis done : Bool) (how : Nat) : Nat :=
  status % 256 + slot % 256 * 256 + die % 4 * 2 ^ 16 + bit cfgmis * 2 ^ 18 + bit done * 2 ^ 24 + how % 8 * 2 ^ 25

/-- The instance number of what is no instance's any more. -/
def nobody : Nat := 256

/-- A die without the windows, counters, commands, nodes and groups of an instance, the L1s of its fused clusters empty (R237): `named` says of its numbers
here whether it is meant, `mine` of an owner, `armed` of a die and slot: a counter armed for it is free (R270). -/
def Die.without (x : Die) (named : Nat → Bool) (mine : Who → Bool) (armed : Nat → Nat → Bool) : Die :=
  let unarm := fun (c : Counter) => match c.armed with
    | some (e, j, _, _) => if armed e j then { c with armed := none, live := false } else c
    | none => c
  { x with windows := x.windows.filter (fun w => !named w.inst),
           fused := x.fused.filter (fun e => !named e.2),
           counters := x.counters.map (fun c => (c.1, unarm c.2)),
           groups := x.groups.map (fun e => (e.1, if named e.2.inst then { e.2 with live := false, members := [], arrived := [], inst := nobody } else e.2)),
           cores := x.cores.map (fun e => (e.1,
             let unfused := x.fused.any fun q => q.1 == x.cluster e.1 && named q.2
             let doomed := (e.2.evals.filter (fun v => mine v.who)).map (·.id)
             { e.2 with gathers := e.2.gathers.filter (fun g => !named g.inst),
                        l1 := if unfused then [] else e.2.l1,
                        evals := e.2.evals.filter (fun v => !mine v.who),
                        copying := e.2.copying.filter (fun q => match (look [] e.2.queues q.1).head? with
                          | some (.copy _ _ _ w _) => !mine w
                          | _ => true),
                        nodes := e.2.nodes.filter (fun n => !named n.2.inst),
                        queues := e.2.queues.map (fun q => (q.1, q.2.filter (fun c => match c with
                          | .copy _ _ _ w _ => !mine w
                          | .eval id => !doomed.contains id
                          | .join _ _ _ => true))) })) }

/-- An instance ends: its gangs, queues, windows, counters, commands and groups go, its quotas, permits and
slot are free, and its completion follows its committed effects (R239, R276, R270, R317). Another instance's members that wait
at one of its groups go on waiting (DESIGN CHOICE, log 62). -/
def State.endInst (s : State) (d slot how : Nat) : State :=
  match s.inst? d slot with
  | none => s
  | some i =>
    let h := homeInst d slot
    let mine := fun (w : Who) => w.isOf h
    let named := fun (e n : Nat) => homeInst e n == h
    let doomed := s.gangs.filter (fun g => g.isOf h)
    let s1 := doomed.foldl (fun s g => s.discard g.gid) s
    let s2 := doomed.foldl (fun (s : State) g => g.lanes.foldl (fun (s : State) t =>
      (s.groupsWith g.die ⟨g.inst, g.stage, t.2.num⟩).foldl (fun (s : State) id => s.leave id ⟨g.inst, g.stage, t.2.num⟩) s) s) s1
    let s3 : State :=
      { s2 with
        gangs := s2.gangs.filter (fun g => !g.isOf h),
        drain := s2.drain.map (fun o => if mine o.who then { o with who := { o.who with inst := nobody } } else o),
        dies := s2.dies.map (fun (e : Nat × Die) => (e.1, e.2.without (named e.1) mine (fun n k => n = h.1 && k = h.2))) }
    let gone := fun (id : DWord) => (s2.group? id).isSome && (s3.group? id).isNone
    let s3 : State := { s3 with gangs := s3.gangs.map fun (g : Gang) =>
      let g := { g with lanes := g.lanes.map fun e => (e.1, { e.2 with groups := e.2.groups.filter fun id => !gone id }) }
      -- a counter that is free again holds nobody (R275)
      if g.phase == .parked && g.wakeKind = 6 && (s2.counter? g.wakeOp).isSome && (s3.counter? g.wakeOp).isNone then { g with woken := true } else g }
    let s4 := s3.onDie h.1 (fun x => { x with insts := erase x.insts h.2 })
    let rec_ := (i.launchAddr.map (fun a => a.toNat + 1)).getD 0
    s4.onCtx i.ctx (fun c => { c with compHeld := c.compHeld ++ [(rec_, statusWord 0 h.2 h.1 i.cfgmis true how, s4.nextId)] })

/-- One record of kind 2 to the instance's handler, or to the host, after the committed effects of the instance (R270,
R289). `stage` is that of the task it tells of. -/
def State.instanceRecord (s : State) (d slot : Nat) (f : FaultInfo) (task : Nat) (stage : Nat := 0) (trap : Bool := false) : State :=
  match s.inst? d slot with
  | none => s
  | some i =>
    s.reportList d slot i.ctx (task != noTask && stage == i.handler) 0 f
      (recordWords f 2 stage slot task 0#32 0#32 0#64 0#64 0 0 0 0#64 (s.dtc d % 2 ^ 32)) none (s.effectsOf (·.isOf (homeInst d slot))) trap

/-- What an overrun or a missed deadline brings: the instance's POLICY (R270). Each kind strikes once. Where its record goes to the host, the
instance having no handler or the task being the handler's own (R289), no handler task is awaited, but the record. -/
def State.strike (s : State) (d slot kind : Nat) (f : FaultInfo) (task : Nat) (stage : Nat := 0) : State :=
  match s.inst? d slot with
  | none => s
  | some i =>
    if i.overruns.getLsbD kind then s
    else
      let s1 := s.onInst d slot (fun i => { i with overruns := i.overruns ||| (1#4 <<< kind) })
      match i.policy with
      | 0 => s1.endInst d slot 1
      | 1 => (s1.onInst d slot (fun i => { i with deadline := none, accounts := false })).instanceRecord d slot f task stage
      | _ =>
        let n := (i.trap.getD 0) + 1
        let t := s1.instanceRecord d slot f task stage true
        if i.handler = 0xFF || (task != noTask && stage == i.handler) then
          t.onInst d slot (fun i => { i with trap := some (i.trap.getD 0), trapMark := (t.ctx i.ctx).produced + (t.ctx i.ctx).ring.length })
        else t.onInst d slot (fun i => { i with trap := some n })

/-- Take an amount from a per-task account, where the stage has one. -/
def Task.charge (t : Task) (cls : Nat) (n : Int) : Task :=
  match cls with
  | 0 => { t with issue := t.issue - n }
  | 1 => { t with array := t.array - n }
  | _ => { t with copy := t.copy - n }

def Task.account (t : Task) (cls : Nat) : Int := if cls = 0 then t.issue else if cls = 1 then t.array else t.copy
def Inst.account (i : Inst) (cls : Nat) : Int := if cls = 0 then i.issue else if cls = 1 then i.array else i.copy

/-- Whether a stage has a per-task account of a class (R258). -/
def Stage.limited (st : Stage) (cls : Nat) : Bool := (if cls = 0 then st.tissue else if cls = 1 then st.tarray else st.tcopy) != 0

/-- Charge an engine's work to an instance's account and to the per-task accounts of the tasks concerned;
the first account of the class to pass from above zero to zero or below is an overrun (R269). Handler
tasks of an instance under TRAP, and a demoted instance, are exempt from the check (R270) (DEDUCED, log 45). -/
def State.charge (s : State) (d slot stage cls : Nat) (nums : List Nat) (n : Nat) : State :=
  match s.inst? d slot with
  | none => s
  | some i =>
    if i.trap.isSome && stage == i.handler then s
    else
      let limited := ((i.stages[stage]?).map (·.limited cls)).getD false
      let s1 := s.onInst d slot (fun i => match cls with
        | 0 => { i with issue := i.issue - n, compute := i.compute + n }
        | 1 => { i with array := i.array - n, compute := i.compute + n }
        | _ => { i with copy := i.copy - n, memory := i.memory + n })
      let touch := fun (g : Gang) => g.isOf (homeInst d slot) && g.stage == stage
      let s2 := if limited then { s1 with gangs := s1.gangs.map (fun g =>
          if touch g then { g with lanes := g.lanes.map (fun e => if nums.contains e.2.num then (e.1, e.2.charge cls n) else e) } else g) } else s1
      if !i.accounts then s2
      else if decide (0 < i.account cls) && decide (i.account cls - (n : Int) ≤ 0) then
        s2.strike d slot cls ⟨codeOverissue + cls, BitVec.ofNat 64 cls, 0#64⟩ noTask
      else if limited then
        match ((s.gangs.filter touch).flatMap (fun g => g.lanes)).find? (fun e =>
            nums.contains e.2.num && decide (0 < e.2.account cls) && decide (e.2.account cls - (n : Int) ≤ 0)) with
        | some e => s2.strike d slot cls ⟨codeOverissue + cls, BitVec.ofNat 64 (cls + 4 + e.2.num * 2 ^ 32), 0#64⟩ e.2.num stage
        | none => s2
      else s2

/-! ## References (R179) -/

/-- The operand nodes of a node. -/
def NodeOp.operands : NodeOp → List Nat
  | .mul a b _ _ _ | .ew _ a b _ => [a, b]
  | .tri a _ _ _ | .scl a _ | .trn a | .cvt a _ _ _ | .act a _ => [a]
  | .leaf _ _ _ _ | .const _ _ _ | .mat => []

/-- The nodes that an effect names. -/
def Eff.nodes : Eff → List Nat
  | .macc n _ _ _ _ => [n]
  | .cpy _ _ n _ _ => if n = 0 then [] else [n]
  | _ => []

/-- The nodes that a gang references: its node registers, those of its anchor, its open flight's appends
and what it holds. -/
def Gang.nodeRefs (g : Gang) : List Nat :=
  (g.arch.n ++ g.anchor.n).map (·.2) ++ g.appends ++ g.held.flatMap (·.eff.nodes)

/-- All that references nodes of a core. -/
def State.nodeRoots (s : State) (d core : Nat) : List Nat :=
  let c := s.core d core
  ((s.gangs ++ (s.cur.map (·.gang)).toList).filter fun g => g.die == d && g.core == core).flatMap (·.nodeRefs)
  ++ (s.drain.filter fun o => o.who.die == d && o.who.core == core).flatMap (fun o => match o.cargo with
      | .eff e => e.nodes
      | _ => [])
  ++ c.queues.flatMap (fun e => e.2.filterMap fun q => match q with
      | .copy _ _ n _ _ => if n = 0 then none else some n
      | _ => none)
  ++ c.evals.flatMap (fun v => v.node :: v.pnodes.flatMap fun p => (p.outs ++ p.also).map (·.1))

/-- The nodes reached from a list through operands. -/
def reach (nodes : List (Nat × Node)) : Nat → List Nat → List Nat → List Nat
  | 0, _, seen => seen
  | _ + 1, [], seen => seen
  | n + 1, i :: todo, seen =>
    if seen.contains i then reach nodes n todo seen
    else reach nodes n (((look? nodes i).map (·.op.operands)).getD [] ++ todo) (i :: seen)

/-- Delete the nodes of a core that nothing references (R179). -/
def State.sweep (s : State) (d core : Nat) : State :=
  let roots := s.nodeRoots d core
  let live := reach (s.core d core).nodes (roots.length + 3 * (s.core d core).nodes.length + 1) roots []
  s.onCore d core fun c => { c with nodes := c.nodes.filter fun e => live.contains e.1 }

/-! ## Taking an exception -/

/-- The tasks of a gang, by number. -/
def Gang.taskNums (g : Gang) : List Nat := g.lanes.map (·.2.num)

def Gang.who (g : Gang) : Who :=
  { die := g.die, core := g.core, inst := g.inst, ctx := g.ctx, root := g.root, stage := g.stage, tasks := g.taskNums,
    lanes := g.lanes.map (·.1), flight := g.flight, handler := g.handler }

/-- A gang leaves its port as a record: its registers and slots are free (R124, R129). While its evaluations run its anchor stays
where it lies; a record that is in the spill area stays there. -/
def Gang.leavePort (g : Gang) : Gang :=
  { g with
    place := (match g.place with
      | .spill a => .spill a
      | _ => .landing)
    granted := 0, pair := none, anchorAt := if g.phase == .ending || g.paused.isSome then g.anchorAt else none
    ran := (match g.place with
      | .port p => p :: g.pair.toList
      | _ => g.ran) }

/-- Park a gang on its anchor until a service is done, to replay the flight then (R131, R289). -/
def State.parkForService (s : State) (gid : Nat) (f : FaultInfo) : State :=
  match s.gang? gid with
  | none => s
  | some g =>
    let s1 := s.discard gid
    let (tag, s2) := s1.request g.die 1 g.ctx (BitVec.ofNat 64 (field f.info 0 56)) f.info (some (.gang gid))
    s2.onGang gid (fun g => { g.leavePort with phase := .parked, wakeKind := 9, wakeOp := BitVec.ofNat 64 f.code,
                                               wakeOp2 := BitVec.ofNat 64 tag, woken := false, ackScope := 0, slack := s2.slackOf g })

/-- Contain a cohort (R244): stop the gangs of an instance and stage on a cluster, discard their flights,
take their tasks from their groups, which fail (R245), and dispatch them again from their retained
records, or end them with one POISON record, which follows their committed effects (R289) and names the append site of a
poisoned leaf (R220). A join of one of them that is still on its way counts as membership and is dropped. Waiting members of the
groups stay, to be contained as members of a FAILED group (R245; DEDUCED, log 61). Answers the groups that failed. -/
def State.containCohort (s : State) (d slot stage cluster : Nat) (f : FaultInfo) (site : DWord) (siteIdx : Nat) : State × List DWord :=
  let x := s.die d
  let cohort := s.gangs.filter (fun g => g.die == d && g.inst == slot && g.stage == stage && g.ctx != firmware && x.cluster g.core == cluster)
  let tasks := cohort.flatMap (fun g => g.lanes.map (·.2))
  let ours := fun (w : Who) (lane : Nat) => w.die == d && w.inst == slot && w.stage == stage &&
    (w.lanes.zip w.tasks).any fun e => e.1 == lane && tasks.any fun t => t.num == e.2
  let coming := s.drain.flatMap fun o => match o.cargo with
    | .eff (.gjoin ps) => ps.filter fun e => ours o.who e.1
    | _ => []
  let ids := ((tasks.flatMap fun t => s.groupsWith d ⟨slot, stage, t.num⟩) ++ coming.map (·.2)).eraseDups
  let s1 := cohort.foldl (fun s g => s.discard g.gid) s
  let s2 := cohort.foldl (fun s g => s.dropGang g.gid) s1
  let gathered := ((x.cores.filter (fun e => x.cluster e.1 == cluster)).flatMap (fun e =>
    (e.2.gathers.filter (fun q => q.inst == slot && q.stage == stage)).flatMap (·.recs)))
  let s3 := s2.onDie d (fun x => { x with cores := x.cores.map (fun e =>
    if x.cluster e.1 == cluster then (e.1, { e.2 with gathers := e.2.gathers.filter (fun q => !(q.inst == slot && q.stage == stage)) }) else e) })
  let s3 := { s3 with drain := s3.drain.map fun o => match o.cargo with
    | .eff (.gjoin ps) => { o with cargo := .eff (.gjoin (ps.filter fun e => !ours o.who e.1)) }
    | _ => o }
  let s3 := (x.cores.filter fun e => x.cluster e.1 == cluster).foldl (fun (s : State) e => s.sweep d e.1) s3
  let s4 := ids.foldl (fun s id => match s.group? id with
    | some g => s.setGroup id { g with failed := true }
    | none => s) s3
  let s5 := tasks.foldl (fun (s : State) t => (s.groupsWith d ⟨slot, stage, t.num⟩).foldl (fun (s : State) id => s.leave id ⟨slot, stage, t.num⟩) s) s4
  match s.inst? d slot with
  | none => (s5, ids)
  | some i =>
    let idem := ((i.stages[stage]?).map (fun st => st.flags.getLsbD 1)).getD false
    let nums := tasks.map (·.num) ++ gathered.map (·.1)
    if idem then
      (s5.onInst d slot (fun i =>
        let back := (i.retained.filter (fun e => e.1.1 == stage && nums.contains e.1.2)).map (fun e => { e.2 with num := some e.1.2, avoid := if slot < 1024 then some cluster else none })
        { i with queues := alter [] i.queues stage (fun q => back ++ q), inflight := alter 0 i.inflight stage (· - nums.length) }), ids)
    else
      let s6 := s5.onInst d slot (fun i =>
        let j := { i with inflight := alter 0 i.inflight stage (· - nums.length) }
        (tasks.map (·.trap) ++ gathered.map (·.2.trap)).foldl (fun (j : Inst) t => if t then j.trapDone else j) j)
      let (a, s7) := s6.taskList d i.ctx nums
      let low := nums.foldl min noTask
      (s7.reportList d slot i.ctx (stage == i.handler) 0 f
        (recordWords f 3 stage slot low 0#32 0#32 0#64 site siteIdx 0 0 (BitVec.ofNat 64 (a.getD 0)) nums.length) a
        (s.effectsOf fun w => w.isOf (homeInst d slot) && w.stage == stage), ids)

/-- FAULTINFO of a check of an identifier or control operand: form 3 of R157. -/
def form3 (reason : Nat) (id : DWord) : DWord := BitVec.ofNat 64 (3 * 2 ^ 62 + reason * 2 ^ 58 + field id 0 40)

/-- FAULTINFO of an access: forms 0 to 2 of R157. -/
def accessInfo (form : Nat) (st : Bool) (lane : Nat) (a : DWord) : DWord :=
  BitVec.ofNat 64 (form * 2 ^ 62 + bit st * 2 ^ 61 + lane % 32 * 2 ^ 56 + field a 0 56)

/-- Contain a cohort, count it against the core, and contain in turn the cohorts of the members that wait
on a group that failed, each against its own core (R244 to R246; DESIGN CHOICE, log 63). Each is told to the control core, and the second on a core asks for its scan (R292,
R295); an event's address is the logical core number (DEDUCED, log 84). The depth is that of a chain of groups, at most the number of gangs. -/
def State.contain (s : State) (n d slot stage core : Nat) (f : FaultInfo) (site : DWord := 0#64) (siteIdx : Nat := 0) : State :=
  match n with
  | 0 => s
  | n + 1 =>
    let ctx := ((s.inst? d slot).map (·.ctx)).getD 0
    let (s1, ids) := s.containCohort d slot stage ((s.die d).cluster core) f site siteIdx
    let s2 := s1.onCore d core (fun c => { c with contain := c.contain + 1 })
    let s3 := (s2.request d 3 ctx (BitVec.ofNat 64 core) f.info none).2
    let s4 := if (s3.core d core).contain = 2 then (s3.request d 4 0 (BitVec.ofNat 64 core) 0#64 none).2 else s3
    ids.foldl (fun (s : State) id =>
      (s.gangs.filter (fun g => g.phase == .parked && g.wakeKind == 5 && g.wakeOp == id && !g.woken)).foldl
        (fun (s : State) g => if (s.gang? g.gid).isSome then s.contain n g.die g.inst g.stage g.core ⟨codePoison, form3 8 id, 0#64⟩ else s) s) s4

/-- Contain a gang's cohort. -/
def State.containGang (s : State) (g : Gang) (f : FaultInfo) (site : DWord := 0#64) (siteIdx : Nat := 0) : State :=
  s.contain (s.gangs.length + 2) g.die g.inst g.stage g.core f site siteIdx

/-- The number of the task in the lowest of a gang's occupied lanes (R290). -/
def Gang.lowTask (g : Gang) : Nat := ((g.anchor.occupied.findSome? fun l => look? g.lanes l).map (·.num)).getD noTask

/-- A fault of the control core's own flight: the flight is discarded and the gang runs the firmware's
handler at CCVEC, FAULTCODE, FAULTINFO, FAULTPC and CCEPC set; a second fault before ERET resets the
control core and reports it (R293; DEDUCED, log 11). -/
def State.firmwareFault (s : State) (gid : Nat) (f : FaultInfo) : State :=
  match s.gang? gid with
  | none => s
  | some g =>
    let s1 := s.discard gid
    if g.handler then
      (s1.dropGang gid).onDie g.die (fun x => { x with ccReset := x.ccReset + 1, ccFault := f })
    else
      (s1.onDie g.die (fun x => { x.setSysreg 0x107 g.anchor.pc with ccFault := f })).onGang gid (fun h =>
        { h with handler := true, arch := { h.arch with pc := (s.die g.die).sysreg 0x106 } })

/-- A flight-class fault: every occupied lane of the gang ends as if retired at the anchor, committed
effects stand, and one record goes to the handler (R289). -/
def State.endFlight (s : State) (gid : Nat) (f : FaultInfo) (site : DWord) (siteIdx : Nat) : State :=
  match s.gang? gid with
  | none => s
  | some g =>
    let s1 := s.discard gid
    let words := recordWords f 0 g.stage g.inst g.lowTask g.anchor.occ g.anchor.exec g.anchor.flightid site siteIdx 0 0 0#64 (s.dtc g.die % 2 ^ 32)
    (s1.retire gid 0xFFFFFFFF#32).report g.die g.inst g.ctx g.handler g.root f words

/-- Take a fault of a gang's flight, by its class (R131, R288, R289): firmware's own handler; a page to be
serviced and the flight replayed; containment of the cohort that consumed poison; else delivery. -/
def State.takeFault (s : State) (gid : Nat) (f : FaultInfo) (consumed : Bool) (site : DWord) (siteIdx : Nat) : State :=
  match s.gang? gid with
  | none => s
  | some g =>
    if g.ctx = firmware then s.firmwareFault gid f
    else if f.code = codePage then s.parkForService gid f
    else if (f.code = codePoison && consumed) || f.code = codePairnomaj then
      (s.discard gid).containGang g f site siteIdx
    else s.endFlight gid f site siteIdx

/-- Put the issuing gang back among the others: its port's clause is over. -/
def State.yieldPort (s : State) (r : Running) : State := { s with cur := none, gangs := s.gangs ++ [r.gang] }

/-- Charge a clause's cycles to the issue budget, those of every run of a paired flight (R140, R145, R269). -/
def State.chargeClause (s : State) (r : Running) : State :=
  if r.gang.ctx = firmware then s
  else
    s.charge r.gang.die r.gang.inst r.gang.stage 0 r.gang.taskNums (r.cl.cycles + r.cl.cycles2)

/-- Let the clause stand at the instruction that issues, which waits: the cycles so far are charged, and the clause
goes on at this instruction when what it waits for is there. `lines` are lines of other dies' memory (R307; DESIGN
CHOICE, log 50), `loads` earlier loads of the flight (R56, R313). -/
def State.pause (s : State) (r : Running) (lines : List Nat) (loads : List Nat := []) : State :=
  let g := { r.gang with paused := some { r.cl with cycles := 0, cycles2 := 0, cycles3 := 0 }, wants := lines, waitsFor := loads }
  (s.yieldPort { r with gang := { g with spent := g.spent + r.cl.cycles, spent2 := g.spent2 + r.cl.cycles2, spent3 := g.spent3 + r.cl.cycles3 } }).chargeClause r

/-- Taking an exception at the instruction that issues: the clause's earlier instructions are charged,
issue stops, FAULTPC is the instruction's address, and the fault acts on the gang (R37, R131, R140). -/
def State.raiseAt (s : State) (r : Running) (code : Nat) (info : DWord) (consumed : Bool) : State :=
  let pc := r.cl.addr + BitVec.ofNat 64 (4 * r.cl.idx)
  ((s.yieldPort r).chargeClause r).takeFault r.gang.gid ⟨code, info, pc⟩ consumed 0#64 0

def State.raise (s : State) (r : Running) (code : Nat) (info : DWord) : Res := .next (s.raiseAt r code info false)

/-- POISON of a flight that consumed poison: its cohort is contained (R146, R244). -/
def State.raisePoison (s : State) (r : Running) (info : DWord) : Res := .next (s.raiseAt r codePoison info true)

/-- A read at issue that fails: where it consumes poison, its cohort is contained (R157, R244). -/
def State.raiseRead (s : State) (r : Running) (code : Nat) (info : DWord) : Res := .next (s.raiseAt r code info (code == codePoison))

/-- FAULTINFO of an instruction fault: word index in [3:0], reason in [7:4] (R38, R57). -/
def insInfo (r : Running) (reason : Nat) : DWord := BitVec.ofNat 64 (r.cl.idx % 16 + reason * 16)

/-- ILLINS with a reason (R38). -/
def State.illins (s : State) (r : Running) (reason : Nat) : Res := s.raise r codeIllins (insInfo r reason)

/-- The return from the firmware's fault handler: the handler's flight is committed and the gang's
registers, masks and pc come back from the anchor, so that the faulted flight replays (R293). -/
def Gang.fromHandler (g : Gang) : Gang := { g with handler := false, arch := g.anchor, phase := .run }

/-! ## Instructions acting for the gang that issues -/

/-- A meaning of an instruction: it acts for the gang on the port that issues. -/
def State.issue (s : State) (f : Running → Res) : Res :=
  match s.cur with
  | some r => f r
  | none => .fault .noGang

/-- The next state with the issuing gang's registers changed. -/
def State.setArch (s : State) (r : Running) (a : Arch) : State := { s with cur := some { r with gang := { r.gang with arch := a } } }
def State.setRun (s : State) (r : Running) : State := { s with cur := some r }

/-- The registers an instruction names (R55, R124): vector and scalar registers read and written, with the
lanes and slices in which it reads. -/
structure Uses where
  vr : List Nat := []
  vw : List Nat := []
  sr : List Nat := []
  sw : List Nat := []
  lanes : List Nat := []
  slices : List Nat := []

/-- Whether a register is pending: file 0 vector, 1 scalar (R55). -/
def Gang.pending (g : Gang) (file reg : Nat) : Bool :=
  g.pend.any (fun p => p.file == file && decide (p.reg ≤ reg) && decide (reg < p.reg + p.cnt))

/-- The first poison mark that an instruction reads: the lane it is in and the address it came from; the
lowest lane first, a slice's scalar in its first lane (R153, R157). -/
def Arch.poisonRead (a : Arch) (u : Uses) : Option (Nat × DWord) :=
  let vs := u.lanes.flatMap (fun l => u.vr.filterMap (fun r => (look? a.poison (r * 32 + l)).map (fun x => (l, x))))
  let ss := u.slices.flatMap (fun k => u.sr.filterMap (fun r => (look? a.poison (2048 + k * 32 + r)).map (fun x => (4 * k, x))))
  (vs ++ ss).foldl (fun (m : Option (Nat × DWord)) e => if m.all fun b => decide (e.1 < b.1) then some e else m) none

/-- The vector registers of a gang's stage (R124). -/
def State.regLimit (s : State) (g : Gang) : Nat := if g.ctx = firmware then 64 else ((s.stage? g).map (·.regs)).getD 64

/-- The checks of an instruction's registers, in the order of R37: a vector register beyond the stage's is
ILLINS reason 3 (R124), a pending register is PENDUSE (R55), a marked register that is read is POISON
(R153). With several pending registers, which one is reported is open. -/
def State.checked (s : State) (r : Running) (u : Uses) (k : Res) : Res :=
  if (u.vr ++ u.vw).any (fun v => decide (s.regLimit r.gang ≤ v)) then s.illins r 3
  else
    let bad := ((u.vr ++ u.vw).filter (r.gang.pending 0)).map (fun v => v) ++
               ((u.sr ++ u.sw).filter (fun v => v != 0 && r.gang.pending 1 v)).map (fun v => v + 256)
    match bad.eraseDups with
    | b :: bs =>
      let (i, t) := s.pick (bs.length + 1)
      t.raise r codePenduse (BitVec.ofNat 64 ((b :: bs).getD i b))
    | [] =>
      match r.gang.arch.poisonRead u with
      | some (l, x) => s.raisePoison r (accessInfo 0 false l x)
      | none => k

end Sys2Proof.Machine
end

