-- ==== Sys2Proof/Machine/Operands.lean ====
section
/-!
DEFINITION. Operand forms: scalar instructions that act per slice (R40), vector instructions that act per
active lane under a guard (R33, R81), predicate results, immediates, addresses relative to the clause
header (R42, R43), and the addresses of memory instructions (R154 to R158).
-/

namespace Sys2Proof.Machine

/-- Write a scalar in every executing slice from a function of the slice. -/
def Arch.mapSlices (a : Arch) (d : Nat) (f : Nat → DWord) : Arch := a.slicesList.foldl (fun b k => b.sset k d (f k)) a

/-- A scalar instruction: reads scalars and writes `d` in each executing slice (R40). -/
def State.scalarOp (s : State) (d : Nat) (srcs : List Nat) (f : Arch → Nat → DWord) : Res :=
  s.issue fun r =>
    s.checked r { sr := srcs, sw := [d], slices := r.gang.arch.slicesList }
      (.next (s.setArch r (r.gang.arch.mapSlices d (f r.gang.arch))))

/-- The form `sD, sA, sB` (R40). -/
def State.scalar2 (s : State) (d a b : BitVec 5) (f : DWord → DWord → DWord) : Res :=
  s.scalarOp d.toNat [a.toNat, b.toNat] fun x k => f (x.sget k a.toNat) (x.sget k b.toNat)

/-- The form `sD, sA` (R40). -/
def State.scalar1 (s : State) (d a : BitVec 5) (f : DWord → DWord) : Res :=
  s.scalarOp d.toNat [a.toNat] fun x k => f (x.sget k a.toNat)

/-- A signed immediate of 10 bits as a doubleword (R41). -/
def imm10 (i : BitVec 10) : DWord := i.signExtend 64

/-- The form `sD, sA, imm` with a signed immediate (R41). -/
def State.scalarImm (s : State) (d a : BitVec 5) (i : BitVec 10) (f : DWord → DWord → DWord) : Res :=
  s.scalar1 d a fun x => f x (imm10 i)

/-- `H + sext(off) * 4`, H the address of the clause header (R42, R43). -/
def headerPlus {n : Nat} (r : Running) (off : BitVec n) : DWord := r.cl.addr + off.signExtend 64 * 4#64

/-- The address of the next clause (R26). -/
def Clause.following (c : Clause) : DWord := c.addr + BitVec.ofNat 64 (4 * (c.count + 1))

/-- Write a vector register in the lanes of a list, from a function of the lane. -/
def Arch.mapLanes (a : Arch) (lanes : List Nat) (d : Nat) (f : Nat → Word) : Arch := lanes.foldl (fun b l => b.vset d l (f l)) a

/-- The slices that hold lanes of a list. -/
def slicesOf (lanes : List Nat) : List Nat := (lanes.map (· / 4)).eraseDups

/-- A vector instruction: reads vector registers and scalars and writes `d` in each active lane (R33). -/
def State.vectorOp (s : State) (d : Nat) (g : BitVec 3) (gn : BitVec 1) (vr sr : List Nat) (f : Arch → Nat → Word) : Res :=
  s.issue fun r =>
    let act := r.gang.arch.active g gn
    s.checked r { vr := vr, vw := [d], sr := sr, lanes := act, slices := slicesOf act }
      (.next (s.setArch r (r.gang.arch.mapLanes act d (f r.gang.arch))))

/-- The form `vD, vA, vB` under a guard (R81). -/
def State.vector2 (s : State) (d a b : BitVec 6) (g : BitVec 3) (gn : BitVec 1) (f : Word → Word → Word) : Res :=
  s.vectorOp d.toNat g gn [a.toNat, b.toNat] [] fun x l => f (x.vget a.toNat l) (x.vget b.toNat l)

/-- The form `vD, vA` under a guard (R82). -/
def State.vector1 (s : State) (d a : BitVec 6) (g : BitVec 3) (gn : BitVec 1) (f : Word → Word) : Res :=
  s.vectorOp d.toNat g gn [a.toNat] [] fun x l => f (x.vget a.toNat l)

/-- The form `vD, vA, vB` where vD is a source too (R81, R83). -/
def State.vector3 (s : State) (d a b : BitVec 6) (g : BitVec 3) (gn : BitVec 1) (f : Word → Word → Word → Word) : Res :=
  s.vectorOp d.toNat g gn [a.toNat, b.toNat, d.toNat] [] fun x l => f (x.vget a.toNat l) (x.vget b.toNat l) (x.vget d.toNat l)

/-- The form `vD, vA, imm` with a signed immediate and no guard (R85). -/
def State.vectorImm (s : State) (d a : BitVec 6) (i : BitVec 10) (f : Word → Word → Word) : Res :=
  s.vector1 d a 0#3 0#1 fun x => f x (i.signExtend 32)

/-- A compare into a predicate: bit l for each active lane, the other lanes kept (R87). -/
def State.predOp (s : State) (p : Nat) (vr sr : List Nat) (f : Arch → Nat → Bool) : Res :=
  s.issue fun r =>
    let act := r.gang.arch.active 0#3 0#1
    s.checked r { vr := vr, sr := sr, lanes := act, slices := slicesOf act }
      (.next (s.setArch r (r.gang.arch.pset p r.gang.arch.exec (maskOf fun l => act.contains l && f r.gang.arch l))))

/-- End the flight by the instruction's nature, with the wake kind and operands of R133. -/
def State.endBy (s : State) (r : Running) (kind : Nat) (op op2 : DWord) : State :=
  s.setRun { r with cl := { r.cl with ended := true }, gang := { r.gang with wakeKind := kind, wakeOp := op, wakeOp2 := op2 } }

/-- The next address of each executing slice (R43, R45). -/
def State.goTo (s : State) (r : Running) (f : Nat → DWord) : State :=
  s.setRun { r with cl := { r.cl with next := r.gang.arch.slicesList.map fun k => (k, f k) } }

/-- The lowest executing slice whose exec-mask part is not 0000 (R161, R178). -/
def Arch.first? (a : Arch) : Option Nat := a.acting.head?

/-- The address of the instruction that issues. -/
def Running.pc (r : Running) : DWord := r.cl.addr + BitVec.ofNat 64 (4 * r.cl.idx)

/-- Add a held effect under a number, in program order, with the buffer entries it takes (R127, R128). -/
def Running.hold (r : Running) (seq entries : Nat) (e : Eff) : Running :=
  { r with gang := { r.gang with held := r.gang.held ++ [⟨seq, r.pc, r.cl.idx, entries, e⟩] } }

/-- Add a pending-list entry (R55, R132): file, first register, how many, the lanes of the parts it
waits for, and how many other answers. Answers that are known already are in `vals`. A result for s0 is
discarded and marks nothing. -/
def Running.pend (r : Running) (tag file reg cnt : Nat) (lanes : List Nat) (left : Nat) (vals : List Deliv) : Running :=
  if file = 1 && reg = 0 then r
  else { r with gang := { r.gang with pend := r.gang.pend ++ [⟨tag, file, reg, cnt, lanes, left, vals⟩] } }

/-- Hold an effect and go on. -/
def State.holding (s : State) (r : Running) (entries : Nat) (e : Eff) : State :=
  let (n, t) := s.fresh
  t.setRun (r.hold n entries e)

/-- A scalar result for every executing slice. -/
def Arch.scalarDeliv (a : Arch) (d : Nat) (x : DWord) : List Deliv := a.slicesList.map fun k => ⟨false, k * 32 + d, x, none⟩

end Sys2Proof.Machine
end

