-- ==== Sys2Proof/Machine/Control.lean ====
section
/-!
DEFINITION. Branches, calls, rendezvous and masks: majors 0x06 and 0x07 (R43 to R50).
-/

namespace Sys2Proof.Machine

/-- A branch: each executing slice goes to T where its condition holds, else to the next clause (R43). -/
def State.branch (s : State) (srcs : List Nat) (o : BitVec 18) (c : Arch → Nat → Bool) : Res :=
  s.issue fun r =>
    s.checked r { sr := srcs, slices := r.gang.arch.slicesList }
      (.next (s.goTo r fun k => if c r.gang.arch k then headerPlus r o else r.cl.following))

def execBra (o : BitVec 18) (s : State) : Res := s.branch [] o fun _ _ => true
def execBz (x : BitVec 5) (o : BitVec 18) (s : State) : Res := s.branch [x.toNat] o fun a k => a.sget k x.toNat == 0#64
def execBnz (x : BitVec 5) (o : BitVec 18) (s : State) : Res := s.branch [x.toNat] o fun a k => a.sget k x.toNat != 0#64
def execBmz (o : BitVec 18) (s : State) : Res := s.branch [] o fun a k => a.part k == 0#4
def execBmnz (o : BitVec 18) (s : State) : Res := s.branch [] o fun a k => a.part k != 0#4
def execBlt (x : BitVec 5) (o : BitVec 18) (s : State) : Res := s.branch [x.toNat] o fun a k => (a.sget k x.toNat).slt 0#64

/-- The push of CALL and CALLR on each executing slice's return stack (R44). -/
def Arch.pushReturn (a : Arch) (back : DWord) : Arch :=
  a.slicesList.foldl (fun b k => { b with rstack := put 0#64 b.rstack (k * 16 + a.depth) back }) { a with depth := a.depth + 1 }

/-- Call with the next address of each slice (R44). -/
def State.callTo (s : State) (r : Running) (f : Nat → DWord) : Res :=
  if r.gang.arch.depth = 16 then s.illins r 5
  else .next (s.goTo { r with gang := { r.gang with arch := r.gang.arch.pushReturn r.cl.following } } f)

def execCall (o : BitVec 18) (s : State) : Res := s.issue fun r => s.callTo r fun _ => headerPlus r o

/-- MISALIGN for a register target whose bits [1:0] are not zero, of the lowest such slice (R44, R57; DESIGN CHOICE,
log 68: the spec does not say whose bits are reported). -/
def State.aligned (s : State) (r : Running) (a : Nat) (k : Res) : Res :=
  match (r.gang.arch.slicesList.map fun j => field (r.gang.arch.sget j a) 0 2).find? (· != 0) with
  | some low => s.raise r codeMisalign (BitVec.ofNat 64 low)
  | none => k

def execJmp (a : BitVec 5) (s : State) : Res :=
  s.issue fun r =>
    s.checked r { sr := [a.toNat], slices := r.gang.arch.slicesList }
      (s.aligned r a.toNat (.next (s.goTo r fun k => r.gang.arch.sget k a.toNat)))

def execCallr (a : BitVec 5) (s : State) : Res :=
  s.issue fun r =>
    s.checked r { sr := [a.toNat], slices := r.gang.arch.slicesList }
      (if r.gang.arch.depth = 16 then s.illins r 5
       else s.aligned r a.toNat (s.callTo r fun k => r.gang.arch.sget k a.toNat))

/-- Pops the return stack and continues there (R44). -/
def execRet (s : State) : Res :=
  s.issue fun r =>
    let a := r.gang.arch
    if a.depth = 0 then s.illins r 6
    else .next (s.goTo { r with gang := { r.gang with arch := { a with depth := a.depth - 1 } } }
      fun k => look 0#64 a.rstack (k * 16 + (a.depth - 1)))

/-- The slice set W of a rendezvous: the top of the split stack, less the slices with no task (R47). -/
def Arch.rendezvous (a : Arch) : Option Byte :=
  match a.slicesList.head? with
  | some k => (look [] a.split k).head?
  | none => none

/-- REGANG ends the flight; its arrival is made at the commit (R47). -/
def execRegang (t : BitVec 12) (s : State) : Res :=
  s.issue fun r => .next (s.endBy r 3 r.cl.addr (t.setWidth 64))

/-- Saves the exec mask in S[d] and narrows it by a predicate (R49). -/
def execMpush (d : BitVec 5) (k : BitVec 7) (s : State) : Res :=
  s.issue fun r =>
    s.checked r { sw := [d.toNat] }
      (let a := r.gang.arch
       .next (s.setArch r { a.mapSlices d.toNat (fun _ => zext64 a.exec) with exec := a.exec &&& a.pmask k.toNat }))

/-- Set every executing slice's exec-mask part from a function of its scalar (R49). -/
def State.setMask (s : State) (a : Nat) (f : Word → Word → Word) : Res :=
  s.issue fun r =>
    s.checked r { sr := [a], slices := r.gang.arch.slicesList }
      (let x := r.gang.arch
       .next (s.setArch r { x with exec := x.slicesList.foldl (fun m k =>
          setPart m k (((f ((x.sget k a).setWidth 32) x.exec) &&& x.occ).extractLsb' (4 * k) 4)) x.exec }))

def execMpop (a : BitVec 5) (s : State) : Res := s.setMask a.toNat fun w _ => w
def execMelse (a : BitVec 5) (s : State) : Res := s.setMask a.toNat fun w e => w &&& ~~~e
def execMset (a : BitVec 5) (s : State) : Res := s.setMask a.toNat fun w _ => w

/-- Reads the exec mask, zero-extended (R49). -/
def execMget (d : BitVec 5) (s : State) : Res :=
  s.scalarOp d.toNat [] fun a _ => zext64 a.exec

/-- ALLON ends the flight; the rendezvous of the whole gang is made at the commit (R50). -/
def execAllon (d : BitVec 5) (s : State) : Res :=
  s.issue fun r =>
    s.checked r { sw := [d.toNat] }
      (.next (s.endBy { r with gang := { r.gang with allonD := d.toNat } } 4 r.cl.addr 0#64))

/-- Restores the mask and clears the bracket mark (R50). -/
def execAlloff (a : BitVec 5) (s : State) : Res :=
  s.issue fun r =>
    s.checked r { sr := [a.toNat], slices := r.gang.arch.slicesList }
      (let x := r.gang.arch
       .next (s.setArch r { x with
         bracket := false
         exec := x.slicesList.foldl (fun m k => setPart m k ((((x.sget k a.toNat).setWidth 32) &&& x.occ).extractLsb' (4 * k) 4)) x.exec }))

end Sys2Proof.Machine
end

