-- ==== Sys2Proof/Machine/Access.lean ====
section
/-!
DEFINITION. Accesses of a flight: alignment, decoding and translation of their parts, load requests per
64-byte line, what an access must wait for, and forwarding from held stores (R56, R148, R149, R152, R153).
-/

namespace Sys2Proof.Machine

/-- The kind of permission an access needs (R286): 0 read, 1 write, 3 read and write. -/
def AccKind.needs : AccKind → Nat
  | .load _ _ => 0
  | .store => 1
  | .atomic => 3
  | .watch => 0

/-- How far the placing of an access came: done, at a page that is not in the TLBs, or at a fault. -/
inductive Progress where
  | done
  | miss (page : Nat)
  | bad (code form : Nat) (p : APart)
  deriving DecidableEq, Repr

/-- Place parts in lane order, up to the first miss or fault (R149). -/
def State.placeParts (s : State) (g : Gang) (kind : Nat) : List APart → List APart × Progress
  | [] => ([], .done)
  | p :: t =>
    match p.loc with
    | some _ => let (t', r) := s.placeParts g kind t; (p :: t', r)
    | none =>
      match s.find g.die g.core g.inst g.ctx p.va kind with
      | .at_ l tso => let (t', r) := s.placeParts g kind t; ({ p with loc := some l, tso := tso } :: t', r)
      | .miss v => (p :: t, .miss v)
      | .bad c f => (p :: t, .bad c f p)

/-- The lanes to which a loaded part is delivered; a slice's scalar counts as its first lane. -/
def Dest.lanes (d : Dest) : List Nat := (d.keys.map fun k => if d.vec then k % 32 else k / 32 * 4).eraseDups

/-- The four lanes of the slices of some lanes. -/
def sliceLanes (ls : List Nat) : List Nat := (ls.flatMap fun l => (List.range 4).map (l / 4 * 4 + ·)).eraseDups

/-- The lanes for which a loaded part acts: a slice's scalar for its four lanes (R149). -/
def Dest.actors (d : Dest) : List Nat := if d.vec then d.lanes else sliceLanes d.lanes

/-- The lanes for which a store or an atomic acts (R149). -/
def Access.actors (a : Access) : List Nat :=
  let ls := a.parts.map (·.lane)
  if a.wide then sliceLanes ls else ls

/-- Whether two lists of lanes meet. -/
def meet (a b : List Nat) : Bool := a.any b.contains

/-- The numbers of committed effects of the same tasks that are still on their way (R56 item 4). -/
def State.behind (s : State) (g : Gang) : List Nat :=
  (s.drain.filter fun o => o.who.root == g.root && meet o.who.lanes (g.lanes.map (·.1))).flatMap (·.effs)

/-- The lines of the placed parts of an access. -/
def Access.lines (a : Access) : List Loc := (a.parts.filterMap fun p => p.loc.map Loc.line).eraseDups

/-- The access of the flight under a number. -/
def Gang.acc? (g : Gang) (id : Nat) : Option Access := g.accs.find? fun a => a.id == id

/-- The lines that a held store or atomic touches; none while its parts are not placed. -/
def Gang.heldLines (g : Gang) (e : Eff) : Option (List Loc) :=
  match e with
  | .store acc _ | .atomic _ _ _ acc _ _ => (g.acc? acc).bind fun a => if a.ready then some a.lines else none
  | _ => some []

/-- Whether a load request touches a TSO page (R313). -/
def Req.tso (q : Req) : Bool := q.parts.any (·.1.tso)

/-- What a load of a line must wait for: earlier flights' effects, earlier accesses not yet placed, earlier
loads of the line, and earlier atomics of the flight on it (R56) (DEDUCED, log 44). A load of a TSO page waits for all earlier
loads, and every load for earlier loads and atomics of TSO pages (R313). -/
def State.loadAfter (s : State) (g : Gang) (id : Nat) (line : Loc) (tso : Bool) : List Nat :=
  s.behind g
  ++ (g.accs.filter fun a => decide (a.id < id) && !a.ready).map (·.id)
  ++ (g.reqs.filter fun q => decide (q.acc < id) && (q.line == line || tso || q.tso)).map (·.acc)
  ++ (g.held.filter fun h => decide (h.seq < id) && (match h.eff with
      | .atomic _ _ _ acc _ _ => ((g.heldLines h.eff).map (·.contains line)).getD true || ((g.acc? acc).map fun a => a.parts.any (·.tso)).getD false
      | _ => false)).map (·.seq)

/-- Whether the effect, access or request under a number is still to be performed. -/
def State.outstanding (s : State) (n : Nat) : Bool :=
  s.drain.any (fun o => o.effs.contains n) ||
  (s.gangs ++ (s.cur.map (·.gang)).toList).any (fun g =>
    g.accs.any (fun a => a.id == n && !a.ready) || g.reqs.any (fun q => q.acc == n) || g.held.any (fun h => h.seq == n))

/-- Whether an effect waits for its context to be resumed (R277, R320; DESIGN CHOICE, log 21). -/
def State.asleep (s : State) (o : Out) : Bool := (s.ctx o.who.ctx).run == 3

/-- Whether an effect, access or request is over for what belongs to a context: performed, or asleep with another context, which
nobody waits for. -/
def State.over (s : State) (ctx n : Nat) : Bool :=
  !s.outstanding n || s.drain.any fun o => o.effs.contains n && o.who.ctx != ctx && s.asleep o

/-- Whether an act is on a core: its own scratchpad or accumulators. -/
def Act.isLocal (core : Nat) (a : Act) : Bool :=
  match a.loc with
  | .scratch c _ => c == core
  | .acc _ => true
  | _ => false

/-- Whether an effect is on its own core's scratchpad and accumulators. -/
def Out.onCore (o : Out) : Bool := !o.acts.isEmpty && o.acts.all (·.isLocal o.who.core)

/-- Whether two effects go into one copy queue, or into one replay window (R168, R268). -/
def Out.sameQueue (o p : Out) : Bool :=
  o.who.die == p.who.die && o.who.core == p.who.core && (match o.cargo, p.cargo with
    | .eff (.cpy q _ _ _ _), .eff (.cpy r _ _ _ _) => q == r
    | .eff (.enq i _), .eff (.enq j _) => o.who.inst == p.who.inst && i == j
    | _, _ => false)

/-- Whether an enqueue or a copy command finds its window or its queue full, with those that enter before it (R168, R268). An empty one
takes what comes first, however many commands one flight has. The commands of a context that is switched out are in its save area, and
nothing of it enters (R320). -/
def State.full (s : State) (o : Out) : Bool :=
  let held := match o.cargo with
    | .eff (.cpy q _ _ _ _) =>
      ((s.core o.who.die o.who.core).queues.filter fun e => e.1 % 5 == q).foldl (fun n e => n + (e.2.filter fun c => match c with
        | .copy _ _ _ w _ => (s.ctx w.ctx).run != 3
        | _ => false).length) 0
    | .eff (.enq stage _) => ((s.die (homeInst o.who.die o.who.inst).1).windows.filter fun w =>
        w.src == .core o.who.die o.who.core && w.inst == (homeInst o.who.die o.who.inst).2 && w.stage == stage).foldl (fun n w => n + w.entries.length) 0
    | _ => 0
  (match o.cargo with
    | .eff (.cpy _ _ _ _ _) | .eff (.enq _ _) => s.asleep o
    | _ => false)
  || (decide (0 < held) && decide (64 ≤ held + (s.drain.filter fun p => decide (p.id < o.id) && p.sameQueue o && !s.asleep p).length))

/-- The number in its flight's stream before which nothing may meet a full queue for an effect to leave: its own, and for one on the
core's own scratchpad that of the flight's last such effect, since all of them leave together (R169; DEDUCED, log 72). -/
def State.lastWith (s : State) (o : Out) : Nat :=
  if o.onCore then (s.drain.filter fun q => q.who.flight == o.who.flight && q.onCore).foldl (fun n q => q.effs.foldl max n) (o.effs.headD 0)
  else o.effs.headD 0

/-- Whether an earlier effect of the flight's stream holds back an effect (R168, R268). -/
def State.heldUp (s : State) (o : Out) : Bool :=
  o.who.flight != 0 && s.drain.any fun q => q.who.flight == o.who.flight && decide (q.effs.headD 0 < s.lastWith o) && s.full q

/-- The parts that are still to come of commits whose effects on a core's scratchpad and accumulators are performed in part: a read for
other tasks does not come between (R169). One that waits for room because its own flight alone has more commands than a queue holds is
not waited for (DEDUCED, log 72). -/
def State.halfOuts (s : State) (d core root : Nat) (lanes : List Nat) : List Out :=
  s.drain.filter fun o => o.who.die == d && o.who.core == core && !(o.who.root == root && meet o.who.lanes lanes)
    && !o.parts.isEmpty && !o.parts.any s.outstanding && !s.heldUp o && !s.asleep o

/-- Whether a core's scratchpad and accumulators show a commit in part (R169). -/
def State.halfDone (s : State) (d core root : Nat) (lanes : List Nat) : Bool := !(s.halfOuts d core root lanes).isEmpty

/-- The requests of a load whose parts are all placed, one for each line (R152). -/
def State.makeReqs (s : State) (g : Gang) (a : Access) : List Req × State :=
  match a.kind with
  | .load _ dests =>
    a.lines.foldl (fun (acc : List Req × State) line =>
      let (id, t) := acc.2.fresh
      let parts := (a.parts.zip dests).filter fun e => (e.1.loc.map Loc.line) == some line
      (acc.1 ++ [⟨id, a.id, line, parts, s.loadAfter g a.id line (parts.any (·.1.tso))⟩], t)) ([], s)
  | _ => ([], s)

/-- The pages of global memory that the placed parts of an access use. -/
def Access.pages (a : Access) : List Nat := (a.parts.filter fun p => p.loc.isSome && regionOf p.va == .global).map fun p => p.va.toNat / 4096

/-- Go on placing an access of a gang: the gang with what is placed, and its requests when all is. -/
def State.placeAccess (s : State) (g : Gang) (a : Access) : Gang × Progress × State :=
  let (parts, r) := s.placeParts g a.kind.needs a.parts
  let b := { a with parts := parts, ready := r == .done }
  let g1 := { g with accs := g.accs.map fun x => if x.id = a.id then b else x, used := (g.used ++ b.pages).eraseDups }
  if b.ready then
    let (qs, t) := s.makeReqs g1 b
    ({ g1 with reqs := g1.reqs ++ qs }, r, t)
  else (g1, r, s)

/-- FAULTINFO of a part's fault (R157). -/
def partInfo (kind : AccKind) (form : Nat) (p : APart) : DWord := accessInfo form (kind.needs != 0) p.lane p.va

/-- Issue an access: alignment in every lane, then decoding and translation in lane order (R149); a page
that misses is waited for, and the instruction goes on. -/
def State.startAccess (s : State) (r : Running) (a : Access) (k : State → Running → Res) : Res :=
  match a.parts.find? fun p => p.va.toNat % p.size != 0 with
  | some p => s.raise r codeMisalign (partInfo a.kind 0 p)
  | none =>
    let (g, pr, t) := s.placeAccess { r.gang with accs := r.gang.accs ++ [a] } a
    match pr with
    | .bad c f p => s.raise r c (partInfo a.kind f p)
    | _ => k t { r with gang := g }

/-- Bytes of a held store that fall in `n` bytes from a place, over what was there. -/
def overlayPart (bs : List Byte) (l : Loc) (w : Loc) (data : List Byte) : List Byte :=
  (bs.zip (List.range bs.length)).map fun e =>
    match (l.plus e.2).after w with
    | some i => data.getD i e.1
    | none => e.1

/-- What a committed flight's earlier stores gave at a place, the newest last, over memory's bytes `raw`; an earlier
atomic of the flight leaves memory's (R56 item 2). -/
def Gang.seenAfter (g : Gang) (before : Nat) (l : Loc) (raw : List Byte) : List Byte :=
  (g.fwd.filter fun f => decide (f.1 < before)).foldl (fun bs f =>
    (bs.zip (List.range bs.length)).map fun e =>
      match ((l.plus e.2).after f.2.1).bind fun i => f.2.2[i]? with
      | some (some b) => b
      | some none => raw.getD e.2 e.1
      | none => e.1) raw

/-- The bytes at a place as the gang sees them: memory's, over which lie the earlier stores of the
flight, the newest last (R56 item 2). -/
def Gang.seen (g : Gang) (before : Nat) (l : Loc) (raw : List Byte) : List Byte :=
  let bs := if g.fwd.isEmpty then raw else g.seenAfter before l raw
  (g.held.filter fun h => decide (h.seq < before)).foldl (fun bs h =>
    match h.eff with
    | .store acc data =>
      match g.acc? acc with
      | some a => (a.parts.zip data).foldl (fun bs e => match e.1.loc with
          | some w => if w.line == l.line || bs.length > 8 then overlayPart bs l w e.2 else bs
          | none => bs) bs
      | none => bs
    | _ => bs) bs

/-- What a read at issue gives: the bytes and whether they are poisoned, or a fault. -/
inductive Got where
  | bytes (bs : List Byte) (poisoned : Bool)
  | bad (code form : Nat)
  deriving DecidableEq, Repr

/-- Decode an address as an engine does, which walks where the TLBs miss (R167, R195). -/
def State.peek (s : State) (d c inst ctx : Nat) (a : DWord) (kind : Nat) : Found :=
  match s.find d c inst ctx a kind with
  | .miss _ => (s.findNow d c inst ctx a kind).1
  | f => f

/-- Bytes of a place; those of another package are free values (DESIGN CHOICE, log 14). -/
def State.readAt (s : State) (d inst : Nat) (l : Loc) (n : Nat) : List Byte × State :=
  match l with
  | .fabric p a => ((List.range n).map fun i => Config.fabricByte s.free p (a + i), { s with free := s.free + 1 })
  | _ => (s.readN d inst l n, s)

/-- Bytes at a context's address as it reads them: a line that was written under another owner's key does not give its
data: zero from the core's L1, the die's replica or the home's L2, and an open value from DRAM (R318; DESIGN CHOICE, log 53). Firmware reads
what is there; contexts from 128 on stand for the owner keys of the fabric's windows (R325). -/
def State.seal (s : State) (d c ctx : Nat) (va : Nat) (l : Loc) (bs : List Byte) : List Byte :=
  match l with
  | .phys pa =>
    if s.owners.isEmpty || ctx = firmware then bs
    else
      let mine := if 128 ≤ ctx then ctx - 128 else match s.tlb? d c ctx va with
        | some x => x.owner
        | none => match s.walk d ctx va with
          | .ok x => x.owner
          | _ => 64
      (bs.zip (List.range bs.length)).map fun e =>
        let line := (pa + e.2) / 64
        let tag := look 0 s.owners line
        if tag = 0 || tag = mine + 1 then e.1
        else if (s.core d ((s.die d).l1Core c line)).l1.contains line || (look? (s.die d).replicas line).isSome || (s.die (homeDie pa)).l2.contains line then 0#8
        else Config.foreignByte s.free (pa + e.2)
  | _ => bs

/-- The causal vector of what a line of host memory holds (DEDUCED, log 70). -/
def State.hostVec (s : State) (pa : Nat) : List Nat := (look? s.pkg.hostVecs (pa / 64)).getD [0, 0, 0, 0]

/-- Pin a scratchpad page that an access uses; its refill takes no time of its own here (R150; DEDUCED, log 38). -/
def State.pinFor (s : State) (d inst : Nat) (l : Loc) : State :=
  match l with
  | .scratch core off => if s.pinned d inst l then s else s.onInst d inst fun i => { i with pinned := (coreOf d inst core * 128 + off / 4096) :: i.pinned }
  | _ => s

/-- Whether another package performs a read at issue of its memory: it does, it refuses it, or does not answer in time, which here is open
(R325, R329; DESIGN CHOICE, log 14). The form of its fault otherwise. -/
def State.fabricRead (s : State) (l : Loc) : Option Nat × State :=
  match l with
  | .fabric _ _ =>
    let (i, t) := s.pick 3
    (if i = 0 then none else some (i - 1), t)
  | _ => (none, s)

/-- Read bytes at an aligned address for the gang at issue, walking at once where the TLBs miss, as CPY,
ENQ, DEPARM and TNDEF do (R128, R165, R175, R271). -/
def State.readNow (s : State) (r : Running) (a : DWord) (n : Nat) : Got × State × Running :=
  let g := r.gang
  match s.findNow g.die g.core g.inst g.ctx a 0 with
  | (.at_ l _, t) =>
    match t.fabricRead l with
    | (some form, t) => (.bad codeProt form, t, r)
    | (none, t) =>
    let (raw, t) := (t.pinFor g.die g.inst l).readAt g.die g.inst l n
    (.bytes (g.seen t.nextId l (t.seal g.die g.core g.ctx a.toNat l raw)) (t.badN g.die g.inst l n), t,
      { r with gang := { g with
          used := if regionOf a == .global then (a.toNat / 4096 :: g.used).eraseDups else g.used,
          causal := match l with
            | .phys pa => if isHost pa then mergeVec g.causal (t.hostVec pa) else g.causal
            | _ => g.causal } })
  | (.bad c f, t) => (.bad c f, t, r)
  | (.miss _, t) => (.bad codePage 0, t, r)

/-- Place every access of the flight that still waits for a page, by walking at once, so that a read at
issue sees its earlier stores; the first that faults is reported. -/
def State.settleAccesses (s : State) (r : Running) : List Access → Res ⊕ (State × Running)
  | [] => .inr (s, r)
  | a :: rest =>
    if a.ready then s.settleAccesses r rest
    else
      let t := a.parts.foldl (fun t p => if p.loc.isSome then t else (t.findNow r.gang.die r.gang.core r.gang.inst r.gang.ctx p.va a.kind.needs).2) s
      let (g, pr, u) := t.placeAccess r.gang a
      match pr with
      | .bad c f p => .inl (.next (((u.yieldPort r).chargeClause r).takeFault g.gid ⟨c, partInfo a.kind f p, a.pc⟩ (c == codePoison) 0#64 0))
      | .miss _ =>
        match a.parts.findSome? fun p => if p.loc.isSome then none
            else match (t.findNow r.gang.die r.gang.core r.gang.inst r.gang.ctx p.va a.kind.needs).1 with
              | .bad c f => some (c, f, p)
              | _ => none with
        | some (c, f, p) => .inl (.next (((u.yieldPort r).chargeClause r).takeFault g.gid ⟨c, partInfo a.kind f p, a.pc⟩ (c == codePoison) 0#64 0))
        | none => u.settleAccesses { r with gang := g } rest
      | .done => u.settleAccesses { r with gang := g } rest

/-- The earlier loads of the flight that a read of a place must follow: those of its line, those of TSO pages, and all where
it is itself of a TSO page (R56, R313). -/
def Gang.readAfter (g : Gang) (l : Loc) (tso : Bool) : List Nat :=
  (g.reqs.filter fun q => tso || q.tso || q.line == l.line).map (·.acc)

/-- The effects that a read of a place by a gang waits for: those of a commit on its core's scratchpad that is performed in part (R169). -/
def State.readWaits (s : State) (g : Gang) : Loc → List Nat
  | .scratch c _ => if c = g.core then ((s.halfOuts g.die c g.root (g.lanes.map (·.1))).flatMap (·.effs)) else []
  | _ => []

/-- Continue with every earlier access of the flight placed, once the lines that the walks and the reads of `n` bytes
at some addresses need are on this die (R307), and once the loads are performed that those reads must follow, and the commits that they
would see in part (R169). -/
def State.withPlaced (s : State) (r : Running) (reads : List DWord) (n : Nat) (k : State → Running → Res) : Res :=
  let g := r.gang
  let want := fun (a : DWord) (n kind : Nat) => s.reachWants g.die g.core g.inst g.ctx a n kind
  let lines := ((g.accs.filter fun a => !a.ready).flatMap fun a => (a.parts.filter fun p => p.loc.isNone).flatMap fun p => want p.va 0 a.kind.needs)
    ++ reads.flatMap fun a => want a n 0
  if !lines.isEmpty then .next (s.pause r lines.eraseDups)
  else match s.settleAccesses r r.gang.accs with
    | .inl x => x
    | .inr (t, q) =>
      let loads := reads.flatMap fun a => match (t.findNow g.die g.core g.inst g.ctx a 0).1 with
        | .at_ l tso => q.gang.readAfter l tso ++ t.readWaits g l
        | _ => q.gang.readAfter (.acc 0) false
      if !loads.isEmpty then .next (t.pause q [] loads.eraseDups) else k t q

end Sys2Proof.Machine
end

