-- ==== Sys2Proof/Machine/Float.lean ====
section
/-!
DEFINITION. Number formats and rounding (R58 to R68, R76, R77, R91, R92, R112): the exact value of a bit
pattern, exact arithmetic, and the one rounding that every operation ends with.
-/

namespace Sys2Proof.Machine

/-- The sticky flags in the order of FPSTAT: [4] IV, [3] DZ, [2] OF, [1] UF, [0] NX (R53). -/
abbrev Flags := BitVec 5

def fIV : Flags := 0x10#5
def fDZ : Flags := 0x08#5
def fOF : Flags := 0x04#5
def fUF : Flags := 0x02#5
def fNX : Flags := 0x01#5

/-- Format codes of R76. -/
def fFP32 : Nat := 0x00
def fFP16 : Nat := 0x01
def fBF16 : Nat := 0x02
def fE4M3 : Nat := 0x03
def fE5M2 : Nat := 0x04
def fINT8 : Nat := 0x05
def fUINT8 : Nat := 0x06
def fINT4 : Nat := 0x07
def fQ4B : Nat := 0x08
def fINT32 : Nat := 0x09
def fFP64 : Nat := 0x0A

/-- Exponent and fraction widths of a floating format (R59, R60). -/
def fmtBits (f : Nat) : Nat × Nat :=
  match f with
  | 0x00 => (8, 23)
  | 0x01 | 0x10 => (5, 10)
  | 0x02 | 0x11 => (8, 7)
  | 0x03 | 0x12 => (4, 3)
  | 0x04 => (5, 2)
  | _ => (11, 52)

/-- Whether a format is an integer format (R58). -/
def isInt (f : Nat) : Bool := f == 5 || f == 6 || f == 7 || f == 9

/-- Range and width in bits of an integer format (R58). -/
def intRange (f : Nat) : Int × Int × Nat :=
  match f with
  | 5 => (-128, 127, 8)
  | 6 => (0, 255, 8)
  | 7 => (-8, 7, 4)
  | _ => (-2147483648, 2147483647, 32)

def fmtBias (f : Nat) : Int := 2 ^ ((fmtBits f).1 - 1) - 1

/-- The exact value of a floating-point pattern (R59, R60). -/
def floatOf (f : Nat) (x : Nat) : Num :=
  let (ew, fw) := fmtBits f
  let neg := x / 2 ^ (ew + fw) % 2 == 1
  let e := x / 2 ^ fw % 2 ^ ew
  let m := x % 2 ^ fw
  if f = 0x03 || f = 0x12 then
    if e = 15 && m = 7 then .nan
    else if e = 0 then .fin neg m (1 - fmtBias f - fw) else .fin neg (2 ^ fw + m) ((e : Int) - fmtBias f - fw)
  else if e = 2 ^ ew - 1 then (if m = 0 then .inf neg else .nan)
  else if e = 0 then .fin neg m (1 - fmtBias f - fw)
  else .fin neg (2 ^ fw + m) ((e : Int) - fmtBias f - fw)

/-- The exact value of an integer. -/
def numOfInt (i : Int) : Num := .fin (decide (i < 0)) i.natAbs 0

/-- The value of an integer pattern (R58). -/
def intOf (f : Nat) (x : Nat) : Int :=
  let (lo, _, w) := intRange f
  let n := x % 2 ^ w
  if lo < 0 && decide (2 ^ (w - 1) ≤ n) then (n : Int) - 2 ^ w else n

/-- The value of a pattern of any dense format. -/
def valueOf (f : Nat) (x : Nat) : Num := if isInt f then numOfInt (intOf f x) else floatOf f x

/-- The canonical NaN (R59, R60, R62). -/
def canonNaN (f : Nat) : Nat :=
  match f with
  | 0x03 => 0x7F
  | 0x04 => 0x7E
  | 0x01 => 0x7E00
  | 0x02 => 0x7FC0
  | 0x0A => 0x7FF8000000000000
  | _ => 0x7FC00000

/-- The pattern of an infinity; E4M3 has none (R60). -/
def infBits (f : Nat) (neg : Bool) : Nat :=
  let (ew, fw) := fmtBits f
  bit neg * 2 ^ (ew + fw) + (2 ^ ew - 1) * 2 ^ fw

/-- The pattern of the largest finite value (R59, R60). -/
def maxBits (f : Nat) (neg : Bool) : Nat :=
  let (ew, fw) := fmtBits f
  bit neg * 2 ^ (ew + fw) + (if f = 0x03 then 0x7E else infBits f false - 1)

/-- Whether the magnitude is rounded up: mode, sign, the kept part's low bit, and the discarded part `r`
of `2^d` (R63). -/
def roundsUp (mode : Nat) (neg odd : Bool) (r d : Nat) : Bool :=
  match mode with
  | 0 => decide (2 ^ d < 2 * r) || (decide (2 * r = 2 ^ d) && odd)
  | 1 => false
  | 2 => !neg && decide (r ≠ 0)
  | 3 => neg && decide (r ≠ 0)
  | _ => decide (2 ^ d ≤ 2 * r) && decide (r ≠ 0)

/-- Round `m * 2^e` to a multiple of `2^q`: the multiple, and whether it is inexact. -/
def roundTo (mode : Nat) (neg : Bool) (m : Nat) (e q : Int) : Nat × Bool :=
  if q ≤ e then (m * 2 ^ (e - q).toNat, false)
  else
    let d := (q - e).toNat
    let k := m / 2 ^ d
    let r := m % 2 ^ d
    (if roundsUp mode neg (k % 2 == 1) r d then k + 1 else k, decide (r ≠ 0))

/-- How many bits a number has. -/
def bitLen (m : Nat) : Nat := if m = 0 then 0 else Nat.log2 m + 1

/-- The pattern of a kept mantissa `k` at quantum `2^q`. -/
def packFloat (f : Nat) (neg : Bool) (k : Nat) (q : Int) : Nat :=
  let (ew, fw) := fmtBits f
  let (k, q) := if 2 ^ (fw + 1) ≤ k then (k / 2, q + 1) else (k, q)
  bit neg * 2 ^ (ew + fw) +
    (if k < 2 ^ fw then k else (q + fw + fmtBias f).toNat * 2 ^ fw + (k - 2 ^ fw))

/-- A result beyond the largest finite value (R64). -/
def overflowed (f mode : Nat) (sat neg : Bool) : Nat × Flags :=
  if sat then (maxBits f neg, fOF ||| fNX)
  else if mode = 1 || (mode = 2 && neg) || (mode = 3 && !neg) then (maxBits f neg, fOF ||| fNX)
  else if f = 0x03 then (canonNaN f, fIV ||| fOF ||| fNX)
  else (infBits f neg, fOF ||| fNX)

/-- `rnd(x, fmt, mode)` with the replacement of R64 in mode `past`, and the flags of R67. -/
def roundFloat (f mode past : Nat) (sat : Bool) (x : Num) : Nat × Flags :=
  let (ew, fw) := fmtBits f
  match x with
  | .nan => (canonNaN f, 0#5)
  | .inf neg => if sat then (maxBits f neg, 0#5) else if f = 0x03 then (canonNaN f, fIV) else (infBits f neg, 0#5)
  | .fin neg m e =>
    if m = 0 then (bit neg * 2 ^ (ew + fw), 0#5)
    else
      let top := e + bitLen m - 1
      let emin := 1 - fmtBias f
      let q := max (top - fw) (emin - fw)
      let (k, inexact) := roundTo mode neg m e q
      let (k', _) := roundTo mode neg m e (top - fw)
      let tiny := decide (top < emin) && decide (k' * 2 ^ (top - fw - (min (top - fw) (emin - fw))).toNat < 2 ^ (emin - (min (top - fw) (emin - fw))).toNat)
      let kmax := maxBits f false % 2 ^ fw + 2 ^ fw
      let qmax := ((maxBits f false / 2 ^ fw : Nat) : Int) - fmtBias f - fw
      let beyond := if qmax ≤ q then decide (kmax < k * 2 ^ (q - qmax).toNat) else decide (kmax * 2 ^ (qmax - q).toNat < k)
      if beyond then overflowed f past sat neg
      else (packFloat f neg k q, (if inexact then fNX else 0#5) ||| (if inexact && tiny then fUF else 0#5))

/-- Round to a floating format in a mode. -/
def rnd (f mode : Nat) (x : Num) : Nat × Flags := roundFloat f mode mode false x

/-- Round to an integer in a mode (R66). -/
def toInteger (mode : Nat) (neg : Bool) (m : Nat) (e : Int) : Int × Bool :=
  let (k, inexact) := roundTo mode neg m e 0
  (if neg then -(k : Int) else k, inexact)

/-- Convert to an integer format (R66): the pattern at the format's width, and the flags. -/
def roundInteger (f mode : Nat) (x : Num) : Nat × Flags :=
  let (lo, hi, w) := intRange f
  let wrap := fun (i : Int) => (i % 2 ^ w).toNat
  match x with
  | .nan => (0, fIV)
  | .inf neg => (wrap (if neg then lo else hi), fIV)
  | .fin neg m e =>
    if 80 < e && decide (m ≠ 0) then (wrap (if neg then lo else hi), fIV)
    else
      let (i, inexact) := toInteger mode neg m e
      if i < lo then (wrap lo, fIV) else if hi < i then (wrap hi, fIV) else (wrap i, if inexact then fNX else 0#5)

/-! ## Exact arithmetic -/

def numNeg : Num → Num
  | .nan => .nan
  | .inf n => .inf (!n)
  | .fin n m e => .fin (!n) m e

def numIsNaN : Num → Bool
  | .nan => true
  | _ => false

def numIsZero : Num → Bool
  | .fin _ 0 _ => true
  | _ => false

/-- The signed integer `m * 2^(e - q)`, for `q` at most `e`. -/
def scaledTo (neg : Bool) (m : Nat) (e q : Int) : Int :=
  let k : Int := (m : Int) * 2 ^ (e - q).toNat
  if neg then -k else k

/-- The exact sum; an exactly zero sum of opposite signs is -0 only under RDN (R63). IV for infinities of
opposite signs (R67). -/
def numAdd (mode : Nat) (x y : Num) : Num × Flags :=
  match x, y with
  | .nan, _ | _, .nan => (.nan, 0#5)
  | .inf a, .inf b => if a = b then (.inf a, 0#5) else (.nan, fIV)
  | .inf a, _ | _, .inf a => (.inf a, 0#5)
  | .fin a m e, .fin b n k =>
    if m = 0 && n = 0 then (.fin (if a = b then a else mode == 3) 0 0, 0#5)
    else if m = 0 then (.fin b n k, 0#5)
    else if n = 0 then (.fin a m e, 0#5)
    else
      let q := min e k
      let z := scaledTo a m e q + scaledTo b n k q
      if z = 0 then (.fin (mode == 3) 0 0, 0#5) else (.fin (decide (z < 0)) z.natAbs q, 0#5)

/-- The exact product; IV for 0 times infinity (R67). -/
def numMul (x y : Num) : Num × Flags :=
  match x, y with
  | .nan, _ | _, .nan => (.nan, 0#5)
  | .inf a, .inf b => (.inf (a != b), 0#5)
  | .inf a, .fin b m _ | .fin b m _, .inf a => if m = 0 then (.nan, fIV) else (.inf (a != b), 0#5)
  | .fin a m e, .fin b n k => (.fin (a != b) (m * n) (e + k), 0#5)

/-- Add and round once (R90). -/
def fadd (f mode : Nat) (x y : Num) : Nat × Flags :=
  let (z, iv) := numAdd mode x y
  let (r, fl) := rnd f mode z
  (r, iv ||| fl)

/-- Multiply and round once. -/
def fmul (f mode : Nat) (x y : Num) : Nat × Flags :=
  let (z, iv) := numMul x y
  let (r, fl) := rnd f mode z
  (r, iv ||| fl)

/-- Multiply, add and round once. A product 0 times infinity is invalid whatever the addend (R90). -/
def ffma (f mode : Nat) (x y d : Num) : Nat × Flags :=
  let (p, iv) := numMul x y
  let (z, iv2) := numAdd mode p d
  let (r, fl) := rnd f mode z
  (r, iv ||| iv2 ||| fl)

/-- Numeric order; none when unordered. Zeros are equal whatever their signs (R88). -/
def numCmp (x y : Num) : Option Ordering :=
  match x, y with
  | .nan, _ | _, .nan => none
  | .inf a, .inf b => some (compare (bit b) (bit a))
  | .inf a, _ => some (if a then .lt else .gt)
  | _, .inf b => some (if b then .gt else .lt)
  | .fin a m e, .fin b n k => let q := min e k; some (compare (scaledTo a m e q) (scaledTo b n k q))

/-- The float conditions of R88, with IV. -/
def floatCond (cc : Nat) (x y : Num) : Bool × Flags :=
  let c := numCmp x y
  match cc with
  | 0 => (c == some .eq, 0#5)
  | 1 => (c != some .eq, 0#5)
  | 2 => (c == some .lt, if c == none then fIV else 0#5)
  | 3 => (c == some .lt || c == some .eq, if c == none then fIV else 0#5)
  | 4 => (c == none, 0#5)
  | _ => (c != none, 0#5)

/-! ## Bit patterns -/

/-- Whether a pattern is a NaN. -/
def isNaNBits (f x : Nat) : Bool := numIsNaN (floatOf f x)

/-- The sign bit's weight in a format. -/
def signBit (f : Nat) : Nat := 2 ^ ((fmtBits f).1 + (fmtBits f).2)

/-- A key that orders number patterns with -0 below +0 (R91, R112). -/
def orderKey (f x : Nat) : Nat := let w := signBit f; if x / w % 2 = 0 then x % w + w else w - 1 - x % w

/-- IEEE minimum and maximum (`num` false), minimumNumber and maximumNumber (`num` true) on patterns;
the chosen operand's bits come back (R91). -/
def floatPick (f : Nat) (big num : Bool) (x y : Nat) : Nat :=
  if isNaNBits f x && isNaNBits f y then canonNaN f
  else if isNaNBits f x then (if num then y else canonNaN f)
  else if isNaNBits f y then (if num then x else canonNaN f)
  else if (orderKey f x < orderKey f y) != big then x else y

/-- The class mask of R92. -/
def classMask (x : Nat) : Nat :=
  let neg := x / 2 ^ 31 % 2 == 1
  let e := x / 2 ^ 23 % 256
  let m := x % 2 ^ 23
  if e = 255 then (if m ≠ 0 then 2 ^ 8 else if neg then 1 else 2 ^ 7)
  else if e = 0 then (if m = 0 then (if neg then 2 ^ 3 else 2 ^ 4) else if neg then 2 ^ 2 else 2 ^ 5)
  else if neg then 2 else 2 ^ 6

/-- The total-order key of FP32 (R112). -/
def fkey (x : Word) : Word :=
  if x.extractLsb' 23 8 = 0xFF#8 && x.extractLsb' 0 23 ≠ 0#23 then 0xFFFFFFFF#32
  else if x.getLsbD 31 then ~~~x else x ||| 0x80000000#32

/-- The total-order key of FP16 (R77). -/
def key16 (h : Half) : Half :=
  if h.extractLsb' 10 5 = 31#5 && h.extractLsb' 0 10 ≠ 0#10 then 0xFFFF#16
  else if h.getLsbD 15 then ~~~h else h ||| 0x8000#16

/-- FP32 patterns as words. -/
def f32 (x : Word) : Num := floatOf 0 x.toNat
def asWord (r : Nat × Flags) : Word × Flags := (BitVec.ofNat 32 r.1, r.2)
def fadd32 (mode : Nat) (x y : Word) : Word × Flags := asWord (fadd 0 mode (f32 x) (f32 y))

/-- The value of an exactly rounded result that an operation keeps: its pattern read back. -/
def roundNum (f mode : Nat) (sat : Bool) (x : Num) : Num × Flags :=
  let (r, fl) := roundFloat f mode mode sat x
  (floatOf f r, fl)

end Sys2Proof.Machine
end

