-- ==== Sys2Proof/Machine/Flags.lean ====
section
/-!
DEFINITION. Flag computations: how the floating-point flags of active lanes reach the FPSTAT of their
slices (R54, R67, R79, R104), and the rounding mode that FPCTL gives (R53).
-/

namespace Sys2Proof.Machine

/-- The rounding mode of a slice (R53); RNE at launch. -/
def Arch.mode (a : Arch) (k : Nat) : Nat := (look 0#3 a.fpctl k).toNat

/-- The sticky flags of a slice. -/
def Arch.stat (a : Arch) (k : Nat) : Flags := look 0#5 a.fpstat k

/-- OR flags into a slice's FPSTAT (R67). -/
def Arch.raiseFlags (a : Arch) (k : Nat) (f : Flags) : Arch := { a with fpstat := put 0#5 a.fpstat k (a.stat k ||| f) }

/-- Write each active lane's result and OR its flags into its slice (R79). -/
def Arch.mapFloat (a : Arch) (lanes : List Nat) (d : Nat) (f : Nat → Word × Flags) : Arch :=
  lanes.foldl (fun b l => (b.vset d l (f l).1).raiseFlags (l / 4) (f l).2) a

/-- The same for a pair of registers. -/
def Arch.mapDouble (a : Arch) (lanes : List Nat) (d : Nat) (f : Nat → DWord × Flags) : Arch :=
  lanes.foldl (fun b l => (b.dset d l (f l).1).raiseFlags (l / 4) (f l).2) a

/-- A floating-point vector instruction under a guard, from the registers it reads (R90). -/
def State.floatOp (s : State) (d : Nat) (g : BitVec 3) (gn : BitVec 1) (vr : List Nat) (f : Arch → Nat → Word × Flags) : Res :=
  s.issue fun r =>
    let act := r.gang.arch.active g gn
    s.checked r { vr := vr, vw := [d], lanes := act }
      (.next (s.setArch r (r.gang.arch.mapFloat act d (f r.gang.arch))))

/-- The same for an FP64 result in a pair (R96). -/
def State.doubleOp (s : State) (d : Nat) (g : BitVec 3) (gn : BitVec 1) (vr : List Nat) (f : Arch → Nat → DWord × Flags) : Res :=
  s.issue fun r =>
    let act := r.gang.arch.active g gn
    s.checked r { vr := vr, vw := [d, d + 1], lanes := act }
      (.next (s.setArch r (r.gang.arch.mapDouble act d (f r.gang.arch))))

/-- A floating compare into a predicate; IV goes to the lane's slice (R88). -/
def State.floatCmp (s : State) (p : Nat) (vr sr : List Nat) (f : Arch → Nat → Bool × Flags) : Res :=
  s.issue fun r =>
    let act := r.gang.arch.active 0#3 0#1
    s.checked r { vr := vr, sr := sr, lanes := act, slices := slicesOf act }
      (let a := r.gang.arch.pset p r.gang.arch.exec (maskOf fun l => act.contains l && (f r.gang.arch l).1)
       .next (s.setArch r (act.foldl (fun b l => b.raiseFlags (l / 4) (f r.gang.arch l).2) a)))

end Sys2Proof.Machine
end

