-- ==== Sys2Proof/Machine/Services.lean ====
section
/-!
DEFINITION. The services of the die that firmware reaches through system registers: the event ring,
TLB shootdown, the end of a service, resuming a stopped gang and sampling (R287, R291, R292, R296 to R300).
-/

namespace Sys2Proof.Machine

/-! ## System-register numbers of the control core (R291) -/

def srCcmode : Nat := 0x100
def srEvbase : Nat := 0x101
def srEvsize : Nat := 0x102
def srEmulated : Nat := 0x104
def srCcvec : Nat := 0x106
def srCcepc : Nat := 0x107
def srTlbdone : Nat := 0x111
def srTlbword : Nat := 0x112
def srSampbase : Nat := 0x130
def srSampsize : Nat := 0x131
def srSamphead : Nat := 0x132
def srSampseq : Nat := 0x133
def srSampctl : Nat := 0x040

/-! ## The event ring (R292) -/

/-- Whether the ring is full: as many services of written entries, of any kind, are outstanding as it has entries
(DEDUCED, log 12). A ring of size 0 takes nothing. -/
def Die.ringFull (x : Die) : Bool :=
  let waiting := x.evHeld.map (·.tag)
  decide ((x.sysreg srEvsize).toNat ≤ (x.services.filter fun e => !waiting.contains e.1).length)

/-- Write the next held entry into the ring, the producer word last. -/
def State.writeEvent (s : State) (d : Nat) : State :=
  let x := s.die d
  match x.evHeld with
  | [] => s
  | e :: rest =>
    if x.ringFull then s
    else
      let pos := x.evPos
      let size := (x.sysreg srEvsize).toNat
      let place := ((x.sysreg srEvbase).toNat + 32 * (pos % size)) % 2 ^ 42
      let words : List Word := [BitVec.ofNat 32 (e.kind % 256 + e.ctx % 64 * 256), BitVec.ofNat 32 e.tag, e.addr.extractLsb' 0 32,
        e.addr.extractLsb' 32 32, e.info.extractLsb' 0 32, e.info.extractLsb' 32 32, BitVec.ofNat 32 (pos + 1), 0#32]
      (s.device place (bytesOfWords words)).onDie d (fun x => { x with evHeld := rest, evPos := pos + 1 })

/-- Write held entries while there is room. -/
def State.flushEvents (s : State) (d : Nat) : State :=
  (List.range (s.die d).evHeld.length).foldl (fun s _ => s.writeEvent d) s

/-! ## Ends of services -/

/-- A report that the service of a tag is complete: the record that waits for it becomes eligible, the
engine goes on, the value of an emulated step is back (R291, R292, R167, R195, R223). -/
def State.serviceDone (s : State) (d : Nat) (tag : DWord) : State :=
  let t := tag.toNat
  match look? (s.die d).services t with
  | none => s
  | some cl =>
    let s1 := s.onDie d (fun x => { x with services := erase x.services t })
    match cl with
    | .other => s1
    | .gang gid => s1.onGang gid (fun g => if g.wakeKind = 9 && g.wakeOp2.toNat == t then { g with woken := true } else g)
    | .copy c q => s1.onCore d c (fun k =>
        { k with copying := k.copying.map fun e => if e.1 % 5 = q && e.2.wait == some t then (e.1, { e.2 with wait := none }) else e })
    | .array c v => s1.onCore d c (fun k =>
        { k with evals := k.evals.map fun e => if e.id = v && e.wait == some t then { e with wait := none } else e })
    | .step c v => s1.onCore d c (fun k =>
        { k with evals := k.evals.map fun e => if e.id = v && e.busy && e.back.isNone then { e with back := some [] } else e })

/-- DBGRESUME makes the record stopped under a tag eligible; it will pass the breakpoint, and its service is over (R296). It acts on no other
service. -/
def State.resumeStopped (s : State) (d : Nat) (tag : DWord) : State :=
  let stopped := s.gangs.any fun g => g.die == d && g.phase == .parked && g.wakeKind == 10 && g.wakeOp2 == tag
  { s.onDie d fun x => if stopped then { x with services := erase x.services tag.toNat } else x with gangs := s.gangs.map fun g =>
      if g.die = d && g.phase == .parked && g.wakeKind = 10 && g.wakeOp2 == tag then { g with woken := true, skipBrk := some g.wakeOp } else g }

/-! ## Shootdown (R287) -/

/-- The page size, in bits, of a TLBINV value. -/
def shootBits (v : DWord) : Nat :=
  match field v 10 2 with
  | 0 => 12
  | 1 => 16
  | 2 => 21
  | _ => 30

/-- Whether a page's translation in a context lies in a shootdown's range, or came from an entry that it removed. -/
def Shoot.covers (t : Shoot) (ctx va : Nat) : Bool :=
  t.ctx == ctx && (t.all || va / 2 ^ t.bits == t.va / 2 ^ t.bits || t.gone.any fun e => va / 2 ^ e.2 == e.1 / 2 ^ e.2)

/-- Whether an entry could translate an address of the range. -/
def Shoot.hits (t : Shoot) (e : TlbEntry) : Bool :=
  t.ctx == e.ctx && (t.all || (let b := max t.bits e.leaf.bits; e.base / 2 ^ b == t.va / 2 ^ b))

/-- A write of TLBINV: the entries of the range go, and the request waits for what still uses them. -/
def State.shootdown (s : State) (d : Nat) (v : DWord) : State :=
  let x := s.die d
  let t : Shoot := { num := x.shootNum + 1, va := field v 12 44 * 4096, bits := shootBits v, all := v.getLsbD 9, ctx := field v 0 6 }
  let held := x.cores.flatMap (fun e => e.2.tlb) ++ x.clusterTlb.flatMap (fun e => e.2)
  let t := { t with gone := ((held.filter fun q => t.hits q && decide (t.bits < q.leaf.bits)).map fun q => (q.base, q.leaf.bits)).eraseDups }
  s.onDie d (fun x =>
    { x with shootNum := x.shootNum + 1, shoots := x.shoots ++ [t], walkCache := [],
             cores := x.cores.map (fun e => (e.1, { e.2 with tlb := e.2.tlb.filter (fun q => !t.hits q) })),
             clusterTlb := x.clusterTlb.map (fun e => (e.1, e.2.filter (fun q => !t.hits q))) })

/-- Whether a copy engine's read that is on its way to another package lies in a shootdown's range: some byte of its row (R287, R327). -/
def State.shootCopy (s : State) (d : Nat) (t : Shoot) : Bool :=
  s.pkg.fabricOut.any fun f => f.die == d && (match f.client with
    | .copy core key row _ => (match (look [] (s.core d core).queues key).head? with
        | some (.copy _ b _ w _) => (List.range (b.rowBytes / 4096 + 2)).any fun i =>
            t.covers w.ctx ((b.src + BitVec.ofNat 64 (row * b.spitch)).toNat + min (4096 * i) (b.rowBytes - 1))
        | _ => false)
    | _ => false)

/-- Whether a committed access that used the old translation is still outstanding: a write on its way, a load of a
flight that has committed, or a copy engine's read. -/
def State.shootBusy (s : State) (d : Nat) (t : Shoot) : Bool :=
  s.drain.any (fun o => o.who.die == d && o.acts.any fun a => t.covers o.who.ctx a.va.toNat)
  || s.shootCopy d t
  || s.gangs.any fun g => g.die == d && g.phase == .parked && g.reqs.any fun q => q.parts.any fun p => t.covers g.ctx p.1.va.toNat

/-- A watch that found its word by the old translation finds it anew. -/
def Gang.rewatch (g : Gang) (t : Shoot) : Gang :=
  { g with accs := g.accs.map fun a =>
      if a.kind == .watch && a.parts.any (fun p => t.covers g.ctx p.va.toNat) then
        { a with ready := false, parts := a.parts.map fun p => { p with loc := none } } else a }

/-- A request completes: flights that used the old translation and have not committed are discarded and
replay, and watches find their words anew; TLBDONE rises and TLBWORD is written,
where it is not 0 (R287; DEDUCED, log 83). -/
def State.shootDone (s : State) (d : Nat) (t : Shoot) : State :=
  let users := s.gangs.filter fun g => g.die == d && g.phase != .parked && g.used.any (fun p => t.covers g.ctx (p * 4096))
  let s0 := users.foldl (fun s g => s.discard g.gid) s
  let s1 : State := { s0 with gangs := s0.gangs.map fun (g : Gang) => if g.die = d && g.phase == .parked && g.wakeKind = 2 && regionOf g.wakeOp == .global then g.rewatch t else g }
  let s2 := s1.onDie d (fun x => (x.setSysreg srTlbdone (BitVec.ofNat 64 t.num)))
  let s3 := s2.onDie d (fun x => { x with shoots := x.shoots.filter (fun u => u.num != t.num) })
  let a := ((s3.die d).sysreg srTlbword).toNat % 2 ^ 42
  if a = 0 then s3 else s3.device a (bytesOf 4 (BitVec.ofNat 64 t.num))

/-! ## Sampling (R298 to R300) -/

/-- A record header: sequence, type and length in bytes (R299). -/
def sampHeader (seq type len : Nat) : DWord := BitVec.ofNat 64 (0xA5 + len / 8 % 256 * 2 ^ 8 + type * 2 ^ 16 + seq % 2 ^ 32 * 2 ^ 24)

/-- Whether a doubleword looks like a header of a record, and its length. -/
def sampLength (h : DWord) : Option Nat :=
  if field h 0 8 = 0xA5 && field h 56 8 = 0 && decide (field h 16 8 ≤ 2) && decide (0 < field h 8 8) then some (8 * field h 8 8) else none

/-- Zero the headers of the old records that begin before `stop`, from a record boundary on; where the
last of them ends (R300). -/
def State.zeroHeaders (s : State) (base stop : Nat) : Nat → Nat → Nat × State
  | 0, pos => (pos, s)
  | n + 1, pos =>
    if stop ≤ pos then (pos, s)
    else match sampLength (dwordOfBytes (s.bytes (base + pos) 8)) with
      | some len => (s.device (base + pos) (bytesOf 8 0#64)).zeroHeaders base stop n (pos + len)
      | none => (pos, s)

/-- Whether a record of `len` bytes fits before the end of the buffer. -/
def Die.sampFits (x : Die) (len : Nat) : Bool := decide (len ≤ (x.sysreg srSampsize).toNat - (x.sysreg srSamphead).toNat)

/-- Put a record whose words after the header are `body` into the buffer (R300). -/
def State.putSample (s : State) (d type : Nat) (body : List DWord) : State :=
  let x := s.die d
  let base := (x.sysreg srSampbase).toNat % 2 ^ 42
  let size := (x.sysreg srSampsize).toNat
  let head := (x.sysreg srSamphead).toNat
  let seq := (x.sysreg srSampseq).toNat
  let len := 8 * (body.length + 1)
  let wrap := !x.sampFits len
  let s1 := if wrap then s.device (base + head) (bytesOf 8 (sampHeader 0 1 (size - head))) else s
  let pos := if wrap then 0 else head
  let (stop, s2) := s1.zeroHeaders base (pos + len) (len / 8 + 1) pos
  let s3 := s2.device (base + pos + 8) (body.flatMap (bytesOf 8))
  let s4 := s3.device (base + pos) (bytesOf 8 (sampHeader seq type len))
  let s5 := if pos + len < stop then s4.device (base + pos + len) (bytesOf 8 (sampHeader 0 1 (stop - (pos + len)))) else s4
  s5.onDie d (fun x => (x.setSysreg srSamphead (BitVec.ofNat 64 (pos + len))).setSysreg srSampseq (BitVec.ofNat 64 ((seq + 1) % 2 ^ 32)))

/-- A word of a record: a value in [63:8] and the word's index below (R299). -/
def sampWord (i : Nat) (v : Nat) : DWord := BitVec.ofNat 64 (v % 2 ^ 56 * 256 + i)

/-- The word of a MARK: it holds DTC (R299). -/
def State.markWords (s : State) (d : Nat) : List DWord := [sampWord 1 (s.dtc d)]

/-- Write a record (R300): in linear mode sampling stops where it does not fit, which changes SAMPCTL, so that a MARK is written if
there is room for that (R299; DEDUCED, log 28). -/
def State.sample (s : State) (d type : Nat) (body : List DWord) : State :=
  let x := s.die d
  let ctl := x.sysreg srSampctl
  let len := 8 * (body.length + 1)
  if decide ((x.sysreg srSampsize).toNat < len) then s
  else if !x.sampFits len && ctl.getLsbD 1 then
    let v := (ctl ||| 4#64) &&& ~~~1#64
    let t := s.onDie d (fun x => x.setSysreg srSampctl v)
    if v != ctl && x.sampFits 16 then t.putSample d 2 (s.markWords d) else t
  else s.putSample d type body

/-- A MARK (R299). -/
def State.mark (s : State) (d : Nat) : State := s.sample d 2 (s.markWords d)

/-- A write of SAMPCTL: sampling changes, and a MARK is written where the register does (R298, R299). -/
def State.setSampling (s : State) (d : Nat) (v : DWord) : State :=
  if (s.die d).sysreg srSampctl = v then s else (s.onDie d (fun x => x.setSysreg srSampctl v)).mark d

end Sys2Proof.Machine
end

