-- ==== Sys2Proof/Machine/System.lean ====
section
/-!
DEFINITION. The task's own instructions, system registers, TRAP and NOP, and the instructions of the
control core: majors 0x30 (TEND to TSLK), 0x33 and 0x34 (R51 to R54, R120, R121, R291 to R294).
-/

namespace Sys2Proof.Machine

/-! ## The task's own instructions (R51, R52) -/

/-- The wake kind of a flight end that waits for its results only (R133). -/
def wkResults : Nat := 0
/-- The mark of a flight that ERET ends; it never stands in a parked record. -/
def wkEret : Nat := 11

/-- TEND ends the flight and holds the retirement of the active lanes (R52). -/
def execTend (s : State) : Res :=
  s.issue fun r =>
    let a := r.gang.arch
    let (n, t) := s.fresh
    .next (t.endBy (r.hold n 1 (.retire (a.exec &&& a.occ))) wkResults 0#64 0#64)

def execTinst (d : BitVec 5) (s : State) : Res :=
  s.issue fun r => s.scalarOp d.toNat [] fun _ _ => BitVec.ofNat 64 (r.gang.inst % 256 + r.gang.die * 2 ^ 8 + r.gang.ctx % 64 * 2 ^ 10)

def execTstg (d : BitVec 5) (s : State) : Res :=
  s.issue fun r => s.scalarOp d.toNat [] fun _ _ => BitVec.ofNat 64 r.gang.stage

/-- The instance's remaining budget of a kind (R51). What the engines charged is in it at once; the spec lets it lag by up to
1 us (DESIGN CHOICE, log 56). -/
def execTbud (d : BitVec 5) (k : BitVec 12) (s : State) : Res :=
  s.issue fun r => s.scalarOp d.toNat [] fun _ _ =>
    BitVec.ofInt 64 (((s.inst? r.gang.die r.gang.inst).map fun i => i.account k.toNat).getD 0)

/-- The remaining slack; 2^63 - 1 for a best-effort instance (R51, R260). -/
def execTslk (d : BitVec 5) (s : State) : Res :=
  s.issue fun r => s.scalarOp d.toNat [] fun _ _ =>
    match s.deadlineOf r.gang with
    | some t => BitVec.ofInt 64 (t - s.dtc r.gang.die)
    | none => BitVec.ofNat 64 (2 ^ 63 - 1)

/-! ## System registers (R53) -/

/-- CORECFG of a core (R120). -/
def Die.corecfg (x : Die) (step : Byte) (c : Nat) : DWord :=
  let g := fun p => x.good c p
  let en := (List.range 4).foldl (fun m p => m + (if 0 < g p && decide (p = 0 ∨ c ≠ controlCore) then 2 ^ p else 0)) 0
  let su := (List.range 4).foldl (fun m p => m + (if x.suspectPort c p && c != controlCore then 2 ^ p else 0)) 0
  let lanes := fun p => if p = 0 || c != controlCore then g p else 0
  BitVec.ofNat 64 (en + su * 2 ^ 4 + lanes 0 * 2 ^ 8 + lanes 1 * 2 ^ 14 + lanes 2 * 2 ^ 20 + lanes 3 * 2 ^ 26
    + (if c != controlCore && (look? x.fused (x.cluster c)).isSome then 2 ^ 32 else 0) + step.toNat * 2 ^ 40)

/-- The numbers that the table of R53 assigns. -/
def tenantReg (n : Nat) : Bool :=
  n ≤ 3 || (0x10 ≤ n && n ≤ 0x17) || n == 0x20 || n == 0x21 || (0x30 ≤ n && n ≤ 0x32) || n == 0x40

/-- The numbers that R287 and R291 assign to the control core. -/
def firmwareReg (n : Nat) : Bool :=
  (0x100 ≤ n && n ≤ 0x107) || (0x110 ≤ n && n ≤ 0x112) || n == 0x120 || n == 0x121 || (0x130 ≤ n && n ≤ 0x133) || (0x140 ≤ n && n ≤ 0x148)

/-- The fault that a slice's FAULT registers give: that of the task in its lowest occupied lane, or the
one that firmware's handler runs for (R53, R293; DESIGN CHOICE, log 64). -/
def State.faultOf (s : State) (g : Gang) (k : Nat) : FaultInfo :=
  if g.ctx = firmware then (if g.handler then (s.die g.die).ccFault else ⟨0, 0#64, 0#64⟩)
  else if g.handler then ((g.lanes.find? fun e => e.1 / 4 == k).map fun e => e.2.fault).getD ⟨0, 0#64, 0#64⟩
  else ⟨0, 0#64, 0#64⟩

/-- The value of a system register in a slice (R53, R120, R121, R287, R291, R298). -/
def State.sysRead (s : State) (g : Gang) (n k : Nat) : DWord :=
  let x := s.die g.die
  let site := (x.site? g.core).getD g.core
  match n with
  | 0x000 => BitVec.ofNat 64 (g.arch.mode k)
  | 0x001 => (g.arch.stat k).setWidth 64
  | 0x002 => zext64 g.arch.occ
  | 0x003 => (look 0#16 g.arch.sigval k).setWidth 64
  | 0x010 | 0x011 | 0x012 | 0x013 =>
    if g.core = controlCore then (if n = 0x010 then 0xFFFFFFFF#64 else 0#64) else zext64 (x.laneMap site (n - 0x10))
  | 0x014 => x.corecfg s.pkg.stepping g.core
  | 0x015 => if g.core = controlCore then 0#64 else BitVec.ofNat 64 (site * 256 + g.core)
  | 0x016 => if g.core = controlCore then 0#64 else BitVec.ofNat 64 (x.position g.core * 16 + x.cluster g.core)
  | 0x017 => BitVec.ofNat 64 (s.pkg.fabid.toNat * 2 ^ 16 + g.die)
  | 0x020 => BitVec.ofNat 64 (s.dtc g.die)
  | 0x021 => g.arch.flightid
  | 0x030 => BitVec.ofNat 64 (s.faultOf g k).code
  | 0x031 => (s.faultOf g k).info
  | 0x032 => (s.faultOf g k).pc
  | 0x105 => 0x600#64
  | 0x120 => Config.scanGold
  | 0x121 => BitVec.ofNat 64 (s.core g.die x.containSel).contain
  | m => x.sysreg m

/-- PRIVILEGE with a register number (R38). -/
def State.privilege (s : State) (r : Running) (n : Nat) : Res := s.raise r codePrivilege (BitVec.ofNat 64 (r.cl.idx % 16 + n * 16))

/-- SYSR (R53). Beyond 0xFF, numbers that no table assigns are ILLINS on the control core (DEDUCED, log 13). -/
def execSysr (d : BitVec 5) (n : BitVec 12) (s : State) : Res :=
  s.issue fun r =>
    if n.toNat < 0x100 && !tenantReg n.toNat then s.illins r 1
    else if 0x100 ≤ n.toNat && r.gang.ctx != firmware then s.privilege r n.toNat
    else if 0x100 ≤ n.toNat && !firmwareReg n.toNat then s.illins r 1
    else s.scalarOp d.toNat [] fun _ k => s.sysRead r.gang n.toNat k

/-- Whether a value may be written to a register of the control core (R287, R291, R296, R298; DEDUCED, log 13). -/
def sysValueOk (n : Nat) (v : DWord) : Bool :=
  match n with
  | 0x100 => v.toNat < 8
  | 0x101 => field v 0 6 == 0
  | 0x102 => (List.range 13).any fun i => v.toNat == 2 ^ (i + 4)
  | 0x110 => field v 56 8 == 0 && field v 6 3 == 0
  | 0x112 => field v 0 2 == 0
  | 0x130 => field v 0 3 == 0
  | 0x131 => field v 0 3 == 0 && 128 ≤ v.toNat
  | 0x040 => field v 40 24 == 0 && field v 3 5 == 0
  | m => if 0x140 ≤ m && m ≤ 0x147 then field v 1 1 == 0 && field v 56 2 == 0 else true

/-- Registers that a SYSW on the control core may not write: EMULATED, CAPS, TLBDONE, SCANGOLD and the
protected ones of R53 but SAMPCTL. -/
def readOnlyReg (n : Nat) : Bool := (n < 0x100 && 2 ≤ n && n != 0x40) || n == 0x104 || n == 0x105 || n == 0x111 || n == 0x120

/-- The effect of a write to a register of the control core. -/
def State.sysWrite (s : State) (d n : Nat) (v : DWord) : State :=
  match n with
  | 0x040 => s.setSampling d v
  | 0x103 => s.serviceDone d v
  | 0x110 => s.shootdown d v
  | 0x121 => s.onDie d fun x => { x with containSel := field v 0 7 }
  | 0x148 => s.resumeStopped d v
  | m => s.onDie d fun x => x.setSysreg m v

/-- SYSW (R53). On the control core the lowest executing slice gives the value. -/
def execSysw (a : BitVec 5) (n : BitVec 12) (s : State) : Res :=
  s.issue fun r =>
    if n.toNat < 0x100 && !tenantReg n.toNat then s.illins r 1
    else if (decide (2 ≤ n.toNat) && r.gang.ctx != firmware) || (readOnlyReg n.toNat) then s.privilege r n.toNat
    else if 0x100 ≤ n.toNat && !firmwareReg n.toNat then s.illins r 1
    else
      let x := r.gang.arch
      s.checked r { sr := [a.toNat], slices := x.slicesList }
        (match n.toNat with
         | 0 =>
           if x.slicesList.any fun k => decide (5 ≤ (x.sget k a.toNat).toNat) then s.illins r 2
           else .next (s.setArch r { x with fpctl := x.slicesList.foldl (fun m k => put 0#3 m k ((x.sget k a.toNat).setWidth 3)) x.fpctl })
         | 1 =>
           if x.slicesList.any fun k => decide (32 ≤ (x.sget k a.toNat).toNat) then s.illins r 2
           else .next (s.setArch r { x with fpstat := x.slicesList.foldl (fun m k => put 0#5 m k ((x.sget k a.toNat).setWidth 5)) x.fpstat })
         | m =>
           let v := x.sget (x.slicesList.headD 0) a.toNat
           if sysValueOk m v then .next (s.sysWrite r.gang.die m v) else s.illins r 2)

/-- TRAP raises TRAPINS with its code (R54). -/
def execTrap (c : BitVec 12) (s : State) : Res := s.issue fun r => s.raise r codeTrapins (BitVec.ofNat 64 c.toNat)

def execNop (s : State) : Res := s.issue fun r => .next (s.setRun r)

/-! ## The control core's instructions (R294) -/

/-- An instruction of the control core: PRIVILEGE on a compute core; S[a] is that of the lowest executing
slice. -/
def State.control (s : State) (a : BitVec 5) (d : Option (BitVec 5)) (k : Running → DWord → Res) : Res :=
  s.issue fun r =>
    if r.gang.ctx != firmware then s.privilege r 0
    else
      s.checked r { sr := [a.toNat], sw := (d.map (·.toNat)).toList, slices := r.gang.arch.slicesList }
        (k r (r.gang.arch.sget (r.gang.arch.slicesList.headD 0) a.toNat))

/-- Hold an effect whose status is delivered to S[d] later. -/
def State.holdPend (s : State) (r : Running) (d : BitVec 5) (e : Nat → Eff) : Res :=
  let (tag, t) := s.fresh
  .next (t.setRun ((r.hold tag 1 (e tag)).pend tag 1 d.toNat 1 [] 1 []))

def execCdrain (d a : BitVec 5) (s : State) : Res := s.control a (some d) fun r v => s.holdPend r d (.cdrain (field v 0 7))
def execCscan (d a : BitVec 5) (s : State) : Res := s.control a (some d) fun r v => s.holdPend r d (.cscan (field v 0 7))
/-- CSIG: the signature of the core's last complete scan, pending (R294). -/
def execCsig (d a : BitVec 5) (s : State) : Res :=
  s.control a (some d) fun r v =>
    let (tag, t) := s.fresh
    .next (t.setRun (r.pend tag 1 d.toNat 1 [] 0 (r.gang.arch.scalarDeliv d.toNat (s.core r.gang.die (field v 0 7)).lastSig)))
/-- CMAPRM: a core that is not drained is PROT, reason 7 (R294). -/
def execCmaprm (a : BitVec 5) (s : State) : Res :=
  s.control a none fun r v =>
    if (s.core r.gang.die (field v 0 7)).scan = 2 then .next (s.holding r 1 (.cmaprm v))
    else s.raise r codeProt (form3 7 v)
/-- CMAPAD: a number or a site in use is PROT, reason 7 (R294). -/
def execCmapad (a : BitVec 5) (s : State) : Res :=
  s.control a none fun r v =>
    let x := s.die r.gang.die
    if (x.site? (field v 0 7)).isSome || (x.coreAt? (field v 8 8)).isSome then s.raise r codeProt (form3 7 v)
    else .next (s.holding r 1 (.cmapad v))
def execCreset (a : BitVec 5) (s : State) : Res :=
  s.control a none fun r v => .next (s.holding r 1 (.creset (field v 0 6)))
/-- ERET ends the flight; the restore is made at its commit (R293). -/
def execEret (s : State) : Res :=
  s.issue fun r => if r.gang.ctx != firmware then s.privilege r 0 else .next (s.endBy r wkEret 0#64 0#64)

end Sys2Proof.Machine
end

