-- ==== Sys2Proof/Machine/Valu.lean ====
section
/-!
DEFINITION. Vector integer, compare and predicate logic: majors 0x08 to 0x0D (R81 to R89).
-/

namespace Sys2Proof.Machine

def execVadd (d a b : BitVec 6) (g : BitVec 3) (n : BitVec 1) (s : State) : Res := s.vector2 d a b g n fun x y => x + y
def execVsub (d a b : BitVec 6) (g : BitVec 3) (n : BitVec 1) (s : State) : Res := s.vector2 d a b g n fun x y => x - y
def execVmul (d a b : BitVec 6) (g : BitVec 3) (n : BitVec 1) (s : State) : Res := s.vector2 d a b g n fun x y => x * y
/-- Signed high product (R81). -/
def execVmulh (d a b : BitVec 6) (g : BitVec 3) (n : BitVec 1) (s : State) : Res :=
  s.vector2 d a b g n fun x y => BitVec.ofInt 32 (x.toInt * y.toInt / 2 ^ 32)
/-- Unsigned high product (R81). -/
def execVmulhu (d a b : BitVec 6) (g : BitVec 3) (n : BitVec 1) (s : State) : Res :=
  s.vector2 d a b g n fun x y => BitVec.ofNat 32 (x.toNat * y.toNat / 2 ^ 32)
def execVmad (d a b : BitVec 6) (g : BitVec 3) (n : BitVec 1) (s : State) : Res := s.vector3 d a b g n fun x y z => x * y + z
def execVand (d a b : BitVec 6) (g : BitVec 3) (n : BitVec 1) (s : State) : Res := s.vector2 d a b g n fun x y => x &&& y
def execVor (d a b : BitVec 6) (g : BitVec 3) (n : BitVec 1) (s : State) : Res := s.vector2 d a b g n fun x y => x ||| y
def execVxor (d a b : BitVec 6) (g : BitVec 3) (n : BitVec 1) (s : State) : Res := s.vector2 d a b g n fun x y => x ^^^ y
/-- Shifts take their amount from b[4:0] (R81). -/
def execVshl (d a b : BitVec 6) (g : BitVec 3) (n : BitVec 1) (s : State) : Res := s.vector2 d a b g n fun x y => x <<< (fieldW y 0 5)
def execVshr (d a b : BitVec 6) (g : BitVec 3) (n : BitVec 1) (s : State) : Res := s.vector2 d a b g n fun x y => x >>> (fieldW y 0 5)
def execVsra (d a b : BitVec 6) (g : BitVec 3) (n : BitVec 1) (s : State) : Res := s.vector2 d a b g n fun x y => x.sshiftRight (fieldW y 0 5)

/-- Signed and unsigned minimum and maximum of words. -/
def minS (x y : Word) : Word := if y.slt x then y else x
def maxS (x y : Word) : Word := if x.slt y then y else x
def minU (x y : Word) : Word := if y.ult x then y else x
def maxU (x y : Word) : Word := if x.ult y then y else x

def execVmin (d a b : BitVec 6) (g : BitVec 3) (n : BitVec 1) (s : State) : Res := s.vector2 d a b g n minS
def execVmax (d a b : BitVec 6) (g : BitVec 3) (n : BitVec 1) (s : State) : Res := s.vector2 d a b g n maxS
def execVminu (d a b : BitVec 6) (g : BitVec 3) (n : BitVec 1) (s : State) : Res := s.vector2 d a b g n minU
def execVmaxu (d a b : BitVec 6) (g : BitVec 3) (n : BitVec 1) (s : State) : Res := s.vector2 d a b g n maxU

def execVpop (d a : BitVec 6) (g : BitVec 3) (n : BitVec 1) (s : State) : Res := s.vector1 d a g n fun x => BitVec.ofNat 32 (popcount x)
def execVclz (d a : BitVec 6) (g : BitVec 3) (n : BitVec 1) (s : State) : Res := s.vector1 d a g n fun x => BitVec.ofNat 32 (leadingZeros x)
def execVbrev (d a : BitVec 6) (g : BitVec 3) (n : BitVec 1) (s : State) : Res := s.vector1 d a g n fun x => maskOf fun i => x.getLsbD (31 - i)
/-- The exact absolute difference of signed words, as an unsigned word (R82). -/
def execVabsd (d a b : BitVec 6) (g : BitVec 3) (n : BitVec 1) (s : State) : Res :=
  s.vector2 d a b g n fun x y => BitVec.ofNat 32 (x.toInt - y.toInt).natAbs
/-- Every lane of the exec mask takes vA or vB by its guard predicate (R79, R82). -/
def execVsel (d a b : BitVec 6) (g : BitVec 3) (n : BitVec 1) (s : State) : Res :=
  s.vectorOp d.toNat 0#3 0#1 [a.toNat, b.toNat] [] fun x l =>
    if x.pget g.toNat l != (n == 1#1) then x.vget a.toNat l else x.vget b.toNat l
def execVmov (d a : BitVec 6) (g : BitVec 3) (n : BitVec 1) (s : State) : Res := s.vector1 d a g n fun x => x

/-- Four byte products added to an accumulator (R83). -/
def dot4 (ext : Byte → Int) (a b acc : Word) : Word :=
  acc + BitVec.ofInt 32 (((List.range 4).map fun i => ext (a.extractLsb' (8 * i) 8) * ext (b.extractLsb' (8 * i) 8)).sum)

def execVdot4 (d a b : BitVec 6) (g : BitVec 3) (n : BitVec 1) (s : State) : Res := s.vector3 d a b g n (dot4 BitVec.toInt)
def execVdot4u (d a b : BitVec 6) (g : BitVec 3) (n : BitVec 1) (s : State) : Res := s.vector3 d a b g n (dot4 fun x => (x.toNat : Int))

/-- Requantisation (R84). -/
def requant (lo hi : Int) (a : Word) (p : DWord) : Word :=
  let m := (p.extractLsb' 0 32).toInt
  let sh := field p 32 5
  let z := (p.extractLsb' 40 8).toInt
  let y := (a.toInt * m + 2 ^ 30) / 2 ^ 31
  let y := if y = 2 ^ 31 then 2 ^ 31 - 1 else y
  let y := if 0 < sh then (y + 2 ^ (sh - 1)) / 2 ^ sh else y
  BitVec.ofInt 32 (min (max (y + z) lo) hi)

def execVreq8 (d a : BitVec 6) (b : BitVec 5) (g : BitVec 3) (n : BitVec 1) (s : State) : Res :=
  s.vectorOp d.toNat g n [a.toNat] [b.toNat] fun x l => requant (-128) 127 (x.vget a.toNat l) (x.sget (l / 4) b.toNat)
def execVreq4 (d a : BitVec 6) (b : BitVec 5) (g : BitVec 3) (n : BitVec 1) (s : State) : Res :=
  s.vectorOp d.toNat g n [a.toNat] [b.toNat] fun x l => requant (-8) 7 (x.vget a.toNat l) (x.sget (l / 4) b.toNat)

def execVlane (d : BitVec 6) (g : BitVec 3) (n : BitVec 1) (s : State) : Res :=
  s.vectorOp d.toNat g n [] [] fun _ l => BitVec.ofNat 32 l
/-- The lane's task number (R82). -/
def execVtask (d : BitVec 6) (g : BitVec 3) (n : BitVec 1) (s : State) : Res :=
  s.issue fun r => s.vectorOp d.toNat g n [] [] fun _ l =>
    ((look? r.gang.lanes l).map fun t => BitVec.ofNat 32 t.num).getD 0#32
def execVbcs (d : BitVec 6) (a : BitVec 5) (g : BitVec 3) (n : BitVec 1) (s : State) : Res :=
  s.vectorOp d.toNat g n [] [a.toNat] fun x l => (x.sget (l / 4) a.toNat).extractLsb' 0 32

def execVaddi (d a : BitVec 6) (i : BitVec 10) (s : State) : Res := s.vectorImm d a i fun x y => x + y
def execVandi (d a : BitVec 6) (i : BitVec 10) (s : State) : Res := s.vectorImm d a i fun x y => x &&& y
def execVori (d a : BitVec 6) (i : BitVec 10) (s : State) : Res := s.vectorImm d a i fun x y => x ||| y
def execVxori (d a : BitVec 6) (i : BitVec 10) (s : State) : Res := s.vectorImm d a i fun x y => x ^^^ y
def execVshli (d a : BitVec 6) (i : BitVec 5) (s : State) : Res := s.vector1 d a 0#3 0#1 fun x => x <<< i.toNat
def execVshri (d a : BitVec 6) (i : BitVec 5) (s : State) : Res := s.vector1 d a 0#3 0#1 fun x => x >>> i.toNat
def execVsrai (d a : BitVec 6) (i : BitVec 5) (s : State) : Res := s.vector1 d a 0#3 0#1 fun x => x.sshiftRight i.toNat
def execVmini (d a : BitVec 6) (i : BitVec 10) (s : State) : Res := s.vectorImm d a i minS
def execVmaxi (d a : BitVec 6) (i : BitVec 10) (s : State) : Res := s.vectorImm d a i maxS
def execVmovi (d : BitVec 6) (i : BitVec 10) (s : State) : Res := s.vectorOp d.toNat 0#3 0#1 [] [] fun _ _ => i.signExtend 32
/-- Byte n[1:0] of a, sign-extended where n[2] is 1 (R85). -/
def execVunpk (d a : BitVec 6) (n : BitVec 3) (s : State) : Res :=
  s.vector1 d a 0#3 0#1 fun x =>
    let b : Byte := x.extractLsb' (8 * (n.extractLsb' 0 2).toNat) 8
    if n.getLsbD 2 then b.signExtend 32 else b.setWidth 32
/-- `IMM20 ++ 0x000` (R86). -/
def execVlui (d : BitVec 6) (i : BitVec 20) (s : State) : Res := s.vectorOp d.toNat 0#3 0#1 [] [] fun _ _ => i ++ 0#12

/-- The integer conditions of R32 and R87. -/
def intCond (cc : Nat) (a b : Word) : Bool :=
  match cc with
  | 0 => a == b
  | 1 => a != b
  | 2 => a.slt b
  | 3 => a.sle b
  | 4 => a.ult b
  | 5 => a.ule b
  | 6 => a &&& b != 0#32
  | _ => a &&& b == 0#32

def execVcmp (p : BitVec 7) (a b : BitVec 6) (c : BitVec 3) (s : State) : Res :=
  s.predOp p.toNat [a.toNat, b.toNat] [] fun x l => intCond c.toNat (x.vget a.toNat l) (x.vget b.toNat l)
def execVcmps (p : BitVec 7) (a : BitVec 6) (b : BitVec 5) (c : BitVec 3) (s : State) : Res :=
  s.predOp p.toNat [a.toNat] [b.toNat] fun x l => intCond c.toNat (x.vget a.toNat l) ((x.sget (l / 4) b.toNat).extractLsb' 0 32)
def execFcmp (p : BitVec 7) (a b : BitVec 6) (c : BitVec 3) (s : State) : Res :=
  s.floatCmp p.toNat [a.toNat, b.toNat] [] fun x l => floatCond c.toNat (f32 (x.vget a.toNat l)) (f32 (x.vget b.toNat l))
def execFcmps (p : BitVec 7) (a : BitVec 6) (b : BitVec 5) (c : BitVec 3) (s : State) : Res :=
  s.floatCmp p.toNat [a.toNat] [b.toNat] fun x l =>
    floatCond c.toNat (f32 (x.vget a.toNat l)) (f32 ((x.sget (l / 4) b.toNat).extractLsb' 0 32))

/-- The even register of a pair from its encoded half (R33). -/
def pairReg (k : BitVec 5) : Nat := 2 * k.toNat

/-- A pair's value as FP64. -/
def Arch.double (x : Arch) (r l : Nat) : Num := floatOf fFP64 (x.dget r l).toNat

def execDcmp (p : BitVec 7) (a b : BitVec 5) (c : BitVec 3) (s : State) : Res :=
  s.floatCmp p.toNat [pairReg a, pairReg a + 1, pairReg b, pairReg b + 1] [] fun x l =>
    floatCond c.toNat (x.double (pairReg a) l) (x.double (pairReg b) l)

/-- Predicate logic in each active lane (R89). -/
def State.predLogic (s : State) (p : Nat) (f : Arch → Nat → Bool) : Res := s.predOp p [] [] f

def execPand (p a b : BitVec 7) (s : State) : Res := s.predLogic p.toNat fun x l => x.pget a.toNat l && x.pget b.toNat l
def execPor (p a b : BitVec 7) (s : State) : Res := s.predLogic p.toNat fun x l => x.pget a.toNat l || x.pget b.toNat l
def execPxor (p a b : BitVec 7) (s : State) : Res := s.predLogic p.toNat fun x l => x.pget a.toNat l != x.pget b.toNat l
def execPandn (p a b : BitVec 7) (s : State) : Res := s.predLogic p.toNat fun x l => x.pget a.toNat l && !x.pget b.toNat l
def execPnot (p a : BitVec 7) (s : State) : Res := s.predLogic p.toNat fun x l => !x.pget a.toNat l
def execPmov (p a : BitVec 7) (s : State) : Res := s.predLogic p.toNat fun x l => x.pget a.toNat l
def execPset (p : BitVec 7) (s : State) : Res := s.predLogic p.toNat fun _ _ => true
def execPclr (p : BitVec 7) (s : State) : Res := s.predLogic p.toNat fun _ _ => false

end Sys2Proof.Machine
end

