-- ==== Sys2Proof/Machine/Memory.lean ====
section
/-!
DEFINITION. Loads, stores, tile moves, atomics, fences and waits: majors 0x20 to 0x26 (R154 to R163).
-/

namespace Sys2Proof.Machine

/-- A part at an address, not yet placed. -/
def partAt (lane : Nat) (va : DWord) (size : Nat) : APart := ⟨lane, va, size, none, false⟩

/-- The lanes awaited for the destinations of a load. -/
def awaited (dests : List Dest) : List Nat := dests.flatMap (·.lanes)

/-- Issue a load: the access is started and the destination is pending (R55, R154 to R156). -/
def State.load (s : State) (r : Running) (file reg cnt : Nat) (parts : List APart) (dests : List Dest) : Res :=
  let (id, t) := s.fresh
  t.startAccess r ⟨id, r.pc, r.cl.idx, .load id dests, parts, false, false⟩ fun t r =>
    .next (t.setRun (r.pend id file reg cnt (awaited dests) 0 []))

/-- Hold a store: the access is started and its data held under a later number (R127). `wide` says that a part acts for its
slice. -/
def State.store (s : State) (r : Running) (entries : Nat) (parts : List APart) (data : List (List Byte)) (wide : Bool := false) : Res :=
  let (id, t) := s.fresh
  t.startAccess r ⟨id, r.pc, r.cl.idx, .store, parts, false, wide⟩ fun t r => .next (t.holding r entries (.store id data))

/-- How many distinct 64-byte lines parts touch (R128). -/
def linesTouched (parts : List APart) : Nat := (parts.map fun p => p.va.toNat / 64).eraseDups.length

/-! ## Scalar loads and stores (R154) -/

/-- `S[b] + OFF5 * size` in a slice. -/
def Arch.scalarAddr (x : Arch) (b : BitVec 5) (o : BitVec 5) (size k : Nat) : DWord := x.sget k b.toNat + BitVec.ofNat 64 (o.toNat * size)

def State.scalarLoad (s : State) (d b : BitVec 5) (o : BitVec 5) (size : Nat) (sx : Bool) : Res :=
  s.issue fun r =>
    let x := r.gang.arch
    s.checked r { sr := [b.toNat], sw := [d.toNat], slices := x.acting }
      (s.load r 1 d.toNat 1 (x.acting.map fun k => partAt (4 * k) (x.scalarAddr b o size k) size)
        (x.acting.map fun k => ⟨false, [k * 32 + d.toNat], sx⟩))

def State.scalarStore (s : State) (d b : BitVec 5) (o : BitVec 5) (size : Nat) : Res :=
  s.issue fun r =>
    let x := r.gang.arch
    s.checked r { sr := [b.toNat, d.toNat], slices := x.acting }
      (s.store r 1 (x.acting.map fun k => partAt (4 * k) (x.scalarAddr b o size k) size)
        (x.acting.map fun k => bytesOf size (x.sget k d.toNat)) true)

def execSldB (d b o : BitVec 5) (s : State) : Res := s.scalarLoad d b o 1 true
def execSldBu (d b o : BitVec 5) (s : State) : Res := s.scalarLoad d b o 1 false
def execSldH (d b o : BitVec 5) (s : State) : Res := s.scalarLoad d b o 2 true
def execSldHu (d b o : BitVec 5) (s : State) : Res := s.scalarLoad d b o 2 false
def execSldW (d b o : BitVec 5) (s : State) : Res := s.scalarLoad d b o 4 true
def execSldWu (d b o : BitVec 5) (s : State) : Res := s.scalarLoad d b o 4 false
def execSldD (d b o : BitVec 5) (s : State) : Res := s.scalarLoad d b o 8 false
def execSstB (d b o : BitVec 5) (s : State) : Res := s.scalarStore d b o 1
def execSstH (d b o : BitVec 5) (s : State) : Res := s.scalarStore d b o 2
def execSstW (d b o : BitVec 5) (s : State) : Res := s.scalarStore d b o 4
def execSstD (d b o : BitVec 5) (s : State) : Res := s.scalarStore d b o 8

/-! ## Vector loads and stores (R155) -/

/-- The address of a lane: indexed by a vector register, or one address in each slice (R155). -/
def Arch.laneAddr (x : Arch) (b : BitVec 5) (e : BitVec 1) (i : BitVec 5) (disp l : Nat) : DWord :=
  x.sget (l / 4) b.toNat + (if e = 1#1 then zext64 (x.vget i.toNat l) else 0#64) + BitVec.ofNat 64 disp

/-- The strided address of a lane (R155). -/
def Arch.stridedAddr (x : Arch) (b i : BitVec 5) (o : BitVec 5) (l : Nat) : DWord :=
  x.sget (l / 4) b.toNat + BitVec.ofNat 64 (o.toNat * 4) + BitVec.ofNat 64 l * x.sget (l / 4) i.toNat

/-- The register of an index, where the form has one. -/
def indexRegs (e : BitVec 1) (i : BitVec 5) : List Nat := if e = 1#1 then [i.toNat] else []

/-- A vector load into register `d`, or the pair at `d` for 8 bytes, at the addresses of the active lanes. -/
def State.vectorLoad (s : State) (d size : Nat) (sx : Bool) (vr sr : List Nat) (addr : Arch → Nat → DWord) : Res :=
  s.issue fun r =>
    let x := r.gang.arch
    let act := bitsOf x.exec
    let cnt := if size = 8 then 2 else 1
    s.checked r { vr := vr, vw := (List.range cnt).map (d + ·), sr := sr, lanes := act, slices := slicesOf act }
      (s.load r 0 d cnt (act.map fun l => partAt l (addr x l) size)
        (act.map fun l => ⟨true, (List.range cnt).map fun i => (d + i) * 32 + l, sx⟩))

/-- A vector store of register `d`, or the pair at `d` for 8 bytes. -/
def State.vectorStore (s : State) (d size : Nat) (vr sr : List Nat) (addr : Arch → Nat → DWord) : Res :=
  s.issue fun r =>
    let x := r.gang.arch
    let act := bitsOf x.exec
    let data := if size = 8 then [d, d + 1] else [d]
    let parts := act.map fun l => partAt l (addr x l) size
    s.checked r { vr := data ++ vr, sr := sr, lanes := act, slices := slicesOf act }
      (s.store r (linesTouched parts) parts
        (act.map fun l => if size = 8 then bytesOf 8 (x.dget d l) else bytesOf size (zext64 (x.vget d l))))

/-- The load forms with an index or one address. -/
def State.loadLanes (s : State) (d : Nat) (b : BitVec 5) (e : BitVec 1) (i o : BitVec 5) (size : Nat) (sx : Bool) : Res :=
  s.vectorLoad d size sx (indexRegs e i) [b.toNat] fun x l => x.laneAddr b e i (o.toNat * size) l

/-- The store forms with an index or one address. -/
def State.storeLanes (s : State) (d : Nat) (b : BitVec 5) (e : BitVec 1) (i o : BitVec 5) (size : Nat) : Res :=
  s.vectorStore d size (indexRegs e i) [b.toNat] fun x l => x.laneAddr b e i (o.toNat * size) l

def execVldB (d : BitVec 6) (b : BitVec 5) (e : BitVec 1) (i o : BitVec 5) (s : State) : Res := s.loadLanes d.toNat b e i o 1 true
def execVldBu (d : BitVec 6) (b : BitVec 5) (e : BitVec 1) (i o : BitVec 5) (s : State) : Res := s.loadLanes d.toNat b e i o 1 false
def execVldH (d : BitVec 6) (b : BitVec 5) (e : BitVec 1) (i o : BitVec 5) (s : State) : Res := s.loadLanes d.toNat b e i o 2 true
def execVldHu (d : BitVec 6) (b : BitVec 5) (e : BitVec 1) (i o : BitVec 5) (s : State) : Res := s.loadLanes d.toNat b e i o 2 false
def execVldW (d : BitVec 6) (b : BitVec 5) (e : BitVec 1) (i o : BitVec 5) (s : State) : Res := s.loadLanes d.toNat b e i o 4 false
def execVldD (d b : BitVec 5) (e : BitVec 1) (i o : BitVec 5) (s : State) : Res := s.loadLanes (pairReg d) b e i o 8 false
def execVldsW (d : BitVec 6) (b i o : BitVec 5) (s : State) : Res :=
  s.vectorLoad d.toNat 4 false [] [b.toNat, i.toNat] fun x l => x.stridedAddr b i o l
/-- One word, read once for the whole gang, from the address of the lowest acting slice (R155). -/
def execVldbW (d : BitVec 6) (b o : BitVec 5) (s : State) : Res :=
  s.issue fun r =>
    let x := r.gang.arch
    let act := bitsOf x.exec
    s.checked r { vw := [d.toNat], sr := [b.toNat], slices := x.first?.toList }
      (match x.first? with
       | some k => s.load r 0 d.toNat 1 [partAt ((act.head?).getD 0) (x.scalarAddr b o 4 k) 4] [⟨true, act.map fun l => d.toNat * 32 + l, false⟩]
       | none => s.load r 0 d.toNat 1 [] [])

def execVstB (d : BitVec 6) (b : BitVec 5) (e : BitVec 1) (i o : BitVec 5) (s : State) : Res := s.storeLanes d.toNat b e i o 1
def execVstH (d : BitVec 6) (b : BitVec 5) (e : BitVec 1) (i o : BitVec 5) (s : State) : Res := s.storeLanes d.toNat b e i o 2
def execVstW (d : BitVec 6) (b : BitVec 5) (e : BitVec 1) (i o : BitVec 5) (s : State) : Res := s.storeLanes d.toNat b e i o 4
def execVstD (d b : BitVec 5) (e : BitVec 1) (i o : BitVec 5) (s : State) : Res := s.storeLanes (pairReg d) b e i o 8
def execVstsW (d : BitVec 6) (b i o : BitVec 5) (s : State) : Res :=
  s.vectorStore d.toNat 4 [] [b.toNat, i.toNat] fun x l => x.stridedAddr b i o l

/-! ## Tile moves (R156) -/

/-- The words of a tile move, lane by lane: lane, register and address; `turn` for TLDT and TSTT. -/
def Arch.tileParts (x : Arch) (d : Nat) (b i o : BitVec 5) (turn : Bool) : List (Nat × Nat × DWord) :=
  (bitsOf x.exec).flatMap fun j => (List.range 32).map fun k =>
    let base := x.scalarAddr b o 4 (j / 4)
    let q := x.sget (j / 4) i.toNat
    let (row, col) := if turn then (j, k) else (k, j)
    (j, d + k, base + BitVec.ofNat 64 row * q + BitVec.ofNat 64 (4 * col))

/-- Whether an address lies in a scratchpad window (R148). -/
def inScratch (a : DWord) : Bool :=
  match regionOf a with
  | .local_ _ | .cluster _ _ => true
  | _ => false

/-- The checks of a tile move: a pitch that is a multiple of 4, alignment, and addresses of scratchpads only, found in lane
order (R149) (DEDUCED, log 42). -/
def State.tileChecked (s : State) (r : Running) (i : BitVec 5) (ws : List (Nat × Nat × DWord)) (st : Bool) (k : Res) : Res :=
  match ws.find? fun w => field (r.gang.arch.sget (w.1 / 4) i.toNat) 0 2 != 0 || field w.2.2 0 2 != 0 with
  | some w => s.raise r codeMisalign (accessInfo 0 st w.1 w.2.2)
  | none =>
    match ws.findSome? fun w =>
        if !inScratch w.2.2 then some (w, codeScratch, 0)
        else match s.find r.gang.die r.gang.core r.gang.inst r.gang.ctx w.2.2 (bit st) with
          | .bad c form => some (w, c, form)
          | _ => none with
    | some (w, c, form) => s.raise r c (accessInfo form st w.1 w.2.2)
    | none => k

def State.tileLoad (s : State) (h : BitVec 1) (b i o : BitVec 5) (turn : Bool) : Res :=
  s.issue fun r =>
    let x := r.gang.arch
    let d := 32 * h.toNat
    let ws := x.tileParts d b i o turn
    s.checked r { vw := (List.range 32).map (d + ·), sr := [b.toNat, i.toNat], lanes := bitsOf x.exec, slices := x.acting }
      (s.tileChecked r i ws false
        (s.load r 0 d 32 (ws.map fun w => partAt w.1 w.2.2 4) (ws.map fun w => ⟨true, [w.2.1 * 32 + w.1], false⟩)))

def State.tileStore (s : State) (h : BitVec 1) (b i o : BitVec 5) (turn : Bool) : Res :=
  s.issue fun r =>
    let x := r.gang.arch
    let d := 32 * h.toNat
    let ws := x.tileParts d b i o turn
    s.checked r { vr := (List.range 32).map (d + ·), sr := [b.toNat, i.toNat], lanes := bitsOf x.exec, slices := x.acting }
      (s.tileChecked r i ws true
        (s.store r 32 (ws.map fun w => partAt w.1 w.2.2 4) (ws.map fun w => bytesOf 4 (zext64 (x.vget w.2.1 w.1)))))

def execTld (d : BitVec 1) (b i o : BitVec 5) (s : State) : Res := s.tileLoad d b i o false
def execTldt (d : BitVec 1) (b i o : BitVec 5) (s : State) : Res := s.tileLoad d b i o true
def execTst (d : BitVec 1) (b i o : BitVec 5) (s : State) : Res := s.tileStore d b i o false
def execTstt (d : BitVec 1) (b i o : BitVec 5) (s : State) : Res := s.tileStore d b i o true

/-! ## Atomics (R158, R159) -/

/-- The new value of a word under an atomic of R158: old value, data, swap data. Minors 16 and 17 stand for the
ADD.BF16 and MAX.F32 of a copy's reduction (R330). -/
def atomicNew (minor : Nat) (m v x : DWord) : DWord :=
  let m4 : Word := m.setWidth 32
  let v4 : Word := v.setWidth 32
  match minor with
  | 0 => zext64 (m4 + v4)
  | 1 => zext64 (minS m4 v4)
  | 2 => zext64 (maxS m4 v4)
  | 3 => zext64 (minU m4 v4)
  | 4 => zext64 (maxU m4 v4)
  | 5 => zext64 (m4 &&& v4)
  | 6 => zext64 (m4 ||| v4)
  | 7 => zext64 (m4 ^^^ v4)
  | 8 => zext64 v4
  | 9 => if m4 = v4 then zext64 (x.setWidth 32) else m
  | 10 => zext64 (fadd32 0 m4 v4).1
  | 11 => m + v
  | 12 => if m.ult v then v else m
  | 16 => BitVec.ofNat 64 (fadd fBF16 0 (floatOf fBF16 (field m 0 16)) (floatOf fBF16 (field v 0 16))).1
  | 17 => BitVec.ofNat 64 (floatPick fFP32 true false m4.toNat v4.toNat)
  | _ => if m = v then x else m

/-- The size in bytes of an atomic's word. -/
def atomicSize (minor : Nat) : Nat := if minor = 16 then 2 else if minor = 17 then 4 else if 11 ≤ minor then 8 else 4

/-- Hold an atomic, its old value pending in `d` (R158). -/
def State.atomicOp (s : State) (minor d : Nat) (b : BitVec 5) (e : BitVec 1) (i : BitVec 5) (order : BitVec 2) (scope : BitVec 3) : Res :=
  s.issue fun r =>
    let x := r.gang.arch
    let act := bitsOf x.exec
    let regs := if minor = 13 then [d, d + 1, d + 2, d + 3] else if minor = 9 || 11 ≤ minor then [d, d + 1] else [d]
    let cnt := if 11 ≤ minor then 2 else 1
    let parts := act.map fun l => partAt l (x.laneAddr b e i 0 l) (atomicSize minor)
    let data := act.map fun l =>
      if 11 ≤ minor then (x.dget d l, x.dget (d + 2) l) else (zext64 (x.vget d l), zext64 (x.vget (d + 1) l))
    s.checked r { vr := regs ++ indexRegs e i, vw := (List.range cnt).map (d + ·), sr := [b.toNat], lanes := act, slices := slicesOf act }
      (let (id, t) := s.fresh
       t.startAccess r ⟨id, r.pc, r.cl.idx, .atomic, parts, false, false⟩ fun t r =>
         .next (t.holding (r.pend id 0 d cnt act 0 []) (linesTouched parts) (.atomic minor order.toNat scope.toNat id data id)))

def execAadd (d : BitVec 6) (b : BitVec 5) (e : BitVec 1) (i : BitVec 5) (o : BitVec 2) (c : BitVec 3) (s : State) : Res := s.atomicOp 0 d.toNat b e i o c
def execAmin (d : BitVec 6) (b : BitVec 5) (e : BitVec 1) (i : BitVec 5) (o : BitVec 2) (c : BitVec 3) (s : State) : Res := s.atomicOp 1 d.toNat b e i o c
def execAmax (d : BitVec 6) (b : BitVec 5) (e : BitVec 1) (i : BitVec 5) (o : BitVec 2) (c : BitVec 3) (s : State) : Res := s.atomicOp 2 d.toNat b e i o c
def execAminu (d : BitVec 6) (b : BitVec 5) (e : BitVec 1) (i : BitVec 5) (o : BitVec 2) (c : BitVec 3) (s : State) : Res := s.atomicOp 3 d.toNat b e i o c
def execAmaxu (d : BitVec 6) (b : BitVec 5) (e : BitVec 1) (i : BitVec 5) (o : BitVec 2) (c : BitVec 3) (s : State) : Res := s.atomicOp 4 d.toNat b e i o c
def execAand (d : BitVec 6) (b : BitVec 5) (e : BitVec 1) (i : BitVec 5) (o : BitVec 2) (c : BitVec 3) (s : State) : Res := s.atomicOp 5 d.toNat b e i o c
def execAor (d : BitVec 6) (b : BitVec 5) (e : BitVec 1) (i : BitVec 5) (o : BitVec 2) (c : BitVec 3) (s : State) : Res := s.atomicOp 6 d.toNat b e i o c
def execAxor (d : BitVec 6) (b : BitVec 5) (e : BitVec 1) (i : BitVec 5) (o : BitVec 2) (c : BitVec 3) (s : State) : Res := s.atomicOp 7 d.toNat b e i o c
def execAxch (d : BitVec 6) (b : BitVec 5) (e : BitVec 1) (i : BitVec 5) (o : BitVec 2) (c : BitVec 3) (s : State) : Res := s.atomicOp 8 d.toNat b e i o c
def execAcas (d : BitVec 6) (b : BitVec 5) (e : BitVec 1) (i : BitVec 5) (o : BitVec 2) (c : BitVec 3) (s : State) : Res := s.atomicOp 9 d.toNat b e i o c
def execAfadd (d : BitVec 6) (b : BitVec 5) (e : BitVec 1) (i : BitVec 5) (o : BitVec 2) (c : BitVec 3) (s : State) : Res := s.atomicOp 10 d.toNat b e i o c
def execAaddD (d b : BitVec 5) (e : BitVec 1) (i : BitVec 5) (o : BitVec 2) (c : BitVec 3) (s : State) : Res := s.atomicOp 11 (pairReg d) b e i o c
def execAmaxuD (d b : BitVec 5) (e : BitVec 1) (i : BitVec 5) (o : BitVec 2) (c : BitVec 3) (s : State) : Res := s.atomicOp 12 (pairReg d) b e i o c
def execAcasD (d b : BitVec 5) (e : BitVec 1) (i : BitVec 5) (o : BitVec 2) (c : BitVec 3) (s : State) : Res := s.atomicOp 13 (pairReg d) b e i o c

/-! ## Fences and waits (R160 to R163) -/

/-- FENCE.REL stands in the held stream; it takes no buffer entry (R127, R160). -/
def execFenceRel (c : BitVec 3) (s : State) : Res := s.issue fun r => .next (s.holding r 0 (.fence c.toNat))
/-- FENCE.ACQ ends the flight as PARK does. -/
def execFenceAcq (_c : BitVec 3) (s : State) : Res := s.issue fun r => .next (s.endBy r wkResults 0#64 0#64)
/-- FENCE.FULL ends the flight; the gang goes on once the commit is acknowledged at the scope, at die scope as under PARKC,
and fetch then sees no word that was overwritten before (R39, R160). -/
def execFenceFull (c : BitVec 3) (s : State) : Res :=
  s.issue fun r => .next (s.endBy { r with gang := { r.gang with ackScope := c.toNat, fenced := true } } (if c = 3#3 then 1 else wkResults) 0#64 0#64)

def execQfence (m : BitVec 5) (s : State) : Res := s.issue fun r => .next (s.holding r 1 (.qfence m.toNat))

/-- WAITA: the address and the value come from the lowest acting slice; with none, the flight only ends
(R161). -/
def execWaita (d a : BitVec 5) (s : State) : Res :=
  s.issue fun r =>
    let x := r.gang.arch
    s.checked r { sr := [a.toNat, d.toNat], slices := x.first?.toList }
      (match x.first? with
       | none => .next (s.endBy r wkResults 0#64 0#64)
       | some k =>
         let va := x.sget k a.toNat
         let (id, t) := s.fresh
         t.startAccess r ⟨id, r.pc, r.cl.idx, .watch, [partAt (4 * k) va 4], false, true⟩ fun t r =>
           .next (t.endBy r 2 va (BitVec.ofNat 64 (field (x.sget k d.toNat) 0 32))))

def execWaitq (d : BitVec 5) (q : BitVec 3) (s : State) : Res :=
  s.issue fun r =>
    let x := r.gang.arch
    s.checked r { sr := [d.toNat], slices := x.first?.toList }
      (match x.first? with
       | none => .next (s.endBy r wkResults 0#64 0#64)
       | some k => .next (s.endBy r 7 (BitVec.ofNat 64 q.toNat) (BitVec.ofNat 64 (field (x.sget k d.toNat) 0 63))))

/-! ## Engine queues (R163 to R166) -/

/-- QSEQ reads its queue at the commit (R163). -/
def execQseq (d : BitVec 5) (q : BitVec 3) (s : State) : Res :=
  s.issue fun r =>
    s.checked r { sw := [d.toNat] }
      (let (tag, t) := s.fresh
       .next (t.setRun ((r.hold tag 0 (.qseq q.toNat tag)).pend tag 1 d.toNat 1 [] 1 [])))

/-- A copy command block from its 64 bytes (R164). -/
def blockOf (bs : List Byte) : Block :=
  let w := fun (o : Nat) => BitVec.ofNat 32 (natOfBytes ((bs.drop o).take 4))
  let d := fun (o : Nat) => BitVec.ofNat 64 (natOfBytes ((bs.drop o).take 8))
  ⟨d 0, d 8, (w 16).toNat, (w 20).toNat, (w 24).toNat, (w 28).toNat, d 32, w 40, w 44, w 48, w 52, d 56⟩

def Block.notify (b : Block) : Bool := b.ctrl.getLsbD 0
def Block.redop (b : Block) : Nat := fieldW b.ctrl 1 3
def Block.follow (b : Block) : Nat := fieldW b.ctrl 4 2
def Block.nodeReg (b : Block) : Nat := fieldW b.ctrl 6 4
def Block.slot (b : Block) : Nat := fieldW b.ctrl 10 6
def Block.mcast (b : Block) : Bool := b.ctrl.getLsbD 16

/-- The size of an element of a reduction (R166). -/
def Block.elem (b : Block) : Nat := if b.redop = 2 then 2 else 4

/-- The byte offsets of the fields that the block's broken rules charge (R166). -/
def State.blockErrors (s : State) (g : Gang) (b : Block) : List Nat :=
  let x := s.die g.die
  let when := fun (c : Bool) (o : Nat) => if c then [o] else []
  let disabled := (List.range 16).any fun p => b.mcmask.getLsbD p &&
    (match x.coreAt? (x.cluster g.core * 16 + p) with
     | some _ => !x.sites.contains (x.cluster g.core * 16 + p)
     | none => true)
  let local_ := match regionOf b.dst with
    | .local_ off => decide (off < 0x80000)
    | _ => false
  let odd := fun (n : Nat) => b.redop != 0 && n % b.elem != 0
  when (b.rowBytes = 0 || decide (65536 < b.rowBytes)) 16 ++ when (b.rows = 0 || decide (65536 < b.rows)) 20
  ++ when (b.zero != 0#32) 52 ++ when (fieldW b.mcmask 16 16 != 0) 48 ++ when (fieldW b.ctrl 17 15 != 0) 44
  ++ when (decide (5 ≤ b.redop) || b.follow = 3) 44
  ++ when (b.notify && (field b.naddr 0 2 != 0 || !inScratch b.naddr)) 32
  ++ when (b.mcast && (fieldW b.mcmask 0 16 = 0 || disabled)) 48 ++ when (b.mcast && !local_) 8
  ++ when (odd b.rowBytes) 16 ++ when (odd b.spitch) 24 ++ when (odd b.dpitch) 28 ++ when (odd b.src.toNat) 0 ++ when (odd b.dst.toNat) 8

/-- The first fault of a block, by kind (R166): its code and FAULTINFO. -/
def State.blockFault (s : State) (r : Running) (k : Nat) (b : Block) : Option (Nat × DWord) :=
  let g := r.gang
  match s.blockErrors g b with
  | e :: es => some (codeIllins, BitVec.ofNat 64 (r.cl.idx % 16 + 7 * 16 + (es.foldl min e) * 256 + k * 2 ^ 16))
  | [] =>
    if (b.follow = 1 || b.follow = 2) && g.arch.nget b.nodeReg = 0 then some (codeBadnode, BitVec.ofNat 64 b.nodeReg)
    else if b.follow = 2 && decide ((((s.inst? g.die g.inst).map (·.accslots)).getD 0) ≤ b.slot) then some (codeBadattr, BitVec.ofNat 64 b.slot)
    else
      let acc := fun (a : DWord) => match regionOf a with
        | .accum _ => true
        | _ => false
      if acc b.src then some (codeProt, accessInfo 0 false (4 * k) b.src)
      else if acc b.dst then some (codeProt, accessInfo 0 true (4 * k) b.dst)
      else none

/-- Read the blocks of the acting slices in increasing order (R165). -/
def State.readBlocks (s : State) (r : Running) (a : Nat) : List Nat → List (Nat × Block) → (State → Running → List (Nat × Block) → Res) → Res
  | [], bs, f => f s r bs
  | k :: ks, bs, f =>
    let va := r.gang.arch.sget k a
    match s.readNow r va 64 with
    | (.bad c form, t, q) => t.raiseRead q c (accessInfo form false (4 * k) va)
    | (.bytes b p, t, q) => if p then t.raisePoison q (accessInfo 0 false (4 * k) va) else t.readBlocks q a ks (bs ++ [(k, blockOf b)]) f

/-- CPY: each acting slice issues one command (R165, R166). -/
def execCpy (d a : BitVec 5) (q : BitVec 2) (s : State) : Res :=
  s.issue fun r =>
    let x := r.gang.arch
    s.checked r { sr := [a.toNat], sw := if d = 0#5 then [] else [d.toNat], slices := x.acting }
      (match x.acting.find? fun k => field (x.sget k a.toNat) 0 6 != 0 with
       | some k => s.raise r codeMisalign (accessInfo 0 false (4 * k) (x.sget k a.toNat))
       | none =>
         s.withPlaced r (x.acting.map fun k => x.sget k a.toNat) 64 fun s r => s.readBlocks r a.toNat x.acting [] fun s r bs =>
           match bs.findSome? fun b => s.blockFault r b.1 b.2 with
           | some (c, info) => s.raise r c info
           | none =>
             let (tag, t) := s.fresh
             let held := bs.foldl (fun (acc : State × Running) b =>
               let (n, u) := acc.1.fresh
               (u, acc.2.hold n 1 (.cpy q.toNat b.2 (if b.2.follow = 0 then 0 else acc.2.gang.arch.nget b.2.nodeReg) tag b.1))) (t, r)
             .next (held.1.setRun (if d = 0#5 then held.2 else held.2.pend tag 1 d.toNat 1 (x.acting.map (4 * ·)) 0 [])))

end Sys2Proof.Machine
end

