-- ==== Sys2Proof/Machine/Pipe.lean ====
section
/-!
DEFINITION. Enqueues, launches, dependence counters and groups: majors 0x30 (ENQ, ENQV, LAUNCH), 0x31 and
0x32 (R238 to R241, R271 to R275).
-/

namespace Sys2Proof.Machine

/-! ## Enqueues (R271) -/

/-- The words of a record padded to the stage's ARGS; none where the stage is not in the pipeline or takes
fewer words (ILLINS, reason 8). -/
def State.recordArgs (s : State) (g : Gang) (stage n : Nat) : Option Nat :=
  match (s.inst? g.die g.inst).bind fun i => i.stages[stage]? with
  | some st => if n ≤ st.args && g.ctx != firmware then some st.args else none
  | none => none

/-- Words padded with zeros. -/
def padWords (ws : List Word) (n : Nat) : List Word := ws ++ List.replicate (n - ws.length) 0#32

/-- Read `n` words at an address at issue, each translated by itself (R271). -/
def State.readWords (s : State) (r : Running) (lane : Nat) (va : DWord) : Nat → List Word → (State → Running → List Word → Res) → Res
  | 0, ws, f => f s r ws
  | n + 1, ws, f =>
    match s.readNow r va 4 with
    | (.bad c form, t, q) => t.raiseRead q c (accessInfo form false lane va)
    | (.bytes b p, t, q) =>
      if p then t.raisePoison q (accessInfo 0 false lane va)
      else t.readWords q lane (va + 4#64) n (ws ++ [BitVec.ofNat 32 (natOfBytes b)]) f

/-- Read a record of each acting slice and hold an effect made of it, in increasing slice order. The effects of one
instruction take one buffer entry together, `entry` the next of them (R271). -/
def State.holdRecords (s : State) (r : Running) (a n args : Nat) (e : List Word → Eff) (entry : Nat) : List Nat → Res
  | [] => .next (s.setRun r)
  | k :: ks =>
    s.readWords r (4 * k) (r.gang.arch.sget k a) n [] fun s r ws =>
      let (h, t) := s.fresh
      t.holdRecords (r.hold h entry (e (padWords ws args))) a n args e 0 ks

/-- The alignment of the record addresses of slices (R271). -/
def State.recordAligned (s : State) (r : Running) (a : Nat) (ks : List Nat) (k : Res) : Res :=
  match ks.find? fun k => field (r.gang.arch.sget k a) 0 2 != 0 with
  | some j => s.raise r codeMisalign (accessInfo 0 false (4 * j) (r.gang.arch.sget j a))
  | none => k

def execEnq (a : BitVec 5) (n g : BitVec 4) (s : State) : Res :=
  s.issue fun r =>
    let x := r.gang.arch
    s.checked r { sr := [a.toNat], slices := x.acting }
      (match s.recordArgs r.gang g.toNat (n.toNat + 1) with
       | none => s.illins r 8
       | some args =>
         s.recordAligned r a.toNat x.acting
           (s.withPlaced r (x.acting.map fun k => x.sget k a.toNat) (4 * (n.toNat + 1)) fun s r =>
             s.holdRecords r a.toNat (n.toNat + 1) args (fun ws => .enq g.toNat ws) 1 x.acting))

def execEnqv (f : BitVec 5) (n g : BitVec 4) (s : State) : Res :=
  s.issue fun r =>
    let x := r.gang.arch
    let regs := (List.range (n.toNat + 1)).map (f.toNat + ·)
    let act := bitsOf x.exec
    s.checked r { vr := regs, lanes := act }
      (match s.recordArgs r.gang g.toNat (n.toNat + 1) with
       | none => s.illins r 8
       | some args =>
         let held := act.foldl (fun (acc : State × Running) l =>
           let (h, t) := acc.1.fresh
           (t, acc.2.hold h (if act.head? == some l then 1 else 0) (.enq g.toNat (padWords (regs.map fun v => x.vget v l) args)))) (s, r)
         .next (held.1.setRun held.2))

/-! ## LAUNCH (R273) -/

/-- LAUNCH asks the target die's Vestibule at commit; its answer is pending. `t` is 4 for the issuing
die. -/
def execLaunch (d a : BitVec 5) (t : BitVec 3) (s : State) : Res :=
  s.issue fun r =>
    let x := r.gang.arch
    s.checked r { sr := [a.toNat], sw := [d.toNat], slices := x.first?.toList }
      (match x.first? with
       | none => .next (s.setRun r)
       | some k =>
         let die := if t.toNat = 4 then r.gang.die else t.toNat
         let (tag, u) := s.fresh
         .next (u.setRun ((r.hold tag 1 (.launch (x.sget k a.toNat) die tag)).pend tag 1 d.toNat 1 [] 1 [])))

/-! ## Dependence counters (R274, R275) -/

/-- The next generation of a slot: it rises on each reuse and skips 0. -/
def nextGen (gen bits : Nat) : Nat := let g := (gen + 1) % 2 ^ bits; if g = 0 then 1 else g

/-- The first free slot of a table of `n`, looking from one slot onward and round (at most `fuel` of them). -/
def freeSlot {α : Type} (n : Nat) (m : List (Nat × α)) (used : α → Bool) (k : Nat) : (fuel : Nat) → Option Nat
  | 0 => none
  | fuel + 1 =>
    match look? m (k % n) with
    | none => some (k % n)
    | some x => if used x then freeSlot n m used (k + 1) fuel else some (k % n)

/-- DEPNEW takes a free slot at issue, which one being open (DESIGN CHOICE, log 22); a count of 0, a full table or no acting slice gives 0. -/
def execDepnew (d a : BitVec 5) (s : State) : Res :=
  s.issue fun r =>
    let x := r.gang.arch
    s.checked r { sr := [a.toNat], sw := [d.toNat], slices := x.first?.toList }
      (let count := match x.first? with
         | some k => field (x.sget k a.toNat) 0 32
         | none => 0
       let die := r.gang.die
       let table := (s.die die).counters
       let (tag, s1) := s.fresh
       let (start, t) := s1.pick 16384
       let deliver := fun (u : State) (q : Running) (id : DWord) =>
         Host.Outcome.next (u.setRun (q.pend tag 1 d.toNat 1 [] 0 (x.scalarDeliv d.toNat id)))
       match (if count = 0 then none else freeSlot 16384 table (fun c => c.live) start 16384) with
       | none => deliver t r 0#64
       | some slot =>
         let gen := nextGen (((look? table slot).map (·.gen)).getD 0) 18
         let id := makeId (slot + gen * 2 ^ 14) die r.gang.ctx
         let u := t.onDie die fun y => { y with counters := put? y.counters slot (some ⟨gen, r.gang.ctx, true, count, none, false, 0#32⟩) }
         deliver u { r with gang := { r.gang with cresv := id :: r.gang.cresv } } id)

/-- DEPSIG decrements by `m` per active lane (R275). -/
def execDepsig (a : BitVec 5) (m : BitVec 12) (s : State) : Res :=
  s.issue fun r =>
    let x := r.gang.arch
    let act := bitsOf x.exec
    s.checked r { sr := [a.toNat], slices := slicesOf act }
      (let ids := act.map fun l => x.sget (l / 4) a.toNat
       match ids.find? fun id => idCtx id != r.gang.ctx with
       | some id => s.raise r codeProt (form3 3 id)
       | none => .next (s.holding r 1 (.depsig (ids.map fun id => (id, m.toNat)))))

def execDepwait (a : BitVec 5) (s : State) : Res :=
  s.issue fun r =>
    let x := r.gang.arch
    s.checked r { sr := [a.toNat], slices := x.first?.toList }
      (match x.first? with
       | none => .next (s.endBy r wkResults 0#64 0#64)
       | some k =>
         let id := x.sget k a.toNat
         if idCtx id != r.gang.ctx then s.raise r codeProt (form3 3 id) else .next (s.endBy r 6 id r.pc))

/-- The fault of a DEPARM of a counter: another context, not live, already armed (R275). -/
def State.armFault (s : State) (ctx : Nat) (id : DWord) : Option Nat :=
  if idCtx id != ctx then some 3
  else match s.counter? id with
    | none => some 1
    | some c => if c.armed.isSome || c.fired then some 6 else none

def execDeparm (d a : BitVec 5) (n g : BitVec 4) (s : State) : Res :=
  s.issue fun r =>
    let x := r.gang.arch
    s.checked r { sr := [d.toNat, a.toNat], slices := x.first?.toList }
      (match x.first? with
       | none => .next (s.setRun r)
       | some k =>
         match s.recordArgs r.gang g.toNat (n.toNat + 1) with
         | none => s.illins r 8
         | some args =>
           let id := x.sget k d.toNat
           match s.armFault r.gang.ctx id with
           | some reason => s.raise r codeProt (form3 reason id)
           | none =>
             s.recordAligned r a.toNat [k]
               (s.withPlaced r [x.sget k a.toNat] (4 * (n.toNat + 1)) fun s r =>
                 s.holdRecords r a.toNat (n.toNat + 1) args (fun ws => .deparm id g.toNat ws) 1 [k]))

/-! ## Groups (R238 to R241) -/

/-- Why an identifier may not be used by a gang: another die, another context, not live (R240) (DEDUCED, log 42). -/
def State.groupFault (s : State) (g : Gang) (id : DWord) : Option Nat :=
  if idDie id != g.die then some 2
  else if idCtx id != g.ctx then some 3
  else if (s.group? id).isNone then some 1 else none

/-- The groups of a lane's task after a join or a leave (R240). -/
def Eff.groupsAfter (e : Eff) (l : Nat) (ids : List DWord) : List DWord :=
  match e with
  | .gjoin ps => ps.foldl (fun ids p => if p.1 = l && !ids.contains p.2 then ids ++ [p.2] else ids) ids
  | .gleave ps => ps.foldl (fun ids p => if p.1 = l then ids.erase p.2 else ids) ids
  | _ => ids

/-- The groups of a lane's task after the changes of its earlier flights that are on their way and the open flight's own
(R240). -/
def State.groupsOf (s : State) (g : Gang) (l : Nat) : List DWord :=
  let earlier := (s.drain.filter fun o => o.who.root == g.root).filterMap fun o => match o.cargo with
    | .eff e => some e
    | _ => none
  (earlier ++ g.held.map (·.eff)).foldl (fun ids e => e.groupsAfter l ids) (((look? g.lanes l).map (·.groups)).getD [])

/-- The groups that the gang's own earlier flights have made and whose making is on its way: an instruction that names one waits for
it (R240). -/
def State.makings (s : State) (g : Gang) (ids : List DWord) : List Nat :=
  (s.drain.filter fun o => o.who.root == g.root && (match o.cargo with
    | .eff (.gnew id) => ids.contains id
    | _ => false)).flatMap (·.effs)

/-- The changes of some groups by the gang's own earlier flights that are on their way, the end of its tasks among them: a read of a member
count follows them (R56, R240). -/
def State.changes (s : State) (g : Gang) (ids : List DWord) : List Nat :=
  (s.drain.filter fun o => o.who.root == g.root && (match o.cargo with
    | .eff (.gnew id) => ids.contains id
    | .eff (.gjoin ps) | .eff (.gleave ps) => ps.any fun p => ids.contains p.2
    | .eff (.ended _) => true
    | _ => false)).flatMap (·.effs)

/-- The checks of GJOIN and GLEAVE, lane by lane: the identifier, a failed group, and for a join a fifth
membership (R240, R245). -/
def State.groupChecked (s : State) (r : Running) (join : Bool) (ps : List (Nat × DWord)) (k : Res) : Res :=
  let makings := s.makings r.gang (ps.map (·.2))
  if !makings.isEmpty then .next (s.pause r [] makings)
  else match ps.findSome? fun p =>
      match s.groupFault r.gang p.2 with
      | some n => some (n, p.2)
      | none =>
        if ((s.group? p.2).map (·.failed)).getD false then some (8, p.2)
        else if join && !(s.groupsOf r.gang p.1).contains p.2 && decide (4 ≤ (s.groupsOf r.gang p.1).length) then some (5, p.2)
        else none with
  | some (8, id) => s.raisePoison r (form3 8 id)
  | some (n, id) => s.raise r codeProt (form3 n id)
  | none => k

/-- GNEW reserves a free slot at issue, which one being open (DESIGN CHOICE, log 22); the making of the group is held. A full table gives 0 (R240). -/
def execGnew (d : BitVec 5) (s : State) : Res :=
  s.issue fun r =>
    s.checked r { sw := [d.toNat] }
      (let x := r.gang.arch
       let die := r.gang.die
       let table := (s.die die).groups
       let (tag, s1) := s.fresh
       let (start, t) := s1.pick 4096
       match freeSlot 4096 table (fun g => g.live || g.reserved) start 4096 with
       | none => .next (t.setRun (r.pend tag 1 d.toNat 1 [] 0 (x.scalarDeliv d.toNat 0#64)))
       | some slot =>
         let gen := nextGen (((look? table slot).map (·.gen)).getD 0) 20
         let id := makeId (slot + gen * 2 ^ 12) die r.gang.ctx
         let u := t.onDie die fun y =>
           { y with groups := put? y.groups slot (some ⟨gen, r.gang.ctx, r.gang.inst, true, false, [], [], 0, false, 0#32⟩) }
         let q := (r.hold tag 1 (.gnew id)).pend tag 1 d.toNat 1 [] 0 (x.scalarDeliv d.toNat id)
         .next (u.setRun { q with gang := { q.gang with gresv := id :: q.gang.gresv } }))

/-- The active lanes with the group that each one's slice names. -/
def Arch.laneIds (x : Arch) (a : Nat) : List (Nat × DWord) := (bitsOf x.exec).map fun l => (l, x.sget (l / 4) a)

def execGjoin (a : BitVec 5) (s : State) : Res :=
  s.issue fun r =>
    let ps := r.gang.arch.laneIds a.toNat
    s.checked r { sr := [a.toNat], slices := slicesOf (ps.map (·.1)) }
      (s.groupChecked r true ps (.next (s.holding r 1 (.gjoin ps))))

def execGleave (a : BitVec 5) (s : State) : Res :=
  s.issue fun r =>
    let ps := r.gang.arch.laneIds a.toNat
    s.checked r { sr := [a.toNat], slices := slicesOf (ps.map (·.1)) }
      (s.groupChecked r false ps (.next (s.holding r 1 (.gleave ps))))

/-- The lowest executing slice that holds an occupied lane (R240). -/
def Arch.lead (x : Arch) : Nat := (x.slicesList.find? fun k => x.occ &&& sliceMask k != 0#32).getD 0

/-- GBAR ends the flight; the arrival follows its effects (R241). Its address stands with it until the
commit, for the checks that are made there. -/
def execGbar (a : BitVec 5) (s : State) : Res :=
  s.issue fun r =>
    let x := r.gang.arch
    s.checked r { sr := [a.toNat], slices := [x.lead] }
      (let id := x.sget x.lead a.toNat
       s.groupChecked r false [(4 * x.lead, id)] (.next (s.endBy r 5 id r.pc)))

/-- GSIZE: the member count as the table reads it; 0 for an identifier that is not live (R240). The table reads it when the instruction issues
(DESIGN CHOICE, log 75). A live group of another die or context gives its count too (DESIGN CHOICE, log 42: the spec gives no answer for it). -/
def execGsize (d a : BitVec 5) (s : State) : Res :=
  s.issue fun r =>
    let x := r.gang.arch
    s.checked r { sr := [a.toNat], sw := [d.toNat], slices := [x.lead] }
      (let id := x.sget x.lead a.toNat
       let changes := s.changes r.gang [id]
       if !changes.isEmpty then .next (s.pause r [] changes)
       else
         let n := match s.group? id with
           | some g => g.members.length
           | none => 0
         let (tag, t) := s.fresh
         .next (t.setRun (r.pend tag 1 d.toNat 1 [] 0 (x.scalarDeliv d.toNat (BitVec.ofNat 64 n)))))

end Sys2Proof.Machine
end

