-- ==== Sys2Proof/Machine/Engine.lean ====
section
/-!
DEFINITION. What the engines of a core share: queue sequences, the ERR flags and engine fault records (R162, R167, R195, R290).
-/

namespace Sys2Proof.Machine

/-- A node as it is appended: nothing of it is evaluated. -/
def Node.fresh (op : NodeOp) (rows cols fmt : Nat) (site : DWord) (siteIdx ctx inst : Nat) : Node :=
  { op := op, rows := rows, cols := cols, fmt := fmt, site := site, siteIdx := siteIdx, ctx := ctx, inst := inst, vals := [], sticky := 0#7,
    evalAge := 0, spilled := false, spillAt := none }

/-- An evaluation as it enters the matrix queue: not planned yet. -/
def Eval.fresh (id gid : Nat) (who : Who) (pc : DWord) (idx node : Nat) (kind : EKind) : Eval :=
  { id := id, gid := gid, who := who, pc := pc, idx := idx, node := node, kind := kind, planned := false, pnodes := [], steps := [],
    wait := none, busy := false, helpers := [], back := none, after := [] }

/-- The key of a context's engine queue: copy queues 0 to 3, matrix queue 4. -/
def queueKey (ctx q : Nat) : Nat := ctx * 5 + q

def Core.issuedSeq (c : Core) (ctx q : Nat) : BitVec 63 := look 0#63 c.issued (queueKey ctx q)
def Core.doneSeq (c : Core) (ctx q : Nat) : BitVec 63 := look 0#63 c.done (queueKey ctx q)
def Core.queue (c : Core) (ctx q : Nat) : List Cmd := look [] c.queues (queueKey ctx q)
def Core.setQueue (c : Core) (ctx q : Nat) (l : List Cmd) : Core := { c with queues := put [] c.queues (queueKey ctx q) l }
def Core.setDone (c : Core) (ctx q : Nat) (n : BitVec 63) : Core := { c with done := put 0#63 c.done (queueKey ctx q) n }

/-- When a command or a join came into its copy queue. -/
def Cmd.age : Cmd → Nat
  | .copy _ _ _ _ a | .join _ _ a => a
  | .eval _ => 0

/-- Whether a command is the join of a number. -/
def Cmd.isJoin (id : Nat) : Cmd → Bool
  | .join n _ _ => n == id
  | _ => false

/-- Whether the engines of a context go on in a queue: it runs, or it drains and a row is unfinished (R277). -/
def State.engineGoes (s : State) (c : Core) (key : Nat) : Bool :=
  (s.ctx (key / 5)).run == 1 || ((s.ctx (key / 5)).run == 2 && ((look? c.copying key).any fun p => p.beat != 0))

/-- Whether a copy queue, which all contexts share, has something of another context before an entry of a context's, commands and joins
alike; a context whose engines have stopped holds nobody back (R163, R168, R277, R331). -/
def State.olderIn (s : State) (c : Core) (key age : Nat) : Bool :=
  c.queues.any fun e => e.1 != key && e.1 % 5 == key % 5 && (e.2.head?.any fun h => decide (h.age < age)) && s.engineGoes c e.1

/-- Give a queue's next issue sequence (R162). -/
def State.nextSeq (s : State) (d core ctx q : Nat) : Nat × State :=
  let n := (s.core d core).issuedSeq ctx q + 1#63
  (n.toNat, s.onCore d core fun c => { c with issued := put 0#63 c.issued (queueKey ctx q) n })

/-- A command has completed: the completion sequence rises and those who wait for it become eligible
(R162, R133). -/
def State.seqDone (s : State) (d core ctx q seq : Nat) : State :=
  let s1 := s.onCore d core fun c => c.setDone ctx q (BitVec.ofNat 63 seq)
  { s1 with gangs := s1.gangs.map fun g =>
      if g.die = d && g.core = core && g.ctx = ctx && g.phase == .parked && g.wakeKind = 7 && g.wakeOp == BitVec.ofNat 64 q
          && decide (g.wakeOp2.toNat ≤ seq) then { g with woken := true } else g }

/-- The ERR flag of an instance in a core's queue (R167). -/
def errKey (core q : Nat) : Nat := core * 5 + q
def State.errored (s : State) (d slot core q : Nat) : Bool := ((s.inst? d slot).map fun i => i.errFlags.contains (errKey (coreOf d slot core) q)).getD false
def State.setErr (s : State) (d slot core q : Nat) : State :=
  s.onInst d slot fun i => { i with errFlags := (errKey (coreOf d slot core) q :: i.errFlags).eraseDups }

/-- An engine-command record of kind 1 to the handler, with the ERR flag set (R167, R195, R290). -/
def State.engineFault (s : State) (w : Who) (q seq : Nat) (code : Nat) (info site : DWord) (siteIdx : Nat) : State :=
  let f : FaultInfo := ⟨code, info, 0#64⟩
  let lowest := ((w.lanes.zip w.tasks).foldl (fun (m : Nat × Nat) e => if e.1 < m.1 then e else m) (32, noTask)).2
  (s.setErr w.die w.inst w.core q).report w.die w.inst w.ctx w.handler w.root f
    (recordWords f 1 w.stage w.inst lowest 0#32 0#32 0#64 site siteIdx q w.core (BitVec.ofNat 64 seq)
      (s.dtc w.die % 2 ^ 32))

/-- A die's causal vector: what it has applied of the other dies, and what it has sent (R308). -/
def State.vector (s : State) (d : Nat) : List Nat := (s.die d).applied.set d (s.die d).sent

/-- Send an effect that an engine makes, by itself: it is of no flight. -/
def State.emitEff (s : State) (w : Who) (e : Eff) : State :=
  let (id, t) := s.fresh
  { t with drain := t.drain ++ [⟨id, [id], [], { w with flight := 0 }, false, false, s.vector w.die, .eff e, [], false, [], []⟩] }

end Sys2Proof.Machine
end

