-- ==== Sys2Proof/Machine/Tensor.lean ====
section
/-!
DEFINITION. Tensor descriptors, the checks of R175, and reading one element of a tensor with its block and
descriptor scales (R58, R69 to R75, R173, R174, R202).
-/

namespace Sys2Proof.Machine

/-! ## Formats -/

def fSparse16 : Nat := 0x10
def fSparseQ4 : Nat := 0x13

/-- Whether a format code is one of R76. -/
def formatKnown (f : Nat) : Bool := f ≤ 0x0A || (0x10 ≤ f && f ≤ 0x13)
def isSparse (f : Nat) : Bool := 0x10 ≤ f
def isQ4 (f : Nat) : Bool := f == fQ4B || f == fSparseQ4

/-- The size of a dense element in bits; INT4 is half a byte (R76). -/
def elemBits (f : Nat) : Nat :=
  match f with
  | 0x00 | 0x09 => 32
  | 0x01 | 0x02 | 0x10 | 0x11 => 16
  | 0x0A => 64
  | 0x07 => 4
  | _ => 8

/-- The class of a value type: 0 Float, 1 Integer, 2 Double (R177). -/
def classOf (f : Nat) : Nat := if isInt f then 1 else if f = fFP64 then 2 else 0

/-- What a column count must be a multiple of (R73, R74). -/
def colUnit (f : Nat) : Nat := if f = fSparseQ4 then 48 else if f = fQ4B || isSparse f then 24 else 1

/-- The bytes of one row (R73 to R75). -/
def rowBytes (f cols n : Nat) : Nat :=
  if f = fQ4B then cols / 24 * 16
  else if f = fSparseQ4 then cols / 48 * 16
  else if isSparse f then cols / 24 * n * (elemBits f / 8)
  else ceilDiv (cols * elemBits f) 8

/-! ## Descriptors (R173, R175) -/

/-- A descriptor's contents from its 32 bytes. -/
def descOf (bs : List Byte) : TDesc :=
  let n := fun (o k : Nat) => natOfBytes ((bs.drop o).take k)
  { base := BitVec.ofNat 64 (n 0 8), rows := n 8 4, cols := n 12 4, pitch := n 16 4, fmt := n 20 1 % 64, colMajor := n 21 1 = 1,
    sparseN := n 22 1, scale := n 23 1 / 4 % 4, lenient := n 23 1 / 2 % 2 = 1, strict := n 23 1 % 2 = 1,
    aux := BitVec.ofNat 64 (n 24 8) }

/-- The offset in the accumulator window of an address there. -/
def accumOff (a : DWord) : Option Nat :=
  match regionOf a with
  | .accum off => some off
  | _ => none

/-- The byte offsets of the fields that broken rules charge (R175). -/
def descErrors (bs : List Byte) : List Nat :=
  let d := descOf bs
  let n := fun (o : Nat) => natOfBytes ((bs.drop o).take 1)
  let when := fun (c : Bool) (o : Nat) => if c then [o] else []
  let f := d.fmt
  let known := formatKnown f
  let row := isQ4 f || f == fINT4 || isSparse f
  let unit := if isQ4 f then 16 else 4
  let least := if d.colMajor then ceilDiv (d.rows * elemBits f) 8 else rowBytes f d.cols d.sparseN
  let used := d.scale != 0 || (known && isSparse f)
  when (!known || n 20 / 64 != 0) 20
  ++ when (decide (2 ≤ n 21) || (d.colMajor && known && row)) 21
  ++ when (n 23 / 16 != 0 || d.scale = 3 || (known && d.scale != 0 && (isSparse f || f == fFP64))
      || (known && (d.lenient || d.strict) && !isQ4 f)) 23
  ++ when (d.rows = 0 || decide (65536 < d.rows)) 8
  ++ when (d.cols = 0 || decide (65536 < d.cols) || (known && d.cols % colUnit f != 0)) 12
  ++ when (d.base = 0#64 || d.base.toNat % unit != 0) 0
  ++ when (d.pitch % unit != 0 || (known && decide (d.pitch < least))) 16
  ++ when (known && (if isSparse f then (if f = fSparseQ4 then d.sparseN != 12 else !(d.sparseN == 6 || d.sparseN == 8 || d.sparseN == 12)) else d.sparseN != 0)) 22
  ++ when (if used then d.aux.toNat % 4 != 0 else d.aux != 0#64) 24
  ++ (match accumOff d.base with
      | none => []
      | some off =>
        when (f != fFP32 && f != fINT32) 20 ++ when d.colMajor 21 ++ when (decide (262144 ≤ off + 128 * (d.rows - 1))) 8
        ++ when (decide (32 < d.cols)) 12 ++ when (off % 128 != 0) 0 ++ when (d.pitch != 128) 16)

/-! ## Reading elements -/

/-- What reading an element gives: its exact value and whether a record read as zero under LENIENT (BLKZ) or
a reserved code as zero (RCODE), or a fault with its code, its FAULTINFO and, for a record or metadata
fault, its address. -/
inductive Elem where
  | val (x : Num) (blkz rcode : Bool)
  | bad (code : Nat) (info : DWord) (addr : Option Nat)
  deriving DecidableEq, Repr

/-- Whether a die cannot read a line that bytes touch (R306). -/
def State.linesCut (s : State) (d : Nat) (l : Loc) (n : Nat) : Bool :=
  match l with
  | .phys pa => (List.range (ceilDiv (pa % 64 + n) 64)).any fun i => s.outOfReach d (pa + 64 * i)
  | _ => false

/-- Read bytes of one page for the array: accumulator-window offsets name slots of this core that must be granted
(R202); poisoned data is POISON, and another package may refuse a read or not answer it, for a whole step (R325, R329; DESIGN CHOICE, log 14). -/
def State.arrayPart (s : State) (w : Who) (a : DWord) (n : Nat) : List Byte ⊕ (Nat × DWord) :=
  match accumOff a with
  | some off =>
    if off / 4096 < ((s.inst? w.die w.inst).map (·.accslots)).getD 0 then
      let l : Loc := .acc (coreOf w.die w.inst w.core * 2 ^ 18 + off)
      if s.badN w.die w.inst l n then .inr (codePoison, accessInfo 0 false 0 a) else .inl (s.readN w.die w.inst l n)
    else .inr (codeProt, accessInfo 0 false 0 a)
  | none =>
    match s.peek w.die w.core w.inst w.ctx a 0 with
    | .at_ l _ => match (s.fabricRead l).1 with
      | some form => .inr (codeProt, accessInfo form false 0 a)
      | none => if s.linesCut w.die l n then .inr (codeProt, accessInfo 1 false 0 a)
                 else if s.badN w.die w.inst l n then .inr (codePoison, accessInfo 0 false 0 a)
                 else .inl (s.seal w.die w.core w.ctx a.toNat l (s.readAt w.die w.inst l n).1)
    | .bad c f => .inr (c, accessInfo f false 0 a)
    | .miss _ => .inr (codePage, accessInfo 0 false 0 a)

/-- Read bytes for the array; what crosses into a second page is translated there (R174, R202). -/
def State.arrayBytes (s : State) (w : Who) (a : DWord) (n : Nat) : List Byte ⊕ (Nat × DWord) :=
  let m := min n (4096 - a.toNat % 4096)
  match s.arrayPart w a m with
  | .inr f => .inr f
  | .inl bs =>
    if m = n then .inl bs
    else match s.arrayPart w (a + BitVec.ofNat 64 m) (n - m) with
      | .inr f => .inr f
      | .inl cs => .inl (bs ++ cs)

/-- `x * 2^e` times a value. -/
def numScale (x : Num) (neg : Bool) (m : Nat) (e : Int) : Num := (numMul x (.fin neg m e)).1

/-- The magnitudes of R71 in eighths. -/
def e2m1Mag : List Nat := [0, 4, 8, 12, 16, 24, 32, 48]
def pow2Mag : List Nat := [0, 1, 2, 4, 8, 16, 32, 64]
def hybMag : List Nat := [0, 8, 16, 24, 32, 64, 128, 256]

/-- Whether a record is ill-formed (R72). -/
def q4Bad (r : Nat) : Bool :=
  let sw := r / 2 ^ 96 % 2 ^ 24
  (r / 2 ^ 124 != 0 && sw / 2 ^ 22 != 0) || r / 2 ^ 120 % 16 != 0 || sw / 2 ^ 13 % 256 = 255

/-- Element `i` of a well-formed record: its value, and whether its code is reserved (R71, R72). A zero
element is +0 under INT and POW2, and has the signs of scale and code under E2M1 and HYB (DESIGN CHOICE, log 49). -/
def q4Elem (r i : Nat) : Num × Bool :=
  let sw := r / 2 ^ 96 % 2 ^ 24
  let c := r / 2 ^ (4 * i) % 16
  let ty := sw / 2 ^ 22
  let reserved := decide (2 ≤ ty) && c == 8
  let neg := c / 8 == 1
  let exp : Nat := sw / 2 ^ 13 % 256
  let m := 8192 + sw % 2 ^ 13
  if exp = 0 || reserved then (.fin false 0 0, reserved)
  else
    let sgn := sw / 2 ^ 21 % 2 == 1
    let e : Int := Int.ofNat exp - 127 - 13
    match ty with
    | 0 =>
      let z : Nat := r / 2 ^ 124
      let v : Int := Int.ofNat c - Int.ofNat z
      if v = 0 then (.fin false 0 0, false) else (.fin (sgn != decide (v < 0)) (v.natAbs * m) e, false)
    | 1 => let k := e2m1Mag.getD (c % 8) 0; (.fin (sgn != neg) (k * m) (e - 3), false)
    | 2 => let k := pow2Mag.getD (c % 8) 0; (if k = 0 then .fin false 0 0 else .fin (sgn != neg) (k * m) (e - 3), false)
    | _ => let k := hybMag.getD (c % 8) 0; (.fin (sgn != neg) (k * m) (e - 3), false)

/-- Whether any code of a well-formed record is reserved (R72). -/
def q4Reserved (r : Nat) : Bool := (List.range 24).any fun i => (q4Elem r i).2

/-- An element of a Q4B record at an address: the record that is read is checked whole, and a reserved code reads as zero (R72). -/
def State.q4Read (s : State) (w : Who) (d : TDesc) (a : DWord) (i : Nat) : Elem :=
  match s.arrayBytes w a 16 with
  | .inr (c, info) => .bad c info none
  | .inl bs =>
    let r := natOfBytes bs
    if q4Bad r then
      if d.lenient then .val (.fin false 0 0) true false else .bad codeBadrec (BitVec.ofNat 64 (field a 0 56)) (some a.toNat)
    else
      let x := (q4Elem r i).1
      let reserved := q4Reserved r
      if reserved && d.strict then .bad codeRcode (BitVec.ofNat 64 (field a 0 56)) (some a.toNat) else .val x false reserved

/-- The address of a dense element, and the position of its nibble for INT4 (R174). -/
def TDesc.addr (d : TDesc) (r c : Nat) : DWord :=
  let bits := elemBits d.fmt
  d.base + BitVec.ofNat 64 (if d.colMajor then c * d.pitch + r * (bits / 8) else r * d.pitch + c * bits / 8)

/-- The addresses, with lengths, that reading an element touches: its metadata word, its record or bytes, its scale
(R73 to R75, R174). -/
def State.elemAddrs (s : State) (w : Who) (d : TDesc) (r c : Nat) : List (DWord × Nat) :=
  let start := d.base + BitVec.ofNat 64 (r * d.pitch)
  let f := d.fmt
  let g := c / 24
  (if f = fQ4B then [(start + BitVec.ofNat 64 (16 * g), 16)]
   else if isSparse f then
     let ma := d.aux + BitVec.ofNat 64 ((r * (d.cols / 24) + g) * 4)
     let m : Word := match s.arrayBytes w ma 4 with
       | .inl bs => BitVec.ofNat 32 (natOfBytes bs)
       | .inr _ => 0#32
     let k := (List.range (c % 24)).countP fun i => m.getLsbD i
     let size := elemBits f / 8
     [(ma, 4), if f = fSparseQ4 then (start + BitVec.ofNat 64 (16 * (g / 2)), 16) else (start + BitVec.ofNat 64 ((g * d.sparseN + k) * size), size)]
   else [(d.addr r c, max 1 (elemBits f / 8))])
  ++ (if d.scale = 0 then [] else [(d.aux + BitVec.ofNat 64 (if d.scale = 2 then 4 * r else 0), 4)])

/-- A stored element before the descriptor's scale (R73 to R75, R174). -/
def State.stored (s : State) (w : Who) (d : TDesc) (r c : Nat) : Elem :=
  let start := d.base + BitVec.ofNat 64 (r * d.pitch)
  let f := d.fmt
  if f = fQ4B then s.q4Read w d (start + BitVec.ofNat 64 (16 * (c / 24))) (c % 24)
  else if isSparse f then
    let g := c / 24
    let ma := d.aux + BitVec.ofNat 64 ((r * (d.cols / 24) + g) * 4)
    match s.arrayBytes w ma 4 with
    | .inr (k, info) => .bad k info none
    | .inl bs =>
      let m : Word := BitVec.ofNat 32 (natOfBytes bs)
      if fieldW m 24 8 != 0 || popcount m != d.sparseN then .bad codeBadmask (BitVec.ofNat 64 (field ma 0 56)) (some ma.toNat)
      else if !m.getLsbD (c % 24) then .val (.fin false 0 0) false false
      else
        let k := (List.range (c % 24)).countP fun i => m.getLsbD i
        if f = fSparseQ4 then s.q4Read w d (start + BitVec.ofNat 64 (16 * (g / 2))) (g % 2 * 12 + k)
        else
          let size := elemBits f / 8
          match s.arrayBytes w (start + BitVec.ofNat 64 ((g * d.sparseN + k) * size)) size with
          | .inr (k, info) => .bad k info none
          | .inl bs => .val (floatOf f (natOfBytes bs)) false false
  else
    match s.arrayBytes w (d.addr r c) (max 1 (elemBits f / 8)) with
    | .inr (k, info) => .bad k info none
    | .inl bs =>
      let x := natOfBytes bs
      .val (valueOf f (if f = fINT4 then (if c % 2 = 0 then x % 16 else x / 16) else x)) false false

/-- An element of a tensor, exactly, with the descriptor's scale (R174). A zero under an infinite scale is NaN and
sets no flag of its own (DESIGN CHOICE, log 49). -/
def State.element (s : State) (w : Who) (d : TDesc) (r c : Nat) : Elem :=
  match s.stored w d r c with
  | .bad k info a => .bad k info a
  | .val x z rc =>
    if d.scale = 0 then .val x z rc
    else
      match s.arrayBytes w (d.aux + BitVec.ofNat 64 (if d.scale = 2 then 4 * r else 0)) 4 with
      | .inr (k, info) => .bad k info none
      | .inl bs => .val (numMul x (floatOf fFP32 (natOfBytes bs))).1 z rc

end Sys2Proof.Machine
end

