-- ==== Sys2Proof/Machine/Newel.lean ====
section
/-!
DEFINITION. The Newel: the evaluation plan of a force and its rewrites (R206 to R216). A plan is a list of
pieces in plan order, operands before what uses them (R220).
-/

namespace Sys2Proof.Machine

/-! ## Strips (R209) -/

abbrev Strips := List (Nat × List Num)
/-- Rows with the strips needed of each, rising. -/
abbrev Need := List (Nat × List Nat)

def stripKey (r s : Nat) : Nat := r * 2048 + s
def stripCount (cols : Nat) : Nat := ceilDiv cols 32
def stripWidth (cols s : Nat) : Nat := min 32 (cols - 32 * s)
def allStrips (cols : Nat) : List Nat := List.range (stripCount cols)

/-- The element that strips hold. -/
def stripAt (m : Strips) (r c : Nat) : Option Num := (look? m (stripKey r (c / 32))).bind fun l => l[c % 32]?

/-- A union of strip numbers, rising. -/
def stripUnion (a b : List Nat) : List Nat := ((a ++ b).eraseDups).mergeSort (· ≤ ·)

def Need.add (n : Need) (r : Nat) (ss : List Nat) : Need := if ss.isEmpty then n else alter [] n r (stripUnion ss)
def Need.merge (n m : Need) : Need := if n.isEmpty then m else m.foldl (fun (k : Need) e => k.add e.1 e.2) n
def Need.full (rows cols : Nat) : Need := (List.range rows).map fun r => (r, allStrips cols)
/-- The strips that some row needs. -/
def Need.strips (n : Need) : List Nat := n.foldl (fun a e => stripUnion a e.2) []

/-- The strip of a node, or of its transpose, that earlier forces have left (R191). Of a transpose's operand only what makes a whole strip of
it serves; the other elements of that strip are computed anew (R208; DESIGN CHOICE, log 73). -/
def Node.strip (x : Node) (t : Bool) (r s : Nat) : Option (List Num) :=
  if x.vals.isEmpty then none
  else if !t then look? x.vals (stripKey r s)
  else (List.range (stripWidth x.rows s)).mapM fun j => stripAt x.vals (32 * s + j) r

/-! ## Pieces -/

def POp.kids : POp → List Nat
  | .mul a b _ _ _ _ _ _ _ | .had a b _ _ => [a, b]
  | .join ps _ _ _ => ps.filterMap id
  | .sum ts _ _ => ts.map (·.2)
  | .scl a _ _ _ | .tri a _ _ _ | .cvt a _ _ _ | .act a _ _ | .same a => [a]
  | .leaf _ _ _ _ | .const _ _ _ | .kept _ _ => []

/-- Whether a piece is read where it is used, never computed by itself (R183, R184). -/
def POp.isSource : POp → Bool
  | .leaf _ _ _ _ | .const _ _ _ | .kept _ _ => true
  | _ => false

/-- The nodes that a piece is of: those it stands for, and those whose transpose it takes further, which supply what they have and keep what
it makes (R208). -/
def PNode.all (p : PNode) : List (Nat × Bool) := p.outs ++ p.also

/-- The nodes that keep a piece's values: those that it computes as they stand. -/
def PNode.sinks (p : PNode) : List Nat := (p.all.filter fun o => !o.2).map (·.1)

/-- A piece of a node. -/
def pieceOf (x : Node) (id : Nat) (t : Bool) (tag : Nat) (op : POp) (assoc splitk : Bool) : PNode :=
  { op := op, outs := [(id, t)], flagsTo := [], rows := if t then x.cols else x.rows, cols := if t then x.rows else x.cols, fmt := x.fmt,
    assoc := assoc, splitk := splitk, tag := tag, site := x.site, siteIdx := x.siteIdx, order := id, had := [], vals := [], need := [],
    flags := 0#7, csite := x.site, csIdx := x.siteIdx, cOrder := id }

/-- A piece computes a node too: of several the earliest appended is named (R210, R220). -/
def PNode.computes (q : PNode) (site : DWord) (idx order : Nat) : PNode :=
  if order < q.cOrder then { q with csite := site, csIdx := idx, cOrder := order } else q

/-- Add a piece, or find the identical one (R210); of shared nodes the earliest appended is named (R220). -/
def intern (plan : List PNode) (p : PNode) : Nat × List PNode :=
  match plan.findIdx? fun q => q.op == p.op && q.tag == p.tag && q.rows == p.rows && q.cols == p.cols && q.fmt == p.fmt
      && q.assoc == p.assoc && q.splitk == p.splitk with
  | some i => (i, plan.modify i fun q =>
      { q.computes p.csite p.csIdx p.cOrder with
               outs := (q.outs ++ p.outs).eraseDups, site := if p.order < q.order then p.site else q.site,
               siteIdx := if p.order < q.order then p.siteIdx else q.siteIdx, order := min q.order p.order })
  | none => (plan.length, plan ++ [p])

/-- The pieces of a node, or of its transpose, with every transpose moved to the leaves (R208) and identical
nodes shared. A node that an earlier force evaluated is tagged, so that it supplies no other (R210); a transpose that has values of its
own keeps them, and takes its operand's for the rest (R191). A transpose is named for the piece of an operand that it bypasses (R220). -/
def expand (nodes : List (Nat × Node)) : Nat → Nat → Bool → Nat → List PNode → Nat × List PNode
  | 0, _, _, _, plan => (0, plan)
  | n + 1, id, t, tag, plan =>
    match look? nodes id with
    | none => (0, plan)
    | some x =>
      let tag := if x.vals.isEmpty then tag else id
      let dbl := x.fmt == fFP64
      let known := plan.findIdx? fun q => q.tag == tag && q.outs.contains (id, t)
      match x.op with
      | .trn a =>
        if !x.vals.isEmpty then
          match known with
          | some i => (i, plan)
          | none =>
            let (i, plan) := expand nodes n a (!t) 0 plan
            intern plan (pieceOf x id t tag (.same i) false false)
        else
          let before := plan.length
          let (i, plan) := expand nodes n a (!t) tag plan
          (i, plan.modify i fun q =>
            let q := { q with outs := if q.outs.contains (id, t) then q.outs else q.outs ++ [(id, t)] }
            if before ≤ i then { q with csite := x.site, csIdx := x.siteIdx, cOrder := id } else q.computes x.site x.siteIdx id)
      | .leaf d r0 c0 u => intern plan (pieceOf x id t tag (.leaf d r0 c0 (u != t)) false false)
      | .const k int pat => intern plan (pieceOf x id t tag (.const k int pat) false false)
      | .mat => intern plan (pieceOf x id t tag (.kept id t) false false)
      | .tri a d side fill =>
        match known with
        | some i => (i, plan.modify i fun q => q.computes x.site x.siteIdx id)
        | none =>
          let (i, plan) := expand nodes n a t 0 plan
          intern plan (pieceOf x id t tag (.tri i d (if t then 1 - side else side) fill) false false)
      | .scl a c =>
        match known with
        | some i => (i, plan.modify i fun q => q.computes x.site x.siteIdx id)
        | none =>
          let (i, plan) := expand nodes n a t 0 plan
          intern plan (pieceOf x id t tag (.scl i (floatOf fFP32 c.toNat) dbl c) false false)
      | .mul a b assoc splitk sat =>
        match known with
        | some i => (i, plan.modify i fun q => q.computes x.site x.siteIdx id)
        | none =>
          let (i, plan) := if t then expand nodes n b true 0 plan else expand nodes n a false 0 plan
          let (j, plan) := if t then expand nodes n a true 0 plan else expand nodes n b false 0 plan
          intern plan (pieceOf x id t tag (.mul i j 0 0 0 (x.fmt == fINT32) dbl sat none) assoc splitk)
      | .ew op a b assoc =>
        match known with
        | some i => (i, plan.modify i fun q => q.computes x.site x.siteIdx id)
        | none =>
          let (i, plan) := expand nodes n a t 0 plan
          let (j, plan) := expand nodes n b t 0 plan
          let int := x.fmt == fINT32
          intern plan (pieceOf x id t tag (if op = 2 then .had i j int dbl else .sum [(false, i), (op = 1, j)] int dbl) assoc false)
      | .cvt a f m sat =>
        match known with
        | some i => (i, plan.modify i fun q => q.computes x.site x.siteIdx id)
        | none =>
          let (i, plan) := expand nodes n a t 0 plan
          intern plan (pieceOf x id t tag (.cvt i f m sat) false false)
      | .act a k =>
        match known with
        | some i => (i, plan.modify i fun q => q.computes x.site x.siteIdx id)
        | none =>
          let (i, plan) := expand nodes n a t 0 plan
          intern plan (pieceOf x id t tag (.act i k x.fmt) false false)

/-! ## Needs (R209, R201) -/

/-- Whether tile (a, s) of a masked shape is masked whole (R201). -/
def maskedWhole (d : Int) (side rows cols a s : Nat) : Bool :=
  if side = 0 then decide (d < (32 * s : Int) - (min (32 * a + 31) (rows - 1) : Nat))
  else decide (d < (32 * a : Int) - (min (32 * s + 31) (cols - 1) : Nat))

/-- Whether some element of a tile is masked. -/
def maskedPart (d : Int) (side rows cols a s : Nat) : Bool :=
  if side = 0 then decide (d < ((min (32 * s + 31) (cols - 1) : Nat) : Int) - (32 * a : Nat))
  else decide (d < ((min (32 * a + 31) (rows - 1) : Nat) : Int) - (32 * s : Nat))

/-- What a piece needs of each operand for the strips that it is to make. -/
def needOf (plan : List PNode) (p : PNode) (todo : Need) : List (Nat × Need) :=
  if todo.isEmpty then []
  else match p.op with
    | .mul a b _ _ _ _ _ _ _ =>
      let k := (plan[a]?.map (·.cols)).getD 0
      let ss := todo.strips
      [(a, todo.map fun e => (e.1, allStrips k)), (b, (List.range k).map fun r => (r, ss))]
    | .tri a d side _ =>
      [(a, (todo.map fun e => (e.1, e.2.filter fun s => !maskedWhole d side p.rows p.cols (e.1 / 32) s)).filter fun e => !e.2.isEmpty)]
    | op => op.kids.map fun k => (k, todo)

/-- Take away the strips that a piece's nodes have already: what is left, and those strips (R191). -/
def trim (nodes : List (Nat × Node)) (p : PNode) (need : Need) : Need × Strips :=
  let xs := p.all.filterMap fun o => (look? nodes o.1).bind fun x => if x.vals.isEmpty then none else some (x, o.2)
  if xs.isEmpty then (need, [])
  else
    need.foldl (fun (acc : Need × Strips) e =>
      let found := e.2.map fun s => (s, xs.findSome? fun x => x.1.strip x.2 e.1 s)
      let left := (found.filter fun f => f.2.isNone).map (·.1)
      (if left.isEmpty then acc.1 else acc.1 ++ [(e.1, left)],
       found.foldl (fun m f => match f.2 with
         | some l => put? m (stripKey e.1 f.1) (some l)
         | none => m) acc.2)) ([], [])

/-- Let the needs travel down from the last piece, which is the root; sources keep all that is read of
them. -/
def propagate (nodes : List (Nat × Node)) (plan : List PNode) (need : Need) : List PNode :=
  let start := plan.modify (plan.length - 1) fun p => { p with need := need }
  (List.range plan.length).reverse.foldl (fun (plan : List PNode) i =>
    match plan[i]? with
    | none => plan
    | some p =>
      let (todo, had) := trim nodes p p.need
      (needOf plan p todo).foldl (fun plan e => plan.modify e.1 fun q => { q with need := Need.merge q.need e.2 })
        (plan.set i { p with need := todo, had := had })) start

/-- The pieces of the plan that are to be computed and use a piece, each as often as it does (DEDUCED, log 31). -/
def users (plan : List PNode) (i : Nat) : List Nat :=
  (plan.zip (List.range plan.length)).flatMap fun p => ((needOf plan p.1 p.1.need).filter fun e => e.1 == i && !e.2.isEmpty).map fun _ => p.2

/-- A transpose with values of its own moves to the leaves too: where it alone uses its operand's piece, it is that piece, with the values of
both; so an operation below it stays part of its chain or tree (R208, R211, R213, R214). -/
def pushSame (raw : List PNode) : List PNode :=
  (List.range raw.length).foldl (fun (raw : List PNode) k =>
    match raw[k]? with
    | some p => match p.op with
      | .same i => if users raw i == [k] then (match raw[i]? with
          | some q => raw.set k { q with outs := p.outs, also := q.all, tag := p.tag, need := p.need, had := p.had,
                                         csite := p.csite, csIdx := p.csIdx, cOrder := p.cOrder }
          | none => raw) else raw
      | _ => raw
    | none => raw) raw

/-! ## Chains (R211 to R213) and sums (R214) -/

/-- The plan that is being made: the state, whose open choices it takes, the pieces, where each piece of
the graph as written has gone, and the cores whose arrays are to help (R215). -/
structure Build where
  st : State
  out : List PNode
  memo : List (Nat × Nat)
  help : List Nat

def Build.emit (b : Build) (p : PNode) : Nat × Build :=
  (b.out.length, { b with out := b.out ++ [{ p with need := [], had := [] }] })

/-- An intermediate with the site of its chain's or tree's root (R206, R220). -/
def PNode.between (p : PNode) : PNode := { p with outs := [], also := [], assoc := false, splitk := false, tag := 0 }

/-- A chain: its factors, the scales removed, left to right, and the products of it that are nodes' values,
by the factors that they span. -/
structure Chain where
  facs : List Nat
  scls : List Num
  inner : List (Nat × Nat × Nat)

/-- Whether a piece is in the plan to be computed and used once. -/
def single (raw : List PNode) (i : Nat) : Bool := (users raw i).length == 1 && (raw[i]?.any fun p => !p.need.isEmpty)

/-- Whether a product has the bits of a chain's root (R211). -/
def sameChain (root p : PNode) : Bool :=
  match p.op, root.op with
  | .mul _ _ _ _ _ i d s _, .mul _ _ _ _ _ i' d' s' _ => p.assoc && i == i' && d == d' && s == s'
  | _, _ => false

/-- Whether a piece is a scale that a chain of its class may be freed of (R213). -/
def freeScale (raw : List PNode) (cls : Nat) (p : PNode) : Bool :=
  match p.op with
  | .scl a _ _ _ => (raw[a]?.map fun q => classOf q.fmt) == some cls
  | _ => false

/-- The pieces of the chain of root `i`, each with how often the chain's tree names it: those that nothing else to
be computed uses. A product stands in the tree once; a scale goes however often the chain uses it, unless scales are
to stay (`keep`) (R211, R213) (DEDUCED, log 31). -/
def chainOf (raw : List PNode) (root : PNode) (keep : Bool) (i : Nat) : List (Nat × Nat) :=
  (List.range i).reverse.foldl (fun m k =>
    let us := users raw k
    let n := us.foldl (fun n u => n + look 0 m u) 0
    match raw[k]? with
    | some p =>
      if !p.need.isEmpty && decide (0 < n) && us.all (fun u => (look? m u).isSome)
          && ((n = 1 && sameChain root p) || (!keep && freeScale raw (classOf root.fmt) p)) then put? m k (some n) else m
    | none => m) [(i, 1)]

/-- Pass the scales of a chain that stand on an operand: what is below them, and their constants (R213). -/
def passScales (raw : List PNode) (m : List (Nat × Nat)) : Nat → Nat → List Num → Nat × List Num
  | 0, i, cs => (i, cs)
  | n + 1, i, cs =>
    match (raw[i]?.map (·.op) : Option POp) with
    | some (.scl a c _ _) => if (look? m i).isSome then passScales raw m n a (cs ++ [c]) else (i, cs)
    | _ => (i, cs)

/-- The factors of a chain below a product of it, in left-to-right order (R211). -/
def factors (raw : List PNode) (m : List (Nat × Nat)) : Nat → Nat → Chain → Chain
  | 0, _, ch => ch
  | n + 1, j, ch =>
    ((raw[j]?.map (·.op.kids)).getD []).foldl (fun ch k =>
      let (q, cs) := passScales raw m raw.length k ch.scls
      if (look? m q).isSome then
        let sub := factors raw m n q { ch with scls := cs }
        if sub.scls.length = cs.length then { sub with inner := sub.inner ++ [(ch.facs.length, sub.facs.length, q)] } else sub
      else { ch with facs := ch.facs ++ [q], scls := cs }) ch

/-- The least cost of a run of factors and where it is cut (R212). `dims` holds the rows and columns counted
for each factor. -/
def chainCost (dims : List (Nat × Nat)) : Nat → Nat → Nat → Nat × Nat
  | 0, i, _ => (0, i)
  | n + 1, i, j =>
    if j ≤ i then (0, i)
    else
      let at_ := fun k => (dims[k]?).getD (0, 0)
      let cost := fun k => (chainCost dims n i k).1 + (chainCost dims n (k + 1) j).1 + (at_ i).1 * (at_ k).2 * (at_ j).2
      ((List.range (j - 1 - i)).map fun d => j - 2 - d).foldl (fun best k => let v := cost k; if v < best.1 then (v, k) else best)
        (cost (j - 1), j - 1)

/-- The chunk of K that an operand's format asks for, and its rate in multiplies per cycle (R200). -/
def chunkOf (f : Nat) : Nat × Nat :=
  match f with
  | 0x01 | 0x02 | 0x10 | 0x11 => (32, 4096)
  | 0x03 | 0x04 | 0x05 | 0x06 | 0x12 => (64, 8192)
  | 0x07 => (128, 16384)
  | 0x08 | 0x13 => (96, 16384)
  | _ => (8, 512)

/-- The cores of a die whose arrays work for an instance: those that evaluate for it, and those that help them (R215). -/
def State.arraysOf (s : State) (h : Nat × Nat) : List (Nat × Nat) :=
  (s.dies.flatMap fun e => e.2.cores.flatMap fun c => c.2.evals.flatMap fun v =>
    if v.planned && v.who.isOf h then (e.1, c.1) :: v.helpers.map fun k => (e.1, k) else []).eraseDups

/-- The helper cores whose arrays an evaluation's instance may still occupy: enabled cores of the cluster that work
for nothing, within the instance's arrays beside the forcing core's own (R215). -/
def State.helpers (s : State) (w : Who) : List Nat :=
  let x := s.die w.die
  let busy := fun (c : Nat) => !(x.core c).evals.isEmpty || x.cores.any fun e => e.2.evals.any fun v => v.helpers.contains c
  let mine := (((w.die, w.core) :: s.arraysOf (homeInst w.die w.inst)).eraseDups).length
  let free := x.coremap.filter fun e => e.1 != w.core && x.cluster e.1 == x.cluster w.core && x.sites.contains e.2 && !busy e.1
  (free.map Prod.fst).take ((((s.inst? w.die w.inst).map (·.arrays)).getD 0) - mine)

/-- Cut `n` chunks into `m` runs of open lengths (DEDUCED, log 31). -/
def State.cutRuns (s : State) : Nat → Nat → List Nat × State
  | 0, n => ([n], s)
  | m + 1, n =>
    let (i, t) := s.pick (n - (m + 1))
    let (rest, u) := t.cutRuns m (n - (i + 1))
    ((i + 1) :: rest, u)

/-- Put things in an open order. -/
def State.shuffle {α : Type} (s : State) : Nat → List α → List α × State
  | 0, l => (l, s)
  | _ + 1, [] => ([], s)
  | n + 1, l =>
    let (i, t) := s.pick l.length
    match l[i]? with
    | none => (l, t)
    | some x => let (rest, u) := t.shuffle n (l.eraseIdx i); (x :: rest, u)

/-- A product of two pieces, split along K where its contract and the free arrays allow (R215). -/
def Build.mul (b : Build) (w : Who) (p : PNode) (i j : Nat) (int dbl sat : Bool) (slot : Option Nat) : Nat × Build :=
  let fmt := fun k => (b.out[k]?.map (·.fmt)).getD 0
  let k := (b.out[i]?.map (·.cols)).getD 0
  let kc := min (chunkOf (fmt i)).1 (chunkOf (fmt j)).1
  let chunks := ceilDiv k kc
  let free := b.st.helpers w
  let most := if p.splitk && !dbl then min 16 (min chunks (1 + free.length)) else 1
  let (extra, t) := b.st.pick most
  let help := (b.help ++ free.take extra).eraseDups
  if extra = 0 then { b with st := t }.emit { p with op := .mul i j kc 0 k int dbl sat slot }
  else
    let (runs, t) := t.cutRuns extra chunks
    let parts := runs.foldl (fun (acc : List (Option Nat) × Nat × Build) n =>
      let (x, b') := acc.2.2.emit { p.between with op := .mul i j kc (acc.2.1 * kc) (min k ((acc.2.1 + n) * kc)) int dbl sat none }
      (acc.1 ++ [some x], acc.2.1 + n, b')) (([] : List (Option Nat)), 0, { b with st := t, help := help })
    let (order, u) := t.shuffle 20 (parts.1 ++ (if slot.isSome then [none] else []))
    { parts.2.2 with st := u }.emit { p with op := .join order int sat slot }

/-- A factor of a chain, or a term of a tree: a piece of the graph as written, still to be placed, or one that the
plan has. -/
structure Part where
  at_ : Nat
  placed : Bool

def Part.nil : Part := ⟨0, true⟩

/-- Rows and columns of a part. -/
def Part.size (raw : List PNode) (b : Build) (f : Part) : Nat × Nat :=
  ((if f.placed then b.out[f.at_]? else raw[f.at_]?).map fun p => (p.rows, p.cols)).getD (0, 0)

/-- Place a part: `mk` places a piece of the graph as written. -/
def Part.place (mk : Nat → Build → Nat × Build) (f : Part) (b : Build) : Nat × Build := if f.placed then (f.at_, b) else mk f.at_ b

/-- The product of parts `i` to `j` of a segment, by the grouping, left operand first (R212, R220). `ends` is
where each part begins and ends among the chain's factors, `top` the piece that the whole segment computes, with
`satTop`; the products below it saturate as the chain's MMULs do (R195). -/
def groupTree (w : Who) (mk : Nat → Build → Nat × Build) (raw : List PNode) (root : PNode) (dims : List (Nat × Nat)) (parts : List Part)
    (ends : List (Nat × Nat)) (inner : List (Nat × Nat × Nat)) (top : PNode) (slot : Option Nat) (int dbl sat satTop : Bool) :
    Nat → Nat → Nat → Build → Nat × Build
  | 0, i, _, b => Part.place mk ((parts[i]?).getD Part.nil) b
  | n + 1, i, j, b =>
    if j ≤ i then Part.place mk ((parts[i]?).getD Part.nil) b
    else
      let k := (chainCost dims dims.length i j).2
      let (x, b) := groupTree w mk raw root dims parts ends inner top slot int dbl sat satTop n i k b
      let (y, b) := groupTree w mk raw root dims parts ends inner top slot int dbl sat satTop n (k + 1) j b
      let lo := ((ends[i]?).getD (0, 0)).1
      let hi := ((ends[j]?).getD (0, 0)).2
      let size : PNode := { root with rows := (b.out[x]?.map (·.rows)).getD 0, cols := (b.out[y]?.map (·.cols)).getD 0 }
      if i = 0 && j + 1 = parts.length then b.mul w top x y int dbl satTop slot
      else match inner.find? fun e => e.1 == lo && e.2.1 == hi with
        | some e => b.mul w ((raw[e.2.2]?).getD size.between) x y int dbl sat none
        | none => b.mul w size.between x y int dbl sat none

/-- The segments of a chain: the first 8 factors, then the result with 7 more each time (R212). -/
def chainSegments (w : Who) (mk : Nat → Build → Nat × Build) (raw : List PNode) (root : PNode) (ch : Chain) (rows cols : Nat) (last : PNode)
    (slot : Option Nat) (int dbl sat satTop : Bool) : Nat → List Part → List (Nat × Nat) → List Part → List (Nat × Nat) → Build → Nat × Build
  | 0, cur, _, _, _, b => Part.place mk ((cur[0]?).getD Part.nil) b
  | n + 1, cur, ends, rest, restEnds, b =>
    let size := fun (f : Part) => f.size raw b
    let dims := (cur.zip (List.range cur.length)).map fun e =>
      (if e.2 = 0 then rows else (size e.1).1, if rest.isEmpty && e.2 + 1 = cur.length then cols else (size e.1).2)
    let hi := ((ends.getLast?).getD (0, 0)).2
    let part : PNode := { root with rows := (size ((cur[0]?).getD Part.nil)).1, cols := (size ((cur.getLast?).getD Part.nil)).2 }
    let top := if rest.isEmpty then last
      else match ch.inner.find? fun e => e.1 == 0 && e.2.1 == hi with
        | some e => (raw[e.2.2]?).getD part.between
        | none => part.between
    let (x, b) := groupTree w mk raw root dims cur ends ch.inner top (if rest.isEmpty then slot else none) int dbl sat
      (if rest.isEmpty then satTop else sat) cur.length 0 (cur.length - 1) b
    if rest.isEmpty then (x, b)
    else chainSegments w mk raw root ch rows cols last slot int dbl sat satTop n (⟨x, true⟩ :: rest.take 7) ((0, hi) :: restEnds.take 7)
      (rest.drop 7) (restEnds.drop 7) b

/-- The constant of a chain's one scale: the product of those removed, each step rounded RNE (R213). -/
def scaleProduct (dbl : Bool) : List Num → Num
  | [] => .fin false 1 0
  | c :: cs => cs.foldl (fun a x => let f := if dbl then fFP64 else fFP32; floatOf f (roundFloat f 0 0 false (numMul a x).1).1) c

/-- The terms of a tree of sums: each with its sign and place, and the sums that are nodes' values, by the
terms that they span (R214). A sum that the tree uses twice stays a term (DEDUCED, log 31). -/
def terms (raw : List PNode) (cls : Nat) : Nat → Nat → Bool → List (Bool × Nat) × List (Nat × Nat × Nat) → List (Bool × Nat) × List (Nat × Nat × Nat)
  | 0, _, _, acc => acc
  | n + 1, j, neg, acc =>
    match (raw[j]?.map (·.op) : Option POp) with
    | some (.sum ts _ _) =>
      ts.foldl (fun acc e =>
        let sign := neg != e.1
        let tree := match raw[e.2]?.map fun p => (p.op, p.assoc, classOf p.fmt) with
          | some (.sum _ _ _, true, c) => c == cls && single raw e.2
          | _ => false
        if tree then
          let sub := terms raw cls n e.2 sign acc
          if sign then sub else (sub.1, sub.2 ++ [(acc.1.length, sub.1.length, e.2)])
        else (acc.1 ++ [(sign, e.2)], acc.2)) acc
    | _ => acc

/-- Place parts in order. -/
def placeAll (mk : Nat → Build → Nat × Build) (b : Build) (l : List Part) : List Nat × Build :=
  l.foldl (fun (acc : List Nat × Build) f => let (x, b') := f.place mk acc.2; (acc.1 ++ [x], b')) ([], b)

/-- The segments of a tree: 8 terms, then the result with 7 more each time. -/
def sumSegments (mk : Nat → Build → Nat × Build) (raw : List PNode) (root : PNode) (inner : List (Nat × Nat × Nat)) (int dbl : Bool) :
    Nat → Nat → List (Bool × Part) → List (Bool × Part) → Build → Nat × Build
  | 0, _, _, _, b => (0, b)
  | n + 1, hi, cur, rest, b =>
    let (idx, b) := placeAll mk b (cur.map (·.2))
    let ts := (cur.map (·.1)).zip idx
    if rest.isEmpty then b.emit { root with op := .sum ts int dbl }
    else
      let p := match inner.find? fun e => e.1 == 0 && e.2.1 == hi with
        | some e => (raw[e.2.2]?).getD root.between
        | none => root.between
      let (x, b) := b.emit { p with op := .sum ts int dbl }
      sumSegments mk raw root inner int dbl n (hi + (rest.take 7).length) ((false, ⟨x, true⟩) :: rest.take 7) (rest.drop 7) b

/-- The plan's piece for a piece of the graph as written: chains regrouped, trees of sums flattened, others
as they are (R211 to R216). A piece of which nothing is left to compute only supplies what it has. -/
def rebuild (w : Who) (raw : List PNode) (slot : Option Nat) (satToo : Bool) : Nat → Nat → Build → Nat × Build
  | 0, _, b => (0, b)
  | n + 1, i, b =>
    match look? b.memo i, raw[i]? with
    | some x, _ => (x, b)
    | none, none => (0, b)
    | none, some p =>
      let start := if i + 1 = raw.length then slot else none
      let done := fun (r : Nat × Build) => (r.1, { r.2 with memo := put? r.2.memo i (some r.1) })
      if p.op.isSource then done (b.emit p)
      else if p.need.isEmpty then done (b.emit { p with op := .kept 0 false })
      else
        match p.op with
        | .mul x y _ _ _ int dbl sat _ =>
          let sat' := sat || (start.isSome && satToo)
          if p.assoc then
            let ch := factors raw (chainOf raw p start.isSome i) raw.length i ⟨[], [], []⟩
            let parts := ch.facs.map fun f => (⟨f, false⟩ : Part)
            let ends := (List.range parts.length).map fun k => (k, k + 1)
            let cols := ((Need.strips p.need).map (stripWidth p.cols)).foldl (· + ·) 0
            let last := if ch.scls.isEmpty then p else p.between
            let (x, b) := chainSegments w (rebuild w raw slot satToo n) raw p ch p.need.length cols last start int dbl sat sat' parts.length
              (parts.take 8) (ends.take 8) (parts.drop 8) (ends.drop 8) b
            if ch.scls.isEmpty then done (x, b) else done (b.emit { p with op := .scl x (scaleProduct dbl ch.scls) dbl 0#32 })
          else
            let (x', b) := rebuild w raw slot satToo n x b
            let (y', b) := rebuild w raw slot satToo n y b
            done (b.mul w p x' y' int dbl sat' start)
        | .sum ts int dbl =>
          if p.assoc then
            let (l, inner) := terms raw (classOf p.fmt) raw.length i false ([], [])
            let l := l.map fun e => (e.1, (⟨e.2, false⟩ : Part))
            done (sumSegments (rebuild w raw slot satToo n) raw p inner int dbl (l.length + 1) (min 8 l.length) (l.take 8) (l.drop 8) b)
          else
            let (idx, b) := placeAll (rebuild w raw slot satToo n) b (ts.map fun e => (⟨e.2, false⟩ : Part))
            done (b.emit { p with op := .sum ((ts.map (·.1)).zip idx) int dbl })
        | .had x y int dbl =>
          let (x', b) := rebuild w raw slot satToo n x b
          let (y', b) := rebuild w raw slot satToo n y b
          done (b.emit { p with op := .had x' y' int dbl })
        | .scl x c dbl pat => let (x', b) := rebuild w raw slot satToo n x b; done (b.emit { p with op := .scl x' c dbl pat })
        | .tri x d side fill => let (x', b) := rebuild w raw slot satToo n x b; done (b.emit { p with op := .tri x' d side fill })
        | .cvt x f m sat => let (x', b) := rebuild w raw slot satToo n x b; done (b.emit { p with op := .cvt x' f m sat })
        | .act x k f => let (x', b) := rebuild w raw slot satToo n x b; done (b.emit { p with op := .act x' k f })
        | .same x => let (x', b) := rebuild w raw slot satToo n x b; done (b.emit { p with op := .same x' })
        | _ => done (b.emit p)

/-! ## Flags and steps -/

/-- Let the flags of intermediates go to the nodes whose values are computed from them (R206). -/
def flagRoutes (plan : List PNode) (root : Nat) : List PNode :=
  (List.range plan.length).reverse.foldl (fun (plan : List PNode) i =>
    match plan[i]? with
    | none => plan
    | some p =>
      let own := match p.op with
        | .leaf _ _ _ _ => p.all.map Prod.fst
        | _ => p.sinks
      let goal := if !own.isEmpty then own.eraseDups else if i + 1 = plan.length then [root] else p.flagsTo
      p.op.kids.foldl (fun (plan : List PNode) k => plan.modify k fun q => { q with flagsTo := (q.flagsTo ++ goal).eraseDups })
        (plan.set i { p with flagsTo := goal })) plan

/-- The tiles of a need, rising, with the rows of each (R191). -/
def tilesOf (need : Need) : List (Nat × Nat × List Nat) :=
  ((need.map fun e => e.1 / 32).eraseDups).flatMap fun a =>
    let rows := need.filter fun e => e.1 / 32 == a
    (rows.foldl (fun ss e => stripUnion ss e.2) []).map fun s => (a, s, (rows.filter fun e => e.2.contains s).map (·.1))

/-- Whether the array lacks an operand's format (R222; CAPS names the same codes). -/
def emulates (f : Nat) : Bool := f == fINT32 || f == fFP64

/-- The cycles of an operand step: dense or sparse (R200) (DEDUCED, log 31). -/
def stepCycles (f g : Nat) : Nat :=
  let kc := min (chunkOf f).1 (chunkOf g).1
  let dense := 1024 * kc / min (chunkOf f).2 (chunkOf g).2
  if (isSparse f || isSparse g) && kc != 8 then dense / 2 else dense

/-- The steps of a piece: a product's operand steps in rising K for each tile, others by tile, with their
cycles (R200, R222, R332). A source takes steps only where it is the root. -/
def stepsOf (plan : List PNode) (i : Nat) (p : PNode) : List PStep :=
  let fmt := fun k => (plan[k]?.map (·.fmt)).getD 0
  let tile := fun (cycles : Nat → Nat → Nat) => (tilesOf p.need).map fun (t : Nat × Nat × List Nat) =>
    let dbl := p.fmt == fFP64 && !p.op.isSource
    ({ p := i, rows := t.2.2, strip := t.2.1, k0 := 0, k1 := 0, emul := dbl, cycles := if dbl then 64 else cycles t.1 t.2.1 } : PStep)
  match p.op with
  | .mul a b kc lo hi _ _ _ _ =>
    let em := emulates (fmt a) || emulates (fmt b)
    (tilesOf p.need).flatMap fun (t : Nat × Nat × List Nat) => (List.range (ceilDiv (hi - lo) kc)).map fun c =>
      ({ p := i, rows := t.2.2, strip := t.2.1, k0 := lo + c * kc, k1 := min hi (lo + (c + 1) * kc), emul := em,
         cycles := if em then 64 else stepCycles (fmt a) (fmt b) } : PStep)
  | .tri _ d side _ => tile fun a s =>
      if maskedWhole d side p.rows p.cols a s then 1 else if maskedPart d side p.rows p.cols a s then 4 else 0
  | .act _ k _ => tile fun _ _ => if k = 0 then 4 else 16
  | .leaf _ _ _ _ | .const _ _ _ | .kept _ _ => if i + 1 = plan.length then tile fun _ _ => 0 else []
  | .join _ _ _ _ | .same _ => (tilesOf p.need).map fun t => { p := i, rows := t.2.2, strip := t.2.1, k0 := 0, k1 := 0, emul := false, cycles := 0 }
  | _ => tile fun _ _ => 4

/-- What a force needs: the strips that cover an MRD's read, else every strip (R209). -/
def EKind.need (k : EKind) (x : Node) : Need :=
  match k with
  | .read _ _ row col width _ => [(row, (List.range (stripCount (col + width))).filter fun s => decide (col / 32 ≤ s))]
  | _ => Need.full x.rows x.cols

/-- Whether an evaluation accumulates a product into a slot, and so from which place and with which
saturation (R195). -/
def EKind.slot (k : EKind) (x : Node) (core : Nat) : Option Nat × Bool :=
  match k, x.op with
  | .macc _ slot _ sat _, .mul _ _ _ _ _ => (some (core * 2 ^ 18 + slot * 4096), sat)
  | _, _ => (none, false)

/-- An evaluation with its plan: pieces and steps (R206). -/
def State.planOf (s : State) (v : Eval) : Eval × State :=
  let nodes := (s.core v.who.die v.who.core).nodes
  match look? nodes v.node with
  | none => ({ v with planned := true }, s)
  | some x =>
    let (slot, sat) := v.kind.slot x (coreOf v.who.die v.who.inst v.who.core)
    let (_, raw) := expand nodes (nodes.length + 1) v.node false 0 []
    let raw := if slot.isSome then raw.modify (raw.length - 1) fun p => { p with outs := [] } else raw
    let need := v.kind.need x
    let fresh := fun (raw : List PNode) => raw.map fun p => { p with need := [], had := [] }
    let raw := propagate nodes (fresh (pushSame (propagate nodes raw need))) need
    let (_, b) := rebuild v.who raw slot sat (raw.length + 1) (raw.length - 1) ⟨s, [], [], []⟩
    let plan := flagRoutes (propagate nodes b.out need) v.node
    ({ v with planned := true, pnodes := plan, helpers := b.help,
              steps := (plan.zip (List.range plan.length)).flatMap fun e => stepsOf plan e.2 e.1 }, b.st)

end Sys2Proof.Machine
end

