-- ==== Sys2Proof/Machine/Sfu.lean ====
section
/-!
DEFINITION. The special functions (R97, R98): each value is computed in integers with 256 fraction bits,
far beyond the 24 bits that are kept, marked as inexact below its last bit, and rounded once.
-/

namespace Sys2Proof.Machine

/-- One in fixed point: 256 fraction bits. -/
def fixOne : Nat := 2 ^ 256

/-- ln 2 and pi in fixed point, truncated. -/
def fixLn2 : Nat := 80260960185991308862233904206310070533990667611589946606122867505419956976171
def fixPi : Nat := 363771576891766324280234942777729862653393377328392429958772151117938894466185

/-- The sum `1 + y/a (1 + y/(a+1) (...))` of a series whose n-th term is the last times `y / n`: e^y. -/
def fixExp (y : Nat) : Nat := ((List.range 70).foldr (fun n acc => fixOne + y * acc / fixOne / (n + 1)) fixOne)

/-- 2^f for 0 <= f < 1 in fixed point. -/
def fixExp2 (f : Nat) : Nat := fixExp (f * fixLn2 / fixOne)

/-- The sine of y in fixed point, for 0 <= y <= pi/2. -/
def fixSin (y : Nat) : Nat :=
  let y2 := y * y / fixOne
  let s : Int := (List.range 40).foldr (fun n (acc : Int) => (fixOne : Int) - (y2 : Int) * acc / fixOne / ((2 * n + 2) * (2 * n + 3) : Nat)) (fixOne : Int)
  ((y : Int) * s / fixOne).toNat

/-- The cosine of y in fixed point, for 0 <= y <= pi/2. -/
def fixCos (y : Nat) : Nat :=
  let y2 := y * y / fixOne
  ((List.range 40).foldr (fun n (acc : Int) => (fixOne : Int) - (y2 : Int) * acc / fixOne / ((2 * n + 1) * (2 * n + 2) : Nat)) (fixOne : Int)).toNat

/-- log2 of m for 1 <= m < 2 in fixed point, by the series of the inverse hyperbolic tangent. -/
def fixLog2 (m : Nat) : Nat :=
  let z := (m - fixOne) * fixOne / (m + fixOne)
  let z2 := z * z / fixOne
  let t := (List.range 90).foldr (fun n acc => fixOne / (2 * n + 1) + z2 * acc / fixOne) 0
  2 * z * t / fixLn2

/-- A positive value known to lie strictly between `v` and `v + 1` in units of `2^e`. -/
def between (neg : Bool) (v : Nat) (e : Int) : Num := .fin neg (2 * v + 1) (e - 1)

/-- `m * 2^e` as integer part and fraction in fixed point, for `m * 2^e` below 2^40. -/
def fixSplit (m : Nat) (e : Int) : Nat × Nat :=
  let x := if 0 ≤ e then m * 2 ^ e.toNat * fixOne else m * fixOne / 2 ^ (-e).toNat
  (x / fixOne, x % fixOne)

/-- The exact or enclosed value of 2^x (R98). -/
def exp2Num (x : Num) : Num :=
  match x with
  | .nan => .nan
  | .inf neg => if neg then .fin false 0 0 else .inf false
  | .fin neg m e =>
    if m = 0 then .fin false 1 0
    else if 8 ≤ e + bitLen m - 1 then (if neg then .fin false 1 (-400) else .fin false 1 400)
    else
      let (n, f) := fixSplit m e
      if f = 0 then .fin false 1 (if neg then -(n : Int) else n)
      else if neg then between false (fixExp2 (fixOne - f)) (-(n : Int) - 1 - 256)
      else between false (fixExp2 f) ((n : Int) - 256)

/-- log2 of x, with IV or DZ (R98). -/
def log2Num (x : Num) : Num × Flags :=
  match x with
  | .nan => (.nan, 0#5)
  | .inf neg => if neg then (.nan, fIV) else (.inf false, 0#5)
  | .fin neg m e =>
    if m = 0 then (.inf true, fDZ)
    else if neg then (.nan, fIV)
    else
      let b := bitLen m - 1
      let top := e + b
      if m = 2 ^ b then (numOfInt top, 0#5)
      else
        let v : Int := top * fixOne + (fixLog2 (m * fixOne / 2 ^ b) : Nat)
        if 0 ≤ v then (between false v.toNat (-256), 0#5) else (between true ((-v).toNat - 1) (-256), 0#5)

/-- The quotient `m1 / m2` with its remainder kept as an inexact last bit. -/
def quotient (neg : Bool) (m1 m2 : Nat) (e : Int) : Num :=
  let q := m1 * 2 ^ 200 / m2
  if m1 * 2 ^ 200 % m2 = 0 then .fin neg q (e - 200) else between neg q (e - 200)

/-- 1 / x (R98). -/
def rcpNum (x : Num) : Num × Flags :=
  match x with
  | .nan => (.nan, 0#5)
  | .inf neg => (.fin neg 0 0, 0#5)
  | .fin neg m e => if m = 0 then (.inf neg, fDZ) else (quotient neg 1 m (-e), 0#5)

/-- The square root of `m * 2^e`, e even after scaling, with an inexact last bit. -/
def rootNum (m : Nat) (e : Int) : Num :=
  let (m, e) := if e % 2 = 0 then (m, e) else (2 * m, e - 1)
  let n := m * 2 ^ 200
  let q := Nat.sqrt n
  if q * q = n then .fin false q (e / 2 - 100) else between false q (e / 2 - 100)

def sqrtNum (x : Num) : Num × Flags :=
  match x with
  | .nan => (.nan, 0#5)
  | .inf neg => if neg then (.nan, fIV) else (.inf false, 0#5)
  | .fin neg m e => if m = 0 then (.fin neg 0 0, 0#5) else if neg then (.nan, fIV) else (rootNum m e, 0#5)

/-- 1 / sqrt x (R98). -/
def rsqNum (x : Num) : Num × Flags :=
  match x with
  | .nan => (.nan, 0#5)
  | .inf neg => if neg then (.nan, fIV) else (.fin false 0 0, 0#5)
  | .fin neg m e =>
    if m = 0 then (.inf neg, fDZ)
    else if neg then (.nan, fIV)
    else
      let (m, e) := if e % 2 = 0 then (m, e) else (2 * m, e - 1)
      let n := 2 ^ 400 / m
      let q := Nat.sqrt n
      if q * q = n && decide (2 ^ 400 % m = 0) then (.fin false q (-(e / 2) - 200), 0#5) else (between false q (-(e / 2) - 200), 0#5)

/-- The sine of pi times a fraction `r` of fixed point in (0, 1), with the exact values at one half. -/
def sinOfFrac (neg : Bool) (r : Nat) : Num :=
  let r := if fixOne < 2 * r then fixOne - r else r
  if 2 * r = fixOne then .fin neg 1 0 else between neg (fixSin (r * fixPi / fixOne)) (-256)

/-- sin(pi x) (R98). -/
def sinpiNum (x : Num) : Num :=
  match x with
  | .nan => .nan
  | .inf _ => .nan
  | .fin neg m e =>
    if m = 0 then .fin neg 0 0
    else if 23 ≤ e + bitLen m - 1 then .fin neg 0 0
    else
      let (n, f) := fixSplit m e
      if f = 0 then .fin neg 0 0 else sinOfFrac (neg != (n % 2 == 1)) f

/-- cos(pi x) (R98). -/
def cospiNum (x : Num) : Num :=
  match x with
  | .nan => .nan
  | .inf _ => .nan
  | .fin _ m e =>
    if m = 0 then .fin false 1 0
    else if 24 ≤ e + bitLen m - 1 then .fin false 1 0
    else if e + bitLen m - 1 < -100 then .fin false (2 ^ 200 - 1) (-200)
    else
      let (n, f) := fixSplit m e
      let neg := n % 2 == 1
      if f = 0 then .fin neg 1 0
      else if 2 * f = fixOne then .fin false 0 0
      else if 2 * f < fixOne then between neg (fixCos (f * fixPi / fixOne)) (-256)
      else between (!neg) (fixCos ((fixOne - f) * fixPi / fixOne)) (-256)

/-- tanh x (R98): a value just inside x for the smallest, just inside 1 for the greatest. -/
def tanhNum (x : Num) : Num :=
  match x with
  | .nan => .nan
  | .inf neg => .fin neg 1 0
  | .fin neg m e =>
    if m = 0 then .fin neg 0 0
    else
      let top := e + bitLen m - 1
      if 4 ≤ top then .fin neg (2 ^ 200 - 1) (-200)
      else if top < -12 then .fin neg (m * 2 ^ 100 - 1) (e - 100)
      else
        let (n, f) := fixSplit m e
        let t := 2 * (n * fixOne + f) * fixOne / fixLn2
        let big := fixExp2 (t % fixOne) * 2 ^ (t / fixOne)
        between neg ((big - fixOne) * fixOne / (big + fixOne)) (-256)

/-- Round a special function's value RNE, or in `past` beyond the largest finite value. UF is NX with a
subnormal or zero result (R97), for TANH of a subnormal too, of which R98 names NX alone (DEDUCED, log 46). -/
def sfuRound (past : Nat) (r : Num × Flags) : Word × Flags :=
  let (b, fl) := roundFloat 0 0 past false r.1
  let uf : Flags := if fl &&& fNX != 0#5 && decide (b % 2 ^ 31 < 2 ^ 23) then fUF else 0#5
  (BitVec.ofNat 32 b, r.2 ||| (fl &&& ~~~fUF) ||| uf)

/-- TANH, EXP2 and RCP of FP32 patterns, as MACT uses them (R190). -/
def tanh32 (x : Nat) : Nat := (roundFloat 0 0 0 false (tanhNum (floatOf 0 x))).1
def exp232 (x : Nat) : Nat := (roundFloat 0 0 0 false (exp2Num (floatOf 0 x))).1
def rcp32 (x : Nat) : Nat := (roundFloat 0 0 0 false (rcpNum (floatOf 0 x)).1).1

end Sys2Proof.Machine
end

