-- ==== Sys2Proof/Machine/Array.lean ====
section
/-!
DEFINITION. The matrix array: operand and tile steps, intermediate space, the ends of evaluations and
their faults, and the auto-force under node-quota pressure (R186 to R203, R217 to R225, R332).
-/

namespace Sys2Proof.Machine

/-! ## Values -/

/-- Flags as sticky bits: MSTAT [10:4] from NX to EMUL (R196, R197). -/
def stickyOf (f : Flags) : BitVec 7 := ((f &&& 7#5).setWidth 7) ||| (if f &&& fIV = 0#5 then 0#7 else 8#7)
def emulBit : BitVec 7 := 64#7

/-- The exact sum of values: NaN for a NaN or both infinities, which set IV; an exact zero is -0 only when
every term is -0 (R199, R214). -/
def exactSum (xs : List Num) : Num × Flags :=
  let pos := xs.contains (.inf false)
  let neg := xs.contains (.inf true)
  if pos && neg then (.nan, fIV)
  else if xs.any numIsNaN then (.nan, 0#5)
  else if pos || neg then (.inf neg, 0#5)
  else
    let q := xs.foldl (fun (m : Int) x => match x with
      | .fin _ (_ + 1) e => min m e
      | _ => m) 1000000
    let z : Int := xs.foldl (fun a x => match x with
      | .fin b (m + 1) e => a + scaledTo b (m + 1) e q
      | _ => a) 0
    if z = 0 then
      (.fin (xs.all fun x => match x with
        | .fin b 0 _ => b
        | _ => false) 0 0, 0#5)
    else (.fin (decide (z < 0)) z.natAbs q, 0#5)

/-- The integer that a value is, if it is one. -/
def numInt? : Num → Option Int
  | .fin neg m e =>
    if 0 ≤ e then some (scaledTo neg m e 0)
    else if m % 2 ^ (-e).toNat = 0 then some (scaledTo neg (m / 2 ^ (-e).toNat) 0 0) else none
  | _ => none

/-- The integer of a value where an INT32 is wanted; a value that is no integer, which only a descriptor's scale can
make, stands for one that the spec leaves open (DESIGN CHOICE, log 48). -/
def numToInt (x : Num) : Int := (numInt? x).getD (Config.openInt x)

/-- An INT32 element that takes a value as it is: one that INT32 does not have is open (DESIGN CHOICE, log 48). -/
def int32Of (x : Num) : Num :=
  match numInt? x with
  | some i => if -2147483648 ≤ i && decide (i ≤ 2147483647) then numOfInt i else numOfInt (intOf fINT32 (Config.openInt x % 2 ^ 32).toNat)
  | none => numOfInt (intOf fINT32 (Config.openInt x % 2 ^ 32).toNat)

/-- A sum modulo 2^32 as INT32, or clamped, which sets OF (R197, R199). -/
def int32Sum (sat : Bool) (z : Int) : Num × Flags :=
  if sat then
    if z < -2147483648 then (numOfInt (-2147483648), fOF) else if 2147483647 < z then (numOfInt 2147483647, fOF) else (numOfInt z, 0#5)
  else (numOfInt (intOf fINT32 (z % 2 ^ 32).toNat), 0#5)

/-- Add a chunk's products to an accumulator (R199, R222). -/
def addChunk (int dbl sat : Bool) (acc : Num) (ps : List (Num × Flags)) : Num × BitVec 7 :=
  if int then
    let (x, f) := int32Sum sat (numToInt (numAdd 0 acc (exactSum (ps.map (·.1))).1).1)
    (x, stickyOf f)
  else
    let (c, f1) := exactSum (ps.map (·.1))
    let (z, f2) := numAdd 0 acc c
    let (x, f3) := roundNum (if dbl then fFP64 else fFP32) 0 sat z
    (x, stickyOf (ps.foldl (fun f p => f ||| p.2) (f1 ||| f2 ||| f3)))

def fp32Step (f : Num × Flags) : Nat := (roundFloat fFP32 0 0 false f.1).1
def mul32 (x y : Nat) : Nat := fp32Step (numMul (floatOf fFP32 x) (floatOf fFP32 y))
def add32 (x y : Nat) : Nat := fp32Step (numAdd 0 (floatOf fFP32 x) (floatOf fFP32 y))

/-- GELU on FP32 patterns (R190). -/
def gelu32 (x : Nat) : Nat :=
  if x = 0xFF800000 then 0x80000000
  else
    let b := mul32 (mul32 x x) x
    let u := fp32Step (numAdd 0 (numMul (floatOf fFP32 0x3D372713) (floatOf fFP32 b)).1 (floatOf fFP32 x))
    let t := tanh32 (mul32 0x3F4C422A u)
    mul32 (mul32 0x3F000000 x) (add32 0x3F800000 t)

/-- SILU on FP32 patterns (R190). -/
def silu32 (x : Nat) : Nat :=
  if x = 0xFF800000 then 0x80000000
  else
    let e := exp232 (mul32 (x ^^^ 0x80000000) 0x3FB8AA3B)
    mul32 x (rcp32 (add32 0x3F800000 e))

/-- An activation of a value, for a node of format `fmt` (R190). -/
def activate (kind fmt : Nat) (x : Num) : Num :=
  if isInt fmt then (if numCmp (.fin false 0 0) x = some .lt then int32Of x else numOfInt 0)
  else
    let f := if fmt = fFP64 then fFP64 else fFP32
    let b := (roundFloat f 0 0 false x).1
    match floatOf f b with
    | .nan => .nan
    | y =>
      if kind = 0 then
        match y with
        | .inf neg => if neg then .fin false 0 0 else y
        | .fin neg m _ => if neg || m = 0 then .fin false 0 0 else y
        | .nan => .nan
      else floatOf fFP32 (if kind = 1 then gelu32 b else silu32 b)

/-- The element of a piece that is no product and no split, from its operands' elements (R184 to R190,
R213, R214). -/
def POp.apply (op : POp) (xs : List Num) : Num × Flags :=
  let x := xs.headD .nan
  let y := (xs[1]?).getD .nan
  let fmt := fun (dbl : Bool) => if dbl then fFP64 else fFP32
  match op with
  | .sum ts int dbl =>
    let signed := (ts.zip xs).map fun e => if e.1.1 then numNeg e.2 else e.2
    if int then int32Sum false (numToInt (exactSum signed).1)
    else
      let (z, f1) := exactSum signed
      let (v, f2) := roundNum (fmt dbl) 0 false z
      (v, f1 ||| f2)
  | .had _ _ int dbl =>
    if int then int32Sum false (numToInt (numMul x y).1)
    else
      let (z, f1) := numMul x y
      let (v, f2) := roundNum (fmt dbl) 0 false z
      (v, f1 ||| f2)
  | .scl _ c dbl _ =>
    let (z, f1) := numMul x c
    let (v, f2) := roundNum (fmt dbl) 0 false z
    (v, f1 ||| f2)
  | .cvt _ f m sat =>
    let (b, fl) := if isInt f then roundInteger f m x else roundFloat f m m sat x
    (valueOf f b, fl)
  | .act _ k f => (activate k f x, 0#5)
  | _ => (x, 0#5)

/-! ## Reading pieces -/

/-- Where a materialised node's value has an element, if it lies in the spill area (R218; DESIGN CHOICE, log 32). -/
def Node.spillElem (x : Node) (r c : Nat) : Option Nat := x.spillAt.map fun a => a + (r * x.cols + c) * (if x.fmt = fFP64 then 8 else 4)

/-- The address in the spill area of an element that a piece keeps, where its line is poisoned (R220). -/
def State.spillBad (s : State) (w : Who) (node : Nat) (r c : Nat) : Option DWord :=
  ((look? (s.core w.die w.core).nodes node).bind fun x => x.spillElem r c).bind fun va =>
    match s.walk w.die w.ctx va with
    | .ok l => if s.bad w.die w.inst (l.place va) then some (BitVec.ofNat 64 va) else none
    | _ => none

/-- An element of a piece: what it has made or had, else its source's. -/
def State.pieceAt (s : State) (w : Who) (plan : List PNode) (i r c : Nat) : Elem :=
  match plan[i]? with
  | none => .val .nan false false
  | some p =>
    match (match stripAt p.vals r c with
      | some x => some x
      | none => stripAt p.had r c) with
    | some x => (match p.op with
        | .kept node t => (match s.spillBad w node (if t then c else r) (if t then r else c) with
            | some a => .bad codePoison (accessInfo 0 false 0 a) none
            | none => .val x false false)
        | _ => .val x false false)
    | none =>
      match p.op with
      | .leaf d r0 c0 t => s.element w d (r0 + if t then c else r) (c0 + if t then r else c)
      | .const k int pat =>
        .val (if k = 1 then valueOf (if int then fINT32 else fFP32) pat.toNat else .fin false (if k = 2 && r = c then 1 else 0) 0) false false
      | _ => .val .nan false false

/-- Whether an element of a masked piece is masked (R185). -/
def isMasked (d : Int) (side r c : Nat) : Bool :=
  if side = 0 then decide (d < (c : Int) - (r : Int)) else decide (d < (r : Int) - (c : Int))

/-- The fill of a masked element (R185). -/
def fillOf (fill : Nat) : Num := if fill = 0 then .fin false 0 0 else if fill = 1 then .inf true else .fin false 1 0

/-- The operand elements that one element of a piece reads, no product's. A tile that straddles a mask is read
whole (R201). -/
def PNode.readsAt (p : PNode) (i r c : Nat) : List (Nat × Nat × Nat) :=
  match p.op with
  | .tri a d side _ => if maskedWhole d side p.rows p.cols (r / 32) (c / 32) then [] else [(a, r, c)]
  | .leaf _ _ _ _ | .const _ _ _ | .kept _ _ => [(i, r, c)]
  | op => op.kids.map fun k => (k, r, c)

/-- The element of a piece that is no product, from what it reads. -/
def PNode.elemAt (p : PNode) (r c : Nat) (xs : List Num) : Num × Flags :=
  match p.op with
  | .tri _ d side fill => if isMasked d side r c then (fillOf fill, 0#5) else (xs.headD .nan, 0#5)
  | op => op.apply xs

/-- The operand elements of one strip of a piece, in plan order (R220). -/
def PNode.reads (p : PNode) (i r s : Nat) : List (Nat × Nat × Nat) :=
  let cols := (List.range (stripWidth p.cols s)).map (32 * s + ·)
  match p.op with
  | .mul a b _ lo hi _ _ _ _ => (List.range' lo (hi - lo)).flatMap fun k => (a, r, k) :: cols.map fun c => (b, k, c)
  | _ => cols.flatMap fun c => p.readsAt i r c

/-- The operand elements that a step reads (R199, R209). -/
def Eval.stepReads (v : Eval) (st : PStep) : List (Nat × Nat × Nat) :=
  match v.pnodes[st.p]? with
  | none => []
  | some p =>
    let cols := (List.range (stripWidth p.cols st.strip)).map (32 * st.strip + ·)
    match p.op with
    | .mul a b _ _ _ _ _ _ _ =>
      let ks := List.range' st.k0 (st.k1 - st.k0)
      (st.rows.flatMap fun r => ks.map fun k => (a, r, k)) ++ ks.flatMap fun k => cols.map fun c => (b, k, c)
    | _ => st.rows.flatMap fun r => cols.flatMap fun c => p.readsAt st.p r c

/-- The addresses and sizes that a step of an evaluation reads. -/
def State.stepAddrs (s : State) (v : Eval) (st : PStep) : List (DWord × Nat) :=
  (v.stepReads st).flatMap fun x => match (v.pnodes[x.1]?.map (·.op) : Option POp) with
    | some (.leaf d r0 c0 t) => s.elemAddrs v.who d (r0 + if t then x.2.2 else x.2.1) (c0 + if t then x.2.1 else x.2.2)
    | _ => []

/-- The lines of other dies' memory that the next step of an evaluation reads, and that its die cannot read yet: an
array reads global memory as loads do (R203, R307). -/
def State.stepWants (s : State) (v : Eval) : List Nat :=
  match v.steps.head? with
  | none => []
  | some st => ((s.stepAddrs v st).flatMap fun a => s.reachWants v.who.die v.who.core v.who.inst v.who.ctx a.1 a.2 0).eraseDups

/-- The scratchpad pages that the next step of an evaluation waits for: core and page (R150, R202). -/
def State.stepPages (s : State) (v : Eval) : List (Nat × Nat) :=
  match v.steps.head? with
  | none => []
  | some st => ((s.stepAddrs v st).filterMap fun a => match s.peek v.who.die v.who.core v.who.inst v.who.ctx a.1 0 with
      | .at_ (.scratch c off) _ => if s.pinned v.who.die v.who.inst (.scratch c off) then none else some (c, off / 4096)
      | _ => none).eraseDups

/-- The cores whose scratchpads or accumulators the next step of an evaluation reads: the owners of its leaves, and its own for a slot. -/
def State.stepOwners (s : State) (v : Eval) : List Nat :=
  match v.steps.head? with
  | none => []
  | some st => ((match v.kind with
      | .macc _ _ _ _ _ => [v.who.core]
      | _ => []) ++ (s.stepAddrs v st).filterMap fun a => if (accumOff a.1).isSome then some v.who.core
        else match s.peek v.who.die v.who.core v.who.inst v.who.ctx a.1 0 with
        | .at_ (.scratch c _) _ => some c
        | _ => none).eraseDups

/-- Whether the next step of an evaluation can read its operands: their lines and pages are there, and no commit of a core that owns them is
performed in part (R169, R202, R203, R307). -/
def State.stepOpen (s : State) (v : Eval) : Bool :=
  (s.stepWants v).isEmpty && (s.stepPages v).isEmpty && (s.stepOwners v).all fun c => !s.halfDone v.who.die c 0 []

/-- The 64-byte beats of global memory that a step's operands take through L2 (R265). -/
def State.stepBeats (s : State) (v : Eval) (st : PStep) : Nat :=
  (((s.stepAddrs v st).filter fun a => regionOf a.1 == .global).flatMap fun a =>
    [a.1.toNat / 64, (a.1.toNat + (a.2 - 1)) / 64]).eraseDups.length

/-- Whether a leaf below an evaluation's node lies on a TSO page, so that its reads are ordered as loads of one (R203, R313). -/
def State.tsoNode (s : State) (v : Eval) : Bool :=
  let nodes := (s.core v.who.die v.who.core).nodes
  (reach nodes (3 * nodes.length + 2) [v.node] []).any fun id => match ((look? nodes id).map fun x => (x, x.op) : Option (Node × NodeOp)) with
    | some (x, .leaf d r0 c0 u) => (List.range x.rows).any fun i => (List.range x.cols).any fun j =>
        (s.elemAddrs v.who d (r0 + if u then j else i) (c0 + if u then i else j)).any fun a =>
          match s.peek v.who.die v.who.core v.who.inst v.who.ctx a.1 0 with
          | .at_ _ tso => tso
          | _ => false
    | _ => false

/-- The sticky bits that reading a value raises (R72). -/
def Elem.flags : Elem → BitVec 7
  | .val _ z rc => (if z then 32#7 else 0#7) ||| (if rc then 16#7 else 0#7)
  | .bad _ _ _ => 0#7

/-- Values with the sticky bits that reading them raises, unless one faults. -/
def goodElems (es : List Elem) : Option (List Num × BitVec 7) :=
  es.foldr (fun e acc => match e, acc with
    | .val x _ _, some (l, f) => some (x :: l, f ||| e.flags)
    | _, _ => none) (some ([], 0#7))

/-- Lists of values likewise. -/
def goodLists (es : List (List Elem)) : Option (List (List Num) × BitVec 7) :=
  es.foldr (fun e acc => match goodElems e, acc with
    | some (l, f), some (ls, g) => some (l :: ls, f ||| g)
    | _, _ => none) (some ([], 0#7))

/-- What is amiss in what a piece reads, in plan order: code, FAULTINFO, the address of a record or word, and the
piece that is read (R220). -/
def State.badsOf (s : State) (w : Who) (plan : List PNode) (i : Nat) (p : PNode) : List (Nat × DWord × Option Nat × Nat) :=
  (p.need.flatMap fun e => e.2.flatMap fun k => p.reads i e.1 k).filterMap fun x => match s.pieceAt w plan x.1 x.2.1 x.2.2 with
    | .bad c info a => some (c, info, a, x.1)
    | .val _ _ _ => none

/-- The fault that a piece meets first in plan order: its code, FAULTINFO and the leaf's site (R220). Where the
evaluation meets both BADREC and RCODE, the one of the lowest record address is reported (R72) (DEDUCED, log 34). -/
def State.firstBad (s : State) (w : Who) (plan : List PNode) (i : Nat) (p : PNode) : Nat × DWord × DWord × Nat :=
  let site := fun (k : Nat) => ((plan[k]?.map (·.site)).getD 0#64, (plan[k]?.map (·.siteIdx)).getD 0)
  match s.badsOf w plan i p with
  | [] => (codePoison, 0#64, p.site, p.siteIdx)
  | b :: _ =>
    let ofRecord := fun (x : Nat × DWord × Option Nat × Nat) => x.1 == codeBadrec || x.1 == codeRcode
    let recs := if ofRecord b then (((plan.zip (List.range plan.length)).flatMap fun e => s.badsOf w plan e.2 e.1).filter ofRecord) else []
    let both := recs.any (fun x => x.1 == codeBadrec) && recs.any (fun x => x.1 == codeRcode)
    let x := if both then recs.foldl (fun m x => if x.2.2.1.getD 0 < m.2.2.1.getD 0 then x else m) b else b
    (x.1, x.2.1, site x.2.2.2)

/-! ## Steps -/

/-- The start value of an accumulator: the slot's element, or -0, or 0 (R195, R199). -/
def State.startValue (s : State) (w : Who) (slot : Option Nat) (int : Bool) (r c : Nat) : Num :=
  match slot with
  | some off =>
    let word := ((s.inst? w.die w.inst).map fun i => look 0#32 i.acc ((off + 128 * r + 4 * c) / 4)).getD 0#32
    valueOf (if int then fINT32 else fFP32) word.toNat
  | none => .fin (!int) 0 0

/-- What a step makes: strips of its piece, the flags of its own roundings, and those of its operands'
reads. -/
structure Made where
  strips : Strips
  own : BitVec 7
  kids : List (Nat × BitVec 7)

/-- One operand step of a product: the chunk's exact sums, each added with one rounding (R199). -/
def State.productStep (s : State) (w : Who) (plan : List PNode) (p : PNode) (st : PStep) : Option Made :=
  match p.op with
  | .mul a b _ lo _ int dbl sat slot =>
    let cols := (List.range (stripWidth p.cols st.strip)).map (32 * st.strip + ·)
    let ks := List.range' st.k0 (st.k1 - st.k0)
    match goodLists (st.rows.map fun r => ks.map fun k => s.pieceAt w plan a r k),
          goodLists (cols.map fun c => ks.map fun k => s.pieceAt w plan b k c) with
    | some (as, fa), some (bs, fb) =>
      let rows := (st.rows.zip as).map fun ra =>
        (stripKey ra.1 st.strip, (cols.zip bs).map fun cb =>
          let acc := if st.k0 = lo then s.startValue w slot int ra.1 cb.1 else (stripAt p.vals ra.1 cb.1).getD .nan
          addChunk int dbl sat acc ((ra.2.zip cb.2).map fun e => numMul e.1 e.2))
      some ⟨rows.map fun e => (e.1, e.2.map (·.1)), rows.foldl (fun f e => e.2.foldl (fun f x => f ||| x.2) f) 0#7, [(a, fa), (b, fb)]⟩
    | _, _ => none
  | _ => none

/-- The sum of a split product's parts in the order chosen, each addition rounded (R215), as the elements
of a product are: where SAT is set a sum too great is the largest finite value (DEDUCED, log 79). -/
def State.joinAt (s : State) (w : Who) (plan : List PNode) (ps : List (Option Nat)) (int sat : Bool) (slot : Option Nat) (r c : Nat) : Num × BitVec 7 :=
  let val := fun (k : Option Nat) => match k with
    | some i => (match s.pieceAt w plan i r c with
        | .val x _ _ => x
        | .bad _ _ _ => .nan)
    | none => s.startValue w slot int r c
  match ps with
  | [] => (.nan, 0#7)
  | k :: ks => ks.foldl (fun acc k =>
      let (x, f) := addChunk int false sat acc.1 [(val k, 0#5)]
      (x, acc.2 ||| f)) (val k, 0#7)

/-- One tile step of a piece that is no product. -/
def State.tileStep (s : State) (w : Who) (plan : List PNode) (p : PNode) (st : PStep) : Option Made :=
  let cols := (List.range (stripWidth p.cols st.strip)).map (32 * st.strip + ·)
  match p.op with
  | .join ps int sat slot =>
    let rows := st.rows.map fun r => (stripKey r st.strip, cols.map fun c => s.joinAt w plan ps int sat slot r c)
    some ⟨rows.map fun e => (e.1, e.2.map (·.1)), rows.foldl (fun f e => e.2.foldl (fun f x => f ||| x.2) f) 0#7, []⟩
  | _ =>
    st.rows.foldl (fun acc r => acc.bind fun (m : Made) =>
      let reads := cols.map fun c => (p.readsAt st.p r c).map fun x => (x.1, s.pieceAt w plan x.1 x.2.1 x.2.2)
      (goodLists (reads.map fun l => l.map (·.2))).map fun g =>
        let xs := (cols.zip g.1).map fun e => p.elemAt r e.1 e.2
        ⟨m.strips ++ [(stripKey r st.strip, xs.map (·.1))], xs.foldl (fun f x => f ||| stickyOf x.2) m.own,
          m.kids ++ (reads.flatten.map fun e => (e.1, e.2.flags)).filter fun e => e.2 != 0#7⟩) (some ⟨[], 0#7, []⟩)

/-- Put what a step made into the plan. An emulated step also sets EMUL (R222). BLKZ and RCODE
of a record's reading go to the leaf whose record it is (R72; DESIGN CHOICE, log 49). -/
def applyMade (plan : List PNode) (st : PStep) (m : Made) : List PNode :=
  let plan := plan.modify st.p fun p =>
    { p with vals := m.strips.foldl (fun v e => put? v e.1 (some e.2)) p.vals,
             flags := p.flags ||| m.own ||| (if st.emul then emulBit else 0#7) }
  m.kids.foldl (fun (plan : List PNode) e =>
    plan.modify e.1 fun p => if p.op.isSource then { p with flags := p.flags ||| e.2 } else p) plan

/-- The values that the host returned for an emulated step, in place of those computed (R223). -/
def Made.fromHost (m : Made) (host : List Num) : Made :=
  { m with strips := (m.strips.foldl (fun (acc : Strips × List Num) e =>
      if e.2.length ≤ acc.2.length then (acc.1 ++ [(e.1, acc.2.take e.2.length)], acc.2.drop e.2.length) else (acc.1 ++ [e], acc.2)) ([], host)).1 }

/-! ## Space (R217, R219, R221) -/

def tileSize (fmt : Nat) : Nat := if fmt = fFP64 then 2 else 1
/-- The tiles that strips lie in. -/
def tilesIn (v : Strips) : List (Nat × Nat) := (v.map fun e => (e.1 / 2048 / 32, e.1 % 2048)).eraseDups

/-- Sum a quota over a context's instances on a die (R217). -/
def State.quota (s : State) (d ctx : Nat) (f : Inst → Nat) : Nat :=
  ((s.die d).insts.filter fun e => e.2.ctx == ctx).foldl (fun n e => n + f e.2) 0

/-- How many copies of a piece's values are kept: one for each node it computes, one for an intermediate,
none for a product that accumulates in its slot. -/
def PNode.copies (p : PNode) : Nat :=
  match p.op with
  | .mul _ _ _ _ _ _ _ _ (some _) | .join _ _ _ (some _) => 0
  | .leaf _ _ _ _ | .const _ _ _ | .kept _ _ => p.sinks.length
  | _ => max 1 p.sinks.length

def Node.tiles (x : Node) : Nat := (tilesIn x.vals).length * tileSize x.fmt

/-- The tiles of intermediate space that a context's values take on a core (DEDUCED, log 32). -/
def Core.tilesUsed (k : Core) (ctx : Nat) : Nat :=
  ((k.nodes.filter fun e => e.2.ctx == ctx && !e.2.spilled).foldl (fun n e => n + e.2.tiles) 0)
  + (k.evals.filter fun v => v.who.ctx == ctx).foldl (fun n v =>
      v.pnodes.foldl (fun n p => n + (tilesIn p.vals).length * tileSize p.fmt * p.copies) n) 0

/-- The bytes of a node's value in its type. -/
def Node.valueBytes (x : Node) : Nat := x.rows * x.cols * (if x.fmt = fFP64 then 8 else 4)

/-- The bytes of the spill area that a node's values take (DEDUCED, log 32). -/
def Node.spillBytes (x : Node) : Nat :=
  if !x.spilled then 0
  else match x.op with
    | .mat => x.valueBytes
    | _ => 4096 * x.tiles

/-- The free bytes of a context's graph spill area on a die; what its cores hold beyond their intermediate
space lies there too. -/
def State.spillFree (s : State) (d ctx : Nat) : Nat :=
  let x := s.die d
  let itiles := s.quota d ctx (·.itiles)
  s.quota d ctx (·.gspill) - x.cores.foldl (fun n e =>
    (e.2.nodes.filter fun y => y.2.ctx == ctx).foldl (fun n y => n + y.2.spillBytes) n + 4096 * (e.2.tilesUsed ctx - itiles)) 0

/-- Move the values of evaluated nodes to the spill area, oldest evaluated first, until `n` more tiles fit
(R219). Nodes of the plan that is at work stay. -/
def State.makeRoom (s : State) (d core ctx n : Nat) (stay : List Nat) : Nat → State
  | 0 => s
  | k + 1 =>
    let c := s.core d core
    if c.tilesUsed ctx + n ≤ s.quota d ctx (·.itiles) then s
    else
      let cand := (c.nodes.filter fun e => e.2.ctx == ctx && !e.2.spilled && !e.2.vals.isEmpty && !stay.contains e.1).mergeSort
        fun a b => a.2.evalAge ≤ b.2.evalAge
      match cand with
      | [] => s
      | e :: _ =>
        if s.spillFree d ctx < 4096 * e.2.tiles then s
        else (s.onCore d core fun c => { c with nodes := alter? c.nodes e.1 fun x => { x with spilled := true } }).makeRoom d core ctx n stay k

/-- Find space for the tile of a step: the state, and the FAULTINFO of GSPACE where there is none. -/
def State.spaceFor (s : State) (v : Eval) (p : PNode) (st : PStep) : State × Option DWord :=
  let d := v.who.die
  let ctx := v.who.ctx
  let tile := (((st.rows[0]?).getD 0) / 32, st.strip)
  let n := if (tilesIn p.vals).contains tile then 0 else tileSize p.fmt * p.copies
  let itiles := s.quota d ctx (·.itiles)
  if (s.core d v.who.core).tilesUsed ctx + n ≤ itiles then (s, none)
  else
    let t := s.makeRoom d v.who.core ctx n (v.pnodes.flatMap fun q => q.all.map Prod.fst) (s.core d v.who.core).nodes.length
    let used := (t.core d v.who.core).tilesUsed ctx
    let beyond := (used + n - itiles) - (used - itiles)
    if 4096 * beyond ≤ t.spillFree d ctx then (t, none)
    else (t, some (BitVec.ofNat 64 (n % 2 ^ 16 + itiles % 2 ^ 16 * 2 ^ 16 + min (t.spillFree d ctx / 4096) (2 ^ 32 - 1) * 2 ^ 32)))

/-! ## The course of an evaluation -/

def State.putEval (s : State) (v : Eval) : State :=
  s.onCore v.who.die v.who.core fun c => { c with evals := c.evals.map fun e => if e.id = v.id then v else e }

/-- Count an emulated step in EMULATED and ask firmware for it (R222, R292). -/
def State.countEmulated (s : State) (d : Nat) : State :=
  s.onDie d fun x => x.setSysreg srEmulated (x.sysreg srEmulated + 1#64)

/-- A fault of an evaluation: code, FAULTINFO and append site (R220). -/
structure EvalFault where
  code : Nat
  info : DWord
  site : DWord
  siteIdx : Nat

/-- Do one step of an evaluation, with the host's values where it has them. All the lines of a step are read at one moment
(DESIGN CHOICE, log 65). Data read from another package is fresh in every step (DESIGN CHOICE, log 14). -/
def State.doStep (s : State) (v : Eval) (st : PStep) (host : List Num) : EvalFault ⊕ (Eval × State) :=
  match v.pnodes[st.p]? with
  | none => .inr ({ v with steps := v.steps.tail }, s)
  | some p =>
    match s.spaceFor v p st with
    | (_, some info) => .inl ⟨codeGspace, info, p.csite, p.csIdx⟩
    | (t, none) =>
      match (match p.op with
        | .mul _ _ _ _ _ _ _ _ _ => t.productStep v.who v.pnodes p st
        | _ => t.tileStep v.who v.pnodes p st) with
      | none => let (c, info, site, i) := t.firstBad v.who v.pnodes st.p p; .inl ⟨c, info, site, i⟩
      | some m => .inr ({ v with pnodes := applyMade v.pnodes st (m.fromHost host), steps := v.steps.tail, busy := false, back := none },
          { t with free := t.free + 1 })

/-- Plan an evaluation that has not begun. -/
def State.planEval (s : State) (v : Eval) : Eval × State := if v.planned then (v, s) else s.planOf v

/-- Note in a gang what its force has given a node, strips and sticky bits, so that a discard can take it back (R191, R196). -/
def noteMade (m : List (Nat × List Nat × BitVec 7)) (id : Nat) (keys : List Nat) (flags : BitVec 7) : List (Nat × List Nat × BitVec 7) :=
  match look? m id with
  | some (ks, st) => put? m id (some (ks ++ keys, st ||| flags))
  | none => put? m id (some (keys, flags))

/-- Give a node values that it has not, and sticky bits; note both for the gang, unless the evaluation is a committed command's,
which stands (R195, R225). -/
def State.giveNode (s : State) (d core id gid : Nat) (vals : Strips) (flags : BitVec 7) (stands : Bool) : State :=
  match look? (s.core d core).nodes id with
  | none => s
  | some x =>
    let new := vals.filter fun e => (look? x.vals e.1).isNone
    if new.isEmpty && flags == 0#7 then s
    else
      let (age, t) := s.fresh
      (t.onCore d core fun c => { c with nodes := put? c.nodes id (some
        { x with vals := new.foldl (fun m e => put? m e.1 (some e.2)) x.vals, sticky := x.sticky ||| flags,
                 base := if stands then x.base ||| flags else x.base, evalAge := if new.isEmpty then x.evalAge else age }) }).onGang gid fun g =>
        if stands then g else { g with made := noteMade g.made id (new.map (·.1)) flags }

/-- Whether an evaluation is a command of queue 4: its flight has committed (R195, R204). -/
def EKind.isCommand : EKind → Bool
  | .macc _ _ _ _ _ | .follow _ => true
  | _ => false

/-- The nodes that a plan computes keep its values, and take its flags (R206). What a transpose had is not its operand's (R210). -/
def State.keepValues (s : State) (v : Eval) : State :=
  let c := v.kind.isCommand
  let last := v.pnodes.length - 1
  (v.pnodes.zip (List.range v.pnodes.length)).foldl (fun s e =>
    let p := e.1
    let s1 := if p.op.isSource && e.2 != last then s
      else p.sinks.foldl (fun s id => s.giveNode v.who.die v.who.core id v.gid (if p.outs.contains (id, false) then p.had ++ p.vals else p.vals) 0#7 c) s
    if p.flags = 0#7 then s1 else p.flagsTo.foldl (fun s id => s.giveNode v.who.die v.who.core id v.gid [] p.flags c) s1) s

/-- The element that an evaluation has given of its node. -/
def Eval.result (v : Eval) (r c : Nat) : Num :=
  ((v.pnodes.getLast?).bind fun p => match stripAt p.vals r c with
    | some x => some x
    | none => stripAt p.had r c).getD .nan

/-- Deliver values for a pending-list entry to whoever holds it (R55). -/
def State.deliver (s : State) (tag : Nat) (f : Pend → Pend) : State :=
  let go := fun (g : Gang) => { g with pend := g.pend.map fun p => if p.tag = tag then f p else p }
  { s with gangs := s.gangs.map go, cur := s.cur.map fun r => { r with gang := go r.gang } }

/-- What MRD delivers for an element: FP32 or INT32 in one register, or FP64 in a pair (R193). -/
def readDelivs (fmt reg l : Nat) (x : Num) : List Deliv :=
  let b := if fmt = fFP64 then (roundFloat fFP64 0 0 false x).1 else if isInt fmt then (numToInt (int32Of x) % 2 ^ 32).toNat
    else (roundFloat fFP32 0 0 false x).1
  ⟨true, reg * 32 + l, BitVec.ofNat 64 (b % 2 ^ 32), none⟩
    :: (if fmt = fFP64 then [⟨true, (reg + 1) * 32 + l, BitVec.ofNat 64 (b / 2 ^ 32), none⟩] else [])

/-- Write an element of a slot (R195). -/
def State.setSlot (s : State) (w : Who) (slot r c : Nat) (x : Word) : State :=
  s.onInst w.die w.inst fun i => { i with acc := put 0#32 i.acc ((coreOf w.die w.inst w.core * 2 ^ 18 + slot * 4096 + 128 * r + 4 * c) / 4) x }

/-- The pattern of an accumulator's value. -/
def slotBits (i32 : Bool) (x : Num) : Word :=
  BitVec.ofNat 32 (if i32 then (numToInt x % 2 ^ 32).toNat else (roundFloat fFP32 0 0 false x).1)

/-- The retirement of a MACC: the slot takes its new values, then the counter is signalled (R195); one of
another context is not, and counted as an error (R275) (DEDUCED, log 33). -/
def State.retireMacc (s : State) (v : Eval) (x : Node) (slot : Nat) (i32 sat : Bool) (ctr : Option DWord) : State :=
  let cells := (List.range x.rows).flatMap fun r => (List.range x.cols).map fun c => (r, c)
  let product := match x.op with
    | .mul _ _ _ _ _ => true
    | _ => false
  let s1 := cells.foldl (fun t e =>
    let y := v.result e.1 e.2
    let z := if product then y
      else (addChunk i32 false sat (s.startValue v.who (some (coreOf v.who.die v.who.inst v.who.core * 2 ^ 18 + slot * 4096)) i32 e.1 e.2) [(y, 0#5)]).1
    t.setSlot v.who slot e.1 e.2 (slotBits i32 z)) s
  match ctr with
  | some id => if idCtx id = v.who.ctx then s1.emitEff v.who (.depsig [(id, 1)]) else s1.countError (idDie id) 0x101
  | none => s1

/-- Take an evaluation out of its core's lists; it no longer references nodes. -/
def State.dropEval (s : State) (v : Eval) : State :=
  (s.onCore v.who.die v.who.core fun c =>
    { c with evals := c.evals.filter (fun e => e.id != v.id),
             queues := c.queues.map fun q => (q.1, q.2.filter fun k => k != .eval v.id) }).sweep v.who.die v.who.core

/-- Charge array cycles to the instance and the tasks of an evaluation (R200, R269). -/
def State.chargeArray (s : State) (w : Who) (n : Nat) : State := s.charge w.die w.inst w.stage 1 w.tasks n

/-- The value of an evaluated node as the spill area holds it, row by row (R218; DESIGN CHOICE, log 32). -/
def Node.image (x : Node) : List Byte :=
  (List.range x.rows).flatMap fun r => (List.range x.cols).flatMap fun c =>
    let v := (stripAt x.vals r c).getD .nan
    if x.fmt = fFP64 then bytesOf 8 (BitVec.ofNat 64 (roundFloat fFP64 0 0 false v).1)
    else bytesOf 4 (zext64 (slotBits (isInt x.fmt) v))

/-- A place in a context's graph spill area for `n` bytes beside the values that lie there (R217, R218; DESIGN CHOICE, log 32). -/
def State.graphPlace (s : State) (ctx n : Nat) : Option Nat :=
  let c := s.ctx ctx
  let lo := c.gspill.toNat
  let taken := s.dies.flatMap fun e => e.2.cores.flatMap fun k => k.2.nodes.filterMap fun x =>
    if x.2.ctx = ctx then x.2.spillAt.map fun a => (a, x.2.valueBytes) else none
  (lo :: taken.map fun e => e.1 + e.2).find? fun a =>
    lo ≤ a && a + n ≤ lo + c.gsize && taken.all fun e => a + n ≤ e.1 || e.1 + e.2 ≤ a

/-- An auto-forced node becomes a materialised leaf: its value goes to the spill area, its operands are released,
and the gang keeps what it was, to take it back (R131, R218). Where no stretch of the area has room for it nothing is written (DESIGN
CHOICE, log 32). -/
def State.materialise (s : State) (v : Eval) : State :=
  let d := v.who.die
  let core := v.who.core
  let before := (s.core d core).nodes
  match look? before v.node with
  | none => s
  | some x =>
    let a := s.graphPlace x.ctx x.valueBytes
    let s1 := match a with
      | some va => s.writeVa d x.ctx va x.image
      | none => s
    let s2 := (s1.onCore d core fun c => { c with nodes := alter? c.nodes v.node fun y => { y with op := .mat, spilled := true, spillAt := a } }).chargeArray
      v.who (ceilDiv x.rows 32 * ceilDiv x.cols 32)
    let s3 := (s2.onCore d core fun c => { c with evals := c.evals.filter fun e => e.id != v.id }).sweep d core
    let gone := before.filter fun e => e.1 == v.node || (look? (s3.core d core).nodes e.1).isNone
    s3.onGang v.gid fun g => { g with autos := gone.foldl (fun m e => if (look? m e.1).isSome then m else put? m e.1 (some e.2)) g.autos }

/-- An evaluation's end: nodes keep their values, and what it was for is served. -/
def State.finishEval (s : State) (v : Eval) : State :=
  let d := v.who.die
  let core := v.who.core
  match look? (s.core d core).nodes v.node with
  | none => s.dropEval v
  | some x =>
    let s1 := s.keepValues v
    let s2 := match v.kind with
      | .read tag reg row col width lanes =>
        s1.deliver tag fun p =>
          { p with left := p.left - 1,
                   vals := p.vals ++ (lanes.filter (· < width)).flatMap fun l => readDelivs x.fmt reg l (v.result row (col + l)) }
      | .store =>
        let vals := match v.pnodes.getLast? with
          | some p => p.had ++ p.vals
          | none => []
        s1.onGang v.gid fun g => { g with held := g.held.map fun (h : Held) => match h.eff with
          | .mst de r c sat m n acc tag _ => if tag = v.id then { h with eff := .mst de r c sat m n acc tag vals } else h
          | _ => h }
      | .macc seq slot i32 sat ctr => (s1.retireMacc v x slot i32 sat ctr).seqDone d core v.who.ctx 4 seq
      | .follow seq => s1.seqDone d core v.who.ctx 4 seq
      | .force => s1
      | .auto => s1.materialise v
    s2.dropEval v

/-- A fault of an evaluation: in the forcing flight, with FAULTPC at the forcing instruction; for a command
of queue 4, a page to be serviced, or an engine record and the ERR flag (R192, R195, R205, R220) (DEDUCED, log 36). A slot keeps its
old values then (DESIGN CHOICE, log 66). -/
def State.evalFault (s : State) (v : Eval) (f : EvalFault) : State :=
  let command := fun (seq : Nat) =>
    if f.code = codePage then
      let (tag, t) := s.request v.who.die 1 v.who.ctx (BitVec.ofNat 64 (field f.info 0 56)) f.info (some (.array v.who.core v.id))
      t.putEval { v with wait := some tag }
    else ((s.engineFault v.who 4 seq f.code f.info f.site f.siteIdx).dropEval v).seqDone v.who.die v.who.core v.who.ctx 4 seq
  match v.kind with
  | .macc seq _ _ _ _ => command seq
  | .follow seq => command seq
  | _ => s.takeFault v.gid ⟨f.code, f.info, v.pc⟩ (f.code = codePoison) f.site f.siteIdx

/-- Whether an evaluation is to be discarded: a command of an instance whose ERR flag is set (R195). -/
def State.discards (s : State) (v : Eval) : Option Nat :=
  match v.kind with
  | .macc seq _ _ _ _ | .follow seq => if s.errored v.who.die v.who.inst v.who.core 4 then some seq else none
  | _ => none

/-- Count the beats of a step for its instance (R265). -/
def State.countStep (s : State) (v : Eval) (st : PStep) : State :=
  let n := s.stepBeats v st
  s.onInst v.who.die v.who.inst fun i => { i with memory := i.memory + n }

/-- What is amiss with a MACC's node and slot when it comes to work: its type or its slot, or its shape; a copy's follow-on was not
checked at issue, and its BADATTR names no register (R195, R204; DEDUCED, log 36). -/
def State.maccBad (s : State) (v : Eval) : Option EvalFault :=
  match v.kind, look? (s.core v.who.die v.who.core).nodes v.node with
  | .macc _ slot i32 _ _, some x =>
    let slots := ((s.inst? v.who.die v.who.inst).map (·.accslots)).getD 0
    let shape := fun (n : Nat) => BitVec.ofNat 64 ((n - 1) % 2 ^ 16 + 31 * 2 ^ 16)
    if slots ≤ slot || x.fmt != (if i32 then fINT32 else fFP32) then some ⟨codeBadattr, 0#64, x.site, x.siteIdx⟩
    else if 32 < x.rows then some ⟨codeShape, shape x.rows, x.site, x.siteIdx⟩
    else if 32 < x.cols then some ⟨codeShape, shape x.cols, x.site, x.siteIdx⟩ else none
  | _, _ => none

/-- One step of the array for an evaluation: it is planned when it comes to work, waits for what its step reads, takes the step, hands
an emulated step over, or ends (R206, R222, R224). -/
def State.arrayStep (s : State) (v0 : Eval) : State :=
  match s.discards v0 with
  | some seq => (s.dropEval v0).seqDone v0.who.die v0.who.core v0.who.ctx 4 seq
  | none =>
    match s.maccBad v0 with
    | some f => s.evalFault v0 f
    | none =>
    let (v, s) := s.planEval v0
    match v.steps with
    | [] => s.finishEval v
    | st :: _ =>
      if !s.stepOpen v then s.putEval v
      else if st.emul then
        let t := ((s.putEval { v with busy := true }).countEmulated v.who.die)
        ((t.request v.who.die 2 v.who.ctx (BitVec.ofNat 64 v.id) 0#64 (some (.step v.who.core v.id))).2).chargeArray v.who 64
      else
        match s.doStep v st [] with
        | .inl f => (s.putEval v).evalFault v f
        | .inr (w, t) =>
          let u := t.countStep v st
          (if w.steps.isEmpty then u.finishEval w else u.putEval w).chargeArray v.who st.cycles

/-- The value of an emulated step comes back (R222, R223); an evaluation that is to be planned again has no use for it (R225). Where the
step cannot read its operands as they are now, the value waits (R203). -/
def State.emulatedStep (s : State) (v : Eval) (host : List Num) : State :=
  match if v.planned then v.steps else [] with
  | [] => s.putEval { v with busy := false, back := none }
  | st :: _ =>
    if !s.stepOpen v then s.putEval { v with back := some host }
    else match s.doStep v st host with
    | .inl f => (s.putEval { v with busy := false, back := none }).evalFault { v with busy := false, back := none } f
    | .inr (w, t) => if w.steps.isEmpty then t.finishEval w else t.putEval w

/-! ## The auto-force (R218) -/

/-- The node that the auto-force takes: the oldest of the context that no node references, that is no leaf
or constant, and that has no evaluation outstanding. -/
def Core.victim (c : Core) (ctx : Nat) : Option Nat :=
  let named := c.nodes.flatMap fun e => e.2.op.operands
  let busy := c.evals.flatMap fun v => v.node :: v.pnodes.flatMap fun p => p.all.map Prod.fst
  (c.nodes.find? fun e => e.2.ctx == ctx && !named.contains e.1 && !busy.contains e.1 && (match e.2.op with
    | .leaf _ _ _ _ | .const _ _ _ | .mat => false
    | _ => true)).map (·.1)

/-- Node quota of a context on a core (R217). -/
def State.nodeQuota (s : State) (d ctx : Nat) : Nat := s.quota d ctx (·.gnodes)

/-- FAULTINFO of GALLERY (R221). -/
def galleryInfo (quota : Nat) (none_ : Bool) (free : Nat) : DWord :=
  BitVec.ofNat 64 (quota % 2048 + bit none_ * 2048 + min free (2 ^ 32 - 1) * 2 ^ 32)

/-- Why no node can be freed for one more (R218, R221), or the node that the auto-force takes. -/
def State.autoTarget (s : State) (g : Gang) : Nat ⊕ DWord :=
  let c := s.core g.die g.core
  let quota := s.nodeQuota g.die g.ctx
  let free := s.spillFree g.die g.ctx
  match (c.victim g.ctx).bind fun id => (look? c.nodes id).map fun x => (id, x) with
  | none => .inr (galleryInfo quota true free)
  | some (id, x) => if free < x.valueBytes then .inr (galleryInfo quota false free) else .inl id

end Sys2Proof.Machine
end

