-- ==== Sys2Proof/WellFormed.lean ====
section
/-!
DEFINITION. The checks that a decoded instruction meets beyond the fixed bits of its word: selector
values that are not reserved, fields in their ranges and register numbers in theirs (R32, R33, R36).
-/

namespace Sys2Proof

/-- The format codes of R76. -/
def formatCode (f : Nat) : Bool := f ≤ 0x0A || (0x10 ≤ f && f ≤ 0x13)

/-- The conversion codes that R93 lists. -/
def convCode (c : Nat) : Bool :=
  let f := c % 16
  let narrow := (0x1 ≤ f && f ≤ 0x7) || f = 0x9
  match c / 16 with
  | 0 => f = 0 || narrow || f = 0xA
  | 1 => narrow
  | 2 => narrow || f = 0xA
  | _ => narrow

/-- An FCVT whose destination is E4M3 or E5M2 (R65, R94). -/
def convTo8 (c : Nat) : Bool := c < 0x20 && (c % 16 = 3 || c % 16 = 4)

/-- GN must be 0 when G is 0 (R32). -/
def guardOk (g : BitVec 3) (n : BitVec 1) : Bool := g ≠ 0#3 || n = 0#1

/-- X must be 0 where XE is 0 and the form takes no second scalar (R32, R155, R158). -/
def indexOk (e : BitVec 1) (x : BitVec 5) : Bool := e = 1#1 || x = 0#5

/-- Whether a scope field names a scope of R32. -/
def scopeOk (c : BitVec 3) : Bool := c.toNat ≤ 5

/-- No selector of the instruction has a reserved value (R36; ILLINS reason 1). -/
def Instr.selectorsOk : Instr → Bool
  | .fcmp _ _ _ c | .fcmps _ _ _ c | .dcmp _ _ _ c => c.toNat ≤ 5
  | .fcvt _ _ c _ _ _ r => convCode c.toNat && r.toNat ≤ 4 && (!convTo8 c.toNat || r = 0#3)
  | .aadd _ _ _ _ _ c | .amin _ _ _ _ _ c | .amax _ _ _ _ _ c | .aminu _ _ _ _ _ c | .amaxu _ _ _ _ _ c | .aand _ _ _ _ _ c | .aor _ _ _ _ _ c
  | .axor _ _ _ _ _ c | .axch _ _ _ _ _ c | .acas _ _ _ _ _ c | .afadd _ _ _ _ _ c | .aaddD _ _ _ _ _ c | .amaxuD _ _ _ _ _ c | .acasD _ _ _ _ _ c => scopeOk c
  | .fenceRel c | .fenceAcq c | .fenceFull c => scopeOk c
  | .mconst _ _ _ k => k ≠ 3#2
  | .mmul _ _ _ _ _ _ q => q.toNat ≤ 1
  | .mcvt _ _ _ r f => formatCode f.toNat && r.toNat ≤ 4
  | .mact _ _ k => k.toNat ≤ 2
  | .tbud _ k => k.toNat ≤ 2
  | .launch _ _ t => t.toNat ≤ 4
  | _ => true

/-- No field that must be zero is set, guards included (R32, R33; ILLINS reason 2). -/
def Instr.fieldsOk : Instr → Bool
  | .vadd _ _ _ g n | .vsub _ _ _ g n | .vmul _ _ _ g n | .vmulh _ _ _ g n | .vmulhu _ _ _ g n | .vmad _ _ _ g n
  | .vand _ _ _ g n | .vor _ _ _ g n | .vxor _ _ _ g n | .vshl _ _ _ g n | .vshr _ _ _ g n | .vsra _ _ _ g n
  | .vmin _ _ _ g n | .vmax _ _ _ g n | .vminu _ _ _ g n | .vmaxu _ _ _ g n | .vpop _ _ g n | .vclz _ _ g n
  | .vbrev _ _ g n | .vabsd _ _ _ g n | .vmov _ _ g n | .vdot4 _ _ _ g n | .vdot4u _ _ _ g n | .vreq8 _ _ _ g n
  | .vreq4 _ _ _ g n | .vlane _ g n | .vtask _ g n | .vbcs _ _ g n | .fadd _ _ _ g n | .fsub _ _ _ g n
  | .fmul _ _ _ g n | .ffma _ _ _ g n | .ffms _ _ _ g n | .fmin _ _ _ g n | .fmax _ _ _ g n | .fminn _ _ _ g n
  | .fmaxn _ _ _ g n | .fabs _ _ g n | .fneg _ _ g n | .fcpys _ _ _ g n | .fscl _ _ _ g n | .fcls _ _ g n
  | .frnd _ _ g n | .fcvt _ _ _ g n _ _ | .hadd2 _ _ _ g n | .hsub2 _ _ _ g n | .hmul2 _ _ _ g n | .hfma2 _ _ _ g n
  | .hmin2 _ _ _ g n | .hmax2 _ _ _ g n | .badd2 _ _ _ g n | .bsub2 _ _ _ g n | .bmul2 _ _ _ g n | .bfma2 _ _ _ g n
  | .dadd _ _ _ g n | .dsub _ _ _ g n | .dmul _ _ _ g n | .dfma _ _ _ g n | .dmin _ _ _ g n | .dmax _ _ _ g n
  | .exp2 _ _ g n | .log2 _ _ g n | .rcp _ _ g n | .rsq _ _ g n | .sqrt _ _ g n | .sinpi _ _ g n
  | .cospi _ _ g n | .tanh _ _ g n | .shfl _ _ _ g n | .shflx _ _ _ g n | .shflup _ _ _ g n | .shfldn _ _ _ g n
  | .bcast _ _ _ g n | .redAdd _ _ g n | .redFadd _ _ g n | .redMax _ _ g n | .redMin _ _ g n | .redMaxu _ _ g n
  | .redMinu _ _ g n | .redFmax _ _ g n | .redFmin _ _ g n | .redAnd _ _ g n | .redOr _ _ g n | .redXor _ _ g n
  | .redMaxi _ _ _ g n | .redMini _ _ _ g n | .redFmaxi _ _ _ g n | .redFmini _ _ _ g n | .scanAdd _ _ g n | .scanxAdd _ _ g n
  | .scanFadd _ _ g n | .scanxFadd _ _ g n | .scanMax _ _ g n | .scanMin _ _ g n | .scanOr _ _ g n | .ksort _ _ _ g n
  | .kmerge _ _ _ g n | .rng _ _ _ g n | .rngf _ _ _ g n => guardOk g n
  | .vsel _ _ _ g _ => g ≠ 0#3
  | .vldB _ _ e x _ | .vldBu _ _ e x _ | .vldH _ _ e x _ | .vldHu _ _ e x _ | .vldW _ _ e x _ | .vldD _ _ e x _ | .vstB _ _ e x _ | .vstH _ _ e x _ | .vstW _ _ e x _ | .vstD _ _ e x _
  | .aadd _ _ e x _ _ | .amin _ _ e x _ _ | .amax _ _ e x _ _ | .aminu _ _ e x _ _ | .amaxu _ _ e x _ _ | .aand _ _ e x _ _ | .aor _ _ e x _ _
  | .axor _ _ e x _ _ | .axch _ _ e x _ _ | .acas _ _ e x _ _ | .afadd _ _ e x _ _ | .aaddD _ _ e x _ _ | .amaxuD _ _ e x _ _ | .acasD _ _ e x _ _ => indexOk e x
  | .qfence m => m ≠ 0#5
  | .waitq _ q | .qseq _ q => q.toNat ≤ 4
  | .depsig _ m => m ≠ 0#12
  | _ => true

/-- Every register number is in the range its instruction needs (R33, R36; ILLINS reason 3). -/
def Instr.registersOk : Instr → Bool
  | .fcvt d a c _ _ _ _ =>
    (!(c.toNat / 16 = 1 || c.toNat = 0x2A) || a.toNat % 2 = 0) &&
    (!(c.toNat / 16 = 3 || c.toNat = 0x0A) || d.toNat % 2 = 0)
  | .redMaxi d _ _ _ _ | .redMini d _ _ _ _ | .redFmaxi d _ _ _ _ | .redFmini d _ _ _ _
  | .ksort d _ _ _ _ => d ≠ 63#6
  | .kmerge d a b _ _ => d ≠ 63#6 && a ≠ 63#6 && b ≠ 63#6
  | .rng _ a _ _ _ | .rngf _ a _ _ _ => a ≠ 63#6
  | .acas d _ _ _ _ _ => d ≠ 63#6
  | .acasD d _ _ _ _ _ => d.toNat ≤ 30
  | _ => true

/-- A well-formed instruction: its selectors, fields and registers are in range. -/
def Instr.wf (i : Instr) : Bool := i.selectorsOk && i.fieldsOk && i.registersOk

/-- Well-formedness as a proposition that can be decided. -/
abbrev Instr.WellFormed (i : Instr) : Prop := i.wf = true

end Sys2Proof
end

