-- ==== Sys2Proof/Decode.lean ====
section
/-!
DEFINITION. The decoder of instruction words, total and rejecting by name, and after it the encoder,
both written from the formats of R31, the fields of R32 and the opcode map of R34.
-/

namespace Sys2Proof

/-! ## The formats of R31, most significant field first -/

/-- Format RR of R31. -/
def packRR (maj : BitVec 6) (d : BitVec 6) (a : BitVec 6) (b : BitVec 6) (g : BitVec 3) (gn : BitVec 1) (min : BitVec 4) : Word :=
  maj ++ d ++ a ++ b ++ g ++ gn ++ min

/-- Format RI of R31. -/
def packRI (maj : BitVec 6) (d : BitVec 6) (a : BitVec 6) (imm10 : BitVec 10) (min : BitVec 4) : Word :=
  maj ++ d ++ a ++ imm10 ++ min

/-- Format RL of R31. -/
def packRL (maj : BitVec 6) (d : BitVec 6) (imm20 : BitVec 20) : Word :=
  maj ++ d ++ imm20

/-- Format PC of R31. -/
def packPC (maj : BitVec 6) (pd : BitVec 7) (a : BitVec 6) (b : BitVec 6) (cc : BitVec 3) (min : BitVec 4) : Word :=
  maj ++ pd ++ a ++ b ++ cc ++ min

/-- Format PL of R31. -/
def packPL (maj : BitVec 6) (pd : BitVec 7) (pa : BitVec 7) (pb : BitVec 7) (op : BitVec 5) : Word :=
  maj ++ pd ++ pa ++ pb ++ op

/-- Format VT of R31. -/
def packVT (maj : BitVec 6) (sd : BitVec 5) (pa : BitVec 7) (z : BitVec 10) (min : BitVec 4) : Word :=
  maj ++ sd ++ pa ++ z ++ min

/-- Format BR of R31. -/
def packBR (maj : BitVec 6) (bk : BitVec 3) (s : BitVec 5) (off18 : BitVec 18) : Word :=
  maj ++ bk ++ s ++ off18

/-- Format MM of R31. -/
def packMM (maj : BitVec 6) (d : BitVec 6) (s : BitVec 5) (xe : BitVec 1) (x : BitVec 5) (off5 : BitVec 5) (min : BitVec 4) : Word :=
  maj ++ d ++ s ++ xe ++ x ++ off5 ++ min

/-- Format SY of R31. -/
def packSY (maj : BitVec 6) (sd : BitVec 5) (sa : BitVec 5) (imm12 : BitVec 12) (min : BitVec 4) : Word :=
  maj ++ sd ++ sa ++ imm12 ++ min

/-- Format GR of R31. -/
def packGR (maj : BitVec 6) (nd : BitVec 4) (na : BitVec 4) (nb : BitVec 4) (attr10 : BitVec 10) (min : BitVec 4) : Word :=
  maj ++ nd ++ na ++ nb ++ attr10 ++ min

/-- Format GS of R31. -/
def packGS (maj : BitVec 6) (nd : BitVec 4) (na : BitVec 4) (s : BitVec 5) (imm8 : BitVec 8) (f : BitVec 1) (min : BitVec 4) : Word :=
  maj ++ nd ++ na ++ s ++ imm8 ++ f ++ min

/-- Format GV of R31. -/
def packGV (maj : BitVec 6) (vd : BitVec 6) (n : BitVec 4) (s : BitVec 5) (z : BitVec 7) (min : BitVec 4) : Word :=
  maj ++ vd ++ n ++ s ++ z ++ min

/-- Format GN of R31. -/
def packGN (maj : BitVec 6) (n : BitVec 4) (sd : BitVec 5) (z : BitVec 13) (min : BitVec 4) : Word :=
  maj ++ n ++ sd ++ z ++ min

/-- Format GT of R31. -/
def packGT (maj : BitVec 6) (n : BitVec 4) (tn : BitVec 8) (s : BitVec 5) (flags : BitVec 5) (min : BitVec 4) : Word :=
  maj ++ n ++ tn ++ s ++ flags ++ min

/-- Format GA of R31. -/
def packGA (maj : BitVec 6) (n : BitVec 4) (slot : BitVec 6) (s : BitVec 5) (flags : BitVec 7) (min : BitVec 4) : Word :=
  maj ++ n ++ slot ++ s ++ flags ++ min

/-! ## The encoder -/

/-- The word of an instruction (R31 to R34), or none for an event, which has no encoding. -/
def encode : Instr → Option Word
  | .sadd d a b => some (packRR 0x01#6 (0#1 ++ d) (0#1 ++ a) (0#1 ++ b) 0#3 0#1 0#4)
  | .ssub d a b => some (packRR 0x01#6 (0#1 ++ d) (0#1 ++ a) (0#1 ++ b) 0#3 0#1 1#4)
  | .smul d a b => some (packRR 0x01#6 (0#1 ++ d) (0#1 ++ a) (0#1 ++ b) 0#3 0#1 2#4)
  | .smulh d a b => some (packRR 0x01#6 (0#1 ++ d) (0#1 ++ a) (0#1 ++ b) 0#3 0#1 3#4)
  | .smulhu d a b => some (packRR 0x01#6 (0#1 ++ d) (0#1 ++ a) (0#1 ++ b) 0#3 0#1 4#4)
  | .sand d a b => some (packRR 0x01#6 (0#1 ++ d) (0#1 ++ a) (0#1 ++ b) 0#3 0#1 5#4)
  | .sor d a b => some (packRR 0x01#6 (0#1 ++ d) (0#1 ++ a) (0#1 ++ b) 0#3 0#1 6#4)
  | .sxor d a b => some (packRR 0x01#6 (0#1 ++ d) (0#1 ++ a) (0#1 ++ b) 0#3 0#1 7#4)
  | .sshl d a b => some (packRR 0x01#6 (0#1 ++ d) (0#1 ++ a) (0#1 ++ b) 0#3 0#1 8#4)
  | .sshr d a b => some (packRR 0x01#6 (0#1 ++ d) (0#1 ++ a) (0#1 ++ b) 0#3 0#1 9#4)
  | .ssra d a b => some (packRR 0x01#6 (0#1 ++ d) (0#1 ++ a) (0#1 ++ b) 0#3 0#1 10#4)
  | .smin d a b => some (packRR 0x01#6 (0#1 ++ d) (0#1 ++ a) (0#1 ++ b) 0#3 0#1 11#4)
  | .smax d a b => some (packRR 0x01#6 (0#1 ++ d) (0#1 ++ a) (0#1 ++ b) 0#3 0#1 12#4)
  | .sminu d a b => some (packRR 0x01#6 (0#1 ++ d) (0#1 ++ a) (0#1 ++ b) 0#3 0#1 13#4)
  | .smaxu d a b => some (packRR 0x01#6 (0#1 ++ d) (0#1 ++ a) (0#1 ++ b) 0#3 0#1 14#4)
  | .sslt d a b => some (packRR 0x01#6 (0#1 ++ d) (0#1 ++ a) (0#1 ++ b) 0#3 0#1 15#4)
  | .ssltu d a b => some (packRR 0x02#6 (0#1 ++ d) (0#1 ++ a) (0#1 ++ b) 0#3 0#1 0#4)
  | .sdiv d a b => some (packRR 0x02#6 (0#1 ++ d) (0#1 ++ a) (0#1 ++ b) 0#3 0#1 1#4)
  | .sdivu d a b => some (packRR 0x02#6 (0#1 ++ d) (0#1 ++ a) (0#1 ++ b) 0#3 0#1 2#4)
  | .srem d a b => some (packRR 0x02#6 (0#1 ++ d) (0#1 ++ a) (0#1 ++ b) 0#3 0#1 3#4)
  | .sremu d a b => some (packRR 0x02#6 (0#1 ++ d) (0#1 ++ a) (0#1 ++ b) 0#3 0#1 4#4)
  | .sclz d a => some (packRR 0x02#6 (0#1 ++ d) (0#1 ++ a) 0#6 0#3 0#1 5#4)
  | .spop d a => some (packRR 0x02#6 (0#1 ++ d) (0#1 ++ a) 0#6 0#3 0#1 6#4)
  | .sseq d a b => some (packRR 0x02#6 (0#1 ++ d) (0#1 ++ a) (0#1 ++ b) 0#3 0#1 7#4)
  | .saddi d a i => some (packRI 0x03#6 (0#1 ++ d) (0#1 ++ a) i 0#4)
  | .sandi d a i => some (packRI 0x03#6 (0#1 ++ d) (0#1 ++ a) i 1#4)
  | .sori d a i => some (packRI 0x03#6 (0#1 ++ d) (0#1 ++ a) i 2#4)
  | .sxori d a i => some (packRI 0x03#6 (0#1 ++ d) (0#1 ++ a) i 3#4)
  | .sshli d a i => some (packRI 0x03#6 (0#1 ++ d) (0#1 ++ a) (0#4 ++ i) 4#4)
  | .sshri d a i => some (packRI 0x03#6 (0#1 ++ d) (0#1 ++ a) (0#4 ++ i) 5#4)
  | .ssrai d a i => some (packRI 0x03#6 (0#1 ++ d) (0#1 ++ a) (0#4 ++ i) 6#4)
  | .sslti d a i => some (packRI 0x03#6 (0#1 ++ d) (0#1 ++ a) i 7#4)
  | .ssltiu d a i => some (packRI 0x03#6 (0#1 ++ d) (0#1 ++ a) i 8#4)
  | .slui d i => some (packRL 0x04#6 (0#1 ++ d) i)
  | .sadr d i => some (packRL 0x05#6 (0#1 ++ d) i)
  | .bra o => some (packBR 0x06#6 0#3 0#5 o)
  | .bz s o => some (packBR 0x06#6 1#3 s o)
  | .bnz s o => some (packBR 0x06#6 2#3 s o)
  | .bmz o => some (packBR 0x06#6 3#3 0#5 o)
  | .bmnz o => some (packBR 0x06#6 4#3 0#5 o)
  | .blt s o => some (packBR 0x06#6 5#3 s o)
  | .call o => some (packBR 0x06#6 6#3 0#5 o)
  | .jmp a => some (packSY 0x07#6 0#5 a 0#12 0#4)
  | .callr a => some (packSY 0x07#6 0#5 a 0#12 1#4)
  | .ret => some (packSY 0x07#6 0#5 0#5 0#12 2#4)
  | .regang t => some (packSY 0x07#6 0#5 0#5 t 3#4)
  | .mpush d k => some (packSY 0x07#6 d 0#5 (0#5 ++ k) 4#4)
  | .mpop a => some (packSY 0x07#6 0#5 a 0#12 5#4)
  | .melse a => some (packSY 0x07#6 0#5 a 0#12 6#4)
  | .allon d => some (packSY 0x07#6 d 0#5 0#12 7#4)
  | .alloff a => some (packSY 0x07#6 0#5 a 0#12 8#4)
  | .mget d => some (packSY 0x07#6 d 0#5 0#12 9#4)
  | .mset a => some (packSY 0x07#6 0#5 a 0#12 10#4)
  | .vadd d a b g n => some (packRR 0x08#6 d a b g n 0#4)
  | .vsub d a b g n => some (packRR 0x08#6 d a b g n 1#4)
  | .vmul d a b g n => some (packRR 0x08#6 d a b g n 2#4)
  | .vmulh d a b g n => some (packRR 0x08#6 d a b g n 3#4)
  | .vmulhu d a b g n => some (packRR 0x08#6 d a b g n 4#4)
  | .vmad d a b g n => some (packRR 0x08#6 d a b g n 5#4)
  | .vand d a b g n => some (packRR 0x08#6 d a b g n 6#4)
  | .vor d a b g n => some (packRR 0x08#6 d a b g n 7#4)
  | .vxor d a b g n => some (packRR 0x08#6 d a b g n 8#4)
  | .vshl d a b g n => some (packRR 0x08#6 d a b g n 9#4)
  | .vshr d a b g n => some (packRR 0x08#6 d a b g n 10#4)
  | .vsra d a b g n => some (packRR 0x08#6 d a b g n 11#4)
  | .vmin d a b g n => some (packRR 0x08#6 d a b g n 12#4)
  | .vmax d a b g n => some (packRR 0x08#6 d a b g n 13#4)
  | .vminu d a b g n => some (packRR 0x08#6 d a b g n 14#4)
  | .vmaxu d a b g n => some (packRR 0x08#6 d a b g n 15#4)
  | .vpop d a g n => some (packRR 0x09#6 d a 0#6 g n 0#4)
  | .vclz d a g n => some (packRR 0x09#6 d a 0#6 g n 1#4)
  | .vbrev d a g n => some (packRR 0x09#6 d a 0#6 g n 2#4)
  | .vabsd d a b g n => some (packRR 0x09#6 d a b g n 3#4)
  | .vsel d a b g n => some (packRR 0x09#6 d a b g n 4#4)
  | .vmov d a g n => some (packRR 0x09#6 d a 0#6 g n 5#4)
  | .vdot4 d a b g n => some (packRR 0x09#6 d a b g n 6#4)
  | .vdot4u d a b g n => some (packRR 0x09#6 d a b g n 7#4)
  | .vreq8 d a b g n => some (packRR 0x09#6 d a (0#1 ++ b) g n 8#4)
  | .vreq4 d a b g n => some (packRR 0x09#6 d a (0#1 ++ b) g n 9#4)
  | .vlane d g n => some (packRR 0x09#6 d 0#6 0#6 g n 10#4)
  | .vtask d g n => some (packRR 0x09#6 d 0#6 0#6 g n 11#4)
  | .vbcs d a g n => some (packRR 0x09#6 d (0#1 ++ a) 0#6 g n 12#4)
  | .vaddi d a i => some (packRI 0x0A#6 d a i 0#4)
  | .vandi d a i => some (packRI 0x0A#6 d a i 1#4)
  | .vori d a i => some (packRI 0x0A#6 d a i 2#4)
  | .vxori d a i => some (packRI 0x0A#6 d a i 3#4)
  | .vshli d a i => some (packRI 0x0A#6 d a (0#5 ++ i) 4#4)
  | .vshri d a i => some (packRI 0x0A#6 d a (0#5 ++ i) 5#4)
  | .vsrai d a i => some (packRI 0x0A#6 d a (0#5 ++ i) 6#4)
  | .vmini d a i => some (packRI 0x0A#6 d a i 7#4)
  | .vmaxi d a i => some (packRI 0x0A#6 d a i 8#4)
  | .vmovi d i => some (packRI 0x0A#6 d 0#6 i 9#4)
  | .vunpk d a n => some (packRI 0x0A#6 d a (0#7 ++ n) 10#4)
  | .vlui d i => some (packRL 0x0B#6 d i)
  | .vcmp p a b c => some (packPC 0x0C#6 p a b c 0#4)
  | .vcmps p a b c => some (packPC 0x0C#6 p a (0#1 ++ b) c 1#4)
  | .fcmp p a b c => some (packPC 0x0C#6 p a b c 2#4)
  | .fcmps p a b c => some (packPC 0x0C#6 p a (0#1 ++ b) c 3#4)
  | .dcmp p a b c => some (packPC 0x0C#6 p (a ++ 0#1) (b ++ 0#1) c 4#4)
  | .pand d a b => some (packPL 0x0D#6 d a b 0#5)
  | .por d a b => some (packPL 0x0D#6 d a b 1#5)
  | .pxor d a b => some (packPL 0x0D#6 d a b 2#5)
  | .pandn d a b => some (packPL 0x0D#6 d a b 3#5)
  | .pnot d a => some (packPL 0x0D#6 d a 0#7 4#5)
  | .pmov d a => some (packPL 0x0D#6 d a 0#7 5#5)
  | .pset d => some (packPL 0x0D#6 d 0#7 0#7 6#5)
  | .pclr d => some (packPL 0x0D#6 d 0#7 0#7 7#5)
  | .fadd d a b g n => some (packRR 0x10#6 d a b g n 0#4)
  | .fsub d a b g n => some (packRR 0x10#6 d a b g n 1#4)
  | .fmul d a b g n => some (packRR 0x10#6 d a b g n 2#4)
  | .ffma d a b g n => some (packRR 0x10#6 d a b g n 3#4)
  | .ffms d a b g n => some (packRR 0x10#6 d a b g n 4#4)
  | .fmin d a b g n => some (packRR 0x10#6 d a b g n 5#4)
  | .fmax d a b g n => some (packRR 0x10#6 d a b g n 6#4)
  | .fminn d a b g n => some (packRR 0x10#6 d a b g n 7#4)
  | .fmaxn d a b g n => some (packRR 0x10#6 d a b g n 8#4)
  | .fabs d a g n => some (packRR 0x10#6 d a 0#6 g n 9#4)
  | .fneg d a g n => some (packRR 0x10#6 d a 0#6 g n 10#4)
  | .fcpys d a b g n => some (packRR 0x10#6 d a b g n 11#4)
  | .fscl d a b g n => some (packRR 0x10#6 d a b g n 12#4)
  | .fcls d a g n => some (packRR 0x10#6 d a 0#6 g n 13#4)
  | .frnd d a g n => some (packRR 0x10#6 d a 0#6 g n 14#4)
  | .fcvt d a c g n s r => some (packRR 0x11#6 d a c g n (s ++ r))
  | .hadd2 d a b g n => some (packRR 0x12#6 d a b g n 0#4)
  | .hsub2 d a b g n => some (packRR 0x12#6 d a b g n 1#4)
  | .hmul2 d a b g n => some (packRR 0x12#6 d a b g n 2#4)
  | .hfma2 d a b g n => some (packRR 0x12#6 d a b g n 3#4)
  | .hmin2 d a b g n => some (packRR 0x12#6 d a b g n 4#4)
  | .hmax2 d a b g n => some (packRR 0x12#6 d a b g n 5#4)
  | .badd2 d a b g n => some (packRR 0x12#6 d a b g n 8#4)
  | .bsub2 d a b g n => some (packRR 0x12#6 d a b g n 9#4)
  | .bmul2 d a b g n => some (packRR 0x12#6 d a b g n 10#4)
  | .bfma2 d a b g n => some (packRR 0x12#6 d a b g n 11#4)
  | .dadd d a b g n => some (packRR 0x13#6 (d ++ 0#1) (a ++ 0#1) (b ++ 0#1) g n 0#4)
  | .dsub d a b g n => some (packRR 0x13#6 (d ++ 0#1) (a ++ 0#1) (b ++ 0#1) g n 1#4)
  | .dmul d a b g n => some (packRR 0x13#6 (d ++ 0#1) (a ++ 0#1) (b ++ 0#1) g n 2#4)
  | .dfma d a b g n => some (packRR 0x13#6 (d ++ 0#1) (a ++ 0#1) (b ++ 0#1) g n 3#4)
  | .dmin d a b g n => some (packRR 0x13#6 (d ++ 0#1) (a ++ 0#1) (b ++ 0#1) g n 4#4)
  | .dmax d a b g n => some (packRR 0x13#6 (d ++ 0#1) (a ++ 0#1) (b ++ 0#1) g n 5#4)
  | .exp2 d a g n => some (packRR 0x14#6 d a 0#6 g n 0#4)
  | .log2 d a g n => some (packRR 0x14#6 d a 0#6 g n 1#4)
  | .rcp d a g n => some (packRR 0x14#6 d a 0#6 g n 2#4)
  | .rsq d a g n => some (packRR 0x14#6 d a 0#6 g n 3#4)
  | .sqrt d a g n => some (packRR 0x14#6 d a 0#6 g n 4#4)
  | .sinpi d a g n => some (packRR 0x14#6 d a 0#6 g n 5#4)
  | .cospi d a g n => some (packRR 0x14#6 d a 0#6 g n 6#4)
  | .tanh d a g n => some (packRR 0x14#6 d a 0#6 g n 7#4)
  | .shfl d a b g n => some (packRR 0x18#6 d a b g n 0#4)
  | .shflx d a k g n => some (packRR 0x18#6 d a (0#1 ++ k) g n 1#4)
  | .shflup d a k g n => some (packRR 0x18#6 d a (0#1 ++ k) g n 2#4)
  | .shfldn d a k g n => some (packRR 0x18#6 d a (0#1 ++ k) g n 3#4)
  | .bcast d a k g n => some (packRR 0x18#6 d a (0#1 ++ k) g n 4#4)
  | .vbal d p => some (packVT 0x19#6 d p 0#10 0#4)
  | .vany d p => some (packVT 0x19#6 d p 0#10 1#4)
  | .vall d p => some (packVT 0x19#6 d p 0#10 2#4)
  | .vcnt d p => some (packVT 0x19#6 d p 0#10 3#4)
  | .redAdd d a g n => some (packRR 0x1A#6 d a 0#6 g n 0#4)
  | .redFadd d a g n => some (packRR 0x1A#6 d a 0#6 g n 1#4)
  | .redMax d a g n => some (packRR 0x1A#6 d a 0#6 g n 2#4)
  | .redMin d a g n => some (packRR 0x1A#6 d a 0#6 g n 3#4)
  | .redMaxu d a g n => some (packRR 0x1A#6 d a 0#6 g n 4#4)
  | .redMinu d a g n => some (packRR 0x1A#6 d a 0#6 g n 5#4)
  | .redFmax d a g n => some (packRR 0x1A#6 d a 0#6 g n 6#4)
  | .redFmin d a g n => some (packRR 0x1A#6 d a 0#6 g n 7#4)
  | .redAnd d a g n => some (packRR 0x1A#6 d a 0#6 g n 8#4)
  | .redOr d a g n => some (packRR 0x1A#6 d a 0#6 g n 9#4)
  | .redXor d a g n => some (packRR 0x1A#6 d a 0#6 g n 10#4)
  | .redMaxi d a b g n => some (packRR 0x1A#6 d a b g n 11#4)
  | .redMini d a b g n => some (packRR 0x1A#6 d a b g n 12#4)
  | .redFmaxi d a b g n => some (packRR 0x1A#6 d a b g n 13#4)
  | .redFmini d a b g n => some (packRR 0x1A#6 d a b g n 14#4)
  | .scanAdd d a g n => some (packRR 0x1B#6 d a 0#6 g n 0#4)
  | .scanxAdd d a g n => some (packRR 0x1B#6 d a 0#6 g n 1#4)
  | .scanFadd d a g n => some (packRR 0x1B#6 d a 0#6 g n 2#4)
  | .scanxFadd d a g n => some (packRR 0x1B#6 d a 0#6 g n 3#4)
  | .scanMax d a g n => some (packRR 0x1B#6 d a 0#6 g n 4#4)
  | .scanMin d a g n => some (packRR 0x1B#6 d a 0#6 g n 5#4)
  | .scanOr d a g n => some (packRR 0x1B#6 d a 0#6 g n 6#4)
  | .ksort d a b g n => some (packRR 0x1C#6 d a b g n 0#4)
  | .kmerge d a b g n => some (packRR 0x1C#6 d a b g n 1#4)
  | .rng d a b g n => some (packRR 0x1D#6 d a (0#1 ++ b) g n 0#4)
  | .rngf d a b g n => some (packRR 0x1D#6 d a (0#1 ++ b) g n 1#4)
  | .sldB d s o => some (packMM 0x20#6 (0#1 ++ d) s 0#1 0#5 o 0#4)
  | .sldBu d s o => some (packMM 0x20#6 (0#1 ++ d) s 0#1 0#5 o 1#4)
  | .sldH d s o => some (packMM 0x20#6 (0#1 ++ d) s 0#1 0#5 o 2#4)
  | .sldHu d s o => some (packMM 0x20#6 (0#1 ++ d) s 0#1 0#5 o 3#4)
  | .sldW d s o => some (packMM 0x20#6 (0#1 ++ d) s 0#1 0#5 o 4#4)
  | .sldWu d s o => some (packMM 0x20#6 (0#1 ++ d) s 0#1 0#5 o 5#4)
  | .sldD d s o => some (packMM 0x20#6 (0#1 ++ d) s 0#1 0#5 o 6#4)
  | .sstB d s o => some (packMM 0x21#6 (0#1 ++ d) s 0#1 0#5 o 0#4)
  | .sstH d s o => some (packMM 0x21#6 (0#1 ++ d) s 0#1 0#5 o 1#4)
  | .sstW d s o => some (packMM 0x21#6 (0#1 ++ d) s 0#1 0#5 o 2#4)
  | .sstD d s o => some (packMM 0x21#6 (0#1 ++ d) s 0#1 0#5 o 3#4)
  | .vldB d s e x o => some (packMM 0x22#6 d s e x o 0#4)
  | .vldBu d s e x o => some (packMM 0x22#6 d s e x o 1#4)
  | .vldH d s e x o => some (packMM 0x22#6 d s e x o 2#4)
  | .vldHu d s e x o => some (packMM 0x22#6 d s e x o 3#4)
  | .vldW d s e x o => some (packMM 0x22#6 d s e x o 4#4)
  | .vldD d s e x o => some (packMM 0x22#6 (d ++ 0#1) s e x o 5#4)
  | .vldsW d s x o => some (packMM 0x22#6 d s 0#1 x o 6#4)
  | .vldbW d s o => some (packMM 0x22#6 d s 0#1 0#5 o 7#4)
  | .vstB d s e x o => some (packMM 0x23#6 d s e x o 0#4)
  | .vstH d s e x o => some (packMM 0x23#6 d s e x o 1#4)
  | .vstW d s e x o => some (packMM 0x23#6 d s e x o 2#4)
  | .vstD d s e x o => some (packMM 0x23#6 (d ++ 0#1) s e x o 3#4)
  | .vstsW d s x o => some (packMM 0x23#6 d s 0#1 x o 4#4)
  | .tld d s x o => some (packMM 0x24#6 (d ++ 0#5) s 0#1 x o 0#4)
  | .tldt d s x o => some (packMM 0x24#6 (d ++ 0#5) s 0#1 x o 1#4)
  | .tst d s x o => some (packMM 0x24#6 (d ++ 0#5) s 0#1 x o 2#4)
  | .tstt d s x o => some (packMM 0x24#6 (d ++ 0#5) s 0#1 x o 3#4)
  | .aadd d s e x o c => some (packMM 0x25#6 d s e x (o ++ c) 0#4)
  | .amin d s e x o c => some (packMM 0x25#6 d s e x (o ++ c) 1#4)
  | .amax d s e x o c => some (packMM 0x25#6 d s e x (o ++ c) 2#4)
  | .aminu d s e x o c => some (packMM 0x25#6 d s e x (o ++ c) 3#4)
  | .amaxu d s e x o c => some (packMM 0x25#6 d s e x (o ++ c) 4#4)
  | .aand d s e x o c => some (packMM 0x25#6 d s e x (o ++ c) 5#4)
  | .aor d s e x o c => some (packMM 0x25#6 d s e x (o ++ c) 6#4)
  | .axor d s e x o c => some (packMM 0x25#6 d s e x (o ++ c) 7#4)
  | .axch d s e x o c => some (packMM 0x25#6 d s e x (o ++ c) 8#4)
  | .acas d s e x o c => some (packMM 0x25#6 d s e x (o ++ c) 9#4)
  | .afadd d s e x o c => some (packMM 0x25#6 d s e x (o ++ c) 10#4)
  | .aaddD d s e x o c => some (packMM 0x25#6 (d ++ 0#1) s e x (o ++ c) 11#4)
  | .amaxuD d s e x o c => some (packMM 0x25#6 (d ++ 0#1) s e x (o ++ c) 12#4)
  | .acasD d s e x o c => some (packMM 0x25#6 (d ++ 0#1) s e x (o ++ c) 13#4)
  | .fenceRel c => some (packSY 0x26#6 0#5 0#5 (0#7 ++ c ++ 2#2) 0#4)
  | .fenceAcq c => some (packSY 0x26#6 0#5 0#5 (0#7 ++ c ++ 1#2) 0#4)
  | .fenceFull c => some (packSY 0x26#6 0#5 0#5 (0#7 ++ c ++ 3#2) 0#4)
  | .qfence m => some (packSY 0x26#6 0#5 0#5 (0#7 ++ m) 1#4)
  | .waita d a => some (packSY 0x26#6 d a 0#12 2#4)
  | .waitq d q => some (packSY 0x26#6 d 0#5 (0#9 ++ q) 3#4)
  | .cpy d a q => some (packSY 0x27#6 d a (0#10 ++ q) 0#4)
  | .qseq d q => some (packSY 0x27#6 d 0#5 (0#9 ++ q) 1#4)
  | .tndef a t => some (packSY 0x28#6 0#5 a (0#4 ++ t) 0#4)
  | .tnrel t => some (packSY 0x28#6 0#5 0#5 (0#4 ++ t) 1#4)
  | .tnget d t => some (packSY 0x28#6 d 0#5 (0#4 ++ t) 2#4)
  | .mleaf d s k t => some (packGS 0x29#6 d 0#4 s k t 0#4)
  | .mconst d s y k => some (packGS 0x29#6 d 0#4 s (0#5 ++ y ++ k) 0#1 1#4)
  | .mtri d a s => some (packGS 0x29#6 d a s 0#8 0#1 2#4)
  | .mscl d a s => some (packGS 0x29#6 d a s 0#8 0#1 3#4)
  | .mmul d a b t k s q => some (packGR 0x2A#6 d a b (0#5 ++ t ++ k ++ s ++ q) 0#4)
  | .meadd d a b s => some (packGR 0x2A#6 d a b (0#7 ++ s ++ 0#2) 1#4)
  | .mesub d a b s => some (packGR 0x2A#6 d a b (0#7 ++ s ++ 0#2) 2#4)
  | .memul d a b s => some (packGR 0x2A#6 d a b (0#7 ++ s ++ 0#2) 3#4)
  | .mtrn d a => some (packGR 0x2A#6 d a 0#4 0#10 4#4)
  | .mcvt d a t r f => some (packGR 0x2A#6 d a 0#4 (t ++ r ++ f) 5#4)
  | .mact d a k => some (packGR 0x2A#6 d a 0#4 (0#6 ++ k) 6#4)
  | .force n => some (packGN 0x2B#6 n 0#5 0#13 0#4)
  | .mdrop n => some (packGN 0x2B#6 n 0#5 0#13 1#4)
  | .mrd d n s => some (packGV 0x2B#6 d n s 0#7 2#4)
  | .mst n t s f => some (packGT 0x2B#6 n t s (0#4 ++ f) 3#4)
  | .macc n k s t i => some (packGA 0x2B#6 n k s (0#5 ++ t ++ i) 4#4)
  | .mstat n d => some (packGN 0x2B#6 n d 0#13 5#4)
  | .tend => some (packSY 0x30#6 0#5 0#5 0#12 0#4)
  | .tinst d => some (packSY 0x30#6 d 0#5 0#12 1#4)
  | .tstg d => some (packSY 0x30#6 d 0#5 0#12 2#4)
  | .tbud d k => some (packSY 0x30#6 d 0#5 k 3#4)
  | .tslk d => some (packSY 0x30#6 d 0#5 0#12 4#4)
  | .enq a n g => some (packSY 0x30#6 0#5 a (0#4 ++ n ++ g) 5#4)
  | .enqv f n g => some (packSY 0x30#6 f 0#5 (0#4 ++ n ++ g) 6#4)
  | .launch d a t => some (packSY 0x30#6 d a (0#9 ++ t) 7#4)
  | .depnew d a => some (packSY 0x31#6 d a 0#12 0#4)
  | .depsig a m => some (packSY 0x31#6 0#5 a m 1#4)
  | .depwait a => some (packSY 0x31#6 0#5 a 0#12 2#4)
  | .deparm d a n g => some (packSY 0x31#6 d a (0#4 ++ n ++ g) 3#4)
  | .gnew d => some (packSY 0x32#6 d 0#5 0#12 0#4)
  | .gjoin a => some (packSY 0x32#6 0#5 a 0#12 1#4)
  | .gleave a => some (packSY 0x32#6 0#5 a 0#12 2#4)
  | .gbar a => some (packSY 0x32#6 0#5 a 0#12 3#4)
  | .gsize d a => some (packSY 0x32#6 d a 0#12 4#4)
  | .sysr d n => some (packSY 0x33#6 d 0#5 n 0#4)
  | .sysw a n => some (packSY 0x33#6 0#5 a n 1#4)
  | .trap c => some (packSY 0x33#6 0#5 0#5 c 2#4)
  | .nop => some (packSY 0x33#6 0#5 0#5 0#12 3#4)
  | .cdrain d a => some (packSY 0x34#6 d a 0#12 0#4)
  | .cscan d a => some (packSY 0x34#6 d a 0#12 1#4)
  | .csig d a => some (packSY 0x34#6 d a 0#12 2#4)
  | .cmaprm a => some (packSY 0x34#6 0#5 a 0#12 3#4)
  | .cmapad a => some (packSY 0x34#6 0#5 a 0#12 4#4)
  | .creset a => some (packSY 0x34#6 0#5 a 0#12 5#4)
  | .eret => some (packSY 0x34#6 0#5 0#5 0#12 6#4)
  | .clauseIssue _ _ _ _ => none
  | .flightCommit _ _ => none
  | .resultArrival _ _ _ => none
  | .pageWalk _ _ => none
  | .scratchRefill _ _ _ _ => none
  | .relaunch _ _ => none
  | .preemptGang _ => none
  | .recordMove _ _ _ => none
  | .gatherTimeout _ => none
  | .dispatch _ => none
  | .admission _ => none
  | .enqueueOffer _ => none
  | .enqueueBackoff _ => none
  | .counterDecrement _ => none
  | .gbarArrival _ => none
  | .watchChange _ => none
  | .homeStore _ => none
  | .homeAtomic _ => none
  | .remoteScratchAccess _ => none
  | .clusterPathFail _ _ _ => none
  | .copyBeat _ _ _ _ => none
  | .copyNotify _ _ _ => none
  | .arrayOperandStep _ _ => none
  | .emulatedStepDone _ _ _ => none
  | .deadmiss _ _ => none
  | .preemptTimeout _ => none
  | .contextDrainDone _ => none
  | .waitforBuild _ => none
  | .sampleWindow _ _ => none
  | .tlbinv _ _ => none
  | .shootdownComplete _ => none
  | .evdone _ _ => none
  | .dbgresume _ _ => none
  | .sampctl _ _ => none
  | .contain _ _ => none
  | .cdrainDone _ _ => none
  | .cscanDone _ _ _ => none
  | .causalMessage _ _ => none
  | .replicaFill _ _ => none
  | .d2dLinkFail _ _ => none
  | .fabricRequest _ => none
  | .fabricAck _ _ => none
  | .fabricLinkFail _ => none
  | .fabricTimeout _ => none
  | .patrolScrub _ _ => none
  | .powerThrottle _ _ _ => none
  | .bringUp _ => none
  | .attestationRequest _ => none
  | .tail _ _ => none
  | .chainRecord _ => none
  | .frcons _ _ => none
  | .ctxctlStart _ => none
  | .ctxctlSwitchOut _ => none
  | .ctxctlResume _ => none
  | .ctxctlEnd _ => none
  | .ctxbase _ => none
  | .fabid _ => none
  | .registerWrite _ _ => none
  | .classifierWindow _ => none
  | .replicaDrop _ _ => none
  | .hostAdmissionAnswer _ _ => none

/-! ## The opcode map of R34, one table for each major -/

/-- Major 0x01, SALU (R34). -/
def rawSalu (w : Word) : Option Instr :=
  match (w.extractLsb' 0 4).toNat with
  | 0 => some (.sadd (w.extractLsb' 20 5) (w.extractLsb' 14 5) (w.extractLsb' 8 5))
  | 1 => some (.ssub (w.extractLsb' 20 5) (w.extractLsb' 14 5) (w.extractLsb' 8 5))
  | 2 => some (.smul (w.extractLsb' 20 5) (w.extractLsb' 14 5) (w.extractLsb' 8 5))
  | 3 => some (.smulh (w.extractLsb' 20 5) (w.extractLsb' 14 5) (w.extractLsb' 8 5))
  | 4 => some (.smulhu (w.extractLsb' 20 5) (w.extractLsb' 14 5) (w.extractLsb' 8 5))
  | 5 => some (.sand (w.extractLsb' 20 5) (w.extractLsb' 14 5) (w.extractLsb' 8 5))
  | 6 => some (.sor (w.extractLsb' 20 5) (w.extractLsb' 14 5) (w.extractLsb' 8 5))
  | 7 => some (.sxor (w.extractLsb' 20 5) (w.extractLsb' 14 5) (w.extractLsb' 8 5))
  | 8 => some (.sshl (w.extractLsb' 20 5) (w.extractLsb' 14 5) (w.extractLsb' 8 5))
  | 9 => some (.sshr (w.extractLsb' 20 5) (w.extractLsb' 14 5) (w.extractLsb' 8 5))
  | 10 => some (.ssra (w.extractLsb' 20 5) (w.extractLsb' 14 5) (w.extractLsb' 8 5))
  | 11 => some (.smin (w.extractLsb' 20 5) (w.extractLsb' 14 5) (w.extractLsb' 8 5))
  | 12 => some (.smax (w.extractLsb' 20 5) (w.extractLsb' 14 5) (w.extractLsb' 8 5))
  | 13 => some (.sminu (w.extractLsb' 20 5) (w.extractLsb' 14 5) (w.extractLsb' 8 5))
  | 14 => some (.smaxu (w.extractLsb' 20 5) (w.extractLsb' 14 5) (w.extractLsb' 8 5))
  | 15 => some (.sslt (w.extractLsb' 20 5) (w.extractLsb' 14 5) (w.extractLsb' 8 5))
  | _ => none

/-- Major 0x02, SALU2 (R34). -/
def rawSalu2 (w : Word) : Option Instr :=
  match (w.extractLsb' 0 4).toNat with
  | 0 => some (.ssltu (w.extractLsb' 20 5) (w.extractLsb' 14 5) (w.extractLsb' 8 5))
  | 1 => some (.sdiv (w.extractLsb' 20 5) (w.extractLsb' 14 5) (w.extractLsb' 8 5))
  | 2 => some (.sdivu (w.extractLsb' 20 5) (w.extractLsb' 14 5) (w.extractLsb' 8 5))
  | 3 => some (.srem (w.extractLsb' 20 5) (w.extractLsb' 14 5) (w.extractLsb' 8 5))
  | 4 => some (.sremu (w.extractLsb' 20 5) (w.extractLsb' 14 5) (w.extractLsb' 8 5))
  | 5 => some (.sclz (w.extractLsb' 20 5) (w.extractLsb' 14 5))
  | 6 => some (.spop (w.extractLsb' 20 5) (w.extractLsb' 14 5))
  | 7 => some (.sseq (w.extractLsb' 20 5) (w.extractLsb' 14 5) (w.extractLsb' 8 5))
  | _ => none

/-- Major 0x03, SALUI (R34). -/
def rawSalui (w : Word) : Option Instr :=
  match (w.extractLsb' 0 4).toNat with
  | 0 => some (.saddi (w.extractLsb' 20 5) (w.extractLsb' 14 5) (w.extractLsb' 4 10))
  | 1 => some (.sandi (w.extractLsb' 20 5) (w.extractLsb' 14 5) (w.extractLsb' 4 10))
  | 2 => some (.sori (w.extractLsb' 20 5) (w.extractLsb' 14 5) (w.extractLsb' 4 10))
  | 3 => some (.sxori (w.extractLsb' 20 5) (w.extractLsb' 14 5) (w.extractLsb' 4 10))
  | 4 => some (.sshli (w.extractLsb' 20 5) (w.extractLsb' 14 5) (w.extractLsb' 4 6))
  | 5 => some (.sshri (w.extractLsb' 20 5) (w.extractLsb' 14 5) (w.extractLsb' 4 6))
  | 6 => some (.ssrai (w.extractLsb' 20 5) (w.extractLsb' 14 5) (w.extractLsb' 4 6))
  | 7 => some (.sslti (w.extractLsb' 20 5) (w.extractLsb' 14 5) (w.extractLsb' 4 10))
  | 8 => some (.ssltiu (w.extractLsb' 20 5) (w.extractLsb' 14 5) (w.extractLsb' 4 10))
  | _ => none

/-- Major 0x04, SLUI (R34). -/
def rawSlui (w : Word) : Option Instr :=
  some (.slui (w.extractLsb' 20 5) (w.extractLsb' 0 20))

/-- Major 0x05, SADR (R34). -/
def rawSadr (w : Word) : Option Instr :=
  some (.sadr (w.extractLsb' 20 5) (w.extractLsb' 0 20))

/-- Major 0x06, BRANCH (R34). -/
def rawBranch (w : Word) : Option Instr :=
  match (w.extractLsb' 23 3).toNat with
  | 0 => some (.bra (w.extractLsb' 0 18))
  | 1 => some (.bz (w.extractLsb' 18 5) (w.extractLsb' 0 18))
  | 2 => some (.bnz (w.extractLsb' 18 5) (w.extractLsb' 0 18))
  | 3 => some (.bmz (w.extractLsb' 0 18))
  | 4 => some (.bmnz (w.extractLsb' 0 18))
  | 5 => some (.blt (w.extractLsb' 18 5) (w.extractLsb' 0 18))
  | 6 => some (.call (w.extractLsb' 0 18))
  | _ => none

/-- Major 0x07, CTL (R34). -/
def rawCtl (w : Word) : Option Instr :=
  match (w.extractLsb' 0 4).toNat with
  | 0 => some (.jmp (w.extractLsb' 16 5))
  | 1 => some (.callr (w.extractLsb' 16 5))
  | 2 => some (.ret)
  | 3 => some (.regang (w.extractLsb' 4 12))
  | 4 => some (.mpush (w.extractLsb' 21 5) (w.extractLsb' 4 7))
  | 5 => some (.mpop (w.extractLsb' 16 5))
  | 6 => some (.melse (w.extractLsb' 16 5))
  | 7 => some (.allon (w.extractLsb' 21 5))
  | 8 => some (.alloff (w.extractLsb' 16 5))
  | 9 => some (.mget (w.extractLsb' 21 5))
  | 10 => some (.mset (w.extractLsb' 16 5))
  | _ => none

/-- Major 0x08, VIALU (R34). -/
def rawVialu (w : Word) : Option Instr :=
  match (w.extractLsb' 0 4).toNat with
  | 0 => some (.vadd (w.extractLsb' 20 6) (w.extractLsb' 14 6) (w.extractLsb' 8 6) (w.extractLsb' 5 3) (w.extractLsb' 4 1))
  | 1 => some (.vsub (w.extractLsb' 20 6) (w.extractLsb' 14 6) (w.extractLsb' 8 6) (w.extractLsb' 5 3) (w.extractLsb' 4 1))
  | 2 => some (.vmul (w.extractLsb' 20 6) (w.extractLsb' 14 6) (w.extractLsb' 8 6) (w.extractLsb' 5 3) (w.extractLsb' 4 1))
  | 3 => some (.vmulh (w.extractLsb' 20 6) (w.extractLsb' 14 6) (w.extractLsb' 8 6) (w.extractLsb' 5 3) (w.extractLsb' 4 1))
  | 4 => some (.vmulhu (w.extractLsb' 20 6) (w.extractLsb' 14 6) (w.extractLsb' 8 6) (w.extractLsb' 5 3) (w.extractLsb' 4 1))
  | 5 => some (.vmad (w.extractLsb' 20 6) (w.extractLsb' 14 6) (w.extractLsb' 8 6) (w.extractLsb' 5 3) (w.extractLsb' 4 1))
  | 6 => some (.vand (w.extractLsb' 20 6) (w.extractLsb' 14 6) (w.extractLsb' 8 6) (w.extractLsb' 5 3) (w.extractLsb' 4 1))
  | 7 => some (.vor (w.extractLsb' 20 6) (w.extractLsb' 14 6) (w.extractLsb' 8 6) (w.extractLsb' 5 3) (w.extractLsb' 4 1))
  | 8 => some (.vxor (w.extractLsb' 20 6) (w.extractLsb' 14 6) (w.extractLsb' 8 6) (w.extractLsb' 5 3) (w.extractLsb' 4 1))
  | 9 => some (.vshl (w.extractLsb' 20 6) (w.extractLsb' 14 6) (w.extractLsb' 8 6) (w.extractLsb' 5 3) (w.extractLsb' 4 1))
  | 10 => some (.vshr (w.extractLsb' 20 6) (w.extractLsb' 14 6) (w.extractLsb' 8 6) (w.extractLsb' 5 3) (w.extractLsb' 4 1))
  | 11 => some (.vsra (w.extractLsb' 20 6) (w.extractLsb' 14 6) (w.extractLsb' 8 6) (w.extractLsb' 5 3) (w.extractLsb' 4 1))
  | 12 => some (.vmin (w.extractLsb' 20 6) (w.extractLsb' 14 6) (w.extractLsb' 8 6) (w.extractLsb' 5 3) (w.extractLsb' 4 1))
  | 13 => some (.vmax (w.extractLsb' 20 6) (w.extractLsb' 14 6) (w.extractLsb' 8 6) (w.extractLsb' 5 3) (w.extractLsb' 4 1))
  | 14 => some (.vminu (w.extractLsb' 20 6) (w.extractLsb' 14 6) (w.extractLsb' 8 6) (w.extractLsb' 5 3) (w.extractLsb' 4 1))
  | 15 => some (.vmaxu (w.extractLsb' 20 6) (w.extractLsb' 14 6) (w.extractLsb' 8 6) (w.extractLsb' 5 3) (w.extractLsb' 4 1))
  | _ => none

/-- Major 0x09, VIALU2 (R34). -/
def rawVialu2 (w : Word) : Option Instr :=
  match (w.extractLsb' 0 4).toNat with
  | 0 => some (.vpop (w.extractLsb' 20 6) (w.extractLsb' 14 6) (w.extractLsb' 5 3) (w.extractLsb' 4 1))
  | 1 => some (.vclz (w.extractLsb' 20 6) (w.extractLsb' 14 6) (w.extractLsb' 5 3) (w.extractLsb' 4 1))
  | 2 => some (.vbrev (w.extractLsb' 20 6) (w.extractLsb' 14 6) (w.extractLsb' 5 3) (w.extractLsb' 4 1))
  | 3 => some (.vabsd (w.extractLsb' 20 6) (w.extractLsb' 14 6) (w.extractLsb' 8 6) (w.extractLsb' 5 3) (w.extractLsb' 4 1))
  | 4 => some (.vsel (w.extractLsb' 20 6) (w.extractLsb' 14 6) (w.extractLsb' 8 6) (w.extractLsb' 5 3) (w.extractLsb' 4 1))
  | 5 => some (.vmov (w.extractLsb' 20 6) (w.extractLsb' 14 6) (w.extractLsb' 5 3) (w.extractLsb' 4 1))
  | 6 => some (.vdot4 (w.extractLsb' 20 6) (w.extractLsb' 14 6) (w.extractLsb' 8 6) (w.extractLsb' 5 3) (w.extractLsb' 4 1))
  | 7 => some (.vdot4u (w.extractLsb' 20 6) (w.extractLsb' 14 6) (w.extractLsb' 8 6) (w.extractLsb' 5 3) (w.extractLsb' 4 1))
  | 8 => some (.vreq8 (w.extractLsb' 20 6) (w.extractLsb' 14 6) (w.extractLsb' 8 5) (w.extractLsb' 5 3) (w.extractLsb' 4 1))
  | 9 => some (.vreq4 (w.extractLsb' 20 6) (w.extractLsb' 14 6) (w.extractLsb' 8 5) (w.extractLsb' 5 3) (w.extractLsb' 4 1))
  | 10 => some (.vlane (w.extractLsb' 20 6) (w.extractLsb' 5 3) (w.extractLsb' 4 1))
  | 11 => some (.vtask (w.extractLsb' 20 6) (w.extractLsb' 5 3) (w.extractLsb' 4 1))
  | 12 => some (.vbcs (w.extractLsb' 20 6) (w.extractLsb' 14 5) (w.extractLsb' 5 3) (w.extractLsb' 4 1))
  | _ => none

/-- Major 0x0A, VIALUI (R34). -/
def rawVialui (w : Word) : Option Instr :=
  match (w.extractLsb' 0 4).toNat with
  | 0 => some (.vaddi (w.extractLsb' 20 6) (w.extractLsb' 14 6) (w.extractLsb' 4 10))
  | 1 => some (.vandi (w.extractLsb' 20 6) (w.extractLsb' 14 6) (w.extractLsb' 4 10))
  | 2 => some (.vori (w.extractLsb' 20 6) (w.extractLsb' 14 6) (w.extractLsb' 4 10))
  | 3 => some (.vxori (w.extractLsb' 20 6) (w.extractLsb' 14 6) (w.extractLsb' 4 10))
  | 4 => some (.vshli (w.extractLsb' 20 6) (w.extractLsb' 14 6) (w.extractLsb' 4 5))
  | 5 => some (.vshri (w.extractLsb' 20 6) (w.extractLsb' 14 6) (w.extractLsb' 4 5))
  | 6 => some (.vsrai (w.extractLsb' 20 6) (w.extractLsb' 14 6) (w.extractLsb' 4 5))
  | 7 => some (.vmini (w.extractLsb' 20 6) (w.extractLsb' 14 6) (w.extractLsb' 4 10))
  | 8 => some (.vmaxi (w.extractLsb' 20 6) (w.extractLsb' 14 6) (w.extractLsb' 4 10))
  | 9 => some (.vmovi (w.extractLsb' 20 6) (w.extractLsb' 4 10))
  | 10 => some (.vunpk (w.extractLsb' 20 6) (w.extractLsb' 14 6) (w.extractLsb' 4 3))
  | _ => none

/-- Major 0x0B, VLUI (R34). -/
def rawVlui (w : Word) : Option Instr :=
  some (.vlui (w.extractLsb' 20 6) (w.extractLsb' 0 20))

/-- Major 0x0C, CMP (R34). -/
def rawCmp (w : Word) : Option Instr :=
  match (w.extractLsb' 0 4).toNat with
  | 0 => some (.vcmp (w.extractLsb' 19 7) (w.extractLsb' 13 6) (w.extractLsb' 7 6) (w.extractLsb' 4 3))
  | 1 => some (.vcmps (w.extractLsb' 19 7) (w.extractLsb' 13 6) (w.extractLsb' 7 5) (w.extractLsb' 4 3))
  | 2 => some (.fcmp (w.extractLsb' 19 7) (w.extractLsb' 13 6) (w.extractLsb' 7 6) (w.extractLsb' 4 3))
  | 3 => some (.fcmps (w.extractLsb' 19 7) (w.extractLsb' 13 6) (w.extractLsb' 7 5) (w.extractLsb' 4 3))
  | 4 => some (.dcmp (w.extractLsb' 19 7) (w.extractLsb' 14 5) (w.extractLsb' 8 5) (w.extractLsb' 4 3))
  | _ => none

/-- Major 0x0D, PLOG (R34). -/
def rawPlog (w : Word) : Option Instr :=
  match (w.extractLsb' 0 5).toNat with
  | 0 => some (.pand (w.extractLsb' 19 7) (w.extractLsb' 12 7) (w.extractLsb' 5 7))
  | 1 => some (.por (w.extractLsb' 19 7) (w.extractLsb' 12 7) (w.extractLsb' 5 7))
  | 2 => some (.pxor (w.extractLsb' 19 7) (w.extractLsb' 12 7) (w.extractLsb' 5 7))
  | 3 => some (.pandn (w.extractLsb' 19 7) (w.extractLsb' 12 7) (w.extractLsb' 5 7))
  | 4 => some (.pnot (w.extractLsb' 19 7) (w.extractLsb' 12 7))
  | 5 => some (.pmov (w.extractLsb' 19 7) (w.extractLsb' 12 7))
  | 6 => some (.pset (w.extractLsb' 19 7))
  | 7 => some (.pclr (w.extractLsb' 19 7))
  | _ => none

/-- Major 0x10, FALU (R34). -/
def rawFalu (w : Word) : Option Instr :=
  match (w.extractLsb' 0 4).toNat with
  | 0 => some (.fadd (w.extractLsb' 20 6) (w.extractLsb' 14 6) (w.extractLsb' 8 6) (w.extractLsb' 5 3) (w.extractLsb' 4 1))
  | 1 => some (.fsub (w.extractLsb' 20 6) (w.extractLsb' 14 6) (w.extractLsb' 8 6) (w.extractLsb' 5 3) (w.extractLsb' 4 1))
  | 2 => some (.fmul (w.extractLsb' 20 6) (w.extractLsb' 14 6) (w.extractLsb' 8 6) (w.extractLsb' 5 3) (w.extractLsb' 4 1))
  | 3 => some (.ffma (w.extractLsb' 20 6) (w.extractLsb' 14 6) (w.extractLsb' 8 6) (w.extractLsb' 5 3) (w.extractLsb' 4 1))
  | 4 => some (.ffms (w.extractLsb' 20 6) (w.extractLsb' 14 6) (w.extractLsb' 8 6) (w.extractLsb' 5 3) (w.extractLsb' 4 1))
  | 5 => some (.fmin (w.extractLsb' 20 6) (w.extractLsb' 14 6) (w.extractLsb' 8 6) (w.extractLsb' 5 3) (w.extractLsb' 4 1))
  | 6 => some (.fmax (w.extractLsb' 20 6) (w.extractLsb' 14 6) (w.extractLsb' 8 6) (w.extractLsb' 5 3) (w.extractLsb' 4 1))
  | 7 => some (.fminn (w.extractLsb' 20 6) (w.extractLsb' 14 6) (w.extractLsb' 8 6) (w.extractLsb' 5 3) (w.extractLsb' 4 1))
  | 8 => some (.fmaxn (w.extractLsb' 20 6) (w.extractLsb' 14 6) (w.extractLsb' 8 6) (w.extractLsb' 5 3) (w.extractLsb' 4 1))
  | 9 => some (.fabs (w.extractLsb' 20 6) (w.extractLsb' 14 6) (w.extractLsb' 5 3) (w.extractLsb' 4 1))
  | 10 => some (.fneg (w.extractLsb' 20 6) (w.extractLsb' 14 6) (w.extractLsb' 5 3) (w.extractLsb' 4 1))
  | 11 => some (.fcpys (w.extractLsb' 20 6) (w.extractLsb' 14 6) (w.extractLsb' 8 6) (w.extractLsb' 5 3) (w.extractLsb' 4 1))
  | 12 => some (.fscl (w.extractLsb' 20 6) (w.extractLsb' 14 6) (w.extractLsb' 8 6) (w.extractLsb' 5 3) (w.extractLsb' 4 1))
  | 13 => some (.fcls (w.extractLsb' 20 6) (w.extractLsb' 14 6) (w.extractLsb' 5 3) (w.extractLsb' 4 1))
  | 14 => some (.frnd (w.extractLsb' 20 6) (w.extractLsb' 14 6) (w.extractLsb' 5 3) (w.extractLsb' 4 1))
  | _ => none

/-- Major 0x11, FCVT (R34). -/
def rawFcvt (w : Word) : Option Instr :=
  some (.fcvt (w.extractLsb' 20 6) (w.extractLsb' 14 6) (w.extractLsb' 8 6) (w.extractLsb' 5 3) (w.extractLsb' 4 1) (w.extractLsb' 3 1) (w.extractLsb' 0 3))

/-- Major 0x12, HALU (R34). -/
def rawHalu (w : Word) : Option Instr :=
  match (w.extractLsb' 0 4).toNat with
  | 0 => some (.hadd2 (w.extractLsb' 20 6) (w.extractLsb' 14 6) (w.extractLsb' 8 6) (w.extractLsb' 5 3) (w.extractLsb' 4 1))
  | 1 => some (.hsub2 (w.extractLsb' 20 6) (w.extractLsb' 14 6) (w.extractLsb' 8 6) (w.extractLsb' 5 3) (w.extractLsb' 4 1))
  | 2 => some (.hmul2 (w.extractLsb' 20 6) (w.extractLsb' 14 6) (w.extractLsb' 8 6) (w.extractLsb' 5 3) (w.extractLsb' 4 1))
  | 3 => some (.hfma2 (w.extractLsb' 20 6) (w.extractLsb' 14 6) (w.extractLsb' 8 6) (w.extractLsb' 5 3) (w.extractLsb' 4 1))
  | 4 => some (.hmin2 (w.extractLsb' 20 6) (w.extractLsb' 14 6) (w.extractLsb' 8 6) (w.extractLsb' 5 3) (w.extractLsb' 4 1))
  | 5 => some (.hmax2 (w.extractLsb' 20 6) (w.extractLsb' 14 6) (w.extractLsb' 8 6) (w.extractLsb' 5 3) (w.extractLsb' 4 1))
  | 8 => some (.badd2 (w.extractLsb' 20 6) (w.extractLsb' 14 6) (w.extractLsb' 8 6) (w.extractLsb' 5 3) (w.extractLsb' 4 1))
  | 9 => some (.bsub2 (w.extractLsb' 20 6) (w.extractLsb' 14 6) (w.extractLsb' 8 6) (w.extractLsb' 5 3) (w.extractLsb' 4 1))
  | 10 => some (.bmul2 (w.extractLsb' 20 6) (w.extractLsb' 14 6) (w.extractLsb' 8 6) (w.extractLsb' 5 3) (w.extractLsb' 4 1))
  | 11 => some (.bfma2 (w.extractLsb' 20 6) (w.extractLsb' 14 6) (w.extractLsb' 8 6) (w.extractLsb' 5 3) (w.extractLsb' 4 1))
  | _ => none

/-- Major 0x13, DALU (R34). -/
def rawDalu (w : Word) : Option Instr :=
  match (w.extractLsb' 0 4).toNat with
  | 0 => some (.dadd (w.extractLsb' 21 5) (w.extractLsb' 15 5) (w.extractLsb' 9 5) (w.extractLsb' 5 3) (w.extractLsb' 4 1))
  | 1 => some (.dsub (w.extractLsb' 21 5) (w.extractLsb' 15 5) (w.extractLsb' 9 5) (w.extractLsb' 5 3) (w.extractLsb' 4 1))
  | 2 => some (.dmul (w.extractLsb' 21 5) (w.extractLsb' 15 5) (w.extractLsb' 9 5) (w.extractLsb' 5 3) (w.extractLsb' 4 1))
  | 3 => some (.dfma (w.extractLsb' 21 5) (w.extractLsb' 15 5) (w.extractLsb' 9 5) (w.extractLsb' 5 3) (w.extractLsb' 4 1))
  | 4 => some (.dmin (w.extractLsb' 21 5) (w.extractLsb' 15 5) (w.extractLsb' 9 5) (w.extractLsb' 5 3) (w.extractLsb' 4 1))
  | 5 => some (.dmax (w.extractLsb' 21 5) (w.extractLsb' 15 5) (w.extractLsb' 9 5) (w.extractLsb' 5 3) (w.extractLsb' 4 1))
  | _ => none

/-- Major 0x14, SFU (R34). -/
def rawSfu (w : Word) : Option Instr :=
  match (w.extractLsb' 0 4).toNat with
  | 0 => some (.exp2 (w.extractLsb' 20 6) (w.extractLsb' 14 6) (w.extractLsb' 5 3) (w.extractLsb' 4 1))
  | 1 => some (.log2 (w.extractLsb' 20 6) (w.extractLsb' 14 6) (w.extractLsb' 5 3) (w.extractLsb' 4 1))
  | 2 => some (.rcp (w.extractLsb' 20 6) (w.extractLsb' 14 6) (w.extractLsb' 5 3) (w.extractLsb' 4 1))
  | 3 => some (.rsq (w.extractLsb' 20 6) (w.extractLsb' 14 6) (w.extractLsb' 5 3) (w.extractLsb' 4 1))
  | 4 => some (.sqrt (w.extractLsb' 20 6) (w.extractLsb' 14 6) (w.extractLsb' 5 3) (w.extractLsb' 4 1))
  | 5 => some (.sinpi (w.extractLsb' 20 6) (w.extractLsb' 14 6) (w.extractLsb' 5 3) (w.extractLsb' 4 1))
  | 6 => some (.cospi (w.extractLsb' 20 6) (w.extractLsb' 14 6) (w.extractLsb' 5 3) (w.extractLsb' 4 1))
  | 7 => some (.tanh (w.extractLsb' 20 6) (w.extractLsb' 14 6) (w.extractLsb' 5 3) (w.extractLsb' 4 1))
  | _ => none

/-- Major 0x18, XLANE (R34). -/
def rawXlane (w : Word) : Option Instr :=
  match (w.extractLsb' 0 4).toNat with
  | 0 => some (.shfl (w.extractLsb' 20 6) (w.extractLsb' 14 6) (w.extractLsb' 8 6) (w.extractLsb' 5 3) (w.extractLsb' 4 1))
  | 1 => some (.shflx (w.extractLsb' 20 6) (w.extractLsb' 14 6) (w.extractLsb' 8 5) (w.extractLsb' 5 3) (w.extractLsb' 4 1))
  | 2 => some (.shflup (w.extractLsb' 20 6) (w.extractLsb' 14 6) (w.extractLsb' 8 5) (w.extractLsb' 5 3) (w.extractLsb' 4 1))
  | 3 => some (.shfldn (w.extractLsb' 20 6) (w.extractLsb' 14 6) (w.extractLsb' 8 5) (w.extractLsb' 5 3) (w.extractLsb' 4 1))
  | 4 => some (.bcast (w.extractLsb' 20 6) (w.extractLsb' 14 6) (w.extractLsb' 8 5) (w.extractLsb' 5 3) (w.extractLsb' 4 1))
  | _ => none

/-- Major 0x19, VOTE (R34). -/
def rawVote (w : Word) : Option Instr :=
  match (w.extractLsb' 0 4).toNat with
  | 0 => some (.vbal (w.extractLsb' 21 5) (w.extractLsb' 14 7))
  | 1 => some (.vany (w.extractLsb' 21 5) (w.extractLsb' 14 7))
  | 2 => some (.vall (w.extractLsb' 21 5) (w.extractLsb' 14 7))
  | 3 => some (.vcnt (w.extractLsb' 21 5) (w.extractLsb' 14 7))
  | _ => none

/-- Major 0x1A, RED (R34). -/
def rawRed (w : Word) : Option Instr :=
  match (w.extractLsb' 0 4).toNat with
  | 0 => some (.redAdd (w.extractLsb' 20 6) (w.extractLsb' 14 6) (w.extractLsb' 5 3) (w.extractLsb' 4 1))
  | 1 => some (.redFadd (w.extractLsb' 20 6) (w.extractLsb' 14 6) (w.extractLsb' 5 3) (w.extractLsb' 4 1))
  | 2 => some (.redMax (w.extractLsb' 20 6) (w.extractLsb' 14 6) (w.extractLsb' 5 3) (w.extractLsb' 4 1))
  | 3 => some (.redMin (w.extractLsb' 20 6) (w.extractLsb' 14 6) (w.extractLsb' 5 3) (w.extractLsb' 4 1))
  | 4 => some (.redMaxu (w.extractLsb' 20 6) (w.extractLsb' 14 6) (w.extractLsb' 5 3) (w.extractLsb' 4 1))
  | 5 => some (.redMinu (w.extractLsb' 20 6) (w.extractLsb' 14 6) (w.extractLsb' 5 3) (w.extractLsb' 4 1))
  | 6 => some (.redFmax (w.extractLsb' 20 6) (w.extractLsb' 14 6) (w.extractLsb' 5 3) (w.extractLsb' 4 1))
  | 7 => some (.redFmin (w.extractLsb' 20 6) (w.extractLsb' 14 6) (w.extractLsb' 5 3) (w.extractLsb' 4 1))
  | 8 => some (.redAnd (w.extractLsb' 20 6) (w.extractLsb' 14 6) (w.extractLsb' 5 3) (w.extractLsb' 4 1))
  | 9 => some (.redOr (w.extractLsb' 20 6) (w.extractLsb' 14 6) (w.extractLsb' 5 3) (w.extractLsb' 4 1))
  | 10 => some (.redXor (w.extractLsb' 20 6) (w.extractLsb' 14 6) (w.extractLsb' 5 3) (w.extractLsb' 4 1))
  | 11 => some (.redMaxi (w.extractLsb' 20 6) (w.extractLsb' 14 6) (w.extractLsb' 8 6) (w.extractLsb' 5 3) (w.extractLsb' 4 1))
  | 12 => some (.redMini (w.extractLsb' 20 6) (w.extractLsb' 14 6) (w.extractLsb' 8 6) (w.extractLsb' 5 3) (w.extractLsb' 4 1))
  | 13 => some (.redFmaxi (w.extractLsb' 20 6) (w.extractLsb' 14 6) (w.extractLsb' 8 6) (w.extractLsb' 5 3) (w.extractLsb' 4 1))
  | 14 => some (.redFmini (w.extractLsb' 20 6) (w.extractLsb' 14 6) (w.extractLsb' 8 6) (w.extractLsb' 5 3) (w.extractLsb' 4 1))
  | _ => none

/-- Major 0x1B, SCAN (R34). -/
def rawScan (w : Word) : Option Instr :=
  match (w.extractLsb' 0 4).toNat with
  | 0 => some (.scanAdd (w.extractLsb' 20 6) (w.extractLsb' 14 6) (w.extractLsb' 5 3) (w.extractLsb' 4 1))
  | 1 => some (.scanxAdd (w.extractLsb' 20 6) (w.extractLsb' 14 6) (w.extractLsb' 5 3) (w.extractLsb' 4 1))
  | 2 => some (.scanFadd (w.extractLsb' 20 6) (w.extractLsb' 14 6) (w.extractLsb' 5 3) (w.extractLsb' 4 1))
  | 3 => some (.scanxFadd (w.extractLsb' 20 6) (w.extractLsb' 14 6) (w.extractLsb' 5 3) (w.extractLsb' 4 1))
  | 4 => some (.scanMax (w.extractLsb' 20 6) (w.extractLsb' 14 6) (w.extractLsb' 5 3) (w.extractLsb' 4 1))
  | 5 => some (.scanMin (w.extractLsb' 20 6) (w.extractLsb' 14 6) (w.extractLsb' 5 3) (w.extractLsb' 4 1))
  | 6 => some (.scanOr (w.extractLsb' 20 6) (w.extractLsb' 14 6) (w.extractLsb' 5 3) (w.extractLsb' 4 1))
  | _ => none

/-- Major 0x1C, KSEL (R34). -/
def rawKsel (w : Word) : Option Instr :=
  match (w.extractLsb' 0 4).toNat with
  | 0 => some (.ksort (w.extractLsb' 20 6) (w.extractLsb' 14 6) (w.extractLsb' 8 6) (w.extractLsb' 5 3) (w.extractLsb' 4 1))
  | 1 => some (.kmerge (w.extractLsb' 20 6) (w.extractLsb' 14 6) (w.extractLsb' 8 6) (w.extractLsb' 5 3) (w.extractLsb' 4 1))
  | _ => none

/-- Major 0x1D, RNG (R34). -/
def rawRng (w : Word) : Option Instr :=
  match (w.extractLsb' 0 4).toNat with
  | 0 => some (.rng (w.extractLsb' 20 6) (w.extractLsb' 14 6) (w.extractLsb' 8 5) (w.extractLsb' 5 3) (w.extractLsb' 4 1))
  | 1 => some (.rngf (w.extractLsb' 20 6) (w.extractLsb' 14 6) (w.extractLsb' 8 5) (w.extractLsb' 5 3) (w.extractLsb' 4 1))
  | _ => none

/-- Major 0x20, SLD (R34). -/
def rawSld (w : Word) : Option Instr :=
  match (w.extractLsb' 0 4).toNat with
  | 0 => some (.sldB (w.extractLsb' 20 5) (w.extractLsb' 15 5) (w.extractLsb' 4 5))
  | 1 => some (.sldBu (w.extractLsb' 20 5) (w.extractLsb' 15 5) (w.extractLsb' 4 5))
  | 2 => some (.sldH (w.extractLsb' 20 5) (w.extractLsb' 15 5) (w.extractLsb' 4 5))
  | 3 => some (.sldHu (w.extractLsb' 20 5) (w.extractLsb' 15 5) (w.extractLsb' 4 5))
  | 4 => some (.sldW (w.extractLsb' 20 5) (w.extractLsb' 15 5) (w.extractLsb' 4 5))
  | 5 => some (.sldWu (w.extractLsb' 20 5) (w.extractLsb' 15 5) (w.extractLsb' 4 5))
  | 6 => some (.sldD (w.extractLsb' 20 5) (w.extractLsb' 15 5) (w.extractLsb' 4 5))
  | _ => none

/-- Major 0x21, SST (R34). -/
def rawSst (w : Word) : Option Instr :=
  match (w.extractLsb' 0 4).toNat with
  | 0 => some (.sstB (w.extractLsb' 20 5) (w.extractLsb' 15 5) (w.extractLsb' 4 5))
  | 1 => some (.sstH (w.extractLsb' 20 5) (w.extractLsb' 15 5) (w.extractLsb' 4 5))
  | 2 => some (.sstW (w.extractLsb' 20 5) (w.extractLsb' 15 5) (w.extractLsb' 4 5))
  | 3 => some (.sstD (w.extractLsb' 20 5) (w.extractLsb' 15 5) (w.extractLsb' 4 5))
  | _ => none

/-- Major 0x22, VLD (R34). -/
def rawVld (w : Word) : Option Instr :=
  match (w.extractLsb' 0 4).toNat with
  | 0 => some (.vldB (w.extractLsb' 20 6) (w.extractLsb' 15 5) (w.extractLsb' 14 1) (w.extractLsb' 9 5) (w.extractLsb' 4 5))
  | 1 => some (.vldBu (w.extractLsb' 20 6) (w.extractLsb' 15 5) (w.extractLsb' 14 1) (w.extractLsb' 9 5) (w.extractLsb' 4 5))
  | 2 => some (.vldH (w.extractLsb' 20 6) (w.extractLsb' 15 5) (w.extractLsb' 14 1) (w.extractLsb' 9 5) (w.extractLsb' 4 5))
  | 3 => some (.vldHu (w.extractLsb' 20 6) (w.extractLsb' 15 5) (w.extractLsb' 14 1) (w.extractLsb' 9 5) (w.extractLsb' 4 5))
  | 4 => some (.vldW (w.extractLsb' 20 6) (w.extractLsb' 15 5) (w.extractLsb' 14 1) (w.extractLsb' 9 5) (w.extractLsb' 4 5))
  | 5 => some (.vldD (w.extractLsb' 21 5) (w.extractLsb' 15 5) (w.extractLsb' 14 1) (w.extractLsb' 9 5) (w.extractLsb' 4 5))
  | 6 => some (.vldsW (w.extractLsb' 20 6) (w.extractLsb' 15 5) (w.extractLsb' 9 5) (w.extractLsb' 4 5))
  | 7 => some (.vldbW (w.extractLsb' 20 6) (w.extractLsb' 15 5) (w.extractLsb' 4 5))
  | _ => none

/-- Major 0x23, VST (R34). -/
def rawVst (w : Word) : Option Instr :=
  match (w.extractLsb' 0 4).toNat with
  | 0 => some (.vstB (w.extractLsb' 20 6) (w.extractLsb' 15 5) (w.extractLsb' 14 1) (w.extractLsb' 9 5) (w.extractLsb' 4 5))
  | 1 => some (.vstH (w.extractLsb' 20 6) (w.extractLsb' 15 5) (w.extractLsb' 14 1) (w.extractLsb' 9 5) (w.extractLsb' 4 5))
  | 2 => some (.vstW (w.extractLsb' 20 6) (w.extractLsb' 15 5) (w.extractLsb' 14 1) (w.extractLsb' 9 5) (w.extractLsb' 4 5))
  | 3 => some (.vstD (w.extractLsb' 21 5) (w.extractLsb' 15 5) (w.extractLsb' 14 1) (w.extractLsb' 9 5) (w.extractLsb' 4 5))
  | 4 => some (.vstsW (w.extractLsb' 20 6) (w.extractLsb' 15 5) (w.extractLsb' 9 5) (w.extractLsb' 4 5))
  | _ => none

/-- Major 0x24, TILE (R34). -/
def rawTile (w : Word) : Option Instr :=
  match (w.extractLsb' 0 4).toNat with
  | 0 => some (.tld (w.extractLsb' 25 1) (w.extractLsb' 15 5) (w.extractLsb' 9 5) (w.extractLsb' 4 5))
  | 1 => some (.tldt (w.extractLsb' 25 1) (w.extractLsb' 15 5) (w.extractLsb' 9 5) (w.extractLsb' 4 5))
  | 2 => some (.tst (w.extractLsb' 25 1) (w.extractLsb' 15 5) (w.extractLsb' 9 5) (w.extractLsb' 4 5))
  | 3 => some (.tstt (w.extractLsb' 25 1) (w.extractLsb' 15 5) (w.extractLsb' 9 5) (w.extractLsb' 4 5))
  | _ => none

/-- Major 0x25, AMO (R34). -/
def rawAmo (w : Word) : Option Instr :=
  match (w.extractLsb' 0 4).toNat with
  | 0 => some (.aadd (w.extractLsb' 20 6) (w.extractLsb' 15 5) (w.extractLsb' 14 1) (w.extractLsb' 9 5) (w.extractLsb' 7 2) (w.extractLsb' 4 3))
  | 1 => some (.amin (w.extractLsb' 20 6) (w.extractLsb' 15 5) (w.extractLsb' 14 1) (w.extractLsb' 9 5) (w.extractLsb' 7 2) (w.extractLsb' 4 3))
  | 2 => some (.amax (w.extractLsb' 20 6) (w.extractLsb' 15 5) (w.extractLsb' 14 1) (w.extractLsb' 9 5) (w.extractLsb' 7 2) (w.extractLsb' 4 3))
  | 3 => some (.aminu (w.extractLsb' 20 6) (w.extractLsb' 15 5) (w.extractLsb' 14 1) (w.extractLsb' 9 5) (w.extractLsb' 7 2) (w.extractLsb' 4 3))
  | 4 => some (.amaxu (w.extractLsb' 20 6) (w.extractLsb' 15 5) (w.extractLsb' 14 1) (w.extractLsb' 9 5) (w.extractLsb' 7 2) (w.extractLsb' 4 3))
  | 5 => some (.aand (w.extractLsb' 20 6) (w.extractLsb' 15 5) (w.extractLsb' 14 1) (w.extractLsb' 9 5) (w.extractLsb' 7 2) (w.extractLsb' 4 3))
  | 6 => some (.aor (w.extractLsb' 20 6) (w.extractLsb' 15 5) (w.extractLsb' 14 1) (w.extractLsb' 9 5) (w.extractLsb' 7 2) (w.extractLsb' 4 3))
  | 7 => some (.axor (w.extractLsb' 20 6) (w.extractLsb' 15 5) (w.extractLsb' 14 1) (w.extractLsb' 9 5) (w.extractLsb' 7 2) (w.extractLsb' 4 3))
  | 8 => some (.axch (w.extractLsb' 20 6) (w.extractLsb' 15 5) (w.extractLsb' 14 1) (w.extractLsb' 9 5) (w.extractLsb' 7 2) (w.extractLsb' 4 3))
  | 9 => some (.acas (w.extractLsb' 20 6) (w.extractLsb' 15 5) (w.extractLsb' 14 1) (w.extractLsb' 9 5) (w.extractLsb' 7 2) (w.extractLsb' 4 3))
  | 10 => some (.afadd (w.extractLsb' 20 6) (w.extractLsb' 15 5) (w.extractLsb' 14 1) (w.extractLsb' 9 5) (w.extractLsb' 7 2) (w.extractLsb' 4 3))
  | 11 => some (.aaddD (w.extractLsb' 21 5) (w.extractLsb' 15 5) (w.extractLsb' 14 1) (w.extractLsb' 9 5) (w.extractLsb' 7 2) (w.extractLsb' 4 3))
  | 12 => some (.amaxuD (w.extractLsb' 21 5) (w.extractLsb' 15 5) (w.extractLsb' 14 1) (w.extractLsb' 9 5) (w.extractLsb' 7 2) (w.extractLsb' 4 3))
  | 13 => some (.acasD (w.extractLsb' 21 5) (w.extractLsb' 15 5) (w.extractLsb' 14 1) (w.extractLsb' 9 5) (w.extractLsb' 7 2) (w.extractLsb' 4 3))
  | _ => none

/-- Major 0x26, SYNC (R34). -/
def rawSync (w : Word) : Option Instr :=
  match (w.extractLsb' 0 4).toNat with
  | 0 =>
    match (w.extractLsb' 4 2).toNat with
    | 2 => some (.fenceRel (w.extractLsb' 6 3))
    | 1 => some (.fenceAcq (w.extractLsb' 6 3))
    | 3 => some (.fenceFull (w.extractLsb' 6 3))
    | _ => none
  | 1 => some (.qfence (w.extractLsb' 4 5))
  | 2 => some (.waita (w.extractLsb' 21 5) (w.extractLsb' 16 5))
  | 3 => some (.waitq (w.extractLsb' 21 5) (w.extractLsb' 4 3))
  | _ => none

/-- Major 0x27, ENG (R34). -/
def rawEng (w : Word) : Option Instr :=
  match (w.extractLsb' 0 4).toNat with
  | 0 => some (.cpy (w.extractLsb' 21 5) (w.extractLsb' 16 5) (w.extractLsb' 4 2))
  | 1 => some (.qseq (w.extractLsb' 21 5) (w.extractLsb' 4 3))
  | _ => none

/-- Major 0x28, TNT (R34). -/
def rawTnt (w : Word) : Option Instr :=
  match (w.extractLsb' 0 4).toNat with
  | 0 => some (.tndef (w.extractLsb' 16 5) (w.extractLsb' 4 8))
  | 1 => some (.tnrel (w.extractLsb' 4 8))
  | 2 => some (.tnget (w.extractLsb' 21 5) (w.extractLsb' 4 8))
  | _ => none

/-- Major 0x29, GSRC (R34). -/
def rawGsrc (w : Word) : Option Instr :=
  match (w.extractLsb' 0 4).toNat with
  | 0 => some (.mleaf (w.extractLsb' 22 4) (w.extractLsb' 13 5) (w.extractLsb' 5 8) (w.extractLsb' 4 1))
  | 1 => some (.mconst (w.extractLsb' 22 4) (w.extractLsb' 13 5) (w.extractLsb' 7 1) (w.extractLsb' 5 2))
  | 2 => some (.mtri (w.extractLsb' 22 4) (w.extractLsb' 18 4) (w.extractLsb' 13 5))
  | 3 => some (.mscl (w.extractLsb' 22 4) (w.extractLsb' 18 4) (w.extractLsb' 13 5))
  | _ => none

/-- Major 0x2A, GOP (R34). -/
noncomputable def rawGop (w : Word) : Option Instr :=
  match (w.extractLsb' 0 4).toNat with
  | 0 => some (.mmul (w.extractLsb' 22 4) (w.extractLsb' 18 4) (w.extractLsb' 14 4) (w.extractLsb' 8 1) (w.extractLsb' 7 1) (w.extractLsb' 6 1) (w.extractLsb' 4 2))
  | 1 => some (.meadd (w.extractLsb' 22 4) (w.extractLsb' 18 4) (w.extractLsb' 14 4) (w.extractLsb' 6 1))
  | 2 => some (.mesub (w.extractLsb' 22 4) (w.extractLsb' 18 4) (w.extractLsb' 14 4) (w.extractLsb' 6 1))
  | 3 => some (.memul (w.extractLsb' 22 4) (w.extractLsb' 18 4) (w.extractLsb' 14 4) (w.extractLsb' 6 1))
  | 4 => some (.mtrn (w.extractLsb' 22 4) (w.extractLsb' 18 4))
  | 5 => some (.mcvt (w.extractLsb' 22 4) (w.extractLsb' 18 4) (w.extractLsb' 13 1) (w.extractLsb' 10 3) (w.extractLsb' 4 6))
  | 6 => some (.mact (w.extractLsb' 22 4) (w.extractLsb' 18 4) (w.extractLsb' 4 4))
  | _ => none

/-- Major 0x2B, GFRC (R34). -/
noncomputable def rawGfrc (w : Word) : Option Instr :=
  match (w.extractLsb' 0 4).toNat with
  | 0 => some (.force (w.extractLsb' 22 4))
  | 1 => some (.mdrop (w.extractLsb' 22 4))
  | 2 => some (.mrd (w.extractLsb' 20 6) (w.extractLsb' 16 4) (w.extractLsb' 11 5))
  | 3 => some (.mst (w.extractLsb' 22 4) (w.extractLsb' 14 8) (w.extractLsb' 9 5) (w.extractLsb' 4 1))
  | 4 => some (.macc (w.extractLsb' 22 4) (w.extractLsb' 16 6) (w.extractLsb' 11 5) (w.extractLsb' 5 1) (w.extractLsb' 4 1))
  | 5 => some (.mstat (w.extractLsb' 22 4) (w.extractLsb' 17 5))
  | _ => none

/-- Major 0x30, TASK (R34). -/
noncomputable def rawTask (w : Word) : Option Instr :=
  match (w.extractLsb' 0 4).toNat with
  | 0 => some (.tend)
  | 1 => some (.tinst (w.extractLsb' 21 5))
  | 2 => some (.tstg (w.extractLsb' 21 5))
  | 3 => some (.tbud (w.extractLsb' 21 5) (w.extractLsb' 4 12))
  | 4 => some (.tslk (w.extractLsb' 21 5))
  | 5 => some (.enq (w.extractLsb' 16 5) (w.extractLsb' 8 4) (w.extractLsb' 4 4))
  | 6 => some (.enqv (w.extractLsb' 21 5) (w.extractLsb' 8 4) (w.extractLsb' 4 4))
  | 7 => some (.launch (w.extractLsb' 21 5) (w.extractLsb' 16 5) (w.extractLsb' 4 3))
  | _ => none

/-- Major 0x31, DEP (R34). -/
noncomputable def rawDep (w : Word) : Option Instr :=
  match (w.extractLsb' 0 4).toNat with
  | 0 => some (.depnew (w.extractLsb' 21 5) (w.extractLsb' 16 5))
  | 1 => some (.depsig (w.extractLsb' 16 5) (w.extractLsb' 4 12))
  | 2 => some (.depwait (w.extractLsb' 16 5))
  | 3 => some (.deparm (w.extractLsb' 21 5) (w.extractLsb' 16 5) (w.extractLsb' 8 4) (w.extractLsb' 4 4))
  | _ => none

/-- Major 0x32, GRP (R34). -/
noncomputable def rawGrp (w : Word) : Option Instr :=
  match (w.extractLsb' 0 4).toNat with
  | 0 => some (.gnew (w.extractLsb' 21 5))
  | 1 => some (.gjoin (w.extractLsb' 16 5))
  | 2 => some (.gleave (w.extractLsb' 16 5))
  | 3 => some (.gbar (w.extractLsb' 16 5))
  | 4 => some (.gsize (w.extractLsb' 21 5) (w.extractLsb' 16 5))
  | _ => none

/-- Major 0x33, SYS (R34). -/
noncomputable def rawSys (w : Word) : Option Instr :=
  match (w.extractLsb' 0 4).toNat with
  | 0 => some (.sysr (w.extractLsb' 21 5) (w.extractLsb' 4 12))
  | 1 => some (.sysw (w.extractLsb' 16 5) (w.extractLsb' 4 12))
  | 2 => some (.trap (w.extractLsb' 4 12))
  | 3 => some (.nop)
  | _ => none

/-- Major 0x34, CCTL (R34). -/
noncomputable def rawCctl (w : Word) : Option Instr :=
  match (w.extractLsb' 0 4).toNat with
  | 0 => some (.cdrain (w.extractLsb' 21 5) (w.extractLsb' 16 5))
  | 1 => some (.cscan (w.extractLsb' 21 5) (w.extractLsb' 16 5))
  | 2 => some (.csig (w.extractLsb' 21 5) (w.extractLsb' 16 5))
  | 3 => some (.cmaprm (w.extractLsb' 16 5))
  | 4 => some (.cmapad (w.extractLsb' 16 5))
  | 5 => some (.creset (w.extractLsb' 16 5))
  | 6 => some (.eret)
  | _ => none

/-- The instruction that the selectors of a word name, its reserved bits not yet checked (R34). -/
noncomputable def rawDecode (w : Word) : Option Instr :=
  match (w.extractLsb' 26 6).toNat with
  | 1 => rawSalu w
  | 2 => rawSalu2 w
  | 3 => rawSalui w
  | 4 => rawSlui w
  | 5 => rawSadr w
  | 6 => rawBranch w
  | 7 => rawCtl w
  | 8 => rawVialu w
  | 9 => rawVialu2 w
  | 10 => rawVialui w
  | 11 => rawVlui w
  | 12 => rawCmp w
  | 13 => rawPlog w
  | 16 => rawFalu w
  | 17 => rawFcvt w
  | 18 => rawHalu w
  | 19 => rawDalu w
  | 20 => rawSfu w
  | 24 => rawXlane w
  | 25 => rawVote w
  | 26 => rawRed w
  | 27 => rawScan w
  | 28 => rawKsel w
  | 29 => rawRng w
  | 32 => rawSld w
  | 33 => rawSst w
  | 34 => rawVld w
  | 35 => rawVst w
  | 36 => rawTile w
  | 37 => rawAmo w
  | 38 => rawSync w
  | 39 => rawEng w
  | 40 => rawTnt w
  | 41 => rawGsrc w
  | 42 => rawGop w
  | 43 => rawGfrc w
  | 48 => rawTask w
  | 49 => rawDep w
  | 50 => rawGrp w
  | 51 => rawSys w
  | 52 => rawCctl w
  | _ => none

/-- The majors that R36 lists as reserved, and major 0x00. Majors from 0x38 up never reach the check,
because their class is 7 (R36). -/
def reservedMajor (w : Word) : Bool :=
  let m := (w.extractLsb' 26 6).toNat
  m = 0 || m = 0x0E || m = 0x0F || (0x15 ≤ m && m ≤ 0x17) || m = 0x1E || m = 0x1F ||
    (0x2C ≤ m && m ≤ 0x2F) || 0x35 ≤ m

/-- The bits of a word whose being set puts a register out of range (R32, R33, R38 reason 3): bit 5 of
a scalar field, the low bit of a register that must be even, and the low bits of a TILE register. A set bit 5 of the
scalar register of VREQ8, VREQ4 or VBCS is here (R99), and no unused field of R82 (DEDUCED, log 57). -/
def registerBits (w : Word) : Word :=
  let m := (w.extractLsb' 26 6).toNat
  let k := (w.extractLsb' 0 4).toNat
  match m with
  | 0x01 | 0x02 => 0x02082000#32
  | 0x03 => 0x02080000#32
  | 0x04 | 0x05 => 0x02000000#32
  | 0x09 => if k = 8 || k = 9 then 0x00002000#32 else if k = 12 then 0x00080000#32 else 0#32
  | 0x0C => if k = 1 || k = 3 then 0x00001000#32 else if k = 4 then 0x00002080#32 else 0#32
  | 0x13 => 0x00104100#32
  | 0x1D => 0x00002000#32
  | 0x20 | 0x21 => 0x02000000#32
  | 0x22 => if k = 5 then 0x00100000#32 else 0#32
  | 0x23 => if k = 3 then 0x00100000#32 else 0#32
  | 0x24 => 0x01F00000#32
  | 0x25 => if 11 ≤ k && k ≤ 13 then 0x00100000#32 else 0#32
  | _ => 0#32

/-- The bits of a word that must be zero as a whole field (R32, R38 reason 2): every fixed bit but
the register bits. SCLZ and SPOP fix their whole B field (R40), which is a scalar field too. -/
def reservedBits (w : Word) : Word :=
  let m := (w.extractLsb' 26 6).toNat
  let k := (w.extractLsb' 0 4).toNat
  if m = 0x02 && (k = 5 || k = 6) then ~~~0x02080000#32 else ~~~(registerBits w)

/-- Why a word is not an instruction, by the names of R38's ILLINS reasons 0 to 3. -/
inductive DecodeError where
  | reservedMajor
  | reservedSelector
  | reservedField
  | registerRange
  deriving DecidableEq, Repr

/-- The reason number of R38. -/
def DecodeError.reason : DecodeError → Nat
  | .reservedMajor => 0
  | .reservedSelector => 1
  | .reservedField => 2
  | .registerRange => 3

/-- Every reason that R36 gives for a word not being an instruction; empty for an instruction. -/
noncomputable def decodeErrors (w : Word) : List DecodeError :=
  if reservedMajor w then [.reservedMajor] else
  match rawDecode w with
  | none => [.reservedSelector]
  | some i =>
    let diff := w ^^^ (encode i).getD 0#32
    (if i.selectorsOk then [] else [.reservedSelector]) ++
    (if i.fieldsOk && diff &&& reservedBits w = 0#32 then [] else [.reservedField]) ++
    (if i.registersOk && diff &&& registerBits w = 0#32 then [] else [.registerRange])

/-- The decoder: an instruction, or every reason that it is none (R34, R36). A word decodes to an
instruction exactly when it is that instruction's own word and the instruction is well formed. -/
noncomputable def decode (w : Word) : Except (List DecodeError) Instr :=
  match rawDecode w with
  | some i => if encode i = some w ∧ i.WellFormed then .ok i else .error (decodeErrors w)
  | none => .error (decodeErrors w)

/-- Four bytes as a little-endian word (R5). -/
def wordOfBytes (a b c d : Byte) : Word := d ++ c ++ b ++ a

/-- The decoder on bytes: the first instruction and the bytes after it. -/
noncomputable def decodeBytes : List Byte → Except (List DecodeError) (Instr × List Byte)
  | a :: b :: c :: d :: rest =>
    match decode (wordOfBytes a b c d) with
    | .ok i => .ok (i, rest)
    | .error e => .error e
  | _ => .error []

/-- The instruction of a row of the opcode table whose bits are `w`: 32 bits, or none. -/
noncomputable def decodeTableWord (nbits w : Nat) : Option Instr :=
  if nbits = 32 then
    let x := BitVec.ofNat 32 w
    match decodeBytes [x.extractLsb' 0 8, x.extractLsb' 8 8, x.extractLsb' 16 8, x.extractLsb' 24 8] with
    | .ok (i, _) => some i
    | .error _ => none
  else none

end Sys2Proof
end

