-- ==== Sys2Proof/Machine/Cost.lean ====
section
/-!
DEFINITION. What an instruction word costs a port (R140) and whether it must be the last of its clause
(R35).
-/

namespace Sys2Proof.Machine

/-- The major opcode and the minor selector of a word (R31). -/
def majorOf (w : Word) : Nat := fieldW w 26 6
def minorOf (w : Word) : Nat := fieldW w 0 4

/-- Whether an FCVT converts from or to FP64 (R93). -/
def convWide (w : Word) : Bool := w.getLsbD 12 || fieldW w 8 4 = 0xA

/-- The base cycles of R140. -/
def baseCycles (w : Word) : Nat :=
  let n := minorOf w
  match majorOf w with
  | 0x09 => if n = 8 || n = 9 then 2 else 1
  | 0x0C => if n = 4 then 4 else 1
  | 0x11 => if convWide w then 4 else 1
  | 0x13 => 4
  | 0x14 => if n = 7 then 8 else 4
  | 0x18 => 2
  | 0x1A => if n = 1 || n = 6 || n = 7 || 13 ≤ n then 6 else 5
  | 0x1B => 6
  | 0x1C => if n = 0 then 15 else 10
  | 0x1D => 3
  | 0x22 | 0x23 | 0x25 => 2
  | 0x24 => 8
  | 0x2B => if n = 2 then 2 else 1
  | _ => 1

/-- The cycles that a word issues in (R140). -/
def issueCycles (w : Word) (passes : Nat) : Nat :=
  let m := majorOf w
  if m = 0x07 && (minorOf w = 3 || minorOf w = 7) then 4 + passes
  else baseCycles w * passes + (if 0x18 ≤ m && m ≤ 0x1C then 3 * (passes - 1) else 0)

/-- Whether a word's instruction transfers control or ends the flight by its nature, so that it must be the
last of its clause (R35). -/
def mustBeLast (w : Word) (firmwareGang : Bool) : Bool :=
  let n := minorOf w
  match majorOf w with
  | 0x06 => true
  | 0x07 => n ≤ 3 || n = 7
  | 0x26 => n = 2 || n = 3 || (n = 0 && (fieldW w 4 2 = 1 || fieldW w 4 2 = 3))
  | 0x30 => n = 0
  | 0x31 => n = 2
  | 0x32 => n = 3
  | 0x34 => n = 6 && firmwareGang
  | _ => false

/-- Whether a word reads memory at its issue: CPY, TNDEF, ENQ and DEPARM (R128). -/
def readsAtIssue (w : Word) : Bool :=
  match majorOf w, minorOf w with
  | 0x27, 0 => true
  | 0x28, 0 => true
  | 0x30, 5 => true
  | 0x31, 3 => true
  | _, _ => false

end Sys2Proof.Machine
end

