-- ==== Sys2Proof/Machine/Port.lean ====
section
/-!
DEFINITION. Ports and who may take them: the order of gangs, room on a port, eligibility of landing records, and
pre-emption (R124 to R126, R133, R139, R143 to R145, R260, R277).
-/

namespace Sys2Proof.Machine

/-! ## The order of gangs (R125, R139, R260) -/

/-- The rank of a gang's deadline: best-effort gangs come last. -/
def State.deadlineKey (s : State) (g : Gang) : Nat := ((s.deadlineOf g).map Int.toNat).getD (2 ^ 80)

/-- The lowest present slice. -/
def Arch.lowSlice (a : Arch) : Nat := a.slicesList.headD 0

/-- Whether a gang comes before another: earlier deadline, then older, then, in one task gang, lower slice. -/
def State.precedes (s : State) (g h : Gang) : Bool :=
  let x := s.deadlineKey g
  let y := s.deadlineKey h
  x < y || (x = y && (g.age < h.age || (g.age = h.age && g.root = h.root && g.arch.lowSlice < h.arch.lowSlice)))

/-! ## Room on a port (R124) -/

/-- The register bytes that a gang takes of a port. -/
def State.needBytes (s : State) (g : Gang) : Nat := s.regLimit g * popcount g.arch.slices * 16

/-- The register bytes that a gang holds of its port: those it was granted, until it leaves. -/
def State.gangBytes (s : State) (g : Gang) : Nat := if g.granted = 0 then s.needBytes g else g.granted

/-- The slices of a gang that is being gathered. -/
def Gather.slices (q : Gather) : Nat := ceilDiv q.recs.length 4

/-- The vector registers of a stage. -/
def State.stageRegs (s : State) (d inst stage : Nat) : Nat := (((s.inst? d inst).bind fun i => i.stages[stage]?).map (·.regs)).getD 64

/-- What residents and gangs being gathered, with the other runs of paired ones, take of a port: register bytes and slots (R124,
R145). -/
def State.portUse (s : State) (d core port : Nat) : Nat × Nat :=
  let here := (s.gangs ++ (s.cur.map (·.gang)).toList).filter fun g => g.die == d && g.core == core && (g.place == .port port || g.pair == some port)
  let open_ := (s.core d core).gathers.filter fun q => q.port == port || q.pair == some port
  ((here.foldl (fun n g => n + s.gangBytes g) 0) + open_.foldl (fun n q => n + s.stageRegs d q.inst q.stage * q.slices * 16) 0,
    here.length + open_.length)

/-- The free register bytes of a port. -/
def State.portFree (s : State) (d core port : Nat) : Nat := 65536 - (s.portUse d core port).1

/-- Whether a port has the space and a slot for `bytes` more. -/
def State.portFits (s : State) (d core port bytes : Nat) : Bool :=
  decide (bytes ≤ s.portFree d core port) && decide ((s.portUse d core port).2 < 16)

/-- Whether a stage has the PAIR flag. -/
def State.paired (s : State) (d inst stage : Nat) : Bool := (((s.inst? d inst).bind fun i => i.stages[stage]?).map fun st => st.flags.getLsbD 0).getD false

/-- Whether a record is of a gang that has not run yet. -/
def Gang.isNew (g : Gang) : Bool := g.phase == .parked && g.wakeKind == 0 && field g.arch.flightid 0 29 == 0 && g.ctx != firmware

/-- The ports of its core that may take a gang: enabled, not suspect, not one that its flight has failed on while there is another,
the same one after a first SIGFAIL, three for a paired gang or a new one, and for a new one those on which it runs in one pass, if there
are (R123, R143 to R145). -/
def State.mayTake (s : State) (g : Gang) : List Nat :=
  let ok := (s.die g.die).portsOf g.core
  let wide := ok.filter fun p => decide (popcount g.arch.slices ≤ (s.die g.die).good g.core p / 4)
  let ps := if g.isNew && !wide.isEmpty then wide else ok
  if (s.paired g.die g.inst g.stage || g.isNew) && ok.length < 3 then []
  else match g.backTo with
    | some p => if ps.contains p then [p] else ps
    | none =>
      let qs := ps.filter fun p => !g.sigPorts.contains p
      if qs.isEmpty then ps else qs

/-- The port for a paired gang's other run beside `port`: the lowest that has room (R145; DESIGN CHOICE, log 54). -/
def State.pairFor (s : State) (d core port bytes : Nat) : Option Nat :=
  ((s.die d).portsOf core).find? fun p => p != port && s.portFits d core p bytes

/-- The second port of a gang that is on `port`, or comes there: the one it has where that is fit and has room for what the gang
takes more, else another (R124, R144, R145). -/
def State.secondPort (s : State) (g : Gang) (port : Nat) : Option Nat :=
  let need := s.needBytes g
  let kept := if g.place == .port port then g.pair.filter fun q =>
      ((s.die g.die).portsOf g.core).contains q && decide (need - s.gangBytes g ≤ s.portFree g.die g.core q) else none
  kept.or (s.pairFor g.die g.core port need)

/-- The ports of the runs of a gang's flight, its own first; a gang that has left them ran on those it left. -/
def Gang.runPorts (g : Gang) : List Nat :=
  match g.place with
  | .port p => p :: g.pair.toList
  | _ => g.ran

/-- The port of a paired gang's third run: the lowest that may run it beside the two (R145; DESIGN CHOICE, log 54). -/
def State.thirdPort (s : State) (g : Gang) : Option Nat :=
  ((s.die g.die).portsOf g.core).find? fun p => !g.runPorts.contains p

/-! ## Eligibility (R133) -/

/-- Whether all that a pending-list entry awaits has come. -/
def Pend.complete (p : Pend) : Bool := p.lanes.isEmpty && p.left == 0

/-- Whether a die's applied vector covers a causal vector (R308, R309). -/
def State.covers (s : State) (d : Nat) (v : List Nat) : Bool :=
  (v.zip (s.vector d)).all fun e => ge32 e.2 e.1

/-- Whether every die has applied all that a gang's causal vector covers, the messages that its writes' homes sent on among it
(R311). -/
def State.appliedEverywhere (s : State) (g : Gang) : Bool := (s.dies.map Prod.fst).all fun e => s.covers e g.causal

/-- Whether an effect is an access to another package (R326). -/
def Out.isFabric (o : Out) : Bool := o.acts.any fun a => match a.loc with
  | .fabric _ _ => true
  | _ => false

/-- Whether effects of a gang's tasks are still on their way: of any kind, or without accesses to other packages (R328). -/
def State.underway (s : State) (g : Gang) (fabric : Bool) : Bool :=
  s.drain.any fun o => o.who.root == g.root && meet o.who.lanes (g.lanes.map (·.1)) && (fabric || !o.isFabric)

/-- Whether a flight's commit is acknowledged at the scope that the gang waits for: a FENCE.FULL's, that of the gang alone among
them, or die scope for PARKC. Only the fence with scope F waits for the fabric (R160, R311, R328). -/
def State.acked (s : State) (g : Gang) : Bool :=
  (g.ackScope == 0 && !g.fenced) || (!s.underway g (g.ackScope == 5) && (decide (g.ackScope ≤ 3) || s.appliedEverywhere g))

/-- Whether the die holds a gang back: its context is not running, or its instance waits for its handler
(R270, R277). -/
def State.heldBack (s : State) (g : Gang) : Bool :=
  g.ctx != firmware && ((s.ctx g.ctx).run != 1 || (match s.inst? g.die g.inst with
    | some i => i.trap.isSome && g.stage != i.handler
    | none => true))

/-- Whether a parked gang's wake condition holds: results only, a port, or what has woken it. -/
def Gang.wakes (g : Gang) : Bool := g.wakeKind == 0 || g.wakeKind == 1 || g.wakeKind == 8 || g.woken

/-- Whether a landing record is eligible for relaunch (R133, R309). -/
def State.eligible (s : State) (g : Gang) : Bool :=
  g.phase == .parked && g.pend.all (·.complete) && g.wakes && s.acked g && s.covers g.die g.causal && !s.heldBack g && !g.suspended

/-! ## Who waits for a port (R139) -/

/-- Whether a port can take a parked gang. -/
def State.canTake (s : State) (g : Gang) (port : Nat) : Bool :=
  (s.mayTake g).contains port && s.portFits g.die g.core port (s.needBytes g) && decide ((s.core g.die g.core).scan = 0)
    && (!s.paired g.die g.inst g.stage || (s.pairFor g.die g.core port (s.needBytes g)).isSome)

/-- The records of a core that wait for a port: none that comes after one of them goes before it, even where only the later
fits now (R139). -/
def State.takeable (s : State) (d core port : Nat) : List Gang :=
  s.gangs.filter fun g => g.die == d && g.core == core && s.eligible g && (s.mayTake g).contains port && decide ((s.core d core).scan = 0)

/-! ## Pre-emption (R126, R277, R294) -/

/-- Whether a gang is resident on a port at a clause boundary of an open flight. -/
def Gang.resident (g : Gang) : Bool :=
  match g.place with
  | .port _ => true
  | _ => false

/-- Whether a resident gang must yield to one that is more urgent: no port can take that one, and this is
the gang of the core with the latest deadline, the youngest among equals. -/
def State.yields (s : State) (g : Gang) : Bool :=
  let residents := s.gangs.filter fun h => h.die == g.die && h.core == g.core && h.resident
  (s.gangs.any fun w => w.die == g.die && w.core == g.core && s.eligible w && decide ((s.core g.die g.core).scan = 0)
      && !(s.mayTake w).isEmpty && (s.mayTake w).all (fun p => !s.canTake w p) && decide (s.deadlineKey w < s.deadlineKey g))
  && residents.all fun h => decide (s.deadlineKey h < s.deadlineKey g) || (decide (s.deadlineKey h = s.deadlineKey g) && decide (h.age ≤ g.age))

/-- Whether evaluations of a gang's flight are unfinished. -/
def State.forcing (s : State) (g : Gang) : Bool := (s.core g.die g.core).evals.any fun v => g.evals.contains v.id

/-- Whether a gang stands at an append that waits for its auto-force (R218). -/
def State.autoForcing (s : State) (g : Gang) : Bool :=
  g.phase == .run && g.paused.isSome && (s.core g.die g.core).evals.any fun v => v.gid == g.gid && v.kind == .auto

/-- Whether a gang is to be pre-empted: at its clause boundary, or while it waits on its port for its evaluations, or for its arrival at
a barrier to be counted, or, where its context is switched out, for its auto-force (R126, R129, R218, R224, R241, R277). -/
def State.preempts (s : State) (g : Gang) : Bool :=
  g.resident && ((g.phase == .run && g.paused.isNone) || ((s.ctx g.ctx).run == 2 && s.autoForcing g) || (g.phase == .ending && s.forcing g)
      || (g.phase == .parked && g.wakeKind == 5 && !g.hit && !g.woken)) && (g.preempt || (s.heldBack g && (s.ctx g.ctx).run != 1) || decide ((s.core g.die g.core).scan ≠ 0) || s.yields g)

end Sys2Proof.Machine
end

