-- ==== Sys2Proof/Machine/Clause.lean ====
section
/-!
DEFINITION. Clauses: the choice of a gang at a clause boundary, fetch and the checks of a header, the
signature, breakpoints, and the end of a clause (R26 to R30, R37 to R39, R125, R128, R143, R144, R296).
-/

namespace Sys2Proof.Machine

/-! ## The choice of a gang (R125) -/

/-- The first of some gangs in that order, a free choice among equals. -/
def State.firstGang (s : State) (gs : List Gang) : Option (Gang × State) :=
  let best := gs.filter fun g => gs.all fun h => !s.precedes h g
  let (i, t) := s.pick best.length
  (best[i]?).map fun g => (g, t)

/-! ## Ports that fail (R144) -/

/-- Count one against a port; three counts within 2^24 core cycles make it suspect and bring a scan-due
event, of context 0 (R292; DEDUCED, log 84). A core cycle is 10/19 ns (R3). -/
def State.countPort (s : State) (d core port : Nat) : State :=
  let key := ((s.die d).site? core |>.getD core) * 4 + port
  let now := s.time
  let recent := (now :: look [] (s.die d).portCounts key).filter fun t => (now - t) * 19 ≤ 10 * 2 ^ 24
  let s1 := s.onDie d fun x => { x with portCounts := put [] x.portCounts key recent }
  if 3 ≤ recent.length && !(s.die d).suspect.contains key then
    ((s1.onDie d fun x => { x with suspect := x.suspect ++ [key] }).request d 4 0 (BitVec.ofNat 64 core) 0#64 none).2
  else s1

/-! ## Fetch (R36, R37, R39) -/

/-- A fetched word, or the code and form of the fault, and whether poison was consumed. -/
inductive Fetched where
  | word (w : Word)
  | bad (code form : Nat) (poison : Bool)
  deriving DecidableEq, Repr

/-- The words that a fetch at a place of memory may see: the one there now, and those that stores have overwritten since the
gang's last FENCE.FULL (R39). -/
def State.codeWords (s : State) (g : Gang) (pa : Nat) (now : Word) : List Word :=
  (now :: ((s.olds.drop g.fetchFrom).filter fun e => e.1 == pa / 4).map (·.2)).eraseDups

/-- What a fetch of a word of code may give: global memory with execute permission. -/
def State.fetchAll (s : State) (g : Gang) (a : DWord) : List Word × Fetched × State :=
  match regionOf a with
  | .global =>
    match s.findNow g.die g.core g.inst g.ctx a 2 with
    | (.at_ l _, t) =>
      if t.bad g.die g.inst l then ([], .bad codePoison 0 true, t)
      else
        let (bs, u) := t.readAt g.die g.inst l 4
        let w : Word := BitVec.ofNat 32 (natOfBytes (u.seal g.die g.core g.ctx a.toNat l bs))
        (match l with
         | .phys pa => u.codeWords g pa w
         | _ => [w], .word w, u)
    | (.bad c f, t) => ([], .bad c f (c == codePoison), t)
    | (.miss _, t) => ([], .bad codePage 0 false, t)
  | _ => ([], .bad codeProt 0 false, s)

/-- Fetch a word of code; whether an old or the new one is seen is open (R39). -/
def State.fetch (s : State) (g : Gang) (a : DWord) : Fetched × State :=
  match s.fetchAll g a with
  | (ws, .word w, t) => let (i, u) := t.pick ws.length; (.word (ws.getD i w), u)
  | (_, f, t) => (f, t)

/-- Fetch words one after another, up to the first that faults: its address, code, form and poison. -/
def State.fetchWords (s : State) (g : Gang) (a : DWord) : Nat → List Word → (List Word ⊕ (DWord × Nat × Nat × Bool)) × State
  | 0, ws => (.inl ws, s)
  | n + 1, ws =>
    match s.fetch g a with
    | (.word w, t) => t.fetchWords g (a + 4#64) n (ws ++ [w])
    | (.bad c f p, t) => (.inr (a, c, f, p), t)

/-- The lowest reason for which a header is ill-formed (R27, R38, R258). -/
def headerReason (h : Word) (chkStage : Bool) : Option Nat :=
  if fieldW h 28 4 = 0 then some 0
  else if fieldW h 25 3 = 7 then some 1
  else if fieldW h 23 2 = 3 then some 2
  else if fieldW h 16 6 ≠ 0 then some 3
  else if !h.getLsbD 22 && chkStage then some 5
  else none

/-- One bit of the CRC (R29). -/
def crcBit (c : Half) : Half := if c.getLsbD 15 then (c <<< 1) ^^^ 0x1021#16 else c <<< 1

/-- One byte of the CRC (R29). -/
def crcByte (c : Half) (b : Byte) : Half :=
  (List.range 8).foldl (fun c _ => crcBit c) (c ^^^ ((b.setWidth 16) <<< 8))

/-- The signature of a clause's words (R29). -/
def signature (ws : List Word) : Half := (bytesOfWords ws).foldl crcByte 0xFFFF#16

/-- Change words of the issue buffer as a soft error does. -/
def flipWords (ws : List Word) (flips : List (Nat × Word)) : List Word :=
  flips.foldl (fun ws f => ws.modify f.1 (· ^^^ f.2)) ws

/-! ## Issue of a clause -/

/-- The breakpoint that stops a gang at its next header (R296). -/
def State.breakAt (s : State) (g : Gang) : Bool :=
  g.skipBrk != some g.arch.pc && (List.range 8).any fun k =>
    let b := (s.die g.die).sysreg (0x140 + k)
    b.getLsbD 0 && field b 58 6 == g.ctx && field b 2 54 * 4 == g.arch.pc.toNat

/-- How many words the gang's next clause has, at most. -/
def State.clauseCount (s : State) (g : Gang) : Nat := (s.fetchAll g g.arch.pc).1.foldl (fun n h => max n (fieldW h 28 4)) 0

/-- Whether the gang's next clause must wait: it may read memory at issue, and effects of earlier flights are
still on their way (R56 item 4). -/
def State.mustWait (s : State) (g : Gang) : Bool :=
  if (s.behind g).isEmpty then false
  else (List.range (s.clauseCount g)).any fun i => (s.fetchAll g (g.arch.pc + BitVec.ofNat 64 (4 * (i + 1)))).1.any readsAtIssue

/-- The lines that a fetch of `n` words waits for (R37, R307). -/
def State.fetchWants (s : State) (g : Gang) (a : DWord) (n : Nat) : List Nat := s.reachWants g.die g.core g.inst g.ctx a (4 * n) 2

/-- The lines of other dies' memory that a gang's next clause waits for: its header's, then its words'. -/
def State.clauseWants (s : State) (g : Gang) : List Nat :=
  let ws := s.fetchWants g g.arch.pc 1
  if !ws.isEmpty then ws
  else if s.clauseCount g = 0 then [] else s.fetchWants g (g.arch.pc + 4#64) (s.clauseCount g)

/-- Whether what a gang's paused clause waits for is there: its lines, its loads, and its auto-force. -/
def State.mayResume (s : State) (g : Gang) : Bool :=
  (g.waitsFor.all fun n => !s.outstanding n) && (s.unread g.die g.wants).isEmpty && (s.core g.die g.core).evals.all fun v => !(v.gid == g.gid && v.kind == .auto)

/-- The gangs of a port whose next clause can issue: none that is to be pre-empted at this boundary (R125, R126). A clause that
is paused keeps its port to itself. -/
def State.ready (s : State) (d core port : Nat) : List Gang :=
  let here := s.gangs.filter fun g => g.die == d && g.core == core && g.place == .port port && g.phase == .run
  match here.find? fun g => g.paused.isSome with
  | some g => if s.mayResume g then [g] else []
  | none => here.filter fun g => !s.preempts g && !s.mustWait g && (s.clauseWants g).isEmpty

/-- Replace one gang of the table. -/
def State.putGang (s : State) (g : Gang) : State := s.onGang g.gid fun _ => g

/-- A signature that differs (R131, R143): the anchor parks and replays on the port, and on another after a second failure there; a
failure on a second port is delivered (DEDUCED, log 37). -/
def State.sigFail (s : State) (g : Gang) (port : Nat) (info : DWord) : State :=
  let others := ((s.die g.die).portsOf g.core).filter (· != port)
  if g.ctx = firmware && g.handler then s.takeFault g.gid ⟨codeSigfail, info, g.arch.pc⟩ false 0#64 0
  else if g.sigPort = none || (g.sigPort = some port && !others.isEmpty) then
    let first := g.sigPort.isNone
    (s.discard g.gid).onGang g.gid fun h =>
      { h.leavePort with sigPort := some port, sigPorts := if first then h.sigPorts else (port :: h.sigPorts).eraseDups, phase := .parked,
                         wakeKind := 9, backTo := if first then some port else none, slack := s.slackOf g,
                         wakeOp := BitVec.ofNat 64 codeSigfail, wakeOp2 := 0#64, woken := true, ackScope := 0 }
  else s.takeFault g.gid ⟨codeSigfail, info, g.arch.pc⟩ false 0#64 0

/-- Issue a gang's next clause: its words, checked, stand in the port's issue buffer (R37). -/
def State.issueClause (s : State) (g : Gang) (port : Nat) (flips : List (Nat × Word)) : State :=
  let pc := g.arch.pc
  match g.pathFault with
  | some a => (s.putGang { g with pathFault := none }).takeFault g.gid ⟨codeProt, accessInfo 2 true 0 a, pc⟩ false 0#64 0
  | none =>
    if s.breakAt g then s.putGang { g with phase := .ending, wakeKind := 10, wakeOp := pc, wakeOp2 := 0#64 }
    else
      match s.fetch g pc with
      | (.bad c f p, t) => t.takeFault g.gid ⟨c, accessInfo f false 0 pc, pc⟩ p 0#64 0
      | (.word h, t) =>
        let chkStage := ((t.stage? g).map fun st => st.flags.getLsbD 3).getD false
        match headerReason h chkStage with
        | some n => t.takeFault g.gid ⟨codeIllclause, BitVec.ofNat 64 (n * 16), pc⟩ false 0#64 0
        | none =>
          match t.fetchWords g (pc + 4#64) (fieldW h 28 4) [] with
          | (.inr (a, c, f, p), u) => u.takeFault g.gid ⟨c, accessInfo f false 0 a, pc⟩ p 0#64 0
          | (.inl raw, u) =>
            let ws := flipWords raw flips
            match (List.range ws.length).find? fun i => fieldW (ws.getD i 0#32) 29 3 != fieldW h 25 3 with
            | some i => u.takeFault g.gid ⟨codeIllclause, BitVec.ofNat 64 (i + 1 + 4 * 16), pc⟩ false 0#64 0
            | none =>
              let sig := signature ws
              let a := { g.arch with sigval := g.arch.slicesList.foldl (fun m k => put 0#16 m k sig) g.arch.sigval }
              if h.getLsbD 22 && sig != h.setWidth 16 then
                u.sigFail g port (BitVec.ofNat 64 (g.arch.slices.toNat + fieldW h 0 16 * 2 ^ 8 + sig.toNat * 2 ^ 24))
              else
                let pages := ((List.range (ws.length + 1)).map fun i => (pc.toNat + 4 * i) / 4096).eraseDups
                { u.dropGang g.gid with
                  cur := some ⟨{ g with arch := a, skipBrk := none, used := (g.used ++ pages).eraseDups },
                    ⟨pc, fieldW h 28 4, fieldW h 25 3, fieldW h 23 2, h.getLsbD 22, h.setWidth 16, ws, 1, 0, [], false, 0, 0⟩⟩ }

/-- CLAUSE_ISSUE: the port picks a gang and issues its clause, or goes on with the one that is paused (R37, R125). -/
def execClauseIssue (die core port : Nat) (flips : List (Nat × Word)) (s : State) : Res :=
  if s.cur.isSome then .fault (.notEnabled "CLAUSE_ISSUE")
  else match s.firstGang (s.ready die core port) with
    | some (g, t) => .next (match g.paused with
      | some cl => { t.dropGang g.gid with cur := some ⟨{ g with paused := none, wants := [], waitsFor := [] }, cl⟩ }
      | none => t.issueClause g port flips)
    | none => .fault (.notEnabled "CLAUSE_ISSUE")

/-! ## The end of a clause (R28, R45, R128) -/

/-- Slices of a list by their next address, in slice order. -/
def groupByAddr (ns : List (Nat × DWord)) : List (DWord × List Nat) :=
  ns.foldl (fun m e => if m.any fun q => q.1 == e.2 then m.map fun q => if q.1 == e.2 then (q.1, q.2 ++ [e.1]) else q else m ++ [(e.2, [e.1])]) []

/-- The pending-list entries in use: results and unfinished evaluations of FORCE and MST (R128). -/
def State.pendingCount (s : State) (g : Gang) : Nat :=
  g.pend.length + ((s.core g.die g.core).evals.filter fun v => g.evals.contains v.id && (match v.kind with
    | .force | .store => true
    | _ => false)).length

/-- The gang after its clause: its next addresses, and whether its flight ends here. -/
def State.afterClause (s : State) (r : Running) : Gang :=
  let g := r.gang
  let dest := fun (k : Nat) => ((r.cl.next.find? fun e => e.1 == k).map (·.2)).getD r.cl.following
  let groups := groupByAddr (g.arch.slicesList.map fun k => (k, dest k))
  let scope := if r.cl.wait = 2 then max g.ackScope 3 else g.ackScope
  let g := { g with spent := g.spent + r.cl.cycles, spent2 := g.spent2 + r.cl.cycles2, spent3 := g.spent3 + r.cl.cycles3 }
  match groups with
  | _ :: _ :: _ =>
    { g with phase := .ending, wakeKind := if r.cl.wait = 2 then 1 else 0, wakeOp := 0#64, wakeOp2 := 0#64, ackScope := scope,
             nexts := groups.flatMap fun q => q.2.map fun k => (k, q.1) }
  | _ =>
    let a := { g.arch with pc := (groups.head?.map (·.1)).getD r.cl.following }
    let full := decide (544 < g.held.foldl (fun n h => n + h.entries) 0) || decide (17 < s.pendingCount g)
    let g := { g with nexts := [] }
    if r.cl.ended then { g with arch := a, phase := .ending, ackScope := scope }
    else if r.cl.wait != 0 || full then
      { g with arch := a, phase := .ending, wakeKind := if r.cl.wait = 2 then 1 else 0, wakeOp := 0#64, wakeOp2 := 0#64,
               ackScope := scope }
    else { g with arch := a, phase := .run }

/-- The clause is over: it is charged, and the gang goes back among the others (R28, R140). -/
def State.endClause (s : State) (r : Running) : State := (s.yieldPort { r with gang := s.afterClause r }).chargeClause r

/-! ## One instruction word -/

/-- The cost of the word that issues, for the gang's passes on its port (R119, R140). -/
def State.wordCost (s : State) (r : Running) (w : Word) : Nat :=
  let port := match r.gang.place with
    | .port p => p
    | _ => 0
  issueCycles w (passesOn r.gang.arch.slices ((s.die r.gang.die).good r.gang.core port))

/-- The cost of the word for another run of a paired gang, on a port whose passes may differ (R145). -/
def State.runCost (s : State) (r : Running) (port : Option Nat) (w : Word) : Nat :=
  match port with
  | some q => if r.gang.pair.isSome then issueCycles w (passesOn r.gang.arch.slices ((s.die r.gang.die).good r.gang.core q)) else 0
  | none => 0

/-- The sampling unit counts an instruction that a port issues, and tags one of each window (R298); which one is open
(DESIGN CHOICE, log 7). A word that faults at issue, or waits, has not issued (R140). The control core's port is one too (R291). -/
def State.tagWord (s : State) (r : Running) : State :=
  if s.cur.isNone then s else
  let g := r.gang
  let ctl := (s.die g.die).sysreg srSampctl
  let window := field ctl 8 32
  match g.place with
  | .port p =>
    if !ctl.getLsbD 0 || window = 0 then s
    else
      let key := g.core * 4 + p
      let ((n, k), t) := match look? (s.die g.die).sampled key with
        | some e => (e, s)
        | none => let (i, t) := s.pick window; ((0, i), t)
      let sample : List Tagged := if n = k then
          [⟨r.cl.addr, g.arch.flightid, passesOn g.arch.slices ((s.die g.die).good g.core p), p, g.core, r.cl.idx, g.inst, g.ctx, s.dtc g.die, g.gid, g.flight, none⟩] else []
      t.onDie g.die fun x => { x with sampled := put? x.sampled key (if n + 1 < window then some (n + 1, k) else none), tagged := x.tagged ++ sample }
  | _ => s

/-- What follows an instruction that did not end its clause: the next word, or the clause's end. -/
def State.advance (s : State) (w : Word) : State :=
  match s.cur with
  | none => s
  | some r =>
    let cl := { r.cl with cycles := r.cl.cycles + s.wordCost r w, cycles2 := r.cl.cycles2 + s.runCost r r.gang.pair w,
                          cycles3 := r.cl.cycles3 + s.runCost r (s.thirdPort r.gang) w }
    if r.cl.idx < r.cl.count then { s with cur := some { r with cl := { cl with idx := cl.idx + 1 } } }
    else s.endClause { r with cl := cl }

/-- ILLINS for one of several reasons; which is reported is open (R37). -/
def State.illinsOneOf (s : State) (r : Running) (reasons : List Nat) : Res :=
  let (i, t) := s.pick reasons.length
  t.illins r (reasons.getD i 0)

/-- The reasons that the word at issue is none in its place (R35, R36, R38); empty for an instruction. -/
noncomputable def wordReasons (r : Running) (w : Word) : List Nat :=
  (match decode w with
   | .ok _ => []
   | .error es => es.map DecodeError.reason)
  ++ (if decide (r.cl.idx < r.cl.count) && (rawDecode w).isSome && mustBeLast w (r.gang.ctx == firmware) then [4] else [])

/-- One word of the issuing clause: it is decoded and done, and the port moves on. A word that is no instruction in its
place is reported as that, whatever registers it names (DESIGN CHOICE, log 7). -/
noncomputable def State.issueWord (s : State) (run : Instr → State → Res) : Res :=
  s.issue fun r =>
    let w := r.cl.words.getD (r.cl.idx - 1) 0#32
    match wordReasons r w with
    | e :: es => s.illinsOneOf r (e :: es)
    | [] =>
      match decode w with
      | .error _ => s.illins r 0
      | .ok i =>
        match run i s with
        | .next t => .next ((t.tagWord r).advance w)
        | o => o

end Sys2Proof.Machine
end

