-- ==== Sys2Proof/Machine/Record.lean ====
section
/-!
DEFINITION. The landing record: its size, its bytes, and the record that is read back from a spill area
(R132 to R137).
-/

namespace Sys2Proof.Machine

/-- The `n` low bytes of a number. -/
def bytesN (n x : Nat) : List Byte := bytesOf n (BitVec.ofNat 64 x)
def bytesI (x : Int) : List Byte := bytesOf 8 (BitVec.ofInt 64 x)

/-- FLAGS of a record (R132). -/
def State.recordFlags (s : State) (g : Gang) : Nat :=
  let anchor := match g.place with
    | .port _ => true
    | _ => false
  bit anchor + 2 * bit g.arch.bracket + 4 * bit (!g.arch.n.isEmpty)
    + 8 * bit (((s.stage? g).map fun st => st.flags.getLsbD 0).getD false) + 16 * bit (decide (0 < g.ackScope) || g.fenced)

/-- A pending-list entry as the record holds it; an unfinished evaluation of FORCE or MST has file 2 and register 0. -/
def Pend.word (p : Pend) : Nat := p.tag % 65536 * 65536 + p.file % 4 * 256 + (if p.cnt = 32 then 128 + p.reg else p.reg % 256)

/-- The gang as its record holds it: while evaluations of its flight run it waits for results (R129). -/
def Gang.asRecord (g : Gang) : Gang := if g.phase == .ending then { g with wakeKind := 0, wakeOp := 0#64, wakeOp2 := 0#64 } else g

/-- The 256-byte header (R132). BUDISSUE, BUDARRAY and BUDCOPY are those of the lowest lane's task (DESIGN CHOICE, log 77). -/
def State.recordHeader (s : State) (gang : Gang) : List Byte :=
  let g := gang.asRecord
  let a := g.arch
  let task := (g.lanes.head?.map (·.2)).getD ⟨0, 0, 0, 0, [], ⟨0, 0#64, 0#64⟩, none, false⟩
  let evals := (s.core g.die g.core).evals.filter fun v => g.evals.contains v.id && (match v.kind with
    | .force | .store => true
    | _ => false)
  let pend := (g.pend.map Pend.word ++ evals.map fun (v : Eval) => v.id % 65536 * 65536 + 512).take 32
  bytesN 2 1 ++ bytesN 2 a.recordSize ++ bytesN 1 g.inst ++ bytesN 1 (g.stage % 16) ++ [a.slices] ++ bytesN 1 (g.ctx % 64)
  ++ bytesN 4 a.occ.toNat ++ bytesN 4 a.exec.toNat ++ bytesOf 8 a.pc ++ bytesN 1 a.depth ++ bytesN 1 (s.recordFlags g)
  ++ bytesN 2 (g.core % 128 + g.die % 4 * 256) ++ bytesN 1 g.wakeKind ++ bytesN 1 pend.length ++ bytesN 2 0
  ++ bytesOf 8 g.wakeOp ++ bytesOf 8 g.wakeOp2 ++ bytesI g.slack ++ bytesI task.issue ++ bytesI task.array ++ bytesI task.copy
  ++ (List.range 4).flatMap (fun i => bytesN 4 (g.causal.getD i 0)) ++ bytesOf 8 a.vlive ++ bytesN 4 a.slive.toNat
  ++ bytesN 2 a.plive.toNat ++ bytesN 2 a.nlive.toNat ++ bytesOf 8 a.flightid ++ bytesN 8 0
  ++ (pend ++ List.replicate (32 - pend.length) 0).flatMap (bytesN 4)

/-- The body (R134). The split stack's entry 0 is its bottom. -/
def Arch.recordBody (a : Arch) : List Byte :=
  let stack := fun (k : Nat) => (look [] a.split k).reverse
  a.slicesList.flatMap (fun k =>
      ((stack k) ++ List.replicate (7 - (stack k).length) 0#8).take 7 ++ bytesN 1 (stack k).length
      ++ bytesN 1 (look 0#3 a.fpctl k).toNat ++ bytesN 1 (look 0#5 a.fpstat k).toNat ++ bytesN 2 (look 0#16 a.sigval k).toNat ++ bytesN 4 0
      ++ (List.range a.depth).flatMap (fun i => bytesOf 8 (look 0#64 a.rstack (k * 16 + i)))
      ++ (bitsOf a.slive).flatMap (fun r => bytesOf 8 (a.sget k r)))
  ++ (bitsOf a.vlive).flatMap (fun r => (List.range 32).flatMap fun l => bytesN 4 (if a.slices.getLsbD (l / 4) then (a.vget r l).toNat else 0))
  ++ (bitsOf a.plive).flatMap (fun j => (List.range 8).flatMap fun w => bytesN 4 (a.pmask (8 * j + w)).toNat)
  ++ (bitsOf a.nlive).flatMap (fun r => bytesN 4 (a.nget r))

/-- The bytes of a gang's landing record. -/
def State.recordBytes (s : State) (g : Gang) : List Byte :=
  let b := s.recordHeader g ++ g.arch.recordBody
  b ++ List.replicate (g.arch.recordSize - b.length) 0#8

/-! ## Reading a record back -/

/-- A little-endian number in a list of bytes. -/
def numAt (bs : List Byte) (off n : Nat) : Nat := natOfBytes ((bs.drop off).take n)

/-- Whether a record is ill-formed: a reserved value, a reserved field that is not zero, or a SIZE that
disagrees with R134 (R132 to R134). -/
def recordOk (bs : List Byte) : Bool :=
  let n := numAt bs
  let slive := n 104 4
  let want := roundUp (256 + popcount (BitVec.ofNat 8 (n 6 1)) * (16 + 8 * n 24 1 + 8 * popcount (BitVec.ofNat 32 slive))
    + 128 * popcount (BitVec.ofNat 64 (n 96 8)) + 32 * popcount (BitVec.ofNat 16 (n 108 2)) + 4 * popcount (BitVec.ofNat 16 (n 110 2))) 8
  n 0 2 == 1 && n 2 2 == want && n 5 1 < 16 && n 7 1 < 64 && n 24 1 ≤ 16 && n 25 1 < 32 && n 26 2 / 128 % 2 == 0 && n 26 2 < 1024
  && n 28 1 ≤ 10 && n 29 1 ≤ 32 && n 30 2 == 0 && slive % 2 == 0 && n 120 8 == 0 && n 2 2 ≤ 11264
  && (List.range (n 29 1)).all (fun i =>
    let w := n (128 + 4 * i) 4
    w / 1024 % 64 == 0 && w / 256 % 4 ≤ 2 && (w / 256 % 4 ≤ 1 || w % 256 == 0))
  && (List.range (popcount (BitVec.ofNat 8 (n 6 1)))).all (fun i =>
    let at_ := 256 + i * (16 + 8 * n 24 1 + 8 * popcount (BitVec.ofNat 32 slive))
    n (at_ + 7) 1 ≤ 7 && n (at_ + 8) 1 < 8 && n (at_ + 9) 1 < 32 && n (at_ + 12) 4 == 0)

/-- Write the slices' blocks of a record into a gang's registers; where the blocks end. -/
def Arch.readSlices (bs : List Byte) (depth : Nat) (slive : Word) : List Nat → Nat → Arch → Nat × Arch
  | [], off, a => (off, a)
  | k :: ks, off, a =>
    let stack := ((List.range (numAt bs (off + 7) 1 % 8)).map fun i => BitVec.ofNat 8 (numAt bs (off + i) 1)).reverse
    let regs := bitsOf slive
    let base := off + 16 + 8 * depth
    let b : Arch := { a with
      split := put [] a.split k stack
      fpctl := put 0#3 a.fpctl k (BitVec.ofNat 3 (numAt bs (off + 8) 1))
      fpstat := put 0#5 a.fpstat k (BitVec.ofNat 5 (numAt bs (off + 9) 1))
      sigval := put 0#16 a.sigval k (BitVec.ofNat 16 (numAt bs (off + 10) 2))
      rstack := (List.range depth).foldl (fun m i => put 0#64 m (k * 16 + i) (BitVec.ofNat 64 (numAt bs (off + 16 + 8 * i) 8))) a.rstack
      s := (regs.zip (List.range regs.length)).foldl (fun m e => put 0#64 m (k * 32 + e.1) (BitVec.ofNat 64 (numAt bs (base + 8 * e.2) 8))) a.s }
    Arch.readSlices bs depth slive ks (base + 8 * regs.length) b

/-- The registers that a record holds (R134, R135); registers that are not saved are zero. -/
def archOf (bs : List Byte) (old : Arch) : Arch :=
  let n := numAt bs
  let slices : Byte := BitVec.ofNat 8 (n 6 1)
  let vlive : DWord := BitVec.ofNat 64 (n 96 8)
  let slive : Word := BitVec.ofNat 32 (n 104 4)
  let plive : Half := BitVec.ofNat 16 (n 108 2)
  let nlive : Half := BitVec.ofNat 16 (n 110 2)
  let a0 : Arch := { old with
    slices := slices, occ := BitVec.ofNat 32 (n 8 4), exec := BitVec.ofNat 32 (n 12 4), pc := BitVec.ofNat 64 (n 16 8)
    v := [], p := [], s := [], n := [], depth := n 24 1, rstack := [], split := [], sigval := [], fpctl := [], fpstat := []
    flightid := BitVec.ofNat 64 (n 112 8), bracket := n 25 1 / 2 % 2 == 1, vlive := vlive, slive := slive, plive := plive, nlive := nlive }
  let (off, a1) := Arch.readSlices bs (n 24 1) slive (bitsOf slices) 256 a0
  let vr := bitsOf vlive
  let pr := bitsOf plive
  let nr := bitsOf nlive
  let pOff := off + 128 * vr.length
  let nOff := pOff + 32 * pr.length
  { a1 with
    v := (vr.zip (List.range vr.length)).foldl (fun m e => (List.range 32).foldl (fun m l =>
      put 0#32 m (e.1 * 32 + l) (BitVec.ofNat 32 (n (off + 128 * e.2 + 4 * l) 4))) m) []
    p := (pr.zip (List.range pr.length)).foldl (fun m e => (List.range 8).foldl (fun m w =>
      put 0#32 m (8 * e.1 + w) (BitVec.ofNat 32 (n (pOff + 32 * e.2 + 4 * w) 4))) m) []
    n := (nr.zip (List.range nr.length)).foldl (fun m e => put 0 m e.1 (n (nOff + 4 * e.2) 4)) [] }

/-- Read bytes at a context's virtual address as the device does on a die. -/
def State.readVa (s : State) (d ctx : Nat) (va : Nat) (n : Nat) : List Byte :=
  (List.range n).map fun i => match s.walk d ctx (va + i) with
    | .ok l => (match l.place (va + i) with
        | .phys pa => s.dieByte d pa
        | _ => unlisted)
    | _ => unlisted

/-- The lines of other dies' memory that a die must still get before it can read bytes of a context: those of the walks, then those of
the data (R285, R307). -/
def State.vaWants (s : State) (d ctx va n : Nat) : List Nat :=
  ((List.range (ceilDiv (va % 64 + n) 64)).flatMap fun i =>
    let a := if i = 0 then va else (va / 64 + i) * 64
    let (w, _, ls) := s.walked d ctx a
    let ws := s.unread d ls
    if !ws.isEmpty then ws
    else match w with
      | .ok l => (match l.place a with
          | .phys pa => s.unread d [pa / 64]
          | _ => [])
      | _ => []).eraseDups

/-- Whether the path to any of some bytes at a context's address, or to the tables of their walk, has failed (R306). -/
def State.vaCut (s : State) (d ctx va n : Nat) : Bool :=
  (List.range n).any fun i => match s.walk d ctx (va + i) with
    | .ok l => (match l.place (va + i) with
        | .phys pa => s.outOfReach d pa
        | _ => false)
    | .path => true
    | _ => false

end Sys2Proof.Machine
end

