-- ==== Sys2Proof/Machine/Landing.lean ====
section
/-!
DEFINITION. Residence, relaunch and pre-emption: room on ports, eligibility of landing records, delivery
of results, RELAUNCH, PREEMPT_GANG and RECORD_MOVE (R124, R126, R133, R138, R139, R266, R309).
-/

namespace Sys2Proof.Machine

/-! ## Delivery at the park point (R55) -/

/-- Whether a delivery's key belongs to an occupied lane or a present slice: retired lanes keep no state (R52). -/
def Arch.owns (a : Arch) (x : Deliv) : Bool := if x.vec then a.occ.getLsbD (x.key % 32) else a.slices.getLsbD (x.key / 32)

/-- Write one delivered value, and mark it where its data is poisoned (R153). -/
def Arch.land (a : Arch) (x : Deliv) : Arch :=
  if !a.owns x then a
  else
    let b := if x.vec then a.vset (x.key / 32) (x.key % 32) (x.val.setWidth 32) else a.sset (x.key / 32) (x.key % 32) x.val
    match x.poison with
    | some va => { b with poison := put? b.poison (if x.vec then x.key else 2048 + x.key) (some va) }
    | none => b

/-- A register that was pending is saved from now on where a lane or slice is written, or is to be (R135). -/
def Arch.touch (a : Arch) (p : Pend) : Arch :=
  if p.lanes.isEmpty && p.left == 0 && !p.vals.any a.owns then a
  else if p.file = 0 then { a with vlive := (List.range p.cnt).foldl (fun m i => m ||| (1#64 <<< (p.reg + i))) a.vlive }
  else if p.file = 1 then { a with slive := a.slive ||| (1#32 <<< p.reg) } else a

/-- Deliver all results of a gang. -/
def Gang.deliverAll (g : Gang) : Gang :=
  { g with pend := [], arch := g.pend.foldl (fun a p => p.vals.foldl Arch.land (a.touch p)) g.arch }

/-- A gang on a port, with the registers it is granted there until it leaves, and the port of its other run where its stage
has PAIR (R124, R145). One that is there already keeps what it holds, takes more where its slices are more, and another second port
where its own has become suspect (R144). -/
def State.onPort (s : State) (g : Gang) (port : Nat) : Gang :=
  let pair := if s.paired g.die g.inst g.stage then s.secondPort g port else none
  if g.place == .port port then { g with granted := if g.granted = 0 then 0 else max g.granted (s.needBytes g), pair := pair }
  else { g with place := .port port, granted := s.needBytes g, pair := pair }

/-- A gang begins its next flight on a port: results are delivered, the anchor is its state (R129, R130). After a FENCE.FULL, fetch
sees nothing that has been overwritten by now (R39). The firmware's handler keeps the faulted flight's anchor (R293). -/
def State.beginFlight (s : State) (g : Gang) (port : Nat) : State :=
  let (n, t) := s.fresh
  let h := (s.onPort g port).deliverAll.clearFlight
  t.putGang { h with phase := .run, anchor := if h.ctx = firmware && h.handler then h.anchor else h.arch, flight := n, wakeKind := 0, wakeOp := 0#64, wakeOp2 := 0#64,
                     ackScope := 0, woken := false, hit := false, since := none, preempt := false, nexts := [], spent := 0, spent2 := 0,
                     spent3 := 0, fwd := [], anchorAt := none, fenced := false, fetchFrom := if g.fenced then s.olds.length else g.fetchFrom }

/-! ## Room in the Landing (R136, R137) -/

/-- The bytes of a core's Landing. -/
def landingBytes : Nat := 262144

/-- The record that a gang will need, with the registers that are pending. -/
def Gang.sizeAfter (g : Gang) : Nat := (g.pend.foldl Arch.touch g.arch).recordSize

/-- The bytes that a gang takes in the SRAM: a resident's anchor, a record, or both where it waits off its port for its
evaluations or amid a clause (R129, R277), less what lies in the spill area (R137). -/
def Gang.landSize (g : Gang) : Nat :=
  let anchor := if g.anchorAt.isSome then 0 else g.anchor.recordSize
  match g.place with
  | .port _ => anchor
  | .landing => g.sizeAfter + (if g.phase == .ending || g.paused.isSome then anchor else 0)
  | .spill _ => if g.phase == .ending || g.paused.isSome then anchor else 0

/-- The bytes taken of a core's Landing. -/
def State.landingUsed (s : State) (d core : Nat) : Nat :=
  ((s.gangs ++ (s.cur.map (·.gang)).toList).filter fun g => g.die == d && g.core == core).foldl (fun n g => n + g.landSize) 0

/-- The bytes of a gang's anchor as a record: of a flight's beginning, with nothing pending and no wait (R130, R132). -/
def State.anchorBytes (s : State) (g : Gang) : List Byte :=
  s.recordBytes { g.clearFlight with arch := g.anchor, phase := .run, wakeKind := 0, wakeOp := 0#64, wakeOp2 := 0#64, ackScope := 0, fenced := false }

/-- Move a record that lies in the Landing, or the anchor of a gang with an open flight, to its context's spill area. -/
def State.spillGang (s : State) (g : Gang) : Option State :=
  if g.place = .landing then
    (s.spillPlace g.ctx g.arch.recordSize).map fun a =>
      (s.writeVa g.die g.ctx a (s.recordBytes g)).onGang g.gid fun h => { h with place := .spill a, written := s.recordBytes g }
  else
    (s.spillPlace g.ctx g.anchor.recordSize).map fun a =>
      (s.writeVa g.die g.ctx a (s.anchorBytes g)).onGang g.gid fun h => { h with anchorAt := some a, anchorWritten := s.anchorBytes g }

/-- Make a core's records fit its Landing: they go to spill areas, the latest deadline first, then the youngest. None where
it cannot be done. -/
def State.fitLanding (s : State) (d core : Nat) : Nat → Option State
  | 0 => none
  | k + 1 =>
    if s.landingUsed d core ≤ landingBytes then some s
    else
      let there := (s.gangs.filter fun g => g.die == d && g.core == core && g.ctx != firmware && g.landSize != 0).mergeSort fun a b => !s.precedes a b
      match there.findSome? fun g => s.spillGang g with
      | some t => t.fitLanding d core k
      | none => none

/-- Whether a core's records could be made to fit its Landing. -/
def State.landingFits (s : State) (d core : Nat) : Bool := (s.fitLanding d core (2 * s.gangs.length + 2)).isSome

/-- A full Landing moves records at once. -/
def State.settleLanding (s : State) : State :=
  if s.gangs.foldl (fun n g => n + g.landSize) 0 ≤ landingBytes then s
  else ((s.gangs.map fun g => (g.die, g.core)).eraseDups).foldl (fun (s : State) e => (s.fitLanding e.1 e.2 (2 * s.gangs.length + 2)).getD s) s

/-! ## RELAUNCH (R139) -/

/-- Whether any of some bytes at a context's address lies in a poisoned line. -/
def State.vaPoisoned (s : State) (d ctx va n : Nat) : Bool :=
  (List.range n).any fun i => match s.walk d ctx (va + i) with
    | .ok l => s.bad d 0 (l.place (va + i))
    | _ => false

/-- Whether a wake condition that a record newly has holds already: a counter that has fired or is free, a sequence that is
complete. -/
def State.wakesNow (s : State) (g : Gang) : Bool :=
  match g.wakeKind with
  | 6 => ((s.counter? g.wakeOp).map (·.fired)).getD true
  | 7 => decide (g.wakeOp2.toNat ≤ ((s.core g.die g.core).doneSeq g.ctx g.wakeOp.toNat).toNat)
  | _ => false

/-- A pending-list entry as a record names it: a known tag keeps its results, for the register named; an unknown one awaits
what will not come. -/
def Pend.named (ps : List Pend) (w : Nat) : Pend :=
  let file := w / 256 % 4
  let reg := if 128 ≤ w % 256 then w % 128 else w % 256
  match ps.find? fun p => p.tag % 65536 == w / 65536 with
  | some p =>
    let move := fun (k : Nat) => if file = 0 then k - p.reg * 32 + reg * 32 else k - p.reg + reg
    { p with file := file, reg := reg, vals := p.vals.map fun v => { v with key := move v.key } }
  | none => ⟨w / 65536, file, reg, if 128 ≤ w % 256 then 32 else 1, [], 1, []⟩

/-- The gang that a record written anew tells of (R132); each of its tasks takes the record's budgets (DESIGN CHOICE, log 77). -/
def State.gangOf (s : State) (bs : List Byte) (g : Gang) : Gang :=
  let n := numAt bs
  let signed := fun (at_ : Nat) => (BitVec.ofNat 64 (n at_ 8)).toInt
  let kind := n 28 1
  let op : DWord := BitVec.ofNat 64 (n 32 8)
  let op2 : DWord := BitVec.ofNat 64 (n 40 8)
  let same := kind == g.wakeKind && op == g.wakeOp && op2 == g.wakeOp2
  let h := { g with
    arch := archOf bs g.arch, wakeKind := kind, wakeOp := op, wakeOp2 := op2, slack := signed 48
    lanes := g.lanes.map fun e => (e.1, { e.2 with issue := signed 56, array := signed 64, copy := signed 72 })
    causal := (List.range 4).map fun i => n (80 + 4 * i) 4
    ackScope := if n 25 1 / 16 % 2 = 0 then 0 else max 3 g.ackScope
    pend := ((List.range (n 29 1)).map fun i => Pend.named g.pend (n (128 + 4 * i) 4)).filter fun p => p.file != 2 }
  if same then h
  else { h with
    woken := s.wakesNow h, hit := false
    causal := if kind = 6 && s.wakesNow h then mergeVec h.causal (s.vector (idDie op)) else h.causal
    accs := if kind = 2 then [⟨0, h.arch.pc, 0, .watch, [⟨0, op, 4, none, false⟩], false, true⟩] else [] }

/-- The lines of other dies' memory that a gang's record waits for before it can be read back from the spill area (R285, R307). -/
def State.recordWants (s : State) (g : Gang) : List Nat :=
  match g.place with
  | .spill a => s.vaWants g.die g.ctx a g.written.length
  | _ => []

/-- A record as it stands: one in a spill area is read back. An ill-formed one is RECSIZE, a poisoned one
leads to containment, and one behind a failed path is PROT (R133, R137, R146, R306). -/
def State.readBack (s : State) (g : Gang) : Gang ⊕ FaultInfo :=
  match g.place with
  | .spill a =>
    let bs := s.readVa g.die g.ctx a g.written.length
    if s.vaCut g.die g.ctx a g.written.length then .inr ⟨codeProt, accessInfo 1 false 0 (BitVec.ofNat 64 a), g.arch.pc⟩
    else if s.vaPoisoned g.die g.ctx a g.written.length then .inr ⟨codePoison, accessInfo 0 false 0 (BitVec.ofNat 64 a), g.arch.pc⟩
    else if bs = g.written then .inl g
    else if recordOk bs then .inl (s.gangOf bs g)
    else .inr ⟨codeRecsize, BitVec.ofNat 64 (numAt bs 2 2 + ((s.stage? g).map (·.record)).getD 0 * 2 ^ 16), g.arch.pc⟩
  | _ => .inl g

/-- Put an eligible record on a port. A replay keeps its anchor (R131, R133). A record written anew by firmware may have to wait
for more. A gang that left amid a clause, at an auto-force, goes on there in the same flight (R218, R224; DESIGN CHOICE, log 74). -/
def State.relaunch (s : State) (g : Gang) (port : Nat) : State :=
  match s.readBack g with
  | .inr f => s.takeFault g.gid f true 0#64 0
  | .inl h =>
    if !s.eligible h || !s.canTake h port then s.putGang h
    else if h.paused.isSome then
      s.putGang { s.onPort h port with phase := .run, wakeKind := 0, wakeOp := 0#64, wakeOp2 := 0#64, woken := false, since := none, preempt := false }
    else if g.wakeKind = 9 && h.wakeKind = 9 then
      let k := s.onPort h port
      s.putGang { k with anchor := if k.ctx = firmware && k.handler then k.anchor else k.arch, phase := .run, wakeKind := 0, wakeOp := 0#64, wakeOp2 := 0#64, woken := false, since := none, spent := 0, spent2 := 0,
                         spent3 := 0, nexts := [], backTo := none, sigMoved := k.sigPort.any (· != port), anchorAt := none }
    else s.beginFlight h port

/-- RELAUNCH (R133, R139): a record that a port can take goes on it, none that precedes it waiting. -/
def execRelaunch (gid port : Nat) (s : State) : Res :=
  match s.gang? gid with
  | none => .fault (.notEnabled "RELAUNCH")
  | some g =>
    if s.cur.isNone && (s.recordWants g).isEmpty && s.eligible g && s.canTake g port && (s.takeable g.die g.core port).all (fun h => !s.precedes h g) then
      .next (s.relaunch g port)
    else .fault (.notEnabled "RELAUNCH")

/-! ## PREEMPT_GANG (R126, R277, R294) -/

/-- PREEMPT_GANG ends a gang's flight at a clause boundary; it will leave with wake kind PREEMPT. One that waits for its
evaluations, or for its arrival at a barrier to be counted, leaves its port at once, its anchor kept (R129, R224); so does one that stands at
an auto-force while its context is switched out, with wake kind PREEMPT, its clause to go on when it is back (R218, R277; DESIGN CHOICE,
log 74). -/
def execPreemptGang (gid : Nat) (s : State) : Res :=
  match s.gang? gid with
  | none => .fault (.notEnabled "PREEMPT_GANG")
  | some g =>
    if s.cur.isNone && s.preempts g then
      .next (if g.paused.isSome then
               s.putGang { g.leavePort with phase := .parked, wakeKind := 8, wakeOp := 0#64, wakeOp2 := 0#64, woken := false, slack := s.slackOf g }
             else if g.phase != .run then s.putGang { g.leavePort with preempt := true, slack := s.slackOf g }
             else s.putGang { g with phase := .ending, preempt := true, wakeKind := 8, wakeOp := 0#64, wakeOp2 := 0#64, nexts := [] })
    else .fault (.notEnabled "PREEMPT_GANG")

/-! ## RECORD_MOVE (R138, R163, R239, R266) -/

/-- Whether a record may leave its core: no node register, and no wait on the core's queues. -/
def Gang.movable (g : Gang) : Bool := g.phase == .parked && g.arch.n.isEmpty && g.wakeKind != 7 && g.ctx != firmware && g.paused.isNone

/-- Whether a core may receive work of an instance: mapped, in service, three ports enabled and not suspect, not fused by
another (R3, R144). -/
def State.openCore (s : State) (d core inst : Nat) : Bool :=
  let x := s.die d
  (x.site? core).isSome && decide ((s.core d core).scan = 0) && decide (3 ≤ (x.portsOf core).length) &&
    (match look? x.fused (x.cluster core) with
     | some j => j == inst
     | none => true)

/-- Whether a record may leave its die: nothing of its tasks is on its way or awaited, its tasks are in no group, and
what it waits for is not its die's own (R138, R239, R327; DESIGN CHOICE, log 16). -/
def State.mayCross (s : State) (g : Gang) : Bool :=
  (s.behind g).isEmpty && s.acked g && g.reqs.isEmpty && g.pend.all (·.complete) && g.lanes.all (fun e => e.2.groups.isEmpty)
    && g.wakeKind != 5 && g.wakeKind != 9 && g.wakeKind != 10
    && g.accs.all fun a => a.parts.all fun p => match p.loc with
      | some (.scratch _ _) | some (.acc _) => false
      | _ => true

/-- A record on a core of a die. On another die it has 1,000 ns less of slack, and waits until that die has seen all
that went before it left (R261, R309). -/
def State.moved (s : State) (g : Gang) (die core : Nat) : Gang :=
  let h := { g with core := core, place := .landing, since := none }
  if die = g.die then h
  else
    let seen := mergeVec g.causal ((List.range 4).map fun e => (s.die e).sent)
    { h with die := die, inst := instName die (homeInst g.die g.inst), causal := seen, ackScope := 0, lost := g.lost + 1000 }

/-- RECORD_MOVE: a record that has waited 10 us for a port, or whose core drains, goes to another core of its die, or to
another die that its context may use (DESIGN CHOICE, log 16). -/
def execRecordMove (gid die core : Nat) (s : State) : Res :=
  match s.gang? gid with
  | none => .fault (.notEnabled "RECORD_MOVE")
  | some g =>
    let waited := match g.since with
      | some t => decide (t + 10000 ≤ s.time)
      | none => false
    let due := (s.eligible g && waited) || decide ((s.core g.die g.core).scan ≠ 0)
    let allowed := if die = g.die then decide (core ≠ g.core)
      else decide (die < 4) && (s.ctx g.ctx).diemask.getLsbD die && (s.ctx g.ctx).run == 1 && s.mayCross g
    if s.cur.isNone && (s.recordWants g).isEmpty && g.movable && due && allowed && s.openCore die core (s.moved g die core).inst then
      match s.readBack g with
      | .inr f => .next (s.takeFault gid f true 0#64 0)
      | .inl h =>
        let t := s.putGang (s.moved h die core)
        if t.landingFits die core then .next t else .fault (.notEnabled "RECORD_MOVE")
    else .fault (.notEnabled "RECORD_MOVE")

end Sys2Proof.Machine
end

