-- ==== Sys2Proof/Machine/Perform.lean ====
section
/-!
DEFINITION. Effects reaching their homes: writes and atomics, what they do to L1s, replicas and watched
words, causal messages between dies, and the fabric (R151, R161, R233, R247, R282, R283, R306 to R308,
R324 to R329).
-/

namespace Sys2Proof.Machine

/-! ## Watched words (R161, R297) -/

/-- The place of the word that a gang watches. -/
def Gang.watched (g : Gang) : Option Loc :=
  if g.phase == .parked && g.wakeKind == 2 then
    (g.accs.find? fun a => a.kind == .watch).bind fun a => (a.parts.head?).bind (·.loc)
  else none

/-- The home die of a place, for a gang. -/
def Gang.homeOf (g : Gang) : Loc → Nat
  | .phys pa => homeDie pa
  | _ => g.die

/-- The word that a gang watches, at its home. -/
def State.wordAt (s : State) (g : Gang) (l : Loc) : Word := BitVec.ofNat 32 (natOfBytes (s.readN (g.homeOf l) g.inst l 4))

/-- Whether a watched word has the value that its gang waits for, as the gang reads it (R161, R318). -/
def State.wakeHas (s : State) (g : Gang) (l : Loc) : Bool :=
  BitVec.ofNat 32 (natOfBytes (s.seal g.die g.core g.ctx g.wakeOp.toNat l (s.readN (g.homeOf l) g.inst l 4))) == g.wakeOp2.setWidth 32

/-- The causal vector of what a watched word holds: its home's; of host memory, the line's (R309, R310; DEDUCED, log 70). -/
def State.watchVec (s : State) (g : Gang) : Loc → List Nat
  | .phys pa => if isHost pa then s.hostVec pa else s.vector (homeDie pa)
  | _ => s.vector g.die

/-- Whether a gang that watches a word may read it now: its earlier flights' effects are performed, the loads that come before, and
the commits that it would see in part (R56, R169, R313). -/
def State.mayWatch (s : State) (g : Gang) (l : Loc) : Bool :=
  (s.behind g).isEmpty && (s.readWaits g l).isEmpty && (g.readAfter l.line (g.accs.any fun a => a.kind == .watch && a.parts.any (·.tso))).isEmpty

/-- The key of a place in a die's progress counters of watched words. -/
def Loc.key : Loc → Nat
  | .phys pa => pa
  | .scratch c o => 2 ^ 44 + c * 0x80000 + o
  | .acc o => 2 ^ 46 + o
  | .fabric p a => 2 ^ 48 + p * 2 ^ 42 + a

/-- Report the changes of watched words between two states: progress counters rise, and a word that has
its value now is noted in the records that watch it. -/
def State.reportWatched (before after : State) : State :=
  after.gangs.foldl (fun (s : State) g =>
    match g.watched with
    | none => s
    | some l =>
      let now := after.wordAt g l
      if now = before.wordAt g l then s
      else
        let t := s.onDie g.die fun x => { x with watched := alter 0#32 x.watched l.key (· + 1#32) }
        if after.wakeHas g l && before.mayWatch g l then t.onGang g.gid fun h => { h with hit := true } else t) after

/-- Report the watched words that the device itself wrote in a step: those whose value has changed and whose progress counter has not risen
(R297). -/
def State.noteDevice (after before : State) : State :=
  after.gangs.foldl (fun (s : State) g =>
    match g.watched, (before.gang? g.gid).bind Gang.watched with
    | some l, some k =>
      let count := fun (x : State) => look 0#32 (x.die g.die).watched l.key
      if l = k && count before = count after && after.wordAt g l != before.wordAt g l then
        let t := s.onDie g.die fun x => { x with watched := alter 0#32 x.watched l.key (· + 1#32) }
        if after.wakeHas g l && before.mayWatch g l then t.onGang g.gid fun h => { h with hit := true } else t
      else s
    | _, _ => s) after

/-! ## L1s and replicas (R151, R307) -/

/-- Invalidate a line in the L1s of a die, but for one core's. -/
def State.dropL1 (s : State) (d line but : Nat) : State :=
  s.onDie d fun x => { x with cores := x.cores.map fun e => if e.1 = but then e else (e.1, { e.2 with l1 := e.2.l1.filter (· != line) }) }

/-- The lines that a die's L2 holds (R3). -/
def l2Lines : Nat := 2 ^ 20

/-- A line of a die's memory enters its L2, the oldest leaving when that is full (R3, R318; DESIGN CHOICE, log 9). -/
def State.fillL2 (s : State) (pa : Nat) : State :=
  if isHost pa then s else s.onDie (homeDie pa) fun x => { x with l2 := (pa / 64 :: x.l2.filter (· != pa / 64)).take l2Lines }

/-- A line enters an L1, which has room for 16,384 lines, the oldest leaving (R3, R151, R236; DESIGN CHOICE, log 9); one that is read at its
home enters the L2 there. An L1 keeps no poisoned line (R283). -/
def State.fillL1 (s : State) (d core : Nat) (l : Loc) : State :=
  match l with
  | .phys pa => if s.badAt d pa then s else (if homeDie pa = d then s.fillL2 pa else s).onCore d ((s.die d).l1Core core (pa / 64)) fun c => { c with l1 := ((pa / 64 :: c.l1).eraseDups).take 16384 }
  | _ => s

/-- An instance moves a 64-byte beat through L2 (R265). -/
def State.countBeat (s : State) (d inst : Nat) : State := s.onInst d inst fun i => { i with memory := i.memory + 1 }

/-- Bytes of a line with others written over it. -/
def overlayLine (bs : List Byte) (off : Nat) (new : List Byte) : List Byte :=
  (bs.zip (List.range bs.length)).map fun e => if off ≤ e.2 then new.getD (e.2 - off) e.1 else e.1

/-- Write bytes into a die's replica of a line, present or on its way. -/
def State.toReplica (s : State) (e pa : Nat) (bytes : List Byte) : State :=
  let t := s.onDie e fun x =>
    let write := fun (r : Replica) => { r with bytes := overlayLine r.bytes (pa % 64) bytes }
    { x with replicas := alter? x.replicas (pa / 64) write,
             pendingFill := x.pendingFill.map fun q => if q.1 = pa / 64 then (q.1, write q.2.1, q.2.2) else q }
  t.dropL1 e (pa / 64) 1000

/-- A die's replica of a line, present or on its way, is poisoned no more (R283). -/
def State.cleanReplica (s : State) (e line : Nat) : State :=
  s.onDie e fun x =>
    { x with replicas := alter? x.replicas line fun r => { r with bad := false },
             pendingFill := x.pendingFill.map fun q => if q.1 = line then (q.1, { q.2.1 with bad := false }, q.2.2) else q }

/-! ## Causal messages (R308) -/

/-- Whether a die may send: no other die is 2^30 messages behind it (R308). -/
def State.maySend (s : State) (d : Nat) : Bool :=
  [0, 1, 2, 3].all fun e => e == d || decide (((s.die d).sent + 2 ^ 32 - (s.die e).applied.getD d 0) % 2 ^ 32 < 2 ^ 30)

/-! ## Performing writes and atomics -/

/-- Keep what a store overwrites, for fetches that may still see it (R39). -/
def State.keepOld (s : State) (pa : Nat) (bytes : List Byte) : State :=
  let words := ((List.range (ceilDiv (pa % 4 + bytes.length) 4)).map fun i => pa / 4 + i).filter fun w =>
    (List.range bytes.length).any fun i => (pa + i) / 4 == w && s.byte (pa + i) != bytes.getD i 0#8
  { s with olds := s.olds ++ words.map fun w => (w, BitVec.ofNat 32 (natOfBytes (s.bytes (4 * w) 4))) }

/-- The owner key of a context's page, plus one; firmware's writes have none (R318); of a fabric window, its own (R325). -/
def State.ownerTag (s : State) (w : Who) (va : DWord) : Nat :=
  if w.ctx = firmware then 0
  else if 128 ≤ w.ctx then w.ctx - 127
  else match s.tlb? w.die w.core w.ctx va.toNat with
    | some l => l.owner + 1
    | none => match s.walk w.die w.ctx va.toNat with
      | .ok l => l.owner + 1
      | _ => 0

/-- A line is written under an owner's key: what another owner had in the rest of it cannot be read under this one (R318). -/
def State.tagLine (s : State) (pa tag : Nat) : State :=
  let old := look 0 s.owners (pa / 64)
  if tag = 0 || old = tag then s
  else
    let t := if old = 0 then s else s.setBytes (pa / 64 * 64) ((List.range 64).map fun i => Config.foreignByte s.free (pa / 64 * 64 + i))
    { t with owners := put 0 t.owners (pa / 64) tag }

/-- Write bytes at their home, and invalidate L1 copies. -/
def State.storeAt (s : State) (w : Who) (l : Loc) (va : DWord) (bytes : List Byte) : State :=
  match l with
  | .phys pa =>
    let t := (((s.keepOld pa bytes).tagLine pa (s.ownerTag w va)).fillL2 pa).writeN w.die w.inst l bytes
    t.dropL1 (homeDie pa) (pa / 64) (if homeDie pa = w.die then (s.die w.die).l1Core w.core (pa / 64) else 1000)
  | _ => ((s.writeN w.die w.inst l bytes).heal w.die w.inst l bytes.length).pinFor w.die w.inst l

/-- What an atomic delivers to its lane: one register, or a pair. -/
def atomDelivs (reg lane size : Nat) (old : DWord) (poison : Option DWord) : List Deliv :=
  if size = 8 then
    [⟨true, reg * 32 + lane, zext64 (old.setWidth 32), poison⟩, ⟨true, (reg + 1) * 32 + lane, zext64 (old.extractLsb' 32 32), poison⟩]
  else [⟨true, reg * 32 + lane, old, poison⟩]

/-- Deliver an atomic's old value (R158). -/
def State.deliverAtom (s : State) (tag lane size : Nat) (old : DWord) (poison : Option DWord) : State :=
  s.deliver tag fun p => if p.lanes.contains lane then
    { p with lanes := p.lanes.erase lane, vals := p.vals ++ atomDelivs p.reg lane size old poison } else p

/-- The die at which a place is read and written. -/
def Who.homeOf (w : Who) : Loc → Nat
  | .phys pa => homeDie pa
  | _ => w.die

/-- The bytes at their home as an effect's owner reads them (R318). -/
def State.oldBytes (s : State) (w : Who) (l : Loc) (va : DWord) (n : Nat) : List Byte :=
  s.seal w.die w.core w.ctx va.toNat l (s.readN (w.homeOf l) w.inst l n)

/-- Perform one act at its home: the state, and the place and bytes written. -/
def State.perform (s : State) (w : Who) : Act → State × Loc × List Byte
  | .write x => (s.storeAt w x.loc x.va x.bytes, x.loc, x.bytes)
  | .merge x mask =>
    let old := s.oldBytes w x.loc x.va x.bytes.length
    let new := (x.bytes.zip (mask.zip old)).map fun e => (e.1 &&& e.2.1) ||| (e.2.2 &&& ~~~e.2.1)
    (s.storeAt w x.loc x.va new, x.loc, new)
  | .atom minor p tag =>
    let size := atomicSize minor
    let old := dwordOfBytes (s.oldBytes w p.loc p.va size)
    let new := bytesOf size (atomicNew minor old p.v p.w)
    let t := s.storeAt w p.loc p.va new
    (t.deliverAtom tag p.lane size old (if s.badN (w.homeOf p.loc) w.inst p.loc size then some p.va else none), p.loc, new)

/-- Perform acts in order, with what they wrote. -/
def State.performAll (s : State) (w : Who) : List Act → State × List (Loc × List Byte)
  | [] => (s, [])
  | a :: rest =>
    let (t, l, bs) := s.perform w a
    let (u, ws) := t.performAll w rest
    (u, (l, bs) :: ws)

/-- The writes of a list that go to replicas of a die. -/
def State.replicaWrites (s : State) (e num : Nat) (ws : List (Loc × List Byte)) : List (Nat × Cargo) :=
  ws.filterMap fun x => match x.1 with
    | .phys pa =>
      if homeDie pa != e && !isHost pa && (s.die e).replicates (pa / 64) then some (num, .acts [.write ⟨x.1, 0#64, x.2, false⟩]) else none
    | _ => none

/-- The causal vector of the tasks of an effect takes in what a die has sent: theirs, or one that has sent their write on
to replicas, so that their next flight follows it everywhere, and with it the effects of the same flight that have still to leave
(R308, R310, R311). -/
def State.mergeSent (s : State) (w : Who) (h : Nat) : State :=
  { s with gangs := s.gangs.map fun g =>
             if g.root = w.root then { g with causal := g.causal.set h (s.die h).sent } else g,
           drain := s.drain.map fun o =>
             if o.who.root = w.root && o.who.flight = w.flight && !o.sent then { o with vec := o.vec.set h (s.die h).sent } else o }

/-- The tasks of an effect follow what an old value that it brought follows (R310). -/
def State.mergeSeen (s : State) (w : Who) (v : List Nat) : State :=
  { s with gangs := s.gangs.map fun g =>
      if g.root = w.root && meet w.lanes (g.lanes.map (·.1)) then { g with causal := mergeVec g.causal v } else g }

/-- Writes to host memory leave their vector with their lines, which whoever reads them takes over (R310; DEDUCED, log 70). -/
def State.noteHost (s : State) (vec : List Nat) (ws : List (Loc × List Byte)) : State :=
  ws.foldl (fun (s : State) x => match x.1 with
    | .phys pa => if isHost pa then { s with pkg := { s.pkg with hostVecs := put? s.pkg.hostVecs (pa / 64) (some (mergeVec (s.hostVec pa) vec)) } } else s
    | _ => s) s

/-- Perform acts at a home on die `h`, clear the poison of a line written whole, tell the dies that hold
replicas, and report watched words (R247, R283, R307). `origin` is the die that made them, by the number of
their Out. -/
def State.performAt (s : State) (h : Nat) (w : Who) (as : List Act) (clears : Bool) (vec : List Nat) (num : Nat) : State :=
  let s := (as.map Act.loc).foldl (fun (s : State) l => s.crossed w.die w.core l) s
  let (u, ws) := s.performAll w as
  let v := match (as.find? Act.isAtom).map Act.loc with
    | some (.phys pa) => if isHost pa then u.mergeSeen w (u.hostVec pa) else if h = w.die then u else u.mergeSeen w (u.vector h)
    | _ => u
  let t := v.noteHost vec ws
  let t1 := if clears then ws.foldl (fun (t : State) x => match x.1 with
      | .phys pa => t.setPoison pa false
      | _ => t) t else t
  let held := [0, 1, 2, 3].any fun e => e != h && !(t1.replicaWrites e 0 ws).isEmpty
  let cleaned := if clears then (ws.filterMap fun x => match x.1 with
      | .phys pa => some (pa / 64)
      | _ => none).eraseDups else []
  let t2 := if held then t1.announce h vec fun e =>
      let rs := t1.replicaWrites e (if e = w.die then num else 0) ws
      if rs.isEmpty then [] else rs ++ cleaned.map fun l => (0, .clean l)
    else t1
  let t2 := if held then t2.mergeSent w h else t2
  s.reportWatched t2

/-! ## Failed paths (R306, R329) -/

/-- For whom an effect was made: of its flight's tasks those that made it (R329). -/
def Out.maker (o : Out) : Who := { o.who with lanes := o.made }

/-- The tasks of an effect learn at their next flight that a committed write's outcome is unknown. -/
def State.pathFailed (s : State) (w : Who) (va : DWord) : State :=
  { s with gangs := s.gangs.map fun g =>
      if g.root = w.root && meet w.lanes (g.lanes.map (·.1)) && g.pathFault.isNone then { g with pathFault := some va } else g }

/-- Acts that their home does not perform: atomics answer with a free value, and the tasks learn of it (DESIGN CHOICE, log 18). -/
def State.unperformed (s : State) (w : Who) (as : List Act) : State :=
  let s1 := as.foldl (fun (s : State) a => match a with
    | .atom m p tag => ({ s with free := s.free + 1 } : State).deliverAtom tag p.lane (atomicSize m) (Config.freeWord s.free) none
    | .write _ | .merge _ _ => s) s
  match as.head? with
  | some a => s1.pathFailed w a.va
  | none => s1

/-- Acts whose path has failed: performed or not (DESIGN CHOICE, log 18). -/
def State.loseActs (s : State) (w : Who) (as : List Act) : State :=
  let (n, s1) := s.pick 2
  let s2 := if n = 1 then (s1.performAll w (as.filter fun a => !a.isAtom)).1 else s1
  s.reportWatched (s2.unperformed w as)

/-! ## Effects leaving a core -/

def State.dropOut (s : State) (id : Nat) : State := { s with drain := s.drain.filter fun o => o.id != id }

/-- Whether what must precede an effect has been performed. -/
def State.free? (s : State) (o : Out) : Bool := o.after.all (s.over o.who.ctx)

def State.markSent (s : State) (id : Nat) : State :=
  { s with drain := s.drain.map fun q => if q.id = id then { q with sent := true } else q }

/-- The home on another die that an effect goes to by a causal message. -/
def Out.away? (o : Out) : Option Nat :=
  match (o.acts.head?).map Act.loc with
  | some (.phys pa) => if isHost pa || homeDie pa = o.who.die then none else some (homeDie pa)
  | _ => none

/-- Whether an effect is on a line homed here of which another die holds a replica. -/
def State.replicated (s : State) (o : Out) : Bool :=
  match (o.acts.head?).map Act.loc with
  | some (.phys pa) => !isHost pa && homeDie pa == o.who.die && [0, 1, 2, 3].any fun e => e != o.who.die && (s.die e).replicates (pa / 64)
  | _ => false

/-- One causal message for effects of one commit: the writes homed elsewhere, and those to lines of this die that have
replicas, which are performed with it (R308). -/
def State.sendTogether (s : State) (w : Who) (vec : List Nat) (os : List Out) : State :=
  match os with
  | [] => s
  | _ =>
    let own := os.filter fun o => o.away?.isNone
    let far := os.filter fun o => o.away?.isSome
    let (t, ws) := own.foldl (fun (acc : State × List (Loc × List Byte)) o => let (u, x) := acc.1.performAll o.who o.acts; (u, acc.2 ++ x)) (s, [])
    let clean := ((own.filter (·.clears)).flatMap fun o => o.acts.filterMap fun a => match a.loc with
      | .phys pa => some (pa / 64)
      | _ => none).eraseDups
    let t1 := clean.foldl (fun (t : State) l => t.setPoison (64 * l) false) t
    let t2 := t1.announce w.die vec fun e =>
      (far.filter fun o => o.away? == some e).map (fun o => (o.id, o.cargo))
      ++ (let rs := t1.replicaWrites e 0 ws; if rs.isEmpty then [] else rs ++ clean.map fun l => (0, .clean l))
    let t3 := os.foldl (fun (t : State) o => ((if o.away?.isSome then t.markSent o.id else t.dropOut o.id)).countBeat w.die w.inst) (t2.mergeSent w w.die)
    s.reportWatched t3

/-- An effect reaches its home, or leaves its die: to a home here, by a causal message, or over the fabric. -/
def State.sendOut (s : State) (o : Out) : State :=
  let w := o.who
  match (o.acts.head?).map Act.loc with
  | some (.phys pa) =>
    let h := homeDie pa
    if isHost pa || h = w.die then ((s.performAt h w o.acts o.clears o.vec o.id).dropOut o.id).countBeat w.die w.inst
    else if s.pathDown w.die (.phys pa) then (s.loseActs o.maker o.acts).dropOut o.id
    else
      s.sendTogether w o.vec [o]
  | some (.fabric p a) =>
    if s.pathDown w.die (.fabric p a) then (s.loseActs o.maker o.acts).dropOut o.id
    else
      let (id, t) := s.fresh
      let f : FabOut := ⟨id, .out o.id, w.die, p, a, t.time⟩
      ({ t with pkg := { t.pkg with fabricOut := t.pkg.fabricOut ++ [f] } } : State).markSent o.id
  | _ => (s.performAt w.die w o.acts o.clears o.vec o.id).dropOut o.id

/-- Whether an effect that may leave finds no room. -/
def State.stuck (s : State) (o : Out) : Bool := s.free? o && s.full o

/-- Whether an effect may be sent now, with the atomics of a kind or none. Its die has applied what came before it: one that follows a fence of
its flight follows what the homes of the writes before the fence have sent on (R308, R311). -/
def State.maySendOut (s : State) (o : Out) (atom remote : Bool) : Bool :=
  s.cur.isNone && !o.sent && !o.acts.isEmpty && s.free? o && !s.heldUp o && s.maySend o.who.die && s.covers o.who.die o.vec && (o.acts.any Act.isAtom == atom || remote)
  && ((match (o.acts.head?).map Act.loc with
       | some (.scratch c _) => c != o.who.core
       | _ => false) == remote)

/-- HOME_STORE (R151): a committed store reaches its home. -/
def execHomeStore (id : Nat) (s : State) : Res :=
  match s.drain.find? fun o => o.id == id with
  | some o => if s.maySendOut o false false then .next (s.sendOut o) else .fault (.notEnabled "HOME_STORE")
  | none => .fault (.notEnabled "HOME_STORE")

/-- HOME_ATOMIC (R282): a home performs an atomic request in one step. -/
def execHomeAtomic (id : Nat) (s : State) : Res :=
  match s.drain.find? fun o => o.id == id with
  | some o => if s.maySendOut o true false then .next (s.sendOut o) else .fault (.notEnabled "HOME_ATOMIC")
  | none => .fault (.notEnabled "HOME_ATOMIC")

/-! ## Loads (R55, R152) -/

/-- The values of one loaded part for its destination. -/
def partDelivs (size : Nat) (d : Dest) (x : DWord) (poison : Option DWord) : List Deliv :=
  if d.vec && size = 8 then
    (d.keys.zip [x.setWidth 32, x.extractLsb' 32 32]).map fun e => ⟨true, e.1, zext64 e.2, poison⟩
  else d.keys.map fun k => ⟨d.vec, k, x, poison⟩

/-- Answer a request of one gang from the bytes of each part. -/
def Gang.answer (g : Gang) (q : Req) (get : DWord → Loc → Nat → List Byte) (bad : Loc → Nat → Bool) : Gang :=
  match ((g.acc? q.acc).map (·.kind) : Option AccKind) with
  | some (.load tag _) =>
    let vals := q.parts.flatMap fun e =>
      match e.1.loc with
      | none => []
      | some l =>
        let bs := g.seen q.acc l (get e.1.va l e.1.size)
        let own := g.seen q.acc l (List.replicate e.1.size 0#8) == g.seen q.acc l (List.replicate e.1.size 0xFF#8)
        partDelivs e.1.size e.2 (extend e.2.sext bs) (if bad l e.1.size && !own then some e.1.va else none)
    let lanes := q.parts.flatMap fun e => e.2.lanes
    { g with reqs := g.reqs.filter fun r => r.id != q.id
             pend := g.pend.map fun p => if p.tag = tag then
               { p with lanes := lanes.foldl (fun ls l => ls.erase l) p.lanes, vals := p.vals ++ vals } else p }
  | _ => { g with reqs := g.reqs.filter fun r => r.id != q.id }

/-- Every sub-gang that shares a request follows what its data follows (R310). -/
def State.mergeAsked (s : State) (req : Nat) (v : List Nat) : State :=
  { s with gangs := s.gangs.map fun g => if g.reqs.any fun q => q.id == req then { g with causal := mergeVec g.causal v } else g }

/-- Answer a request in every sub-gang that shares it, at one moment. -/
def State.answerAll (s : State) (req : Nat) (get : Gang → Loc → Nat → List Byte) : State :=
  { s with gangs := s.gangs.map fun g => match g.reqs.find? fun q => q.id == req with
      | some q => g.answer q (fun va l n => s.seal g.die g.core g.ctx va.toNat l (get g l n)) (s.badN g.die g.inst)
      | none => g }

/-- Whether a load follows an evaluation of its flight that is not done and reads a TSO page (R313). -/
def State.afterForce (s : State) (q : Req) : Bool :=
  s.gangs.any fun g => (g.reqs.any fun r => r.id == q.id) && (s.core g.die g.core).evals.any fun v =>
    v.gid == g.gid && decide (v.id < q.acc) && !v.kind.isCommand && s.tsoNode v

/-- A load that waits no more. -/
def State.mayLoad (s : State) (q : Req) : Bool := s.cur.isNone && (q.after.all fun n => !s.outstanding n) && !s.afterForce q

/-- PROT in form 1 for a request whose path has failed (R306, R329), of a flight that is open or has committed: the spec
names only accesses of uncommitted flights (DESIGN CHOICE, log 18). -/
def State.loadPathFault (s : State) (g : Gang) (q : Req) : State :=
  let a := g.acc? q.acc
  let (lane, va) := (q.parts.head?.map fun e => (e.1.lane, e.1.va)).getD (0, 0#64)
  s.takeFault g.gid ⟨codeProt, accessInfo 1 false lane va, (a.map (·.pc)).getD 0#64⟩ false 0#64 0

/-- Whether a request has left for another package. -/
def State.asked (s : State) (req : Nat) : Option FabOut :=
  s.pkg.fabricOut.find? fun f => match f.client with
    | .load _ r => r == req
    | _ => false

def State.dropFab (s : State) (id : Nat) : State := { s with pkg := { s.pkg with fabricOut := s.pkg.fabricOut.filter fun f => f.id != id } }

/-- Whether a request is the first of its die to its package: they are performed in the order in which they left (R327). -/
def State.isFirst (s : State) (f : FabOut) : Bool :=
  ((s.pkg.fabricOut.find? fun q => q.die == f.die && q.pkg == f.pkg).map (·.id)) == some f.id

/-- A load that the target package refuses: PROT (R325); the form is open (DEDUCED, log 67). -/
def State.refuseLoad (s : State) (g : Gang) (q : Req) : State :=
  let (lane, va) := (q.parts.head?.map fun e => (e.1.lane, e.1.va)).getD (0, 0#64)
  s.takeFault g.gid ⟨codeProt, accessInfo 0 false lane va, ((g.acc? q.acc).map (·.pc)).getD 0#64⟩ false 0#64 0

/-- RESULT_ARRIVAL (R55): a load performs and its result is entered for delivery. `ext` is the line from
another package, or empty where that refuses the access. -/
def execResultArrival (gid req : Nat) (ext : List Byte) (s : State) : Res :=
  match (s.gang? gid).bind fun g => (g.reqs.find? fun q => q.id == req).map fun q => (g, q) with
  | none => .fault (.notEnabled "RESULT_ARRIVAL")
  | some (g, q) =>
    if !s.mayLoad q then .fault (.notEnabled "RESULT_ARRIVAL")
    else match q.line with
      | .fabric _ _ =>
        match s.asked req with
        | some f =>
          if !s.isFirst f then .fault (.notEnabled "RESULT_ARRIVAL")
          else if ext.isEmpty then .next ((s.refuseLoad g q).dropFab f.id)
          else if ext.length = 64 then .next ((s.answerAll req fun _ l n => match l with
              | .fabric _ a => (ext.drop (a % 64)).take n
              | _ => []).dropFab f.id)
          else .fault (.notEnabled "RESULT_ARRIVAL")
        | none => if s.pathDown g.die q.line then .next (s.loadPathFault g q) else .fault (.notEnabled "RESULT_ARRIVAL")
      | .scratch c _ =>
        if c = g.core && s.pinned g.die g.inst q.line && !s.halfDone g.die c g.root (g.lanes.map (·.1)) then .next (s.answerAll req fun g l n => s.readN g.die g.inst l n)
        else .fault (.notEnabled "RESULT_ARRIVAL")
      | l =>
        if s.readable g.die l then
          let u := match l with
            | .phys pa => if isHost pa then s.mergeAsked req (s.hostVec pa) else s
            | _ => s
          let t := (u.answerAll req fun g l n => s.readN g.die g.inst l n).fillL1 g.die g.core l
          .next (match l with
            | .phys pa => if (s.core g.die ((s.die g.die).l1Core g.core (pa / 64))).l1.contains (pa / 64) then t else t.countBeat g.die g.inst
            | _ => t)
        else if s.pathDown g.die l then .next (s.loadPathFault g q)
        else .fault (.notEnabled "RESULT_ARRIVAL")

/-- REMOTE_SCRATCH_ACCESS (R233): an access through the cluster window is performed at its owner. -/
def execRemoteScratchAccess (op : RemoteOp) (s : State) : Res :=
  match op with
  | .effect id =>
    match s.drain.find? fun o => o.id == id with
    | some o =>
      if s.maySendOut o false true then
        let down := match (o.acts.head?).map Act.loc with
          | some (.scratch c _) => s.clusterDown o.who.die o.who.core c
          | _ => false
        .next (if down then (s.loseActs o.maker o.acts).dropOut o.id else s.sendOut o)
      else .fault (.notEnabled "REMOTE_SCRATCH_ACCESS")
    | none => .fault (.notEnabled "REMOTE_SCRATCH_ACCESS")
  | .load gid req =>
    match (s.gang? gid).bind fun g => (g.reqs.find? fun q => q.id == req).map fun q => (g, q) with
    | some (g, q) =>
      match q.line with
      | .scratch c _ =>
        if !s.mayLoad q || c = g.core then .fault (.notEnabled "REMOTE_SCRATCH_ACCESS")
        else if s.clusterDown g.die g.core c then .next (s.loadPathFault g q)
        else if s.pinned g.die g.inst q.line then .next ((s.crossed g.die g.core q.line).answerAll req fun g l n => s.readN g.die g.inst l n)
        else .fault (.notEnabled "REMOTE_SCRATCH_ACCESS")
      | _ => .fault (.notEnabled "REMOTE_SCRATCH_ACCESS")
    | none => .fault (.notEnabled "REMOTE_SCRATCH_ACCESS")

/-- Whether a load or a step of an array waits for a scratchpad page. -/
def State.wantsPage (s : State) (d core slot page : Nat) : Bool :=
  (s.gangs.any fun g => g.die == d && g.inst == slot && g.reqs.any fun q => match q.line with
    | .scratch c off => c == core && off / 4096 == page
    | _ => false)
  || (s.die d).cores.any fun e => e.2.evals.any fun v => v.who.inst == slot && (s.stepPages v).contains (core, page)

/-- SCRATCH_REFILL (R150): a page is pinned, and the access that waits goes on. -/
def execScratchRefill (die core slot page : Nat) (s : State) : Res :=
  if s.cur.isNone && s.wantsPage die core slot page && !s.pinned die slot (.scratch core (page * 4096)) then
    .next (s.onInst die slot fun i => { i with pinned := (coreOf die slot core * 128 + page) :: i.pinned })
  else .fault (.notEnabled "SCRATCH_REFILL")

/-! ## Translation (R157, R284, R285) -/

/-- The page that a gang's first unplaced access waits for: the access and its part (DEDUCED, log 20). -/
def State.missing (s : State) (g : Gang) : Option (Access × APart) :=
  (g.accs.find? fun a => !a.ready).bind fun a =>
    (a.parts.find? fun p => p.loc.isNone).bind fun p => match s.find g.die g.core g.inst g.ctx p.va a.kind.needs with
      | .miss _ => some (a, p)
      | _ => none

/-- Go on placing a gang's accesses in order; the first that faults faults the flight. -/
def State.placeAll (s : State) (gid : Nat) : Nat → State
  | 0 => s
  | n + 1 =>
    match (s.gang? gid).bind fun g => (g.accs.find? fun a => !a.ready).map fun a => (g, a) with
    | none => s
    | some (g, a) =>
      match s.placeAccess g a with
      | (_, .bad c f p, t) => t.takeFault gid ⟨c, partInfo a.kind f p, a.pc⟩ (c == codePoison) 0#64 0
      | (h, .miss _, t) => t.putGang h
      | (h, .done, t) => (t.putGang h).placeAll gid n

/-- PAGE_WALK (R157): a walk ends with a mapping, or with PAGE, PROT or POISON at the access. -/
def execPageWalk (gid vpn : Nat) (s : State) : Res :=
  match (s.gang? gid).bind fun g => (s.missing g).map fun m => (g, m.1, m.2) with
  | none => .fault (.notEnabled "PAGE_WALK")
  | some (g, a, p) =>
    if s.cur.isSome || p.va.toNat / 4096 != vpn || !(s.unread g.die (s.walked g.die g.ctx p.va.toNat).2.2).isEmpty then .fault (.notEnabled "PAGE_WALK")
    else
      let stop := fun (c : Nat) => if g.phase == .parked then .fault (.notEnabled "PAGE_WALK") else Host.Outcome.next (s.takeFault gid ⟨c, partInfo a.kind 0 p, a.pc⟩ (c == codePoison) 0#64 0)
      match s.walk g.die g.ctx p.va.toNat with
      | .ok l => .next (((s.fillWalk g.die (s.walked g.die g.ctx p.va.toNat).2.1).fillTlb g.die g.core g.ctx p.va.toNat l).placeAll gid (g.accs.length + 1))
      | .page => stop codePage
      | .prot => stop codeProt
      | .path => if g.phase == .parked then .fault (.notEnabled "PAGE_WALK") else .next (s.takeFault gid ⟨codeProt, partInfo a.kind 1 p, a.pc⟩ false 0#64 0)
      | .poison => stop codePoison

/-- Whether a watched word is in another package: its home there reports when it has the value, which nothing here tells
(DESIGN CHOICE, log 14). -/
def Loc.elsewhere : Loc → Bool
  | .fabric _ _ => true
  | _ => false

/-- WATCH_CHANGE (R161): the word that a record watches has its value, and the record becomes eligible, once
its die has seen what the word's home had (R309). -/
def execWatchChange (gid : Nat) (s : State) : Res :=
  match (s.gang? gid).bind fun g => g.watched.map fun l => (g, l) with
  | some (g, l) =>
    if s.cur.isNone && !g.woken && (g.hit || (s.mayWatch g l && (l.elsewhere || s.wakeHas g l))) then
      .next ((s.pinFor g.die g.inst l).putGang { g with woken := true, causal := mergeVec g.causal (s.watchVec g l) })
    else .fault (.notEnabled "WATCH_CHANGE")
  | none => .fault (.notEnabled "WATCH_CHANGE")

end Sys2Proof.Machine
end

