-- ==== Sys2Proof/Machine/Reset.lean ====
section
/-!
DEFINITION. A context that is switched out (R277, R320), and its reset (R278), as a pre-emption timeout and CRESET bring it.
-/

namespace Sys2Proof.Machine

/-! ## A context's entry (R314, R315) -/

def State.onPkg (s : State) (f : Package → Package) : State := { s with pkg := f s.pkg }

/-- What CTXCTL reads. -/
def State.setCtxctl (s : State) (c : Nat) (v : Byte) : State := s.onPkg fun p => { p with ctxctl := put 0#8 p.ctxctl c v }

/-- The address of a context's entry. -/
def State.entryAddr (s : State) (c : Nat) : Nat := s.pkg.ctxbase.toNat + 128 * c

/-- Set or clear the running bit of a context's entry. -/
def State.markRunning (s : State) (c : Nat) (on : Bool) : State :=
  let a := s.entryAddr c + 85
  s.device a [(s.byte a &&& 0xFD#8) ||| (if on then 2#8 else 0#8)]

/-! ## Out (R277, R320) -/

/-- Bytes that the spec leaves open. -/
def State.freeBytes (s : State) (n : Nat) : List Byte := ((List.range n).flatMap fun i => bytesOf 8 (Config.freeWord (s.free + i))).take n

/-- What a switch-out writes in the save area: its length, the records, the slack and the budgets of the instances, and the
rest in a form that the spec leaves open (R277, R320; DESIGN CHOICE, log 21). -/
def State.saveImage (s : State) (c : Nat) (slacks : List (Nat × Int)) : List Byte × State :=
  let records := (s.gangs.filter fun g => g.ctx == c).flatMap s.recordBytes
  let insts := s.dies.flatMap fun e => (e.2.insts.filter fun i => i.2.ctx == c).flatMap fun i =>
    ([((e.1 * 256 + i.1 : Nat) : Int), (look? slacks (e.1 * 256 + i.1)).getD 0, i.2.issue, i.2.array, i.2.copy]).flatMap fun n =>
      bytesOf 8 (BitVec.ofInt 64 n)
  let (n, t) := s.pick (2 ^ 20)
  let rest := t.freeBytes n
  (bytesN 8 (records.length + insts.length + n) ++ records ++ insts ++ rest, { t with free := t.free + n })

/-- Where a context's save area lies. -/
def State.saveAddr (s : State) (c : Nat) : Nat := (s.ctx c).save.toNat % 2 ^ 42

/-- Forget what the walkers and the TLBs hold of a context (R286, R320). -/
def State.untranslated (s : State) (c : Nat) : State :=
  { s with dies := s.dies.map fun e =>
    (e.1, { e.2 with walkCache := e.2.walkCache.filter fun q => q.1 % 512 / 8 != c
                     cores := e.2.cores.map fun k => (k.1, { k.2 with tlb := k.2.tlb.filter fun q => q.ctx != c })
                     clusterTlb := e.2.clusterTlb.map fun k => (k.1, k.2.filter fun q => q.ctx != c) }) }

/-- The clusters that a context's instances have fused are fused no more, their L1s empty (R236, R237). -/
def State.unfused (s : State) (c : Nat) : State :=
  let other := fun (x : Die) (slot : Nat) => ((look? x.insts slot).map fun i => i.ctx != c).getD false
  { s with dies := s.dies.map fun e => (e.1,
    { e.2 with fused := e.2.fused.filter fun f => other e.2 f.2
               cores := e.2.cores.map fun k =>
                 (k.1, if e.2.fused.any fun f => f.1 == e.2.cluster k.1 && !other e.2 f.2 then { k.2 with l1 := [] } else k.2) }) }

/-- A context is out: its image is in its save area, its pages are unpinned, its translations gone, its clusters fused no more, its instances'
slack kept (R150, R236, R277, R320; DESIGN CHOICE, log 21). -/
def State.switchedOut (s : State) (c : Nat) : State :=
  let slacks := s.dies.flatMap fun e => (e.2.insts.filter fun i => i.2.ctx == c).filterMap fun i =>
    i.2.deadline.map fun t => (e.1 * 256 + i.1, (t : Int) - s.dtc e.1)
  let t : State := { s with dies := s.dies.map fun e =>
    (e.1, { e.2 with insts := e.2.insts.map fun i => (i.1, if i.2.ctx = c then { i.2 with pinned := [] } else i.2) }) }
  let (image, u) := ((t.unfused c).untranslated c).saveImage c slacks
  (((u.device (u.saveAddr c) image).onCtx c fun x =>
    { x with run := 3, drainEnd := none, saved := slacks, image := image }).markRunning c false).setCtxctl c 0#8

/-! ## Reset (R278) -/

/-- The tasks of an instance and stage that are dispatched and not retired: those of gangs and of gangs
being gathered. -/
def State.tasksOf (s : State) (d slot stage : Nat) : List Nat :=
  (s.gangs.filter fun g => g.isOf (d, slot) && g.stage == stage).flatMap (·.taskNums)
  ++ (s.die d).cores.flatMap fun e => (e.2.gathers.filter fun q => q.inst == slot && q.stage == stage).flatMap fun q => q.recs.map Prod.fst

/-- End or re-queue the tasks of an instance of a context that is reset: those of IDEMPOTENT stages will be
dispatched again, the others end and their numbers are reported, stage by stage. Handler tasks that end are awaited no more (R270). -/
def State.resetInst (s : State) (d slot : Nat) (i : Inst) : State :=
  let stages := List.range i.nstages
  let again := fun (k : Nat) => ((i.stages[k]?).map fun st => st.flags.getLsbD 1).getD false
  let mine := fun (g : Gang) => g.isOf (d, slot)
  let numsOf := fun (k : Nat) => (s.tasksOf d slot k).eraseDups
  let s1 := (s.gangs.filter mine).foldl (fun (s : State) g => s.discard g.gid) s
  let s2 := (s.gangs.filter mine).foldl (fun (s : State) g => g.lanes.foldl (fun (s : State) e =>
      (s.groupsWith g.die ⟨g.inst, g.stage, e.2.num⟩).foldl (fun (s : State) id => s.leave id ⟨g.inst, g.stage, e.2.num⟩) s) s) s1
  let s3 := { s2 with gangs := s2.gangs.filter fun g => !mine g }
  let s4 := s3.onDie d fun x => { x with cores := x.cores.map fun e => (e.1, { e.2 with gathers := e.2.gathers.filter fun q => q.inst != slot }) }
  let traps := (s.gangs.filter fun g => mine g && !again g.stage).flatMap (fun g => g.lanes.map (·.2.trap))
    ++ (s.die d).cores.flatMap fun e => (e.2.gathers.filter fun q => q.inst == slot && !again q.stage).flatMap fun q => q.recs.map (·.2.trap)
  let s5 := s4.onInst d slot fun i =>
    traps.foldl (fun (i : Inst) t => if t then i.trapDone else i) <| stages.foldl (fun (i : Inst) k =>
      let back := if again k then (i.retained.filter fun e => e.1.1 == k && (numsOf k).contains e.1.2).map fun e => { e.2 with num := some e.1.2 } else []
      { i with queues := alter [] i.queues k (back ++ ·), inflight := put 0 i.inflight k 0 }) { i with wasReset := true }
  (stages.filter fun k => !again k).foldl (fun (t : State) k =>
    let nums := numsOf k
    if nums.isEmpty then t
    else
      let (a, u) := t.taskList d i.ctx nums
      let f : FaultInfo := ⟨codePreemptto, BitVec.ofNat 64 (i.ctx % 64), 0#64⟩
      u.reportList d slot i.ctx (k == i.handler) 0 f
        (recordWords f 2 k slot (nums.foldl min noTask) 0#32 0#32 0#64 0#64 0 0 0 (BitVec.ofNat 64 (a.getD 0)) nums.length) a
        (s.effectsOf (·.isOf (d, slot)))) s5

/-- Stop the engine commands of a context on a die where they stand: each is gone, with those that waited for room, and rows already written
stay. -/
def State.stopEngines (s : State) (d ctx : Nat) : State :=
  let command := fun (o : Out) => o.who.die == d && o.who.ctx == ctx && (match o.cargo with
    | .eff (.cpy _ _ _ _ _) | .eff (.macc _ _ _ _ _) | .eff (.qfence _) => true
    | _ => false)
  ({ s with drain := s.drain.filter fun o => !command o } : State).onDie d fun x => { x with cores := x.cores.map fun e =>
    (e.1, { e.2 with queues := e.2.queues.filter fun q => q.1 / 5 != ctx, copying := e.2.copying.filter fun q => q.1 / 5 != ctx,
                     evals := e.2.evals.filter fun v => v.who.ctx != ctx }) }

/-- Reset a context: its tasks stop on every die, and it is out until the host resumes it, as after a switch-out, which is over if one was
under way (R278, R294; DEDUCED, log 21). -/
def State.resetContext (s : State) (ctx : Nat) : State :=
  let insts := s.dies.flatMap fun e => (e.2.insts.filter fun i => i.2.ctx == ctx).map fun i => (e.1, i.1, i.2)
  let s1 := insts.foldl (fun (s : State) e => s.resetInst e.1 e.2.1 e.2.2) s
  let s2 := (s.dies.map Prod.fst).foldl (fun (s : State) d => s.stopEngines d ctx) s1
  if (s.ctx ctx).run = 0 || (s.ctx ctx).run = 3 then s2 else s2.switchedOut ctx

end Sys2Proof.Machine
end

