-- ==== Sys2Proof/Machine/Commit.lean ====
section
/-!
DEFINITION. FLIGHT_COMMIT: the checks at a flight's end, the order in which its held effects leave, the
splits, and the gang's continuation or parking (R45, R46, R127 to R137, R143 to R146, R159, R160, R168 to
R170, R239 to R241, R272, R293, R308).
-/

namespace Sys2Proof.Machine

/-! ## What leaves -/

/-- A held effect on its way out: its number, its epochs, its acts or the effect itself, and the lanes that it acts for. Effects of a
later epoch become visible after those of an earlier one; where an access to another package is one of the two, those of a later
fabric epoch (R327). -/
structure Item where
  seq : Nat
  ep : Nat
  epF : Nat
  rows : List (List Act)
  eff : Option Eff
  actors : List Nat

/-- All acts of an item; those of a later row of a graph store follow those of an earlier one (R194). -/
def Item.acts (t : Item) : List Act := t.rows.flatten

/-- The pattern of an element in a tensor's format, rounded once (R194). -/
def storeBits (fmt : Nat) (sat : Bool) (x : Num) : Nat :=
  if isInt fmt then (roundInteger fmt 0 x).1 else (roundFloat fmt 0 0 sat x).1

/-- Two INT4 elements of a byte, and the bits that they take of it: an element that is not stored keeps its nibble. -/
def nibbles (lo hi : Option Nat) : Byte × Byte :=
  (BitVec.ofNat 8 (lo.getD 0 % 16 + hi.getD 0 % 16 * 16), (if lo.isSome then 0x0F#8 else 0#8) ||| (if hi.isSome then 0xF0#8 else 0#8))

/-- The place of an address for a gang's graph store. -/
def State.mstLoc (s : State) (g : Gang) (a : DWord) : Option (Loc × Bool) :=
  match accumOff a with
  | some off => some (.acc (coreOf g.die g.inst g.core * 2 ^ 18 + off), false)
  | none => match (s.findNow g.die g.core g.inst g.ctx a 1).1 with
    | .at_ l tso => some (l, tso)
    | _ => none

/-- The bytes of one run of a graph store, from its column on, each with the bits that are stored of it. -/
def mstBytes (d : TDesc) (sat : Bool) (col : Nat) (xs : List Num) : List (Byte × Byte) :=
  if d.fmt = fINT4 then
    let pad := if d.colMajor then 0 else col % 2
    let bits := xs.map fun x => some (storeBits d.fmt sat x)
    let all := List.replicate pad none ++ bits
    (List.range ((all.length + 1) / 2)).map fun i => nibbles ((all[2 * i]?).join) ((all[2 * i + 1]?).join)
  else (xs.flatMap fun x => bytesN (elemBits d.fmt / 8) (storeBits d.fmt sat x)).map fun b => (b, 0xFF#8)

/-- Split bytes at an address where pages end, each with its place. -/
def State.placeBytes (s : State) (g : Gang) : Nat → DWord → List (Byte × Byte) → List Act
  | 0, _, _ => []
  | n + 1, a, bs =>
    if bs.isEmpty then []
    else
      let len := min bs.length (4096 - a.toNat % 4096)
      (match s.mstLoc g a with
       | some (l, tso) =>
         let w : Write := ⟨l, a, (bs.take len).map (·.1), tso⟩
         if (bs.take len).all fun b => b.2 == 0xFF#8 then [.write w] else [.merge w ((bs.take len).map (·.2))]
       | none => []) ++ s.placeBytes g n (a + BitVec.ofNat 64 len) (bs.drop len)

/-- The writes of a graph store, row by row (R194). -/
def State.mstActs (s : State) (g : Gang) (d : TDesc) (row col : Nat) (sat : Bool) (rows cols : Nat) (vals : List (Nat × List Num)) : List (List Act) :=
  (List.range rows).map fun i =>
    let xs := (List.range cols).map fun j => (stripAt vals i j).getD .nan
    if d.colMajor then
      (xs.zip (List.range cols)).flatMap fun e =>
        let a := d.addr (row + i) (col + e.2)
        s.placeBytes g 3 a (mstBytes d sat (col + e.2) [e.1])
    else
      let a := d.addr (row + i) col
      let bs := mstBytes d sat col xs
      s.placeBytes g (bs.length / 4096 + 3) a bs

/-- The acts of a held effect on memory. -/
def State.actsOf (s : State) (g : Gang) : Eff → List (List Act)
  | .store acc data => match g.acc? acc with
    | some a => [(a.parts.zip data).filterMap fun e => e.1.loc.map fun l => .write ⟨l, e.1.va, e.2, e.1.tso⟩]
    | none => []
  | .atomic minor _ _ acc data tag => match g.acc? acc with
    | some a => [(a.parts.zip data).filterMap fun e => e.1.loc.map fun l => .atom minor ⟨e.1.lane, l, e.1.va, e.2.1, e.2.2⟩ tag]
    | none => []
  | .mst d row col sat rows cols _ _ vals => s.mstActs g d row col sat rows cols vals
  | _ => []

/-- Whether a held effect touches a TSO page (R313). -/
def Gang.tsoEff (g : Gang) (e : Eff) (acts : List Act) : Bool :=
  (match e with
   | .atomic _ _ _ acc _ _ => ((g.acc? acc).map fun a => a.parts.any (·.tso)).getD false
   | _ => false)
  || acts.any fun a => match a with
    | .write w | .merge w _ => w.tso
    | .atom _ _ _ => false

/-- How an effect moves the epoch: before it and after it (R159, R160, R272, R275, R313), for every scope: what a die shows one agent
it shows all at that moment (R247, R248; DEDUCED, log 59). Nothing orders a launch on its
own die behind its flight's stores but the reading of its descriptor (R273, R305); one on another die follows them (R309). -/
def Eff.bumps (e : Eff) (tso : Bool) (own : Nat) : Nat × Nat :=
  match e with
  | .atomic _ order _ _ _ _ => (bit (tso || 2 ≤ order), bit (tso || order = 1 || order = 3))
  | .store _ _ | .mst _ _ _ _ _ _ _ _ _ => (bit tso, bit tso)
  | .fence _ => (1, 0)
  | .enq _ _ | .depsig _ => (1, 0)
  | .launch _ die _ => (bit (die != own), 0)
  | _ => (0, 0)

/-- Whether an effect orders accesses to other packages too: one with the fabric as its scope (R327, R328). -/
def Eff.ordersFabric : Eff → Bool
  | .atomic _ _ scope _ _ _ => scope == 5
  | .fence scope => scope == 5
  | _ => false

/-- The lanes for which a held effect acts on memory (R149). -/
def Gang.effActors (g : Gang) : Eff → List Nat
  | .store acc _ | .atomic _ _ _ acc _ _ => ((g.acc? acc).map Access.actors).getD []
  | .mst _ _ _ _ _ _ _ _ _ => g.lanes.map (·.1)
  | _ => []

/-- Whether an effect is on groups: the making of one, joins, leaves, and the end of tasks. -/
def Eff.onGroups : Eff → Bool
  | .gnew _ | .gjoin _ | .gleave _ | .ended _ => true
  | _ => false

/-- Effects that the commit itself performs, in program order: what retirement does in the core, bindings, and the control
core's. -/
def Eff.atCommit : Eff → Bool
  | .retire _ | .bind _ _ | .qseq _ _ | .cdrain _ _ | .cscan _ _ | .csig _ _ | .cmaprm _ | .cmapad _
  | .creset _ => true
  | _ => false

/-- The held effects that leave, with their epochs. A retirement's tasks end outside the core in the stream's order (R159). -/
def State.itemsOf (s : State) (g : Gang) : List Item :=
  (g.held.foldl (fun (acc : (Nat × Nat) × List Item) h =>
    let rows := s.actsOf g h.eff
    let tso := g.tsoEff h.eff rows.flatten
    let (b, a) := h.eff.bumps tso g.die
    let far := tso || h.eff.ordersFabric
    let ep := acc.1.1 + b
    let epF := acc.1.2 + if far then b else 0
    let item : List Item := match h.eff with
      | .store _ _ | .atomic _ _ _ _ _ _ | .mst _ _ _ _ _ _ _ _ _ => [⟨h.seq, ep, epF, rows, none, g.effActors h.eff⟩]
      | .fence _ => []
      | .retire lanes => [⟨h.seq, ep, epF, [], some (.ended (g.tasksIn lanes)), []⟩]
      | e => if e.atCommit then [] else [⟨h.seq, ep, epF, [], some e, []⟩]
    ((ep + a, epF + if far then a else 0), acc.2 ++ item)) ((0, 0), [])).2

/-- Whether an item is on another package's memory alone. -/
def Item.fabric (t : Item) : Bool := !t.acts.isEmpty && t.acts.all fun a => match a.loc with
  | .fabric _ _ => true
  | _ => false

/-- How many bytes an act touches. -/
def Act.len : Act → Nat
  | .write w | .merge w _ => w.bytes.length
  | .atom m _ _ => atomicSize m

/-- Whether two stretches of bytes meet. -/
def Loc.overlaps (l : Loc) (n : Nat) (k : Loc) (m : Nat) : Bool :=
  (match l.after k with
   | some i => decide (i < m)
   | none => false) ||
  (match k.after l with
   | some i => decide (i < n)
   | none => false)

def Act.overlaps (a b : Act) : Bool := a.loc.overlaps a.len b.loc b.len

/-- Cut an act of a store where a 64-byte line ends. -/
def cutWrite : Nat → Write → List Write
  | 0, w => [w]
  | n + 1, w =>
    let off := match w.loc with
      | .phys a => a % 64
      | .scratch _ a => a % 64
      | .acc a => a % 64
      | .fabric _ a => a % 64
    if off + w.bytes.length ≤ 64 then [w]
    else { w with bytes := w.bytes.take (64 - off) } ::
      cutWrite n ⟨w.loc.plus (64 - off), w.va + BitVec.ofNat 64 (64 - off), w.bytes.drop (64 - off), w.tso⟩

/-- The acts of one instruction, or of one row of a graph store, that leave together, in lane order: those of one line, or
of one word of another core's scratchpad (R152, R233). -/
def groupActs (as : List Act) : List (List Act) :=
  let cut := as.flatMap fun a => match a with
    | .write w => (cutWrite (w.bytes.length / 64 + 1) w).map Act.write
    | a => [a]
  cut.foldl (fun (m : List (List Act)) a =>
    match a.loc with
    | .scratch _ _ =>
      if m.any fun g => g.any (·.overlaps a) then m.map fun g => if g.any (·.overlaps a) then g ++ [a] else g else m ++ [[a]]
    | l =>
      if m.any fun g => (g.head?.map fun b => b.loc.line) == some l.line then
        m.map fun g => if (g.head?.map fun b => b.loc.line) == some l.line then g ++ [a] else g
      else m ++ [[a]]) []

/-- The numbers of earlier loads of the flight, still outstanding, that acts must follow: those of bytes that they meet, those of
the lanes that act, those of TSO pages, and all where the acts are on a TSO page (R56, R313). -/
def Gang.loadsBefore (g : Gang) (seq : Nat) (tso : Bool) (as : List Act) (actors : List Nat) : List Nat :=
  (g.reqs.filter fun q => decide (q.acc < seq) && (tso || q.tso || meet (q.parts.flatMap fun p => p.2.actors) actors || q.parts.any fun p => match p.1.loc with
    | some l => as.any fun a => a.loc.overlaps a.len l p.1.size
    | none => false)).map (·.acc)

/-- Whether acts are on a TSO page. -/
def tsoActs (as : List Act) : Bool := as.any fun a => match a with
  | .write w | .merge w _ => w.tso
  | .atom _ _ _ => false

/-- The bytes of a line that a list of items writes whole. -/
def coversLine (items : List Item) (line : Loc) : Bool :=
  (List.range 64).all fun i => items.any fun t => t.acts.any fun a => match a with
    | .write w => (line.plus i).overlaps 1 w.loc w.bytes.length
    | .merge _ _ | .atom _ _ _ => false

/-- The last item that writes in a line. -/
def lastOn (items : List Item) (line : Loc) : Nat :=
  (items.filter fun t => t.acts.any fun a => a.loc.overlaps a.len line 64).foldl (fun _ t => t.seq) 0

/-- Whether an item has its turn after one and before another: its epoch lies strictly between, or it is an engine's, which follows all
that stands before it in the stream, of an epoch before the other's (R160, R171). -/
def Item.between (u lo t : Item) : Bool :=
  (if u.fabric then decide (lo.epF < u.epF) && decide (u.epF < t.epF) else decide (lo.ep < u.ep) && decide (u.ep < t.ep))
  || (match u.eff with
      | some (.cpy _ _ _ _ _) | some (.qfence _) | some (.macc _ _ _ _ _) => decide (lo.seq < u.seq) && decide (u.ep < t.ep)
      | _ => false)

/-- The parts of the core's own batch: split only where another effect has its turn between. -/
def batches (core : Nat) (items : List Item) : List (List Item) :=
  let away := items.filter fun t => t.eff.isSome || t.acts.any fun a => !a.isLocal core
  let here := (items.map fun t => { t with rows := t.rows.map fun as => as.filter fun a => a.isLocal core }).filter fun t => !t.acts.isEmpty
  here.foldl (fun (m : List (List Item)) t =>
    match m.getLast? with
    | some b =>
      if away.any fun u => u.between (b.headD t) t then m ++ [[t]] else m.dropLast ++ [b ++ [t]]
    | none => [[t]]) []

/-- What must precede an item's part, which is on another package or not. -/
def before (items : List Item) (t : Item) (fabric : Bool) : List Nat :=
  (items.filter fun u => if fabric || u.fabric then decide (u.epF < t.epF) else decide (u.ep < t.ep)).map (·.seq)

/-- The effects of earlier commits of a core on its own scratchpad and accumulators that acts must follow: those of the same words
(R169). -/
def State.localBefore (s : State) (g : Gang) (as : List Act) : List Nat :=
  (s.drain.filter fun o => o.who.die == g.die && o.who.core == g.core && o.acts.any fun a => a.isLocal g.core && as.any (·.overlaps a)).flatMap (·.effs)

/-- The Outs of a flight's effects: the core's own batches, the effects on other homes, and the rest. -/
def State.outsOf (s : State) (g : Gang) : List Out × State :=
  let items := s.itemsOf g
  let w := g.who
  let vec := g.causal
  let late := s.behind g
  let corePast := (s.drain.filter fun o => o.who.die == g.die && o.who.core == g.core && o.who.flight != 0).flatMap (·.effs)
  let add := fun (acc : List Out × State) (effs after parts mates made : List Nat) (clears loose : Bool) (c : Cargo) =>
    let (id, t) := acc.2.fresh
    (acc.1 ++ [⟨id, effs, (late ++ after).eraseDups, w, false, clears, vec, c, parts, loose, mates, made⟩], t)
  let local_ := (batches g.core items).foldl (fun (acc : (List Out × State) × List Nat) b =>
      let away := items.filter fun t => t.eff.isSome || t.acts.any fun a => !a.isLocal g.core
      let seqs := b.map (·.seq)
      let loads := b.flatMap fun t => g.loadsBefore t.seq (tsoActs t.acts) t.acts t.actors
      let past := ((b.getLast?).map fun t => before away t false).getD []
      let acts := b.flatMap (·.acts)
      (add acc.1 seqs (past.filter (fun n => !seqs.contains n) ++ acc.2 ++ loads ++ s.localBefore g acts) acc.2 [] (b.flatMap (·.actors)).eraseDups
        false false (.acts acts), acc.2 ++ seqs))
    (([], s), [])
  let mem := items.foldl (fun acc t =>
      -- the rows of a graph store have numbers of their own, each after the earlier ones that it meets
      (t.rows.foldl (fun (acc : (List Out × State) × List (Nat × List Act)) row =>
        let far := row.filter fun a => !a.isLocal g.core
        let (n, u) := if t.rows.length ≤ 1 then (t.seq, acc.1.2) else acc.1.2.fresh
        ((groupActs far).foldl (fun (acc' : List Out × State) as =>
          let line := ((as.head?).map fun a => a.loc.line).getD (.acc 0)
          let whole := coversLine items line && lastOn items line = t.seq
          let same := (items.filter fun u => decide (u.seq < t.seq) && u.acts.any fun a => as.any (·.overlaps a)).map (·.seq)
          let rows := (acc.2.filter fun e => e.2.any fun a => as.any (·.overlaps a)).map (·.1)
          let all := if whole then (items.filter fun u => decide (u.seq < t.seq) && u.acts.any fun a => a.loc.overlaps a.len line 64).map (·.seq) else []
          let first := before items t (as.any fun a => match a.loc with
              | .fabric _ _ => true
              | _ => false)
          add acc' (if t.rows.length ≤ 1 then [t.seq] else [t.seq, n]) (first ++ same ++ all ++ rows ++ g.loadsBefore t.seq (tsoActs as) as t.actors) []
            ((same ++ all ++ rows).filter (!first.contains ·)) t.actors whole false (.acts as))
          (acc.1.1, u), if t.rows.length ≤ 1 then acc.2 else acc.2 ++ [(n, far)])) (acc, [])).1) local_.1
  (items.foldl (fun (acc : (List Out × State) × List Nat × List Nat) t =>
    match t.eff with
    | none => acc
    | some e =>
      let groups := if e.onGroups then acc.2.2 else []
      let engine := match e with
        | .cpy _ _ _ _ _ | .macc _ _ _ _ _ | .qfence _ => (items.filter fun u => decide (u.seq < t.seq)).map (·.seq) ++ corePast
        | _ => []
      (add acc.1 [t.seq] (before items t false ++ acc.2.1 ++ engine) groups [] [] false (e.onGroups && items.any fun u => !u.acts.isEmpty) (.eff e),
        acc.2.1 ++ [t.seq], if e.onGroups then acc.2.2 ++ [t.seq] else acc.2.2)) (mem, [], [])).1

/-! ## The checks before anything leaves (R240, R241, R275) -/

/-- A fault found at the commit: code, FAULTINFO, address, whether poison is consumed. -/
structure LateFault where
  code : Nat
  info : DWord
  pc : DWord
  poison : Bool

def LateFault.prot (reason : Nat) (id pc : DWord) : LateFault := ⟨codeProt, form3 reason id, pc, false⟩

/-- The fault of the use of a group identifier at the commit. -/
def State.groupLate (s : State) (g : Gang) (id pc : DWord) : Option LateFault :=
  match s.groupFault g id with
  | some n => some (.prot n id pc)
  | none => if ((s.group? id).map (·.failed)).getD false then some ⟨codePoison, form3 8 id, pc, true⟩ else none

/-- A lane's task. -/
def Who.task? (w : Who) (lane : Nat) : Option TaskId := ((w.lanes.zip w.tasks).find? fun e => e.1 == lane).map fun e => ⟨w.inst, w.stage, e.2⟩

/-- Change the groups that a task on a die knows itself in. -/
def State.taskGroups (s : State) (d : Nat) (t : TaskId) (f : List DWord → List DWord) : State :=
  let at_ := fun (g : Gang) => if g.die = d && g.inst = t.inst && g.stage = t.stage then
    { g with lanes := g.lanes.map fun e => if e.2.num = t.num then (e.1, { e.2 with groups := f e.2.groups }) else e } else g
  { s with gangs := s.gangs.map at_, cur := s.cur.map fun r => { r with gang := at_ r.gang } }

/-- Perform an effect on groups: their making, joins, leaves and what the end of tasks does to them (R239, R240). A group whose
maker is gone is free again. -/
def State.groupEff (s : State) (w : Who) (e : Eff) : State :=
  match e with
  | .gnew id => s.onDie (idDie id) fun x => { x with groups := alter? x.groups (groupSlot id) fun q =>
      { q with live := w.inst != nobody, reserved := false } }
  | .gjoin ps => ps.foldl (fun (s : State) p =>
      match w.task? p.1, s.group? p.2 with
      | some me, some q =>
        if q.members.contains me || w.inst = nobody then s
        else (s.setGroup p.2 { q with members := q.members ++ [me], progress := q.progress + 1#32 }).taskGroups w.die me (· ++ [p.2])
      | _, _ => s) s
  | .gleave ps => ps.foldl (fun (s : State) p =>
      match w.task? p.1 with
      | some me => (s.leave p.2 me).taskGroups w.die me (·.erase p.2)
      | none => s) s
  | .ended ts => s.endTasks w.die w.inst w.stage w.ctx ts
  | _ => s

/-- The faults that held effects show at the commit, each with the groups as the flight's earlier changes leave them; and the
groups at the flight's end (R240). -/
def State.heldLate (s : State) (g : Gang) : List Held → Option LateFault × State
  | [] => (none, s)
  | h :: hs =>
    let bad := match h.eff with
      | .gjoin ps | .gleave ps => (ps.foldl (fun (acc : Option LateFault × State) p =>
          if acc.1.isSome then acc
          else match acc.2.groupLate g p.2 h.pc with
            | some f => (some f, acc.2)
            | none => (none, acc.2.groupEff g.who (match h.eff with
                | .gjoin _ => .gjoin [p]
                | _ => .gleave [p]))) (none, s)).1
      | .depsig ps => (ps.find? fun p => idCtx p.1 != g.ctx).map fun p => .prot 3 p.1 h.pc
      | .deparm id _ _ => (s.armFault g.ctx id).map fun n => .prot n id h.pc
      | _ => none
    match bad with
    | some f => (some f, s)
    | none => (s.groupEff g.who (match h.eff with
        | .retire lanes => .ended (g.tasksIn lanes)
        | e => e)).heldLate g hs

/-- The members of a group among the gang's occupied lanes (R241). -/
def State.arriving (s : State) (g : Gang) (id : DWord) : List TaskId :=
  (g.lanes.map fun e => ⟨g.inst, g.stage, e.2.num⟩).filter fun t => ((s.group? id).map fun q => q.members.contains t).getD false

/-- The fault of the flight's end, with the groups as its own changes leave them. -/
def State.endLate (s : State) (g : Gang) : Option LateFault :=
  if g.wakeKind = 5 then
    match s.groupLate g g.wakeOp g.wakeOp2 with
    | some f => some f
    | none => if (s.arriving g g.wakeOp).isEmpty then some (.prot 4 g.wakeOp g.wakeOp2) else none
  else if g.wakeKind = 6 && idCtx g.wakeOp != g.ctx then some (.prot 3 g.wakeOp g.wakeOp2)
  else none

/-- Whether the path from a gang's core to a place has failed (R250, R306, R329). -/
def State.cutOff (s : State) (g : Gang) : Loc → Bool
  | .scratch c _ => c != g.core && s.clusterDown g.die g.core c
  | l => s.pathDown g.die l

/-- What is amiss at the addresses of a graph store by now: code, form and address. -/
def State.mstBad (s : State) (g : Gang) (d : TDesc) (row col rows cols : Nat) : Option (Nat × Nat × DWord) :=
  let ends := (List.range rows).flatMap fun i => (List.range cols).flatMap fun j =>
    let a := d.addr (row + i) (col + j)
    [a, a + BitVec.ofNat 64 (elemBits d.fmt / 8 - 1)]
  let pages := ends.foldl (fun (m : List DWord) a => if m.any fun b => b.toNat / 4096 == a.toNat / 4096 then m else m ++ [a]) []
  pages.findSome? fun a =>
    if (accumOff a).isSome then none
    else match (s.findNow g.die g.core g.inst g.ctx a 1).1 with
      | .at_ l _ => if s.cutOff g l then some (codeProt, 1, a) else none
      | .bad c f => some (c, f, a)
      | .miss _ => some (codePage, 0, a)

/-- The fault of a held store or atomic whose path has failed since it was placed, or of a graph store whose pages or paths are gone
(R250, R306, R329). -/
def State.latePath (s : State) (g : Gang) : Option LateFault :=
  g.held.findSome? fun h => match h.eff with
    | .store acc _ | .atomic _ _ _ acc _ _ => (g.acc? acc).bind fun a =>
        (a.parts.find? fun p => (p.loc.map (s.cutOff g)).getD false).map fun p => ⟨codeProt, partInfo a.kind 1 p, a.pc, false⟩
    | .mst d row col _ rows cols _ _ _ => (s.mstBad g d row col rows cols).map fun f => ⟨f.1, accessInfo f.2.1 true 0 f.2.2, h.pc, f.1 == codePoison⟩
    | _ => none

/-- The fault that a commit finds before anything leaves. -/
def State.lateFault (s : State) (g : Gang) : Option LateFault :=
  match s.latePath g with
  | some f => some f
  | none => match s.heldLate g g.held with
    | (some f, _) => some f
    | (none, t) => t.endLate g

/-! ## Splits (R45, R46, R53, R180) -/

/-- FLIGHTID with a count and the lowest slice (R53). -/
def flightIdOf (old : DWord) (count low : Nat) : DWord := BitVec.ofNat 64 (field old 32 32 * 2 ^ 32 + low % 8 * 2 ^ 29 + count % 2 ^ 29)

/-- A destination restricted to lanes. -/
def Dest.keep (d : Dest) (lane : Nat → Bool) : Dest := { d with keys := d.keys.filter fun k => lane (if d.vec then k % 32 else k / 32 * 4) }

/-- The pending results and requests of some lanes alone. -/
def Gang.keepLanes (g : Gang) (sl : Byte) : Gang :=
  let lane := fun (l : Nat) => sl.getLsbD (l / 4)
  { g with
    lanes := g.lanes.filter fun e => lane e.1
    pend := g.pend.map fun p => { p with lanes := p.lanes.filter lane }
    reqs := (g.reqs.map fun q => { q with parts := (q.parts.map fun p => (p.1, p.2.keep lane)).filter fun p => !p.2.keys.isEmpty }).filter
      fun q => !q.parts.isEmpty }

/-- The sub-gangs that a flight ends in: itself, or one for each next address, the lowest slice first. Each
pushes the splitting set, and the bracket ends (R45, R46, R50). -/
def Gang.parts (g : Gang) : List Gang :=
  match groupByAddr g.nexts with
  | a :: b :: rest =>
    (a :: b :: rest).map fun q =>
      let sl := q.2.foldl (fun (m : Byte) k => m ||| (1#8 <<< k)) 0#8
      let x := g.arch.restrict (sl &&& g.arch.slices)
      let y : Arch := { x with pc := q.1, bracket := false, split := x.slicesList.foldl (fun m k => put [] m k (g.arch.slices :: look [] m k)) x.split,
                               flightid := flightIdOf x.flightid (field x.flightid 0 29) x.lowSlice }
      { g.keepLanes sl with arch := y, nexts := [] }
  | _ => [{ g with nexts := [] }]

/-! ## Effects of the commit itself -/

/-- A scalar answer to all slices of the gangs that await a tag. -/
def State.answerScalar (s : State) (tag : Nat) (x : DWord) : State :=
  s.deliver tag fun p => { p with left := p.left - 1, vals := p.vals ++ (List.range 8).map fun k => ⟨false, k * 32 + p.reg, x, none⟩ }

/-- The records that cannot leave a core that is removed are contained (R295). -/
def State.containPinned (s : State) (d core : Nat) : State :=
  ((s.gangs.filter fun g => g.die == d && g.core == core && g.ctx != firmware && !g.movable)).foldl
    (fun (s : State) g => if (s.gang? g.gid).isSome then s.containGang g ⟨codePoison, 0#64, 0#64⟩ else s) s

/-- Perform an effect of the commit itself. -/
def State.commitEff (s : State) (g : Gang) (e : Eff) : State :=
  let d := g.die
  match e with
  | .retire lanes => s.vacate g.gid lanes
  | .bind k desc =>
    -- the other dies bind it once they have seen what this commit follows (R176, R309)
    ([0, 1, 2, 3].filter (· != d)).foldl (fun (s : State) e =>
      let (n, t) := s.fresh
      { t with drain := t.drain ++ [⟨n, [], [], { g.who with die := e, inst := nobody, root := 0, lanes := [], flight := 0 }, true, false, g.causal,
          .eff (.bind k desc), [], false, [], []⟩] })
      (s.onCtx g.ctx fun c => { c with tensors := put? c.tensors (d * 256 + k) desc })
  | .qseq q tag => s.answerScalar tag (BitVec.ofNat 64 (bit (s.errored d g.inst g.core q) * 2 ^ 63 + ((s.core d g.core).doneSeq g.ctx q).toNat))
  | .cdrain core tag =>
    if ((s.die d).site? core).isNone then s.answerScalar tag 1#64
    else match (s.core d core).scan with
      | 0 => s.onCore d core fun c => { c with scan := 1, drainAt := some s.time, drainTags := [tag] }
      | 1 => s.onCore d core fun c => { c with drainTags := c.drainTags ++ [tag] }
      | _ => s.answerScalar tag 0#64
  | .cscan core tag =>
    if (s.core d core).scan != 2 then s.answerScalar tag 2#64
    else s.onCore d core fun c => { c with scan := 3, drainAt := some s.time, scanTag := some (g.gid, tag), scanned := false }
  | .cmaprm a =>
    let core := field a 0 7
    (s.containPinned d core).onDie d fun x => { x with coremap := erase x.coremap core }
  | .cmapad a => (s.onDie d fun x => { x with coremap := put? x.coremap (field a 0 7) (some (field a 8 8)) }).onCore d (field a 0 7) fun c =>
      { c with scan := 0 }
  | .creset c => s.resetContext c
  | _ => s

/-- A MACC, or a follow-on, enters the matrix queue with the next issue sequence, to be performed after
some effects (R195, R204). -/
def State.queueEval (s : State) (w : Who) (node : Nat) (after : List Nat) (kind : Nat → EKind) : State :=
  let (n, s1) := s.nextSeq w.die w.core w.ctx 4
  let (id, s2) := s1.fresh
  s2.onCore w.die w.core fun c =>
    let v := { Eval.fresh id 0 w 0#64 0 node (kind n) with after := after }
    ({ c with evals := c.evals ++ [v] } : Core).setQueue w.ctx 4 (c.queue w.ctx 4 ++ [.eval id])

/-- A MACC enters the matrix queue, if its instance is there still (R195). -/
def State.enterMacc (s : State) (w : Who) (after : List Nat) : Eff → State
  | .macc node slot i32 sat ctr => if (s.inst? w.die w.inst).isNone then s else s.queueEval w node after fun n => .macc n slot i32 sat ctr
  | _ => s

/-- What a commit puts into queue 4 at once, in program order: MACCs, and the part of joins (R195, R198). A MACC leaves the drain. -/
def State.enterArray (s : State) (outs : List Out) : State :=
  outs.foldl (fun (s : State) o => match o.cargo with
    | .eff (.macc node slot i32 sat ctr) =>
      let t := s.enterMacc o.who o.after (.macc node slot i32 sat ctr)
      { t with drain := t.drain.filter fun q => q.id != o.id }
    | .eff (.qfence mask) =>
      if mask.testBit 4 then s.onCore o.who.die o.who.core fun c => c.setQueue o.who.ctx 4 (c.queue o.who.ctx 4 ++ [.join o.id mask 0]) else s
    | _ => s) s

/-- Whether one effect lies on the line of another. -/
def Out.sameLine (o q : Out) : Bool := (o.acts.head?).map (fun a => a.loc.line) == (q.acts.head?).map fun a => a.loc.line

/-- The effects of a commit that one causal message takes, in program order: those on other dies' memory and on lines that have replicas,
where all that must be visible before them is, or goes before them in the message to the same home (R170, R308). -/
def State.together (s : State) (g : Gang) (outs : List Out) : List Out :=
  outs.foldl (fun (sel : List Out) o =>
    let goes := (o.away?.isSome && (match (o.acts.head?).map Act.loc with
      | some l => !s.pathDown g.die l
      | none => false)) || s.replicated o
    let ready := o.after.all fun n => !s.outstanding n ||
      (o.mates.contains n && s.drain.all fun q => !q.effs.contains n || !q.sameLine o || sel.any fun p => p.id == q.id)
    if !o.acts.isEmpty && goes && ready && !s.heldUp o then sel ++ [o] else sel) []

/-- Send the Outs of a commit: the core's own batch that waits for nothing is performed with the commit (R169), and one causal
message takes what goes to other dies (R308). -/
def State.release_ (s : State) (g : Gang) : State :=
  let (outs, t) := s.outsOf g
  let u := ({ t with drain := t.drain ++ outs } : State).enterArray outs
  let v := outs.foldl (fun (u : State) o =>
    if o.acts.all (fun a => a.isLocal g.core) && !o.acts.isEmpty && u.free? o && !u.heldUp o then u.sendOut o else u) u
  v.sendTogether g.who g.causal (v.together g outs)

/-! ## Rendezvous (R47, R50, R180) -/

/-- The slices of a task gang that still hold tasks. -/
def State.slicesHeld (s : State) (g : Gang) : Byte :=
  (s.gangs.filter fun h => h.root == g.root).foldl (fun m h => m ||| h.arch.slices) 0#8

/-- What a gang parked at a REGANG or ALLON waits on: the kind, the slice set, token, header, call depth. -/
def State.meetKey (s : State) (g : Gang) : Option (Nat × Byte × DWord × DWord × Nat) :=
  if g.phase != .parked || g.woken then none
  else match g.wakeKind with
    | 3 => g.arch.rendezvous.map fun w => (3, w &&& s.slicesHeld g, g.wakeOp2 &&& 0xFFF#64, g.wakeOp, g.arch.depth)
    | 4 => some (4, s.slicesHeld g, 0#64, g.wakeOp, g.arch.depth)
    | _ => none

/-- The sub-gangs parked on a gang's key, the lowest slice first. -/
def State.meeting (s : State) (g : Gang) : List Gang :=
  match s.meetKey g with
  | none => []
  | some k =>
    (s.gangs.filter fun h => h.root == g.root && s.meetKey h == some k).mergeSort
      fun a b => a.arch.lowSlice ≤ b.arch.lowSlice

/-- Two maps in one; an entry of the first stands. -/
def union? {α : Type} (a b : List (Nat × α)) : List (Nat × α) :=
  b.foldl (fun m e => if (look? m e.1).isSome then m else put? m e.1 (some e.2)) a

/-- The registers and masks of two parts in one, `a` holding the lower slices. -/
def Arch.join (a b : Arch) : Arch :=
  { a with
    slices := a.slices ||| b.slices, occ := a.occ ||| b.occ, exec := a.exec ||| b.exec
    v := union? a.v b.v, s := union? a.s b.s
    p := b.p.foldl (fun m e => put 0#32 m e.1 (look 0#32 m e.1 ||| e.2)) a.p
    rstack := union? a.rstack b.rstack, split := union? a.split b.split, sigval := union? a.sigval b.sigval
    fpctl := union? a.fpctl b.fpctl, fpstat := union? a.fpstat b.fpstat, poison := union? a.poison b.poison
    flightid := flightIdOf a.flightid (max (field a.flightid 0 29) (field b.flightid 0 29)) a.lowSlice
    bracket := a.bracket && b.bracket
    vlive := a.vlive ||| b.vlive, slive := a.slive ||| b.slive, plive := a.plive ||| b.plive, nlive := a.nlive ||| b.nlive }

/-- Two parts of a task gang in one; their results are delivered first. -/
def Gang.join (a b : Gang) : Gang :=
  { a with arch := a.arch.join b.arch, lanes := a.lanes ++ b.lanes, ackScope := max a.ackScope b.ackScope,
           fenced := a.fenced || b.fenced, slack := min a.slack b.slack, pathFault := a.pathFault.or b.pathFault,
           causal := mergeVec a.causal b.causal, owes := (a.owes ++ b.owes).eraseDups, fetchFrom := min a.fetchFrom b.fetchFrom, lost := max a.lost b.lost }

/-- The state of a merged gang: one entry popped from each split stack, or after ALLON all of them, the mask
saved in each slice, every lane executing, the bracket begun. -/
def Gang.merged (g : Gang) : Gang :=
  let a := g.arch
  let b := if g.wakeKind = 3 then { a with split := a.slicesList.foldl (fun m k => put [] m k (look [] m k).tail) a.split }
    else
      let c := a.slicesList.foldl (fun (x : Arch) k => x.sset k g.allonD (zext64 a.exec)) a
      { c with split := [], exec := a.occ, bracket := true }
  { g with arch := b, woken := true, wakeKind := 0, wakeOp := 0#64, wakeOp2 := 0#64 }

/-- Merge the sub-gangs on a gang's key where they hold every slice of it; the one that comes last may be on its port yet. The
merged gang goes on as the part with the lowest slice: on its core and die, where RECORD_MOVE took the parts to different ones,
and a resident part's port number stays even where that port was another core's (R47; DESIGN CHOICE, log 76). -/
def State.tryMerge (s : State) (gid : Nat) : State :=
  match (s.gang? gid).bind fun g => (s.meetKey g).map fun k => (s.meeting g, k.2.1) with
  | some (p :: ps, w) =>
    let parts := p :: ps
    if parts.all (fun h => h.pend.all (·.complete) && (s.recordWants h).isEmpty) && w &&& ~~~(parts.foldl (fun m h => m ||| h.arch.slices) 0#8) = 0#8 then
      match parts.findSome? fun h => match s.readBack h with
          | .inr f => some (h, f)
          | .inl _ => none with
      | some (h, f) => s.takeFault h.gid f true 0#64 0
      | none =>
        let back := fun (h : Gang) => match s.readBack h with
          | .inl k => k.leavePort.deliverAll
          | .inr _ => h
        let all := ((ps.map back).foldl Gang.join (back p)).merged
        let m := match parts.find? (·.resident) with
          | some h => { all with place := h.place, granted := h.granted, pair := h.pair }
          | none => all
        let t := ps.foldl (fun (s : State) h => s.dropGang h.gid) s
        (t.putGang m).sweep m.die m.core
    else s
  | _ => s

/-- WAKEOP2 of a record that waits at a REGANG or ALLON holds the slice set as it is now (R133). -/
def State.noteSet (s : State) (g : Gang) : Gang :=
  match s.meetKey g with
  | some (3, w, token, _, _) => { g with wakeOp2 := token ||| ((w.setWidth 64) <<< 12) }
  | some (_, w, _, _, _) => { g with wakeOp2 := w.setWidth 64 }
  | none => g

/-! ## Parking and going on -/

/-- Count the arrival of a gang's members at the barrier where it waits; a gang whose group is gone waits no longer
(R241; DESIGN CHOICE, log 85). -/
def State.arrive (s : State) (g : Gang) : State :=
  match s.group? g.wakeOp with
  | none => s.putGang { g with hit := true, woken := true }
  | some q =>
    if q.failed then s.containGang g ⟨codePoison, form3 8 g.wakeOp, g.arch.pc⟩
    else
    let new := (s.arriving g g.wakeOp).filter fun m => !q.arrived.contains m
    let t := s.putGang { g with hit := true, wakeOp2 := BitVec.ofNat 64 q.generation }
    (t.setGroup g.wakeOp { q with arrived := q.arrived ++ new, progress := q.progress + 1#32 }).groupCheck g.wakeOp

/-- Put a part of the gang where it belongs after the commit: parked, its wake object looked up (R129, R130). WAKEOP2 of a barrier
where it is not counted yet is all ones, which no generation is (R133; DESIGN CHOICE, log 78). -/
def State.parkPart (s : State) (g : Gang) : State :=
  let h := { g with phase := .parked, slack := s.slackOf g, hit := false, woken := false, since := none, anchor := if g.ctx = firmware && g.handler then g.anchor else g.arch,
                    accs := g.accs.filter fun a => a.kind == .watch || g.reqs.any fun q => q.acc == a.id }
  match g.wakeKind with
  | 2 =>
    -- the word is read at once where nothing of the gang's is on its way
    match h.watched with
    | some l =>
      if s.mayWatch h l && !l.elsewhere && s.wakeHas h l then
        (s.pinFor h.die h.inst l).putGang { h with woken := true, causal := mergeVec g.causal (s.watchVec h l) }
      else (s.pinFor h.die h.inst l).putGang h
    | none => s.putGang h
  | 3 => s.putGang { h with woken := (g.arch.rendezvous).isNone }
  | 5 =>
    let k := { h with wakeOp2 := 0xFFFFFFFFFFFFFFFF#64 }
    if s.underway g false then s.putGang k else (s.putGang k).arrive k
  | 6 => s.putGang { h with wakeOp2 := 0#64, woken := s.wakesNow h, causal := if s.wakesNow h then mergeVec g.causal (s.vector (idDie g.wakeOp)) else g.causal }
  | 7 => s.putGang { h with woken := s.wakesNow h }
  | 10 =>
    let (tag, t) := s.request g.die 5 g.ctx g.wakeOp 0#64 none
    t.putGang { h with wakeOp2 := BitVec.ofNat 64 tag }
  | _ => s.putGang h

/-- Whether a gang may keep the port that it is on: a merged one with the registers that it needs, a paired one with a second port that
is fit, or another that is (R144, R145). -/
def State.stays (s : State) (g : Gang) : Option Nat :=
  match g.place with
  | .port p =>
    let room := decide (s.needBytes g - s.gangBytes g ≤ s.portFree g.die g.core p)
    let second := !s.paired g.die g.inst g.stage || (s.secondPort g p).isSome
    if !g.preempt && second && s.eligible g && g.wakeKind != 10 && (s.mayTake g).contains p && decide ((s.core g.die g.core).scan = 0) && room then some p else none
  | _ => none

/-- Whether a gang at a barrier waits on its port until its arrival is counted (R241). -/
def State.toArrive (s : State) (g : Gang) : Bool :=
  g.wakeKind == 5 && !g.hit && !g.woken && !g.preempt && s.underway g false && decide ((s.core g.die g.core).scan = 0) && !s.heldBack g

/-- Go on in place where the gang can, else leave the port (R129). -/
def State.settlePart (s : State) (gid : Nat) : State :=
  match s.gang? gid with
  | none => s
  | some g =>
    match s.stays g with
    | some p => s.beginFlight g p
    | none => if g.resident && g.phase == .parked && !s.toArrive g then s.putGang g.leavePort else s

/-- Put the sub-gangs of a split in the gang's place: the first keeps its number and port. -/
def State.splitInto (s : State) (gid : Nat) : List Gang → State × List Nat
  | [] => (s, [])
  | p :: rest =>
    let s1 := (s.putGang p).parkPart p
    let (s2, ids) := rest.foldl (fun (acc : State × List Nat) q =>
      let (n, t) := acc.1.fresh
      let h := { q.leavePort with gid := n }
      (({ t with gangs := t.gangs ++ [h] } : State).parkPart h, acc.2 ++ [n])) (s1, [gid])
    (s2, ids)

/-! ## The commit -/

/-- RECSIZE or LANDOVF at a flight's end (R136, R137): a record beyond what its stage declares, or records for which neither the
Landing nor the spill area has room (DEDUCED, log 43). -/
def State.checkRecord (s : State) (g : Gang) : Option FaultInfo :=
  if g.ctx = firmware then none
  else
    let declared := ((s.stage? g).map (·.record)).getD 11264
    match (g.parts.map (·.sizeAfter)).find? fun n => decide (declared < n) with
    | some n => some ⟨codeRecsize, BitVec.ofNat 64 (n % 65536 + declared * 65536), g.arch.pc⟩
    | none =>
      let parts := (g.parts.zip (List.range g.parts.length)).map fun e => { e.1.leavePort with gid := if e.2 = 0 then g.gid else s.nextId + e.2, phase := .parked }
      let t : State := { s with gangs := s.gangs.filter (fun h => h.gid != g.gid) ++ parts }
      if t.landingFits g.die g.core then none else some ⟨codeLandovf, BitVec.ofNat 64 (g.ctx % 64), g.arch.pc⟩

/-- What the outstanding loads of a flight that commits still see of its own stores (R56). -/
def State.forwards (s : State) (g : Gang) : List (Nat × Loc × List (Option Byte)) :=
  if g.reqs.isEmpty then []
  else g.held.flatMap fun h => ((s.actsOf g h.eff).flatten).map fun a => match h.eff, a with
    | .store _ _, .write w => (h.seq, w.loc, w.bytes.map some)
    | _, a => (h.seq, a.loc, List.replicate a.len none)

/-- A commit takes what follows a flight's own end: the loads still outstanding follow its earlier stores and atomics of their
bytes. -/
def State.afterOwn (s : State) (g : Gang) : List Req :=
  if g.reqs.isEmpty then []
  else
    let acts := g.held.map fun h => (h.seq, (s.actsOf g h.eff).flatten)
    let meets := fun (q : Req) (x : Act) => q.parts.any fun p => match p.1.loc with
      | some l => l.overlaps p.1.size x.loc x.len
      | none => false
    g.reqs.map fun q => { q with after := q.after ++ ((acts.filter fun e => decide (e.1 < q.acc) && e.2.any (meets q)).map (·.1)) }

/-- The parts of a task gang that stand on ports with nothing to run. -/
def State.standing (s : State) (root : Nat) : List Nat := (s.gangs.filter fun g => g.root == root && g.phase == .parked && g.resident).map (·.gid)

/-- Commit a flight whose checks have passed (R129). -/
def State.commit (s : State) (g : Gang) : State :=
  let h := { g with causal := mergeVec g.causal (s.vector g.die), reqs := s.afterOwn g, fwd := s.forwards g }
  let s1 := (s.putGang h).release_ h
  -- what takes effect on another die with the commit follows the commit's own message (R309)
  let sent := { h with causal := ((s1.gang? h.gid).map (·.causal)).getD h.causal }
  let s3 := h.held.foldl (fun (s : State) e => if e.eff.atCommit then s.commitEff sent e.eff else s) s1
  let s4 := (match h.sigPort with
    | some p => if h.sigMoved then s3.countPort h.die h.core p else s3
    | none => s3).onCore h.die h.core fun c =>
      { c with nodes := h.made.foldl (fun (m : List (Nat × Node)) (e : Nat × List Nat × BitVec 7) => alter? m e.1 fun x => { x with base := x.base ||| e.2.2 }) c.nodes }
  let s4 := s4.noteSample g false
  match s4.gang? g.gid with
  | none => s4.sweep g.die g.core
  | some k =>
    let a := { k.arch with flightid := flightIdOf k.arch.flightid (field k.arch.flightid 0 29 + 1) k.arch.lowSlice }
    let k1 := { k with arch := a, held := [], appends := [], gresv := [], cresv := [], binds := [], evals := [], made := [], autos := [], used := [],
                       owes := (s4.drain.filter fun o => o.who.die == k.die && o.who.core == k.core).flatMap (·.effs),
                       sigPort := none, sigPorts := [], sigMoved := false, parity := [], nexts := k.nexts.filter fun e => a.slices.getLsbD e.1 }
    if k.wakeKind = 11 then
      -- ERET: the faulted flight replays, once the handler's commit is acknowledged where its clause asks for that (R28, R293)
      let x := { k1.fromHandler with pend := [], accs := [], reqs := [], fwd := [], flight := 0, wakeKind := 0, spent := 0, spent2 := 0, spent3 := 0,
                                       fetchFrom := if k1.fenced then s4.olds.length else k1.fetchFrom }
      let (n, t) := (s4.putGang x).fresh
      let x := { x with flight := n, wakeOp := 0#64, wakeOp2 := 0#64, woken := false }
      let y := if s4.acked x then { x with ackScope := 0, fenced := false } else { x.leavePort with phase := .parked, wakeKind := 1 }
      (t.putGang y).sweep g.die g.core
    else
      let (s5, ids) := (s4.putGang k1).splitInto g.gid k1.parts
      let s6 := ids.foldl State.tryMerge s5
      ((s6.standing k1.root).foldl State.settlePart s6).sweep g.die g.core

/-- Move a gang whose flight will replay to another port, without a service (R143, R146). R146 gives its record no wake kind: it has that
of the other replays, FAULTSVC, with WAKEOP 0 (DESIGN CHOICE, log 71). -/
def Gang.toOtherPort (g : Gang) (port : Nat) (slack : Int) : Gang :=
  { g.leavePort with sigPorts := (port :: g.sigPorts).eraseDups, slack := slack, phase := .parked, wakeKind := 9, wakeOp := 0#64, wakeOp2 := 0#64, woken := true, ackScope := 0 }

/-- A parity error replays the flight; the third on one port counts once against it and moves the flight (R146). A flight that has left
its port since had the error on the port where it ran. -/
def State.parityReplay (s : State) (g : Gang) : State :=
  if g.ctx = firmware && g.handler then s.takeFault g.gid ⟨0, 0#64, g.arch.pc⟩ false 0#64 0
  else
    let port := g.runPorts.headD 0
    let t := ((s.countCore g.die g.core 0x100).discard g.gid).onGang g.gid fun h => { h with parity := port :: h.parity }
    if g.parity.count port = 2 then
      (t.countPort g.die g.core port).onGang g.gid fun h =>
        if ((s.die g.die).portsOf g.core).all (· == port) then h else h.toOtherPort port (s.slackOf g)
    else t

/-- Charge one more run of a paired flight, at a third port's cycles (R145, R269; DESIGN CHOICE, log 54). -/
def State.chargeRun (s : State) (g : Gang) : State := if g.ctx = firmware then s else s.charge g.die g.inst g.stage 0 g.taskNums g.spent3

/-- The flight's end after its evaluations: the comparison of paired runs, the checks, the commit (R129,
R145). -/
def State.flightEnd (s : State) (g : Gang) (upset : Upset) : State :=
  let go := fun (s : State) =>
    match s.gang? g.gid with
    | none => s
    | some g =>
      match s.readBack g with
      | .inr f => s.takeFault g.gid f true 0#64 0
      | .inl _ =>
        let g := if g.resident then g else { g with place := .landing, anchorAt := none }
        let s := s.putGang g
        match g.pathFault with
        | some a => (s.putGang { g with pathFault := none }).takeFault g.gid ⟨codeProt, accessInfo 2 true 0 a, g.arch.pc⟩ false 0#64 0
        | none =>
          match s.lateFault g with
          | some f => s.takeFault g.gid ⟨f.code, f.info, f.pc⟩ f.poison 0#64 0
          | none =>
            match s.checkRecord g with
            | some f => s.takeFault g.gid f false 0#64 0
            | none => s.commit g
  match upset with
  | .clean => go s
  | .parity => s.parityReplay g
  | .pairFix p =>
    let words := recordWords ⟨codePairfix, BitVec.ofNat 64 (p % 16), 0#64⟩ 4 g.stage g.inst g.lowTask g.arch.occ g.arch.exec
      g.arch.flightid 0#64 0 0 0 0#64 (s.dtc g.die % 2 ^ 32)
    go (((s.countError g.die codePairfix).toHost g.ctx words).chargeRun g)
  | .pairNone p q r =>
    let s1 := [p, q, r].foldl (fun (s : State) k => s.countPort g.die g.core k) s
    (s1.chargeRun g).takeFault g.gid ⟨codePairnomaj, BitVec.ofNat 64 (p % 16 + q % 16 * 16 + r % 16 * 256), g.arch.pc⟩ false 0#64 0

/-- Whether an effect of an earlier flight of the gang waits for room in a queue or window: the gang does not
wait for that (R168, R268). -/
def State.waitsForRoom (s : State) (g : Gang) : Bool :=
  s.drain.any fun o => o.who.root == g.root && (s.stuck o || (s.free? o && s.heldUp o))

/-- Whether a flight that has ended can commit: its accesses are placed, its evaluations done, the
effects of its earlier flights performed, but for accesses to other packages, and what followed from them seen here, and its die may
send (R129, R153, R168, R308, R310, R327). While its evaluations run the gang keeps its port until PREEMPT_GANG takes it off (DESIGN CHOICE, log 34: the spec lets it
leave). -/
def State.mayCommit (s : State) (g : Gang) : Bool :=
  g.phase == .ending && (s.recordWants g).isEmpty && g.accs.all (·.ready) && (!s.underway g false || s.waitsForRoom g) && !s.forcing g && s.covers g.die g.causal && s.maySend g.die

/-- FLIGHT_COMMIT (R129). Outcomes of the comparison of paired runs are for stages with PAIR, and name ports that ran the flight
(R145). -/
def execFlightCommit (gid : Nat) (upset : Upset) (s : State) : Res :=
  match s.gang? gid with
  | none => .fault (.notEnabled "FLIGHT_COMMIT")
  | some g =>
    let ports := g.runPorts ++ (s.thirdPort g).toList
    let pairs := s.paired g.die g.inst g.stage && g.ctx != firmware && ports.length == 3
    let fits := match upset with
      | .clean | .parity => true
      | .pairFix p => pairs && ports.contains p
      | .pairNone p q r => pairs && ports == [p, q, r]
    if s.cur.isNone && s.mayCommit g && fits then .next (s.flightEnd g upset) else .fault (.notEnabled "FLIGHT_COMMIT")

end Sys2Proof.Machine
end

