-- ==== Sys2Proof/Machine/Settle.lean ====
section
/-!
DEFINITION. What follows from a step at once: held effects enter queues and windows, joins are reached, a
rendezvous merges its sub-gangs, loads ask for lines, instances end, and records reach the host
(R47, R50, R163, R168, R180, R268, R270, R276, R292, R307, R309, R317).
-/

namespace Sys2Proof.Machine

/-! ## Effects that enter queues (R162, R168, R268, R271 to R275) -/

/-- The die on which an effect takes place. -/
def Eff.target (e : Eff) (own : Nat) : Nat :=
  match e with
  | .launch _ die _ => die
  | .depsig ps => (ps.head?.map fun p => idDie p.1).getD own
  | .deparm id _ _ => idDie id
  | _ => own

/-- The die on which an effect of an owner takes place: an enqueue goes to the die of its instance (R272). -/
def Eff.goes (e : Eff) (w : Who) : Nat :=
  match e with
  | .enq _ _ => (homeInst w.die w.inst).1
  | e => e.target w.die

/-- The signals of a DEPSIG apart for each die. -/
def signalsByDie (ps : List (DWord × Nat)) : List (List (DWord × Nat)) :=
  ([0, 1, 2, 3].map fun d => ps.filter fun p => idDie p.1 == d).filter fun l => !l.isEmpty

/-- An effect leaves, with its die's vector as it is then (R309). -/
def State.leaveCore (s : State) (o : Out) (e : Eff) : State :=
  let v := mergeVec o.vec (s.vector o.who.die)
  let parts := match e with
    | .depsig ps => (signalsByDie ps).map Eff.depsig
    | e => [e]
  match parts with
  | [] => s.dropOut o.id
  | a :: rest =>
    let s1 := { s with drain := s.drain.map fun q => if q.id = o.id then { q with sent := true, vec := v, cargo := .eff a } else q }
    rest.foldl (fun (s : State) b =>
      let (n, t) := s.fresh
      { t with drain := t.drain ++ [{ o with id := n, sent := true, vec := v, cargo := .eff b }] }) s1

/-- Deliver an issue sequence to the slice that issued a copy (R165). -/
def State.deliverSeq (s : State) (tag slice n : Nat) : State :=
  s.deliver tag fun p =>
    { p with lanes := p.lanes.erase (4 * slice), vals := p.vals ++ [⟨false, slice * 32 + p.reg, BitVec.ofNat 64 n, none⟩] }

/-- Bind an identifier as another die has (R176, R309). -/
def State.bindHere (s : State) (e ctx k : Nat) (desc : Option TDesc) : State :=
  s.onCtx ctx fun c => { c with tensors := put? c.tensors (e * 256 + k) desc }

/-- Enter an effect where it goes; signals wait for their decrement. What a join has of queue 4 stands there since the commit; where it
is gone, with its context's commands, the join is. Of two arms of one counter the second is dropped (R275; DESIGN CHOICE, log 82). -/
def State.enter (s : State) (o : Out) (e : Eff) : State :=
  let w := o.who
  let h := homeInst w.die w.inst
  let s := s.dropOut o.id
  match e with
  | .enq stage ws =>
    if (s.inst? w.die w.inst).isSome then s.send (.core w.die w.core) h.1 h.2 stage w.root w.flight ⟨ws, none, none, o.vec, none, none, false⟩ [] w.handler else s
  | .launch desc die tag =>
    if (s.die die).sites.isEmpty then s.answerScalar tag (BitVec.ofNat 64 (0x0B + die % 4 * 2 ^ 16))
    else
      let after := (s.drain.filter fun q => q.who.flight == w.flight && decide (q.effs.headD 0 < o.effs.headD 0)).flatMap (·.effs)
      s.onDie die fun x => { x with vestibule := x.vestibule ++ [⟨w.ctx, desc, tag, none, die != w.die, o.vec, none, after, s.time⟩] }
  | .deparm id stage ws =>
    match s.counter? id with
    | some c => if c.armed.isSome || (s.inst? w.die w.inst).isNone then s
                else s.setCounter id { c with armed := some (h.1, h.2, stage, ws) }
    | none => s
  | .cpy q blk node tag slice =>
    if (s.inst? w.die w.inst).isNone then s
    else
      let (n, t) := s.nextSeq w.die w.core w.ctx q
      let (age, t) := t.fresh
      (t.onCore w.die w.core fun c => c.setQueue w.ctx q (c.queue w.ctx q ++ [.copy n blk node w age])).deliverSeq tag slice n
  | .macc _ _ _ _ _ => s.enterMacc w o.after e
  | .qfence mask =>
    if mask.testBit 4 && !(((s.core w.die w.core).queue w.ctx 4).any (Cmd.isJoin o.id)) then s
    else
      let (age, t) := s.fresh
      t.onCore w.die w.core fun c => ((List.range 4).filter fun q => mask.testBit q).foldl
        (fun (c : Core) q => c.setQueue w.ctx q (c.queue w.ctx q ++ [.join o.id mask age])) c
  | .bind k desc => s.bindHere w.die w.ctx k desc
  | .gnew _ | .gjoin _ | .gleave _ | .ended _ => s.groupEff w e
  | _ => s

/-- Whether another commit's changes of groups on the die are made in part: the table applies commits one at a time, even where the rest
waits for room (R239). -/
def State.groupsOpen (s : State) (o : Out) : Bool :=
  s.drain.any fun q => q.who.die == o.who.die && q.who.flight != o.who.flight && !q.parts.isEmpty && !s.asleep q && (match q.cargo with
    | .eff e => e.onGroups && !q.parts.any s.outstanding
    | _ => false)

/-- Let one committed effect leave, and enter where it goes once its target has seen what went before. Changes of groups that
nothing orders may come before or after the stores and atomics of their flight, all of one commit together (R159, R239, R256; DESIGN
CHOICE, log 7). -/
def State.settleEff (s : State) (id : Nat) : State :=
  let go := fun (s : State) => match s.drain.find? fun o => o.id == id with
    | some o => match o.cargo with
      | .eff e =>
        if o.sent || !s.free? o || s.full o || s.heldUp o then s
        else
          let (n, t) := if e.onGroups && o.parts.isEmpty && o.loose then s.pick 2 else (0, s)
          if n = 1 || (e.onGroups && s.groupsOpen o) then t else t.leaveCore o e
      | _ => s
    | none => s
  let t := go s
  match t.drain.find? fun o => o.id == id with
  | some o => match o.cargo with
    | .eff (.depsig _) => t
    | .eff e => if o.sent && t.covers (e.goes o.who) o.vec then t.enter o e else t
    | _ => t
  | none => t

def State.settleEffs (s : State) : State :=
  (s.drain.filter fun o => match o.cargo with
    | .eff _ => true
    | _ => false).foldl (fun (s : State) o => s.settleEff o.id) s

/-! ## Joins (R163) -/

/-- The joins of a core that every queue they name has reached: all that stood before them there, of any context, has completed (R331). -/
def State.reached (s : State) (c : Core) : List Nat :=
  (c.queues.filterMap fun e => match e.2.head? with
    | some (.join id mask _) =>
      let ctx := e.1 / 5
      if (List.range 5).all fun q => !mask.testBit q || ((c.queue ctx q).head?.any fun h =>
          h.isJoin id && (q == 4 || !s.olderIn c (queueKey ctx q) h.age)) then some id else none
    | _ => none).eraseDups

/-- Take joins out of their queues. -/
def Core.passJoins (c : Core) (ids : List Nat) : Core :=
  if ids.isEmpty then c
  else
    let past := fun (l : List Cmd) => if l.head?.any (fun h => ids.any fun i => h.isJoin i) then l.tail else l
    { c with queues := (c.queues.map fun e => (e.1, past e.2)).filter fun e => !e.2.isEmpty }

def State.settleJoins (s : State) : State :=
  { s with dies := s.dies.map fun e => (e.1, { e.2 with cores := e.2.cores.map fun c => (c.1, c.2.passJoins (s.reached c.2)) }) }

/-! ## Rendezvous (R47, R50, R180) -/

def State.settleMeets (s : State) : State :=
  let t : State := (s.gangs.map (·.gid)).foldl State.tryMerge s
  { t with gangs := t.gangs.map t.noteSet }

/-! ## Loads that ask for their lines (R307, R327) -/

/-- Ask for a replica of a line whose home is another die, where the die holds none (R307). -/
def State.askLine (s : State) (d pa : Nat) : State :=
  if isHost pa || homeDie pa = d || (s.die d).replicates (pa / 64) then s
  else s.onDie d fun x => { x with pendingFill := x.pendingFill ++ [(pa / 64, ⟨s.bytes (pa / 64 * 64) 64, s.poisoned pa⟩, s.vector (homeDie pa))] }

/-- Ask for the line of a request: a replica of a remote line, or a line of another package. -/
def State.ask (s : State) (g : Gang) (q : Req) : State :=
  if !s.mayLoad q || s.pathDown g.die q.line then s
  else match q.line with
    | .phys pa => s.askLine g.die pa
    | .fabric p a =>
      if (s.asked q.id).isSome then s
      else
        let (id, t) := s.fresh
        let f : FabOut := ⟨id, .load g.gid q.id, g.die, p, a, t.time⟩
        { t with pkg := { t.pkg with fabricOut := t.pkg.fabricOut ++ [f] } }
    | _ => s

/-- Requests to other packages that nobody awaits any more. -/
def State.dropUnasked (s : State) : State :=
  { s with pkg := { s.pkg with fabricOut := s.pkg.fabricOut.filter fun f => match f.client with
      | .load _ r => s.gangs.any fun g => g.reqs.any fun q => q.id == r
      | .out id => s.drain.any fun o => o.id == id
      | .copy core key row beat =>
        let c := s.core f.die core
        let p := (look? c.copying key).getD ⟨0, 0, none, []⟩
        p.row == row && p.beat == beat && (match (look [] c.queues key).head? with
          | some (.copy _ _ _ _ _) => true
          | _ => false) } }

def State.settleLoads (s : State) : State :=
  (s.gangs.flatMap fun g => g.reqs.map fun q => (g, q)).foldl (fun (s : State) e => s.ask e.1 e.2) s.dropUnasked

/-- The lines of other dies' memory that a gang waits for besides its loads: a paused instruction's, its next clause's,
those of a walk for an access, those of its record in the spill area. -/
def State.gangWants (s : State) (g : Gang) : List Nat :=
  (if g.paused.isSome then s.unread g.die g.wants
   else if g.phase == .run then s.clauseWants g else [])
  ++ (match s.missing g with
      | some (_, p) => s.unread g.die (s.walked g.die g.ctx p.va.toNat).2.2
      | none => [])
  ++ (if s.eligible g || g.phase == .ending || (s.meetKey g).isSome || decide ((s.core g.die g.core).scan ≠ 0) then s.recordWants g else [])

/-- Ask for the lines that fetches, walks, reads at issue and arrays wait for (R203, R285, R307). -/
def State.settleWants (s : State) : State :=
  let asks := (s.gangs.flatMap fun g => (s.gangWants g).map fun l => (g.die, l))
    ++ s.dies.flatMap fun e => e.2.cores.flatMap fun c => c.2.evals.flatMap fun v => (s.stepWants v).map fun l => (e.1, l)
  asks.foldl (fun (s : State) a => s.askLine a.1 (64 * a.2)) s

/-- The values of emulated steps that have come back, and whose service is complete, are applied, but for a context that drains or is
switched out (R223, R291). -/
def State.settleBacks (s : State) : State :=
  (s.dies.flatMap fun e => e.2.cores.flatMap fun c => c.2.evals).foldl (fun (s : State) v =>
    match v.back with
    | some host =>
      if (s.ctx v.who.ctx).run = 2 || (s.ctx v.who.ctx).run = 3 || (s.die v.who.die).services.any (fun e => e.2 == .step v.who.core v.id) then s else s.emulatedStep v host
    | none => s) s

/-! ## Counters and instances (R270, R274, R276) -/

/-- Whether a counter's record is still in a window. -/
def State.windowOf (s : State) (d slot : Nat) : Bool := s.dies.any fun e => e.2.windows.any fun w => w.src == .counter d slot && !w.entries.isEmpty

/-- Free counters that have fired and whose record has been accepted. -/
def State.settleCounters (s : State) : State :=
  { s with dies := s.dies.map fun e => (e.1, { e.2 with counters := e.2.counters.map fun c =>
      (c.1, if c.2.live && c.2.fired && !s.windowOf e.1 c.1 then { c.2 with live := false } else c.2) }) }

/-- Whether an engine command, or an effect of a queue, is of an instance. -/
def State.commands (s : State) (d slot : Nat) : Bool :=
  let mine := fun (w : Who) => w.isOf (d, slot)
  (s.dies.any fun x => x.2.cores.any fun e => e.2.evals.any (fun v => mine v.who) || e.2.queues.any fun q => q.2.any fun c => match c with
    | .copy _ _ _ w _ => mine w
    | _ => false)
  || s.drain.any fun o => mine o.who && (match o.cargo with
      | .eff (.depsig _) => false
      | .eff _ => true
      | _ => false)

/-- Whether nothing of an instance remains (R276). -/
def State.overspent (s : State) (d slot : Nat) (i : Inst) : Bool :=
  !(s.gangs.any fun g => g.isOf (d, slot))
  && !((s.die d).cores.any fun e => e.2.gathers.any fun q => q.inst == slot)
  && i.queues.all (fun q => q.2.isEmpty) && !((s.die d).windows.any fun w => w.inst == slot && !w.entries.isEmpty)
  && !(s.dies.any fun e => e.2.counters.any fun c => match c.2.armed with
      | some (e, j, _, _) => c.2.live && e == d && j == slot
      | none => false)
  && !s.commands d slot

/-- Instances under TRAP for which no handler task is launched go on once their record is in the ring (R270). -/
def State.settleTraps (s : State) : State :=
  { s with dies := s.dies.map fun e => (e.1, { e.2 with insts := e.2.insts.map fun i =>
      (i.1, if i.2.trap == some 0 && decide (i.2.trapMark ≤ (s.ctx i.2.ctx).produced) then i.2.trapDone else i.2) }) }

/-- Instances of which nothing remains end, one whose context was reset with end code 2 (R276, R316). -/
def State.settleInsts (s : State) : State :=
  (s.dies.flatMap fun e => e.2.insts.map fun i => (e.1, i.1)).foldl (fun (s : State) e =>
    match s.inst? e.1 e.2 with
    | some i => if ((s.ctx i.ctx).run != 3 || i.wasReset) && s.overspent e.1 e.2 i then s.endInst e.1 e.2 (if i.wasReset then 2 else 0) else s
    | none => s) s

/-! ## The host's words (R316, R317) -/

/-- A word pair at a place that the driver's table names by its physical address (DEDUCED, log 19). -/
def State.hostWord (s : State) (a : DWord) (v : Nat) : State := s.device (a.toNat % 2 ^ 42) (bytesOf 8 (BitVec.ofNat 64 v))

/-- Whether every die has applied all that the others have sent. -/
def State.allApplied (s : State) : Bool :=
  s.dies.all fun d => s.dies.all fun e => d.1 == e.1 || ge32 (e.2.applied.getD d.1 0) d.2.sent

/-- Write the completion of an ended instance or a refused record: STATUS first, then the count. -/
def State.complete (s : State) (c : Nat) : State :=
  match (s.ctx c).compHeld with
  | [] => s
  | (rec_, status, mark) :: rest =>
    if s.drain.any (fun o => o.who.ctx == c && decide (o.id < mark)) || !s.allApplied then s
    else
      let s1 := if rec_ = 0 then s else s.writeVa 0 c (rec_ - 1 + 32) (bytesOf 8 (BitVec.ofNat 64 status))
      let n := (s.ctx c).completions + 1
      (s1.onCtx c fun x => { x with compHeld := rest, completions := n }).hostWord (s.ctx c).compaddr n

/-- Write the next waiting record into the fault ring where there is room, then the producer index. -/
def State.ringRecord (s : State) (c : Nat) : State :=
  let x := s.ctx c
  match x.ring with
  | [] => s
  | ws :: rest =>
    if x.frsize ≤ x.produced - (look 0#64 s.pkg.frcons c).toNat then s
    else
      let a := x.fring.toNat % 2 ^ 42 + 64 * (x.produced % x.frsize)
      ((s.device a (bytesOfWords ws)).onCtx c fun x => { x with ring := rest, produced := x.produced + 1 }).hostWord
        (x.compaddr + 8#64) (x.produced + 1)

def State.settleHost (s : State) : State :=
  (s.pkg.ctxs.map Prod.fst).foldl (fun (s : State) c =>
    let t := (List.range (s.ctx c).compHeld.length).foldl (fun (s : State) _ => s.complete c) s
    (List.range (t.ctx c).ring.length).foldl (fun (s : State) _ => s.ringRecord c) t) s

/-! ## Waiting for a port (R266) -/

/-- Note since when each record is eligible. -/
def State.settleSince (s : State) : State :=
  { s with gangs := s.gangs.map fun g =>
      if s.eligible g then { g with since := some (g.since.getD s.time) } else if g.phase == .parked then { g with since := none } else g }

end Sys2Proof.Machine
end

