-- ==== Sys2Proof/Machine/Gather.lean ====
section
/-!
DEFINITION. The die dispatcher and the gatherers: DISPATCH, GATHER_TIMEOUT and CLASSIFIER_WINDOW (R23, R25,
R82, R123, R124, R236, R243, R264, R265).
-/

namespace Sys2Proof.Machine

/-! ## Closing a gang -/

/-- The registers of a gang at its launch (R23, R25): the arguments in v0 onward, s1 the parameter block (DEDUCED, log 29). -/
def launchArch (i : Inst) (st : Stage) (recs : List (Nat × Rec)) : Arch :=
  let n := recs.length
  let lanes := List.range n
  let occ : Word := BitVec.ofNat 32 (2 ^ n - 1)
  let sl : Byte := BitVec.ofNat 8 (2 ^ ceilDiv n 4 - 1)
  { slices := sl, occ := occ, exec := occ, pc := st.entry
    v := (recs.zip lanes).foldl (fun m e =>
      ((padWords e.1.2.words st.args).zip (List.range st.args)).foldl (fun m w => put 0#32 m (w.2 * 32 + e.2) w.1) m) []
    p := []
    s := (bitsOf sl).foldl (fun m k => put 0#64 m (k * 32 + 1) i.param) []
    n := [], depth := 0, rstack := [], split := [], sigval := [], fpctl := [], fpstat := []
    flightid := BitVec.ofNat 64 (((recs.head?.map Prod.fst).getD 0) % 2 ^ 32 * 2 ^ 32)
    bracket := false, vlive := BitVec.ofNat 64 (2 ^ st.args - 1), slive := 2#32, plive := 0#16, nlive := 0#16, poison := [] }

/-- A task as it is dispatched (R258). -/
def launchTask (st : Stage) (e : Nat × Rec) : Task :=
  { num := e.1, issue := st.tissue, array := st.tarray, copy := st.tcopy, groups := [], fault := e.2.fault.getD ⟨0, 0#64, 0#64⟩, area := e.2.area,
    trap := e.2.trap }

/-- The gang that a gathering makes, with its registers and, for a paired one, its other port. -/
def launchGang (gid d core : Nat) (q : Gather) (i : Inst) (st : Stage) (causal : List Nat) (granted : Nat) (pair : Option Nat) : Gang :=
  let a := launchArch i st q.recs
  { gid := gid, root := gid, die := d, core := core, place := .port q.port, inst := q.inst, stage := q.stage, ctx := i.ctx, age := q.age,
    lanes := (List.range q.recs.length).zip (q.recs.map (launchTask st)), arch := a, anchor := a, held := [], pend := [], accs := [],
    reqs := [], used := [], appends := [], gresv := [], cresv := [], binds := [], evals := [], made := [], autos := [], phase := .run,
    wakeKind := 0, wakeOp := 0#64, wakeOp2 := 0#64, ackScope := 0, woken := false, since := none, slack := 0, preempt := false,
    suspended := false, skipBrk := none, pathFault := none, flight := 0, stall := false, sigPorts := [], parity := [],
    causal := causal, handler := q.stage == i.handler, nexts := [], allonD := 0, hit := false, spent := 0, lost := 0, paused := none, wants := [],
    granted := granted, pair := pair }

/-- A port of a core with the most free register space, the lower number on a tie. -/
def State.bestPort (s : State) (d core : Nat) (ps : List Nat) : Option Nat :=
  ps.find? fun p => ps.all fun q => decide (s.portFree d core q ≤ s.portFree d core p)

/-- Whether the ports that a gang was gathered for may take it still: one, or two for a paired one, and the core new gangs (R144, R145). -/
def State.keepsPorts (s : State) (d core : Nat) (q : Gather) (pairs : Bool) : Bool :=
  let ok := (s.die d).portsOf core
  decide (3 ≤ ok.length) && ok.contains q.port && (!pairs || q.pair.any ok.contains)

/-- The ports for the gang of a gathering that holds none any more: those it was gathered for while they may take gangs, else others that
have the room and run it in one pass, if there are; none on a core that takes no new gangs (R123, R144, R145). -/
def State.closePorts (s : State) (d core : Nat) (q : Gather) (bytes : Nat) (pairs : Bool) : Option (Nat × Option Nat) :=
  let ok := (s.die d).portsOf core
  if s.keepsPorts d core q pairs then some (q.port, q.pair)
  else if ok.length < 3 then none
  else (s.bestPort d core (ok.filter fun p => decide (q.slices ≤ (s.die d).good core p / 4) && s.portFits d core p bytes
      && (!pairs || (s.pairFor d core p bytes).isSome))).map fun p => (p, if pairs then s.pairFor d core p bytes else none)

/-- How many records of a gathering one gang takes: all, where its ports may still take it; else no more than the widest port that is fit
runs in one pass (R123, R144). -/
def State.closeCap (s : State) (d core : Nat) (q : Gather) (pairs : Bool) : Nat :=
  let wide := ((s.die d).portsOf core).foldl (fun n p => max n ((s.die d).good core p / 4 * 4)) 0
  if s.keepsPorts d core q pairs || wide = 0 then q.recs.length else wide

/-- A gang of gathered records: it is resident, and its first flight begins (R123, R309); where no port can take it, it waits in the Landing
(R124). -/
def State.placeGang (s0 : State) (d core : Nat) (q : Gather) : State :=
  match (s0.inst? d q.inst).bind fun i => (i.stages[q.stage]?).map fun st => (i, st) with
  | none => s0
  | some (i, st) =>
    let causal := q.recs.foldl (fun v r => mergeVec v r.2.vec) (s0.vector d)
    let (gid, s1) := s0.fresh
    let (n, s2) := s1.fresh
    let bytes := st.regs * q.slices * 16
    let g := match s0.closePorts d core q bytes (st.flags.getLsbD 0) with
      | some (p, pair) => { launchGang gid d core q i st causal bytes pair with flight := n, place := .port p }
      | none => { launchGang gid d core q i st causal 0 none with flight := n, place := .landing, phase := .parked, woken := true }
    { s2 with gangs := s2.gangs ++ [{ g with slack := s2.slackOf g }] }

/-- The gangs of gathered records, `cap` of them in each but the last. -/
def State.placeGangs (s : State) (d core : Nat) (q : Gather) (cap : Nat) : Nat → List (Nat × Rec) → State
  | 0, _ => s
  | n + 1, rs => if rs.isEmpty then s else (s.placeGang d core { q with recs := rs.take cap }).placeGangs d core q cap n (rs.drop cap)

/-- Close a gathering: its records are in one gang, in more where its ports have become suspect and no other is as wide (R123, R144). -/
def State.closeGather (s : State) (d core : Nat) (q : Gather) : State :=
  let s0 := s.onCore d core fun c => { c with gathers := c.gathers.filter fun g => g.id != q.id }
  s0.placeGangs d core q (s0.closeCap d core q (s0.paired d q.inst q.stage)) q.recs.length q.recs

/-- Find a gathering: its die and core. -/
def State.gather? (s : State) (id : Nat) : Option (Nat × Nat × Gather) :=
  s.dies.findSome? fun e => e.2.cores.findSome? fun c => (c.2.gathers.find? fun q => q.id == id).map fun q => (e.1, c.1, q)

/-- 64 core cycles of 10/19 ns (R3, R123). -/
def gatherNs : Nat := 34

/-- GATHER_TIMEOUT (R123): a gang open for 64 core cycles closes with the slices it has. -/
def execGatherTimeout (gather : Nat) (s : State) : Res :=
  match s.gather? gather with
  | some (d, core, q) =>
    if s.cur.isNone && decide (q.opened + gatherNs ≤ s.time) then .next (s.closeGather d core q) else .fault (.notEnabled "GATHER_TIMEOUT")
  | none => .fault (.notEnabled "GATHER_TIMEOUT")

/-! ## Where a record can go (R265) -/

/-- The bytes that one more slice of a stage takes. -/
def State.sliceBytes (s : State) (d inst stage : Nat) : Nat := s.stageRegs d inst stage * 16

/-- Whether a new gang of an instance comes before every record that waits for a port (R139; DESIGN CHOICE, log 69: R123 names only the
space and the slot). -/
def State.firstFor (s : State) (d core port inst : Nat) : Bool :=
  let key := (((s.inst? d inst).bind (·.deadline)).map fun t => t + (s.die d).dtcBase - (s.die (homeInst d inst).1).dtcBase).getD (2 ^ 80)
  (s.takeable d core port).all fun h => decide (key < s.deadlineKey h)

/-- The ports of a core that could take a new gang of a stage (R123, R124, R139, R144, R145). -/
def State.roomOn (s : State) (d core inst stage : Nat) : List Nat :=
  let n := s.sliceBytes d inst stage
  if !s.openCore d core inst then []
  else ((s.die d).portsOf core).filter fun p => s.portFits d core p n && s.firstFor d core p inst
    && (!s.paired d inst stage || (s.pairFor d core p n).isSome)

/-- Whether a gathering can take one more record: its ports may take gangs still, and have the space of a further slice where it opens
one (R123, R144, R145). -/
def State.grows (s : State) (d core : Nat) (q : Gather) : Bool :=
  let n := s.sliceBytes d q.inst q.stage
  let ps := q.port :: q.pair.toList
  s.openCore d core q.inst && (ps.all ((s.die d).portsOf core).contains)
    && (q.recs.length % 4 != 0 || ((ps.all fun p => decide (n ≤ s.portFree d core p)) && s.firstFor d core q.port q.inst))

/-- The free register space of a core. -/
def State.coreFree (s : State) (d core : Nat) : Nat := ((s.die d).portsOf core).foldl (fun n p => n + s.portFree d core p) 0

/-- The logical cores of a die. -/
def Die.coresOf (x : Die) : List Nat := x.coremap.map Prod.fst

/-- The cores with room for a gang of a stage. -/
def State.withRoom (s : State) (d inst stage : Nat) : List Nat := (s.die d).coresOf.filter fun c => !(s.roomOn d c inst stage).isEmpty

/-- The free register space of a cluster. -/
def State.clusterFree (s : State) (d cluster : Nat) : Nat :=
  ((s.die d).coresOf.filter fun c => (s.die d).cluster c == cluster).foldl (fun n c => n + s.coreFree d c) 0

/-- Of some clusters, the one with the most free register space, the lower number on a tie; in it, of some
cores, the one with the most, the lower position on a tie. -/
def State.bestCore (s : State) (d : Nat) (clusters cores : List Nat) : Option Nat :=
  let x := s.die d
  let ok := clusters.filter fun k => cores.any fun c => x.cluster c == k
  (ok.find? fun k => ok.all fun j => decide (s.clusterFree d j < s.clusterFree d k) || (decide (s.clusterFree d j = s.clusterFree d k) && decide (k ≤ j))).bind
    fun k =>
      let here := cores.filter fun c => x.cluster c == k
      here.find? fun c => here.all fun e =>
        decide (s.coreFree d e < s.coreFree d c) || (decide (s.coreFree d e = s.coreFree d c) && decide (x.position c ≤ x.position e))

/-- The instances with work on a cluster: gangs, records or gathered gangs. What is of a context that is switched out lies in its save area
(R320). -/
def State.residentsOf (s : State) (d cluster : Nat) : List Nat :=
  let x := s.die d
  (((s.gangs.filter fun g => g.die == d && g.ctx != firmware && (s.ctx g.ctx).run != 3 && x.cluster g.core == cluster).map (·.inst))
    ++ (x.cores.filter fun e => x.cluster e.1 == cluster).flatMap fun e => e.2.gathers.map (·.inst)).eraseDups

/-- Whether a cluster holds the cohort of a stage (R243). -/
def State.holdsCohort (s : State) (d cluster inst stage : Nat) : Bool :=
  let x := s.die d
  (s.gangs.any fun g => g.die == d && g.inst == inst && g.stage == stage && g.ctx != firmware && x.cluster g.core == cluster)
  || x.cores.any fun e => x.cluster e.1 == cluster && e.2.gathers.any fun q => q.inst == inst && q.stage == stage

/-- Whether most of a cluster's instances are of the other intensity class. -/
def State.otherClass (s : State) (d cluster cls : Nat) : Bool :=
  let cs := (s.residentsOf d cluster).filterMap fun j => (s.inst? d j).map (·.cls)
  decide (0 < cs.length) && decide (cs.length < 2 * (cs.filter fun c => c == 3 - cls).length)

/-- Whether a cluster holds nothing of another instance: no task, record or pinned page (R236). -/
def State.clusterFor (s : State) (d cluster inst : Nat) : Bool :=
  let x := s.die d
  (s.residentsOf d cluster).all (· == inst) && (x.fused.all fun e => e.1 != cluster) &&
    (x.insts.all fun i => i.1 == inst || i.2.pinned.all fun k => x.cluster (k / 128) != cluster) &&
    s.dies.all fun e => e.1 == d || e.2.insts.all fun i => i.2.pinned.all fun k =>
      !(decide (128 * (d + 1) ≤ k / 128) && decide (k / 128 < 128 * (d + 2)) && x.cluster (k / 128 - 128 * (d + 1)) == cluster)

/-- The gathering of a stage that can take one more record, and its core (R123). -/
def State.openFor (s : State) (d inst stage : Nat) : Option (Nat × Gather) :=
  (s.die d).cores.findSome? fun e => (e.2.gathers.find? fun q => q.inst == inst && q.stage == stage && s.grows d e.1 q).map fun q => (e.1, q)

/-- The core of a gathering of a stage that can take no more where it can open the next one: the record goes there (R123). -/
def State.nextFor (s : State) (d inst stage : Nat) : Option Nat :=
  (s.die d).cores.findSome? fun e =>
    if (e.2.gathers.any fun q => q.inst == inst && q.stage == stage) && !(s.roomOn d e.1 inst stage).isEmpty then some e.1 else none

/-- Whether a stage is placed for the first time with FUSEDL1 (R236). -/
def fusesNow (i : Inst) (stage : Nat) : Bool := !i.tried.contains stage && ((i.stages[stage]?).map fun st => st.flags.getLsbD 2).getD false

/-- Whether a record must keep away from a core's cluster: its cohort was contained there, and the die has
another cluster with an enabled core (R244). -/
def Die.shuns (x : Die) (avoid : Option Nat) (c : Nat) : Bool :=
  match avoid with
  | some k => x.cluster c == k && x.coresOf.any fun e => x.cluster e != k && !(x.portsOf e).isEmpty
  | none => false

/-- The core for the next record of a stage (R265), and the cluster that is fused with it (R236). -/
def State.placeFor (s : State) (d slot stage : Nat) (i : Inst) : Option (Nat × Option Nat) :=
  let avoid := ((look [] i.queues stage).head?).bind (·.avoid)
  match (((s.openFor d slot stage).map Prod.fst).or (s.nextFor d slot stage)).bind fun e => if (s.die d).shuns avoid e then none else some e with
  | some c => some (c, none)
  | none =>
    let cores := (s.withRoom d slot stage).filter fun c => !(s.die d).shuns avoid c
    let all := (cores.map (s.die d).cluster).eraseDups
    let free := if fusesNow i stage then s.bestCore d (all.filter fun k => s.clusterFor d k slot) cores else none
    match free with
    | some c => some (c, some ((s.die d).cluster c))
    | none =>
      let cohort := if i.cls = 0 then none else s.bestCore d (all.filter fun k => s.holdsCohort d k slot stage) cores
      let other := if i.cls = 0 then none else s.bestCore d (all.filter fun k => s.otherClass d k i.cls) cores
      ((cohort.or other).or (s.bestCore d all cores)).map fun c => (c, none)

/-! ## Which record (R264) -/

/-- The stages of an instance that have a record to dispatch and somewhere to put it. -/
def State.dispatchable (s : State) (d slot : Nat) (i : Inst) : List Nat :=
  if (s.ctx i.ctx).run != 1 then []
  else (List.range i.nstages).filter fun k =>
    !(look [] i.queues k).isEmpty && (i.trap.isNone || k == i.handler) &&
      (match i.stages[k]? with
       | some st => decide (look 0 i.inflight k < st.depth)
       | none => false) && (s.placeFor d slot k i).isSome

/-- Whether a task of a stage has an enqueue outstanding in a replay window (DEDUCED, log 47). -/
def State.blockedProducer (s : State) (d slot stage : Nat) : Bool :=
  s.gangs.any fun g => g.isOf (d, slot) && g.stage == stage &&
    (s.die d).windows.any fun w => w.entries.any fun e => e.root == g.root && (match w.src with
        | .core _ _ => true
        | _ => false)

/-- Of an instance's dispatchable stages, the one to take: the fullest queue for its depth, those with
producers held back last, the lower number on a tie. -/
def State.bestStage (s : State) (d slot : Nat) (i : Inst) : Option Nat :=
  let ks := s.dispatchable d slot i
  let depth := fun (k : Nat) => ((i.stages[k]?).map (·.depth)).getD 1
  let len := fun (k : Nat) => (look [] i.queues k).length
  let rank := fun (k : Nat) => bit (s.blockedProducer d slot k)
  ks.find? fun k => ks.all fun j => decide (rank k < rank j) || (decide (rank k = rank j) &&
    (decide (len j * depth k < len k * depth j) || (decide (len j * depth k = len k * depth j) && decide (k ≤ j))))

/-- The instance to take from: the earliest deadline, best-effort instances last, then by admission. -/
def State.bestInst (s : State) (d : Nat) : Option (Nat × Inst) :=
  let is := (s.die d).insts.filter fun e => !(s.dispatchable d e.1 e.2).isEmpty
  let key := fun (i : Inst) => i.deadline.getD (2 ^ 80)
  is.find? fun e => is.all fun f => decide (key e.2 < key f.2) || (decide (key e.2 = key f.2) && decide (e.2.order ≤ f.2.order))

/-! ## DISPATCH -/

/-- Put a numbered record into the gathering of its stage on a core, or open one; a full gang closes, and one for which no port has room
any more at once, so that it waits in the Landing (R124). A gang's age is the
model's number of its gathering, so that of two gangs with one die time of dispatch the one whose record was sent first is the
older (DESIGN CHOICE, log 7: the spec leaves such a tie open). -/
def State.gatherRecord (s : State) (d core slot stage : Nat) (r : Nat × Rec) : State :=
  let k := s.core d core
  let mine := k.gathers.find? fun q => q.inst == slot && q.stage == stage
  let openNew := fun (s : State) =>
    match s.bestPort d core (s.roomOn d core slot stage) with
    | some p =>
      let (id, t) := s.fresh
      let pair := if s.paired d slot stage then s.pairFor d core p (s.sliceBytes d slot stage) else none
      let q : Gather := ⟨id, slot, stage, p, t.time, id, [r], pair⟩
      (t.onCore d core fun c => { c with gathers := c.gathers ++ [q] }, some q)
    | none =>
      let (id, t) := s.fresh
      (t.closeGather d core ⟨id, slot, stage, 4, t.time, id, [r], none⟩, none)
  let (t, q) := match mine with
    | some q =>
      if s.grows d core q then
        let q2 := { q with recs := q.recs ++ [r] }
        (s.onCore d core fun c => { c with gathers := c.gathers.map fun (g : Gather) => if g.id = q.id then q2 else g }, some q2)
      else openNew (s.closeGather d core q)
    | none => openNew s
  match q with
  | some q => if q.recs.length = (s.die d).good core q.port / 4 * 4 then t.closeGather d core q else t
  | none => t

/-- DISPATCH (R264): the dispatcher takes a record, numbers it and sends it to a core. Where a cluster is fused its cores' L1s are emptied,
so that a line has one place in them (R151, R236, R237). -/
def execDispatch (die : Nat) (s : State) : Res :=
  match (s.bestInst die).bind fun e => (s.bestStage die e.1 e.2).map fun k => (e.1, e.2, k) with
  | none => .fault (.notEnabled "DISPATCH")
  | some (slot, i, k) =>
    match (s.placeFor die slot k i), look [] i.queues k with
    | some (core, fuse), r :: rest =>
      if s.cur.isSome then .fault (.notEnabled "DISPATCH")
      else
        let num := r.num.getD (look 0 i.nextTask k)
        let idem := ((i.stages[k]?).map fun st => st.flags.getLsbD 1).getD false
        let s1 := s.onInst die slot fun i =>
          { i with queues := put [] i.queues k rest, inflight := alter 0 i.inflight k (· + 1),
                   nextTask := if r.num.isSome then i.nextTask else put 0 i.nextTask k ((num + 1) % 2 ^ 32),
                   retained := if idem then (i.retained.filter fun e => e.1 != (k, num)) ++ [((k, num), { r with num := some num })] else i.retained,
                   tried := if fusesNow i k then k :: i.tried else i.tried }
        let s2 := match fuse with
          | some c => s1.onDie die fun x => { x with
              fused := put? x.fused c (some slot),
              cores := x.cores.map fun (e : Nat × Core) => if x.cluster e.1 = c then (e.1, { e.2 with l1 := [] }) else e }
          | none => s1
        .next (s2.gatherRecord die core slot k (num, r))
    | _, _ => .fault (.notEnabled "DISPATCH")

/-! ## The classifier (R265) -/

/-- CLASSIFIER_WINDOW: each instance is classed by what it was charged in the window; a new one is classed
at the end of its first full window. -/
def execClassifierWindow (die : Nat) (s : State) : Res :=
  .next (s.onDie die fun x => { x with insts := x.insts.map fun e =>
    (e.1, { e.2 with cls := (if !e.2.whole then e.2.cls else if 16 * e.2.memory ≤ e.2.compute then 1 else 2),
                     whole := true, compute := 0, memory := 0 }) })

end Sys2Proof.Machine
end

