-- ==== Sys2Proof/Machine/Admit.lean ====
section
/-!
DEFINITION. Admission: the descriptors, the checks of the Vestibule, and ADMISSION and
HOST_ADMISSION_ANSWER (R257 to R263, R295, R314, R322).
-/

namespace Sys2Proof.Machine

/-! ## The descriptor (R257, R258) -/

/-- Read bytes that a context may read, each translated by itself on a die; none where one cannot be read. Bytes of
another package are free values, and so is whether it gives them (DESIGN CHOICE, log 14). -/
def State.readable? (s : State) (d ctx va : Nat) : Nat → List Byte → Option (List Byte)
  | 0, bs => some bs
  | n + 1, bs =>
    match regionOf (BitVec.ofNat 64 va), s.walk d ctx va with
    | .global, .ok l =>
      match l.place va with
      | .phys pa =>
        if s.allows ctx l 0 && !s.badAt d pa && !s.outOfReach d pa then
          s.readable? d ctx (va + 1) n (bs ++ s.seal d 128 ctx va (.phys pa) [s.dieByte d pa])
        else none
      | .fabric p a => if s.allows ctx l 0 && (s.fabricRead (.fabric p a)).1.isNone then s.readable? d ctx (va + 1) n (bs ++ [Config.fabricByte s.free p a]) else none
      | _ => none
    | _, _ => none

/-- The header of an instance descriptor. -/
structure Header where
  format : Nat
  nstages : Nat
  handler : Nat
  policy : Nat
  arrays : Nat
  slack : Nat
  issue : Nat
  array : Nat
  copy : Nat
  sppages : Nat
  accslots : Nat
  itiles : Nat
  gnodes : Nat
  landbytes : Nat
  gspill : Nat
  param : DWord
  initaddr : Nat
  key : DWord
  config : DWord
  zero : Bool
  deriving DecidableEq, Repr

def headerOf (bs : List Byte) : Header :=
  let n := numAt bs
  { format := n 0 2, nstages := n 2 1, handler := n 3 1, policy := n 4 1, arrays := n 5 1, slack := n 8 8, issue := n 16 8,
    array := n 24 8, copy := n 32 8, sppages := n 40 4, accslots := n 44 1, itiles := n 45 1, gnodes := n 46 2, landbytes := n 48 8,
    gspill := n 56 8, param := BitVec.ofNat 64 (n 64 8), initaddr := n 72 8, key := BitVec.ofNat 64 (n 80 8),
    config := BitVec.ofNat 64 (n 88 8), zero := n 6 2 == 0 && (bs.drop 96).all (· == 0#8) }

def stageOf (bs : List Byte) : Stage :=
  let n := numAt bs
  { entry := BitVec.ofNat 64 (n 0 8), args := n 8 1, regs := n 9 1, record := n 10 2, depth := n 12 2, pages := n 14 1, slots := n 15 1,
    nodes := n 16 2, sarrays := n 18 1, flags := BitVec.ofNat 8 (n 19 1), backoff := n 20 4, backcap := n 24 4, tissue := n 32 8,
    tarray := n 40 8, tcopy := n 48 8, initcount := n 56 4 }

/-- Whether a number lies in a range. -/
def within (lo hi n : Nat) : Bool := decide (lo ≤ n) && decide (n ≤ hi)

/-- The rules of a stage descriptor (R258, R259); `bs` are its bytes. -/
def stageOk (bs : List Byte) : Bool :=
  let st := stageOf bs
  field st.entry 0 2 == 0 && within 1 16 st.args && within 1 64 st.regs && within 256 11264 st.record && st.record % 8 == 0
  && within 1 4096 st.depth && within 0 128 st.pages && within 0 64 st.slots && within 0 1024 st.nodes && within 0 128 st.sarrays
  && st.flags.toNat < 16 && within 1 (2 ^ 20) st.backoff && within st.backoff (2 ^ 24) st.backcap && numAt bs 28 4 == 0
  && within 0 st.depth st.initcount && numAt bs 60 4 == 0

/-- The rules of a header and its stages together (R257, R259). -/
def headerOk (h : Header) (sts : List Stage) : Bool :=
  h.format == 1 && h.zero && (h.handler == 0xFF || decide (h.handler < h.nstages)) && within 0 2 h.policy && within 0 128 h.arrays
  && within 1 (2 ^ 40) h.slack && within 1 (2 ^ 62) h.issue && within 0 (2 ^ 62) h.array && within 0 (2 ^ 62) h.copy
  && within 0 128 h.sppages && within 0 64 h.accslots && within 0 64 h.itiles && within 0 1024 h.gnodes && h.gspill % 4096 == 0
  && h.initaddr % 4 == 0
  && sts.all (fun st => decide (st.sarrays ≤ h.arrays) && decide (st.pages ≤ h.sppages) && decide (st.slots ≤ h.accslots) && decide (st.nodes ≤ h.gnodes))
  && decide (sts.foldl (fun n st => n + st.record * st.depth) 0 ≤ h.landbytes)
  && (h.initaddr != 0 || sts.all fun st => st.initcount == 0)

/-- Split bytes into words. -/
def wordsOf (bs : List Byte) : Nat → List Word
  | 0 => []
  | n + 1 => BitVec.ofNat 32 (natOfBytes (bs.take 4)) :: wordsOf (bs.drop 4) n

/-- The initial records, stage by stage (R258). -/
def initialRecords (vec : List Nat) : List Stage → Nat → List Byte → List (Nat × List Rec)
  | [], _, _ => []
  | st :: rest, k, bs =>
    let size := 4 * st.args
    let mine := (List.range st.initcount).map fun i => (⟨wordsOf (bs.drop (i * size)) st.args, none, none, vec, none, none, false⟩ : Rec)
    (if mine.isEmpty then [] else [(k, mine)]) ++ initialRecords vec rest (k + 1) (bs.drop (st.initcount * size))

/-- A descriptor as the Vestibule reads it: none where it breaks R259. -/
def State.readDesc (s : State) (d ctx : Nat) (desc : DWord) (vec : List Nat) : Option (Header × List Stage × List (Nat × List Rec)) :=
  let a := desc.toNat
  if a % 64 ≠ 0 then none
  else
    (s.readable? d ctx a 256 []).bind fun hb =>
      let h := headerOf hb
      if !within 1 16 h.nstages then none
      else (s.readable? d ctx (a + 256) (64 * h.nstages) []).bind fun sb =>
        let parts := (List.range h.nstages).map fun i => (sb.drop (64 * i)).take 64
        let sts := parts.map stageOf
        if !parts.all stageOk || !headerOk h sts then none
        else
          (s.readable? d ctx h.initaddr (sts.foldl (fun n st => n + 4 * st.args * st.initcount) 0) []).map fun ib =>
            (h, sts, initialRecords vec sts 0 ib)

/-- Whether acts on their way are on bytes of a context's address. -/
def State.meets (s : State) (d ctx va n : Nat) (as : List Act) : Bool :=
  (List.range n).any fun i => match s.walk d ctx (va + i) with
    | .ok l => as.any fun a => a.loc.overlaps a.len (l.place (va + i)) 1
    | _ => false

/-- The parts of a request's descriptor that are read, each with its length: the header, the stages that it names, and the initial
records that those name; none where its address is no descriptor's, and no stages where their number is none. -/
def State.descParts (s : State) (d : Nat) (r : LaunchReq) : List (Nat × Nat) :=
  let a := r.desc.toNat
  if a % 64 ≠ 0 then [] else (a, 256) :: (match s.readable? d r.ctx a 256 [] with
    | none => []
    | some hb =>
      let h := headerOf hb
      if !within 1 16 h.nstages then [] else (a + 256, 64 * h.nstages) :: (match s.readable? d r.ctx (a + 256) (64 * h.nstages) [] with
        | none => []
        | some sb =>
          let sts := (List.range h.nstages).map fun i => stageOf ((sb.drop (64 * i)).take 64)
          [(h.initaddr, sts.foldl (fun n st => n + 4 * st.args * st.initcount) 0)]))

/-- Whether what the Vestibule reads of a request holds the stores of its flight (R273). -/
def State.descSeen (s : State) (d : Nat) (r : LaunchReq) : Bool :=
  let as := (s.drain.filter fun o => o.effs.any r.after.contains).flatMap (·.acts)
  as.isEmpty || (s.descParts d r).all fun e => !s.meets d r.ctx e.1 e.2 as

/-- The lines of other dies' memory that a Vestibule waits for: those of the first part of the descriptor that it cannot read yet
(R307). -/
def State.descWants (s : State) (d : Nat) (r : LaunchReq) : List Nat :=
  ((s.descParts d r).map fun e => s.vaWants d r.ctx e.1 e.2).find? (!·.isEmpty) |>.getD []

/-! ## The checks (R262, R263) -/

/-- The logical cores of a die that count in its capacity: enabled and in service (R263, R295). `also` is
counted as well. -/
def Die.inService (x : Die) (also : Option Nat) : List Nat :=
  x.coresOf.filter fun c => x.sites.contains ((x.site? c).getD 128) && ((x.core c).scan == 0 || also == some c)

/-- An engine class's use of the die by an instance, in units of 2^-16 (R263). -/
def share (budget slack : Int) : Nat := ceilDiv ((max budget 0).toNat * 65536) ((max slack 1000).toNat)

/-- The limit of a class, in units of 2^-16: 0.95 of its capacity, that is 361/200 for each unit. -/
def State.limit (s : State) (d cls : Nat) (also : Option Nat) : Nat :=
  let x := s.die d
  let cores := x.inService also
  if cls = 0 then 361 * (cores.flatMap fun c => (x.portsOf c).map (x.good c)).foldl (· + ·) 0 * 65536 / 6400
  else if cls = 1 then 361 * min cores.length x.permits * 65536 / 200
  else 361 * cores.length * 65536 / 200

/-- The instances that a die holds now: those of contexts that are switched out are in their save area (DEDUCED, log 40). -/
def State.liveInsts (s : State) (d : Nat) : List (Nat × Inst) := (s.die d).insts.filter fun e => (s.ctx e.2.ctx).run != 3

/-- The use of a class by the admitted instances that have a deadline. -/
def State.usage (s : State) (d cls : Nat) : Nat :=
  (s.liveInsts d).foldl (fun n e => match e.2.deadline with
    | some t => n + share (e.2.account cls) ((t : Int) - s.dtc d)
    | none => n) 0

/-- Checks 6 to 9: the first that fails, 0 for none. -/
def State.utilCheck (s : State) (d : Nat) (budgets : List Int) (slack : Int) (arrays : Nat) (also : Option Nat) : Nat :=
  let beyond := fun (cls : Nat) => decide (s.limit d cls also < s.usage d cls + share (budgets.getD cls 0) slack)
  if beyond 0 then 1 else if beyond 1 then 2 else if beyond 2 then 3
  else if (s.die d).permits < (s.liveInsts d).foldl (fun n e => if e.2.deadline.isSome then n + e.2.arrays else n) arrays then 4 else 0

/-- Check 5 (R314). -/
def State.quotaCheck (s : State) (d ctx arrays : Nat) : Bool :=
  let c := s.ctx ctx
  let mine := (s.liveInsts d).filter fun e => e.2.ctx == ctx
  decide (mine.length < c.maxinst)
  && decide (mine.foldl (fun n e => if e.2.deadline.isSome then n + e.2.arrays else n) arrays ≤ c.maxarrays)
  && c.diemask.getLsbD d && !(s.die d).sites.isEmpty

/-- The sum of a quota over some instances. -/
def sumOf (is : List (Nat × Inst)) (f : Inst → Nat) : Nat := is.foldl (fun n e => n + f e.2) 0

/-- Checks 10 to 13: the first that fails, 0 for none. -/
def State.storageCheck (s : State) (d ctx : Nat) (sppages slots gnodes gspill landbytes : Nat) : Nat :=
  let here := s.liveInsts d
  let ours := (s.dies.flatMap fun e => e.2.insts).filter fun e => e.2.ctx == ctx
  if 128 < sumOf here (·.sppages) + sppages then 5
  else if 64 < sumOf here (fun i => i.accslots + i.itiles) + slots then 6
  else if 1024 < sumOf here (·.gnodes) + gnodes || decide ((s.ctx ctx).gsize < sumOf ours (·.gspill) + gspill) then 7
  else if (s.ctx ctx).lsize < sumOf ours (·.landbytes) + landbytes then 8 else 0

/-- Whether a handle names a key that the context may use (R314). -/
def State.keyOk (s : State) (ctx : Nat) (key : DWord) : Bool := field key 6 58 == 0 && (s.ctx ctx).keymask.getLsbD (field key 0 6)

/-- The slack that counts for a request (R261). -/
def LaunchReq.slack (r : LaunchReq) (h : Header) : Int := if r.forwarded then (h.slack : Int) - 1000 else h.slack

/-- The free instance slots of a die, the lowest first. -/
def State.freeInstSlots (s : State) (d : Nat) : List Nat := (List.range 256).filter fun i => (s.inst? d i).isNone

/-- Checks 2 to 5: the first that fails, 0 for none. A die is full too where instances that are switched out keep its numbers
(DEDUCED, log 40). -/
def State.earlyCheck (s : State) (d : Nat) (r : LaunchReq) (h : Header) : Nat :=
  if !s.keyOk r.ctx h.key then 0x0C
  else if 256 ≤ (s.liveInsts d).length || (s.freeInstSlots d).isEmpty then 0x0D
  else if r.slack h < 20000 then 0x09
  else if !s.quotaCheck d r.ctx h.arrays then 0x0B else 0

/-- The enabled cores of the package. -/
def State.enabledCores (s : State) : Nat := s.dies.foldl (fun n e => n + e.2.sites.length) 0

/-- CONFIG of the part (R322). -/
def State.partConfig (s : State) : DWord := BitVec.ofNat 64 (s.pkg.grade.toNat + s.enabledCores % 65536 * 65536)

/-! ## The answer -/

/-- The result of LAUNCH (R273). -/
def launchResult (status slot die : Nat) : DWord := BitVec.ofNat 64 (status % 256 + slot % 256 * 256 + die % 4 * 2 ^ 16)

/-- Refuse the request at the head of a Vestibule: the task is told, or the chain's record. -/
def State.refuse (s : State) (d : Nat) (r : LaunchReq) (status : Nat) : State :=
  let t := s.onDie d fun x => { x with vestibule := x.vestibule.tail }
  match r.record with
  | some a => t.onCtx r.ctx fun c => { c with compHeld := c.compHeld ++ [(a.toNat + 1, statusWord status 0 d false true 3, t.nextId)] }
  | none => t.answerScalar r.tag (launchResult status 0 d)

/-- Set CFGMIS in the context's entry of the driver's table (R314, R322) (DEDUCED, log 27). -/
def State.markCfgmis (s : State) (ctx : Nat) : State :=
  let a := s.pkg.ctxbase.toNat + 128 * ctx + 85
  s.device a [s.byte a ||| 1#8]

/-- Admit an instance whole, in a slot (R262, R333). The deadline of one launched from another die counts from the receipt of its
request (R261). -/
def State.admitInst (s : State) (d : Nat) (r : LaunchReq) (h : Header) (sts : List Stage) (recs : List (Nat × List Rec)) (slot : Nat) : State :=
  let waited := if r.forwarded then s.time - r.received else 0
  let mis := h.config != 0#64 && h.config != s.partConfig
  let i : Inst :=
    { ctx := r.ctx, order := (s.die d).admitted, nstages := h.nstages, handler := h.handler, policy := h.policy, arrays := h.arrays,
      param := h.param, key := h.key, sppages := h.sppages, accslots := h.accslots, itiles := h.itiles, gnodes := h.gnodes,
      landbytes := h.landbytes, gspill := h.gspill, stages := sts, deadline := some (s.dtc d + (r.slack h).toNat - waited), issue := h.issue,
      array := h.array, copy := h.copy, accounts := true, overruns := 0#4, trap := none, queues := recs, inflight := [], nextTask := [],
      retained := [], errFlags := [], cls := 0, compute := 0, memory := 0, whole := false, launchAddr := r.record, cfgmis := mis,
      scratch := [], acc := [], pinned := [], tried := [] }
  let s2 := s.onDie d fun x =>
    { x with vestibule := x.vestibule.tail, admitted := x.admitted + 1, insts := put? x.insts slot (some i) }
  let s3 := if mis then s2.markCfgmis r.ctx else s2
  match r.record with
  | some a => s3.writeVa d r.ctx (a.toNat + 32) (bytesOf 8 (BitVec.ofNat 64 (statusWord 0 slot d mis false 0)))
  | none => s3.answerScalar r.tag (launchResult 0 slot d)

/-- A core draining or under scan, or drained for a scan that is still to come, that would let a request pass checks 6 to 9 (R295). -/
def State.scanHelps (s : State) (d : Nat) (h : Header) (slack : Int) : Option Nat :=
  (s.die d).coresOf.find? fun c => (s.core d c).scan != 0 && !(s.core d c).scanned &&
    s.utilCheck d [(h.issue : Int), (h.array : Int), (h.copy : Int)] slack h.arrays (some c) == 0

/-- Abort the scan of a core, or its drain: CSCAN answers 1, CDRAIN as where the core cannot be drained now, and the core
returns to the pool (R295; DESIGN CHOICE, log 55). -/
def State.abortScan (s : State) (d core : Nat) : State :=
  let t := s.onCore d core fun c => { c with scan := 0, drainAt := none, scanTag := none, drainTags := [] }
  let u := (s.core d core).drainTags.foldl (fun (s : State) tag => s.answerScalar tag 2#64) t
  match (s.core d core).scanTag with
  | some (_, tag) => u.answerScalar tag 1#64
  | none => u

/-- Whether a die asks the host about checks 6 to 9 (R291). -/
def Die.assisted (x : Die) : Bool := (x.sysreg srCcmode).getLsbD 2

/-- The head of a Vestibule, once the die has seen what went before the request and has what it reads (R273, R307, R309). -/
def State.request? (s : State) (d : Nat) : Option LaunchReq :=
  match (s.die d).vestibule with
  | r :: _ => if s.covers d r.vec && s.descSeen d r && (s.descWants d r).isEmpty then some r else none
  | [] => none

/-- ADMISSION (R262): the request at the head is admitted whole, or refused with the first check that
fails. A refusal by checks 6 to 9 that a core under scan would avert aborts the scan instead. -/
def execAdmission (die : Nat) (s : State) : Res :=
  match s.request? die with
  | none => .fault (.notEnabled "ADMISSION")
  | some r =>
    if s.cur.isSome then .fault (.notEnabled "ADMISSION")
    else match s.readDesc die r.ctx r.desc r.vec with
      | none => .next (s.refuse die r 0x0A)
      | some (h, sts, recs) =>
        let early := s.earlyCheck die r h
        if early ≠ 0 then .next (s.refuse die r early)
        else
          let slack := r.slack h
          let own := s.utilCheck die [(h.issue : Int), (h.array : Int), (h.copy : Int)] slack h.arrays none
          match (if (s.die die).assisted then r.answer else some own) with
          | none => .fault (.notEnabled "ADMISSION")
          | some util =>
            if util ≠ 0 then
              match s.scanHelps die h slack with
              | some c => .next ((s.abortScan die c).onDie die fun x => { x with vestibule := { r with answer := none } :: x.vestibule.tail })
              | none => .next (s.refuse die r util)
            else
              let store := s.storageCheck die r.ctx h.sppages (h.accslots + h.itiles) h.gnodes h.gspill h.landbytes
              if store ≠ 0 then .next (s.refuse die r store)
              else match s.freeInstSlots die with
                | [] => .fault (.notEnabled "ADMISSION")
                | slot :: _ => .next (s.admitInst die r h sts recs slot)

/-- HOST_ADMISSION_ANSWER (R291): the host decides checks 6 to 9 of the request at the head: 0, or the code of
the one that fails. -/
def execHostAdmissionAnswer (die status : Nat) (s : State) : Res :=
  match s.request? die with
  | none => .fault (.notEnabled "HOST_ADMISSION_ANSWER")
  | some r =>
    let waits := match s.readDesc die r.ctx r.desc r.vec with
      | some (h, _, _) => s.earlyCheck die r h == 0
      | none => false
    if s.cur.isNone && (s.die die).assisted && r.answer.isNone && waits && decide (status ≤ 4) then
      .next (s.onDie die fun x => { x with vestibule := { r with answer := some status } :: x.vestibule.tail })
    else .fault (.notEnabled "HOST_ADMISSION_ANSWER")

end Sys2Proof.Machine
end

