-- ==== Sys2Proof/Machine/Windows.lean ====
section
/-!
DEFINITION. Replay windows, dependence counters and barriers at their homes: ENQUEUE_OFFER,
ENQUEUE_BACKOFF, COUNTER_DECREMENT and GBAR_ARRIVAL (R241, R249, R267, R268, R274, R275, R309).
-/

namespace Sys2Proof.Machine

/-! ## Replay windows (R268) -/

/-- The window under a number, with the die of its queue. -/
def State.window? (s : State) (id : Nat) : Option (Nat × Window) :=
  s.dies.findSome? fun e => (e.2.windows.find? fun w => w.id == id).map fun w => (e.1, w)

/-- Replace a window; an empty one goes, unless its back-off has not returned to its start by an acceptance. -/
def State.putWindow (s : State) (d : Nat) (w : Window) : State :=
  s.onDie d fun x => { x with windows := (x.windows.map fun q => if q.id = w.id then w else q).filter fun q => !q.entries.isEmpty || q.wait != 0 }

/-- Whether a sender's enqueues may be dropped after 64 refusals: not a counter's, nor the die's (R268, R289). -/
def Sender.drops : Sender → Bool
  | .core _ _ => true
  | .counter _ _ => false
  | .die => false

/-- The core of a sender. -/
def Sender.coreOf : Sender → Nat
  | .core _ c => c
  | .counter _ _ => 0
  | .die => 0

/-- The first back-off of a stage, or twice the last, up to its cap. -/
def Stage.nextWait (st : Stage) (w : Nat) : Nat := if w = 0 then st.backoff else min (2 * w) st.backcap

/-- Drop an enqueue refused 64 times: its words go to the spill area, a record to the handler, or to the host where a
handler's task sent it (R268, R289, R290). -/
def State.qnack (s : State) (d : Nat) (w : Window) (e : Waiting) : State :=
  match s.inst? d w.inst with
  | none => s
  | some i =>
    let (a, s2) := s.putList d i.ctx (bytesOfWords e.record.words)
    let f : FaultInfo := ⟨codeQnack, BitVec.ofNat 64 (w.stage % 16 + w.src.coreOf * 2 ^ 16), 0#64⟩
    s2.reportList d w.inst i.ctx e.handler e.root f
      (recordWords f 2 w.stage w.inst noTask 0#32 0#32 0#64 0#64 0 0 0 (BitVec.ofNat 64 (a.getD 0)) e.record.words.length) a

/-- Count a refusal of the window's first enqueue, and on its first offer of those of the same commit that
were offered with it; those refused 64 times are dropped (DEDUCED, log 24). -/
def State.refusal (s : State) (d : Nat) (w : Window) (st : Stage) : State :=
  match w.entries with
  | [] => s
  | h :: _ =>
    let together := fun (e : Waiting) => h.refusals == 0 && e.refusals == 0 && e.flight == h.flight && e.flight != 0
    let counted := (w.entries.zip (List.range w.entries.length)).map fun e =>
      if e.2 = 0 || together e.1 then { e.1 with refusals := e.1.refusals + 1 } else e.1
    let gone := counted.filter fun e => w.src.drops && decide (64 ≤ e.refusals)
    let wait := st.nextWait w.wait
    let t := s.putWindow d { w with entries := counted.filter (fun e => !(w.src.drops && decide (64 ≤ e.refusals))), wait := wait, due := some (s.time + wait) }
    gone.foldl (fun (s : State) e => s.qnack d w e) t

/-- Offer a window's first enqueue: the queue takes it where it holds fewer than DEPTH records, and the
back-off returns to its start; else it refuses. -/
def State.offer (s : State) (d : Nat) (w : Window) : State :=
  match w.entries, (s.inst? d w.inst).bind fun i => (i.stages[w.stage]?).map fun st => (i, st) with
  | e :: rest, some (i, st) =>
    if (look [] i.queues w.stage).length < st.depth then
      (s.onInst d w.inst fun i => { i with queues := alter [] i.queues w.stage (· ++ [e.record]) }).putWindow d
        { w with entries := rest, wait := 0, due := none }
    else s.refusal d w st
  | _, _ => s

/-- Whether the effects that a window's first enqueue follows are visible: those of the tasks that a
fault record reports (R289), and what its sender's die had seen (R309). -/
def State.mayOffer (s : State) (d : Nat) (w : Window) : Bool :=
  match w.entries with
  | [] => false
  | e :: _ => s.covers d e.record.vec && (w.src != .die || !s.drain.any fun o => o.who.root == e.root) && e.after.all (fun n => !s.outstanding n)
      && (match s.inst? d w.inst with
          | some i => (s.ctx i.ctx).run != 3
          | none => false)

def execEnqueueOffer (win : Nat) (s : State) : Res :=
  match s.window? win with
  | some (d, w) => if s.cur.isNone && w.due.isNone && s.mayOffer d w then .next (s.offer d w) else .fault (.notEnabled "ENQUEUE_OFFER")
  | none => .fault (.notEnabled "ENQUEUE_OFFER")

/-- ENQUEUE_BACKOFF (R268): the back-off ends, and the refused enqueue is sent again. -/
def execEnqueueBackoff (win : Nat) (s : State) : Res :=
  match s.window? win with
  | some (d, w) =>
    let due := match w.due with
      | some t => decide (t ≤ s.time)
      | none => false
    if s.cur.isNone && due && s.mayOffer d w then .next (s.offer d { w with due := none }) else .fault (.notEnabled "ENQUEUE_BACKOFF")
  | none => .fault (.notEnabled "ENQUEUE_BACKOFF")

/-! ## Dependence counters (R274, R275) -/

/-- Wake the records that wait on a counter; they take the vector of its die (R309). -/
def State.wakeCounter (s : State) (id : DWord) : State :=
  let v := s.vector (idDie id)
  { s with gangs := s.gangs.map fun g =>
      if g.phase == .parked && g.wakeKind == 6 && g.wakeOp == id then
        { g with woken := true, causal := mergeVec g.causal v } else g }

/-- A counter fires: its record is enqueued, and those that wait are woken. -/
def State.fire (s : State) (id : DWord) (c : Counter) : State :=
  let d := idDie id
  let t := (s.setCounter id { c with count := 0, fired := true, live := c.armed.isSome, armed := none }).wakeCounter id
  match c.armed with
  | some (e, inst, stage, ws) =>
    if (t.inst? e inst).isSome then t.send (.counter d (counterSlot id)) e inst stage 0 0 ⟨ws, none, none, t.vector d, none, none, false⟩ else t
  | none => t

/-- Decrement a counter by `m`: one that is not live is counted as an error, one that stands at zero does not
change. -/
def State.decrement (s : State) (id : DWord) (m : Nat) : State :=
  match s.counter? id with
  | none => s.countError (idDie id) 0x101
  | some c =>
    if c.count = 0 then s
    else
      let k := { c with count := c.count - m, progress := c.progress + 1#32 }
      if k.count = 0 then s.fire id k else s.setCounter id k

/-- COUNTER_DECREMENT (R274, R275): a signal reaches its counters' home, lane by lane. -/
def execCounterDecrement (id : Nat) (s : State) : Res :=
  match s.drain.find? fun o => o.id == id with
  | some o =>
    match o.cargo with
    | .eff (.depsig ps) =>
      if s.cur.isNone && o.sent && s.covers (Eff.target (.depsig ps) o.who.die) o.vec then
        .next (ps.foldl (fun (s : State) p => s.decrement p.1 p.2) (s.dropOut id))
      else .fault (.notEnabled "COUNTER_DECREMENT")
    | _ => .fault (.notEnabled "COUNTER_DECREMENT")
  | none => .fault (.notEnabled "COUNTER_DECREMENT")

/-! ## Barriers (R241) -/

/-- GBAR_ARRIVAL: the flight's effects are visible, and its members' arrival is counted. A gang whose group is
gone waits no longer. One that is on its port yet goes on there where the barrier has been completed, else leaves it (R241). -/
def execGbarArrival (gid : Nat) (s : State) : Res :=
  match s.gang? gid with
  | none => .fault (.notEnabled "GBAR_ARRIVAL")
  | some g =>
    if s.cur.isSome || g.phase != .parked || g.wakeKind != 5 || g.hit || g.woken || s.underway g false then .fault (.notEnabled "GBAR_ARRIVAL")
    else .next ((s.arrive g).settlePart gid)

end Sys2Proof.Machine
end

