-- ==== Sys2Proof/Machine/Copy.lean ====
section
/-!
DEFINITION. The copy engines: COPY_BEAT and COPY_NOTIFY (R167, R204, R233, R235, R269, R277, R283, R326,
R330, R331).
-/

namespace Sys2Proof.Machine

/-! ## The command at work -/

/-- The command at the head of a core's copy queue; `key` is context * 5 + queue. -/
def Core.copyHead (c : Core) (key : Nat) : Option (Nat × Block × Nat × Who) :=
  match (look [] c.queues key).head? with
  | some (.copy seq blk node w _) => some (seq, blk, node, w)
  | _ => none

/-- How far a command is. -/
def Core.progress (c : Core) (key : Nat) : Copying := (look? c.copying key).getD ⟨0, 0, none, []⟩

/-- The head of a queue is over: the completion sequence rises, and its node's reference goes (R162, R179) (DEDUCED, log 36). -/
def State.copyOver (s : State) (d core key seq : Nat) : State :=
  ((s.onCore d core fun c => { c with queues := put [] c.queues key (look [] c.queues key).tail, copying := erase c.copying key }).seqDone
    d core (key / 5) (key % 5) seq).sweep d core

/-- Whether earlier writes of a command are still on their way. -/
def State.copySent (s : State) (p : Copying) : Bool := p.outs.any fun n => s.drain.any fun o => o.id == n

/-- A fault stops a command: its record goes to the handler, ERR is set, the follow-on is dropped (R167). Its queue goes on once its
earlier writes are visible (R331). -/
def State.copyFault (s : State) (d core key seq : Nat) (w : Who) (code : Nat) (info : DWord) : State :=
  let t := s.engineFault w (key % 5) seq code info 0#64 0
  if t.copySent ((t.core d core).progress key) then t else t.copyOver d core key seq

/-! ## Geometry (R164, R167) -/

/-- The 64-byte lines that `n` bytes at an address touch. -/
def linesOf (a : DWord) (n : Nat) : Nat := (a.toNat % 64 + n + 63) / 64

/-- The address of a row. -/
def rowAt (base : DWord) (pitch row : Nat) : DWord := base + BitVec.ofNat 64 (row * pitch)

/-- The beats of a row: the lines at the source or at the destination, whichever are more. -/
def Block.beats (b : Block) (row : Nat) : Nat :=
  max (linesOf (rowAt b.src b.spitch row) b.rowBytes) (linesOf (rowAt b.dst b.dpitch row) b.rowBytes)

/-- The bytes of a row that a beat moves: their first, and how many. A beat is a line of the side that has
more lines (DEDUCED, log 26). -/
def Block.span (b : Block) (row beat : Nat) : Nat × Nat :=
  let x := rowAt b.src b.spitch row
  let y := rowAt b.dst b.dpitch row
  let a := (if linesOf y b.rowBytes ≤ linesOf x b.rowBytes then x else y).toNat % 64
  let lo := 64 * beat - a
  (lo, min b.rowBytes (64 * (beat + 1) - a) - lo)

/-- A stretch of bytes cut where lines end: address, offset and length. -/
def cutLines (a : DWord) (off n : Nat) : Nat → List (DWord × Nat × Nat)
  | 0 => []
  | k + 1 =>
    if n = 0 then []
    else
      let m := min n (64 - a.toNat % 64)
      (a, off, m) :: cutLines (a + BitVec.ofNat 64 m) (off + m) (n - m) k

/-! ## Reading and writing -/

/-- Why a beat cannot be moved: a fault, or that its data is not there yet. -/
inductive Halt where
  | fault (code : Nat) (info : DWord)
  | page (a : DWord) (st : Bool)
  | wait
  deriving DecidableEq, Repr

/-- The place of a piece for a command, or why there is none. -/
def State.copyPlace (s : State) (w : Who) (a : DWord) (kind : Nat) : (Halt ⊕ Loc) × State :=
  match s.findNow w.die w.core w.inst w.ctx a kind with
  | (.at_ l _, t) => (.inr l, t)
  | (.miss _, t) => (.inl (.page a (kind != 0)), t)
  | (.bad c f, t) => (.inl (if c = codePage then .page a (kind != 0) else .fault c (accessInfo f (kind != 0) 0 a)), t)

/-- Read the source bytes of a beat. `ext` holds those that come from another package; a commit's effects on the core's scratchpad are
seen whole or not at all (R169). -/
def State.copyRead (s : State) (w : Who) (ext : List Byte) : List (DWord × Nat × Nat) → List Byte → (Halt ⊕ List Byte) × State
  | [], bs => (.inr bs, s)
  | (a, off, n) :: rest, bs =>
    if !(s.reachWants w.die w.core w.inst w.ctx a n 0).isEmpty then (.inl .wait, s)
    else match s.copyPlace w a 0 with
    | (.inl h, t) => (.inl h, t)
    | (.inr l, t) =>
      let lost := match l with
        | .phys pa => t.outOfReach w.die pa
        | l => t.pathDown w.die l
      let open_ := match l with
        | .scratch c _ => c == w.core && t.halfDone w.die w.core 0 []
        | _ => false
      if lost then (.inl (.fault codeProt (accessInfo 1 false 0 a)), t)
      else if t.badN w.die w.inst l n then (.inl (.fault codePoison (accessInfo 0 false 0 a)), t)
      else if open_ then (.inl .wait, t)
      else match l with
        | .fabric _ _ =>
          let got := (ext.drop off).take n
          if got.length = n then t.copyRead w ext rest (bs ++ got) else (.inl .wait, t)
        | _ => ((t.pinFor w.die w.inst l).crossed w.die w.core l).copyRead w ext rest (bs ++ t.seal w.die w.core w.ctx a.toNat l (t.readN w.die w.inst l n))

/-- The places that a piece of a multicast goes to, in position order (R235). -/
def State.castPlaces (s : State) (w : Who) (mask : Word) (a : DWord) : List Nat → Halt ⊕ List Loc
  | [] => .inr []
  | p :: ps =>
    if !mask.getLsbD p then s.castPlaces w mask a ps
    else match s.scratchAt w.die w.core w.inst (.cluster p (field a 0 48)), s.castPlaces w mask a ps with
      | .at_ l _, .inr ls => .inr (l :: ls)
      | .at_ _ _, .inl h => .inl h
      | .bad c f, _ => .inl (.fault c (accessInfo f true 0 a))
      | .miss _, _ => .inl .wait

/-- Whether a line is poisoned at its home. -/
def State.homeBad (s : State) : Loc → Bool
  | .phys pa => s.poisoned pa
  | _ => false

/-- The places of the destination pieces of a beat: address, offset, length and places. -/
def State.copyTargets (s : State) (w : Who) (b : Block) : List (DWord × Nat × Nat) → (Halt ⊕ List (DWord × Nat × Nat × List Loc)) × State
  | [] => (.inr [], s)
  | (a, off, n) :: rest =>
    let here : (Halt ⊕ List Loc) × State :=
      if !b.mcast && !(s.reachWants w.die w.core w.inst w.ctx a 0 (if b.redop = 0 then 1 else 3)).isEmpty then (.inl .wait, s)
      else if b.mcast then (s.castPlaces w b.mcmask a (List.range 16), s)
      else match s.copyPlace w a (if b.redop = 0 then 1 else 3) with
        | (.inl h, t) => (.inl h, t)
        | (.inr l, t) => if b.redop != 0 && (t.homeBad l || (match l with
            | .phys _ => false
            | l => t.badN w.die w.inst l n)) then (.inl (.fault codePoison (accessInfo 0 true 0 a)), t) else (.inr [l], t)
    match here with
    | (.inl h, t) => (.inl h, t)
    | (.inr ls, t) => match t.copyTargets w b rest with
      | (.inl h, u) => (.inl h, u)
      | (.inr more, u) => (.inr ((a, off, n, ls) :: more), u)

/-- The atomic that combines an element of a reduction (R330). -/
def redMinor (redop : Nat) : Nat := if redop = 1 then 10 else if redop = 2 then 16 else if redop = 3 then 17 else 0

/-- The acts that bring a piece's bytes to a place. -/
def Block.actsAt (b : Block) (a : DWord) (l : Loc) (bs : List Byte) : List Act :=
  if b.redop = 0 then [.write ⟨l, a, bs, false⟩]
  else (List.range (bs.length / b.elem)).map fun i =>
    .atom (redMinor b.redop) ⟨0, l.plus (i * b.elem), a + BitVec.ofNat 64 (i * b.elem), dwordOfBytes ((bs.drop (i * b.elem)).take b.elem), 0#64⟩ 0

/-- Whether the rows of a plain copy, up to `done` bytes of `row`, have written a byte of the destination. -/
def Block.wrote (b : Block) (row done : Nat) (a : DWord) : Bool :=
  (List.range (row + 1)).any fun r =>
    let off := (a - rowAt b.dst b.dpitch r).toNat
    decide (off < if r = row then done else b.rowBytes)

/-- Send a command's acts to one place's home; they are of no flight. Answers the number that is on its way,
or none where they are performed. -/
def State.engineSend (s : State) (w : Who) (as : List Act) (clears : Bool) : Option Nat × State :=
  let (id, t) := s.fresh
  let o : Out := ⟨id, [id], [], { w with root := 0, lanes := [], flight := 0 }, false, clears, s.vector w.die, .acts as, [], false, [], []⟩
  let u := ({ t with drain := t.drain ++ [o] } : State).sendOut o
  (if u.drain.any fun q => q.id == id then some id else none, u)

/-- Write a beat's pieces: of a multicast, to every destination at one moment (R235; DESIGN CHOICE, log 80). -/
def State.copyWrite (s : State) (w : Who) (b : Block) (row done : Nat) (bs : List Byte) (base : Nat) :
    List (DWord × Nat × Nat × List Loc) → List Nat → List Nat × State
  | [], ids => (ids, s)
  | (a, off, n, ls) :: rest, ids =>
    let data := (bs.drop (off - base)).take n
    let line := BitVec.ofNat 64 (a.toNat / 64 * 64)
    let (ids, t) := ls.foldl (fun (acc : List Nat × State) l =>
      let clears := b.redop == 0 && acc.2.homeBad l && (List.range 64).all fun i => b.wrote row done (line + BitVec.ofNat 64 i)
      let (id, u) := acc.2.engineSend w (b.actsAt a l data) clears
      (acc.1 ++ id.toList, u)) (ids, s)
    t.copyWrite w b row done bs base rest ids

/-- A command whose write cannot reach its home stops with PROT (R167, R306, R329). -/
def State.enginePath (s : State) (id : Nat) (va : DWord) : State :=
  match s.dies.findSome? fun e => e.2.cores.findSome? fun c => (c.2.copying.find? fun q => q.2.outs.contains id).bind fun q =>
      (c.2.copyHead q.1).map fun h => (e.1, c.1, q.1, h.1, h.2.2.2) with
  | some (d, core, key, seq, w) => if s.errored w.die w.inst w.core (key % 5) then s else s.copyFault d core key seq w codeProt (accessInfo 1 true 0 va)
  | none => s

/-! ## COPY_BEAT -/

/-- Whether a context's engines may work: it runs, or it drains and a row is unfinished (R277). -/
def State.enginesRun (s : State) (ctx : Nat) (midRow : Bool) : Bool := (s.ctx ctx).run == 1 || ((s.ctx ctx).run == 2 && midRow)

/-- Whether the command at the head of a context's queue is the one that the core's copy queue, which all contexts share, has come to: a
command starts once the one before it has completed, and no join stands before it (R163, R168, R331). -/
def State.copyTurn (s : State) (d core key : Nat) : Bool :=
  let c := s.core d core
  (look [] c.queues key).head?.all fun h => !s.olderIn c key h.age

/-- The request to another package for the beat that a command is at (R327). -/
def State.askedCopy (s : State) (d core key : Nat) (p : Copying) : Option FabOut :=
  s.pkg.fabricOut.find? fun f => f.die == d && f.client == .copy core key p.row p.beat

/-- Ask for a page that a copy engine needs (R167, R292). -/
def State.copyPage (s : State) (d core key : Nat) (w : Who) (p : Copying) (a : DWord) (st : Bool) : State :=
  let (tag, t) := s.request d 1 w.ctx (BitVec.ofNat 64 (field a 0 56)) (accessInfo 0 st 0 a) (some (.copy core (key % 5)))
  t.onCore d core fun c => { c with copying := put? c.copying key (some { p with wait := some tag }) }

/-- Move the next beat of the command at the head of a queue. -/
def State.copyBeat (s : State) (d core key : Nat) (ext : List Byte) (seq : Nat) (b : Block) (w : Who) : Option State :=
  let p := (s.core d core).progress key
  let (lo, n) := b.span p.row p.beat
  let from_ := rowAt b.src b.spitch p.row + BitVec.ofNat 64 lo
  let to_ := rowAt b.dst b.dpitch p.row + BitVec.ofNat 64 lo
  match s.copyRead w ext (cutLines from_ 0 n 3) [] with
  | (.inl (.fault c info), t) => some (t.copyFault d core key seq w c info)
  | (.inl (.page a st), t) => some (t.copyPage d core key w p a st)
  | (.inl .wait, _) => none
  | (.inr bs, t) =>
    match t.copyTargets w b (cutLines to_ 0 n 3) with
    | (.inl (.fault c info), u) => some (u.copyFault d core key seq w c info)
    | (.inl (.page a st), u) => some (u.copyPage d core key w p a st)
    | (.inl .wait, _) => none
    | (.inr ts, u) =>
      let (ids, v) := u.copyWrite w b p.row (lo + n) bs 0 ts p.outs
      let next := if p.beat + 1 < b.beats p.row then { p with beat := p.beat + 1, outs := ids } else { p with row := p.row + 1, beat := 0, outs := ids }
      some ((v.onCore d core fun c => { c with copying := put? c.copying key (some next) }).charge w.die w.inst w.stage 2 w.tasks 1)

/-- COPY_BEAT (R167): one beat of the command at the head of queue `q` (context * 5 + queue). `ext` holds the
source bytes of the beat where they come from another package, in the order of its requests (R327), and nothing where that package refuses
the access: PROT (R325; DEDUCED, log 67). A command of an instance whose ERR flag is set is discarded. -/
def execCopyBeat (die core q : Nat) (ext : List Byte) (s : State) : Res :=
  match (s.core die core).copyHead q with
  | none => .fault (.notEnabled "COPY_BEAT")
  | some (seq, b, _, w) =>
    let p := (s.core die core).progress q
    if s.cur.isSome || !s.enginesRun w.ctx (p.beat != 0) || !s.copyTurn die core q then .fault (.notEnabled "COPY_BEAT")
    else if s.errored w.die w.inst w.core (q % 5) then (if s.copySent p then .fault (.notEnabled "COPY_BEAT") else .next (s.copyOver die core q seq))
    else if p.wait.isSome || decide (b.rows ≤ p.row) then .fault (.notEnabled "COPY_BEAT")
    else match s.askedCopy die core q p with
      | some f =>
        if !s.isFirst f then .fault (.notEnabled "COPY_BEAT")
        else if ext.isEmpty then
          .next ((s.copyFault die core q seq w codeProt (accessInfo 0 false 0 (rowAt b.src b.spitch p.row + BitVec.ofNat 64 (b.span p.row p.beat).1))).dropFab f.id)
        else (match s.copyBeat die core q ext seq b w with
          | some t => .next (t.dropFab f.id)
          | none => .fault (.notEnabled "COPY_BEAT"))
      | none => match s.copyBeat die core q [] seq b w with
        | some t => .next t
        | none => .fault (.notEnabled "COPY_BEAT")

/-! ## COPY_NOTIFY -/

/-- Release a command's follow-on node to the matrix queue (R204). -/
def State.followOn (s : State) (b : Block) (node : Nat) (w : Who) : State :=
  if b.follow = 1 then s.queueEval w node [] fun n => .follow n
  else if b.follow = 2 then
    let i32 := ((look? (s.core w.die w.core).nodes node).map fun x => isInt x.fmt).getD false
    s.queueEval w node [] fun n => .macc n b.slot i32 false (if b.depctr = 0#64 then none else some b.depctr)
  else s

/-- COPY_NOTIFY (R167): all payload is visible; the notify word is written, the follow-on released, and the
command completes. -/
def execCopyNotify (die core q : Nat) (s : State) : Res :=
  match (s.core die core).copyHead q with
  | none => .fault (.notEnabled "COPY_NOTIFY")
  | some (seq, b, node, w) =>
    let p := (s.core die core).progress q
    if s.cur.isSome || p.wait.isSome || decide (p.row < b.rows) || !s.enginesRun w.ctx false || s.errored w.die w.inst w.core (q % 5)
        || !s.copyTurn die core q || s.copySent p then .fault (.notEnabled "COPY_NOTIFY")
    else if !b.notify then .next ((s.followOn b node w).copyOver die core q seq)
    else match s.scratchAt w.die w.core w.inst (regionOf b.naddr) with
      | .at_ l _ =>
        let t := (s.engineSend w [.write ⟨l, b.naddr, bytesOf 4 (zext64 b.nval), false⟩] false).2
        .next (((t.followOn b node w).copyOver die core q seq).charge w.die w.inst w.stage 2 w.tasks 1)
      | .bad c f => .next (s.copyFault die core q seq w c (accessInfo f true 0 b.naddr))
      | .miss _ => .fault (.notEnabled "COPY_NOTIFY")

end Sys2Proof.Machine
end

