-- ==== Sys2Proof/Machine/Units.lean ====
section
/-!
DEFINITION. The array's events and the die's own: ARRAY_OPERAND_STEP, EMULATED_STEP_DONE, DEADMISS,
WAITFOR_BUILD, the scans and drains of cores, shootdowns, sampling, scrubbing and power (R198, R222 to
R224, R250, R270, R283, R287, R291 to R300, R322).
-/

namespace Sys2Proof.Machine

/-! ## The array (R198, R222 to R224) -/

/-- The evaluation at the head of a context's matrix queue. -/
def Core.evalHead (c : Core) (key : Nat) : Option Eval :=
  match (look [] c.queues key).head? with
  | some (.eval id) => c.evals.find? fun v => v.id == id
  | _ => none

/-- Whether an evaluation may read: a forcing one when the forcing gang's earlier commits, wherever they were, and those of the core that
preceded its latest commit are performed, with the loads of its flight that come before it, of TSO pages where its leaves are of none; a
command of queue 4 when the effects are that it follows (R171, R191, R195, R203, R313). -/
def State.afterCommits (s : State) (v : Eval) : Bool :=
  match v.kind with
  | .force | .read _ _ _ _ _ _ | .store | .auto =>
    !(s.drain.any fun o => o.who.flight != 0 && decide (o.id < v.who.flight) && o.who.root == v.who.root && meet o.who.lanes v.who.lanes)
      && (((s.gang? v.gid).map (·.owes)).getD []).all (s.over v.who.ctx)
      && ((s.gang? v.gid).map fun g => (g.accs.all fun a => a.ready || decide (v.id < a.id))
          && g.reqs.all fun q => !decide (q.acc < v.id) || !(q.tso || s.tsoNode v)).getD true
  | .macc _ _ _ _ _ | .follow _ => v.after.all (s.over v.who.ctx)

/-- Whether an evaluation may occupy its core's array: an instance works on no more arrays at once than it has
declared (R215). -/
def State.mayOccupy (s : State) (v : Eval) : Bool :=
  v.planned || (match s.inst? v.who.die v.who.inst with
    | some i =>
      let at_ := s.arraysOf (homeInst v.who.die v.who.inst)
      at_.contains (v.who.die, v.who.core) || decide (at_.length < i.arrays)
    | none => true)

/-- The evaluations that the array of a core could work on, one for each context that runs: for one that drains it takes no step more
(R224, R277). -/
def State.arrayReady (s : State) (d core : Nat) : List Eval :=
  let c := s.core d core
  (c.queues.filter fun e => e.1 % 5 == 4).filterMap fun e => (c.evalHead e.1).bind fun v =>
    if v.wait.isNone && !v.busy && s.afterCommits v && (s.ctx v.who.ctx).run == 1 && s.mayOccupy v && s.stepOpen v then some v else none

/-- The deadline of an evaluation's instance. -/
def State.evalDeadline (s : State) (v : Eval) : Nat :=
  let w := v.who
  (((s.inst? w.die w.inst).bind (·.deadline)).map fun t =>
    ((t : Int) + (s.die w.die).dtcBase - (s.die (homeInst w.die w.inst).1).dtcBase).toNat).getD (2 ^ 80)

/-- The evaluations of the earliest deadline that a core's array could take a step of next (R224). -/
def State.arrayBest (s : State) (d core : Nat) : List Eval :=
  let ready := s.arrayReady d core
  ready.filter fun v => ready.all fun w => decide (s.evalDeadline v ≤ s.evalDeadline w)

/-- The scratchpad places that the next step of an evaluation reads, one list for each operand (R234). -/
def State.scratchReads (s : State) (v : Eval) : List (List Loc) :=
  match v.steps.head? with
  | none => []
  | some st => ((v.pnodes[st.p]?.map (·.op.kids)).getD []).filterMap fun k =>
      let ls := (v.stepReads st).flatMap fun x => if x.1 = k then (match (v.pnodes[k]?.map (·.op) : Option POp) with
        | some (.leaf d r0 c0 t) => (s.elemAddrs v.who d (r0 + if t then x.2.2 else x.2.1) (c0 + if t then x.2.1 else x.2.2)).filterMap fun a =>
            match s.peek v.who.die v.who.core v.who.inst v.who.ctx a.1 0 with
            | .at_ (.scratch c o) _ => some (.scratch c o)
            | _ => none
        | _ => []) else []
      if ls.isEmpty then none else some ls

/-- The cores of a cluster whose arrays ask for the same operand step of a scratchpad tile for the same context as an
evaluation's next step, with that evaluation of theirs (R234). -/
def State.sameReads (s : State) (d core : Nat) (v : Eval) : List Eval :=
  let mine := s.scratchReads v
  let x := s.die d
  if mine.isEmpty then []
  else x.coremap.filterMap fun e =>
    if e.1 = core || x.cluster e.1 != x.cluster core then none
    else (s.arrayBest d e.1).head?.bind fun u =>
      if u.who.ctx = v.who.ctx && (s.scratchReads u).any mine.contains then some u else none

/-- Let those of some evaluations that ask within 8 cycles, which is open, take their step with one multicast read
(R234; DESIGN CHOICE, log 39). -/
def State.multicast (s : State) : List Eval → State
  | [] => s
  | u :: us =>
    let (i, t) := s.pick 2
    (if i = 1 then t.arrayStep u else t).multicast us

/-- ARRAY_OPERAND_STEP (R224): the next step of the context with the earliest deadline; other cores of the cluster
that ask for the same operand step of a scratchpad tile may be served by the same read (R234). -/
def execArrayOperandStep (die core : Nat) (s : State) : Res :=
  let best := s.arrayBest die core
  if s.cur.isSome then .fault (.notEnabled "ARRAY_OPERAND_STEP")
  else
    let (i, t) := s.pick best.length
    match best[i]? with
    | some v => .next ((t.arrayStep v).multicast (s.sameReads die core v))
    | none => .fault (.notEnabled "ARRAY_OPERAND_STEP")

/-- EMULATED_STEP_DONE (R222, R223): the value of a step comes back, from firmware, or from the host where it
emulates; the host's is taken once its completion is reported through EVDONE (R291). A context that drains or is switched out takes it when
it is resumed. -/
def execEmulatedStepDone (die core : Nat) (host : List Num) (s : State) : Res :=
  match (s.core die core).evals.find? fun v => v.busy && v.back.isNone with
  | some v =>
    let assisted := ((s.die die).sysreg srCcmode).getLsbD 1
    if s.cur.isSome || (!host.isEmpty && !assisted) then .fault (.notEnabled "EMULATED_STEP_DONE")
    else if assisted then .next (s.putEval { v with back := some host })
    else
      let s := s.onDie die fun x => { x with services := x.services.filter fun e => e.2 != .step core v.id }
      .next (if (s.ctx v.who.ctx).run = 2 || (s.ctx v.who.ctx).run = 3 then s.putEval { v with back := some host } else s.emulatedStep v host)
  | none => .fault (.notEnabled "EMULATED_STEP_DONE")

/-! ## Deadlines (R270) -/

/-- Whether an instance has a dispatched task that has not retired (DEDUCED, log 23). -/
def State.hasTasks (s : State) (d slot : Nat) : Bool :=
  s.gangs.any (fun g => g.isOf (d, slot))
  || (s.die d).cores.any fun e => e.2.gathers.any fun q => q.inst == slot

/-- Whether an instance misses its deadline now. -/
def State.misses (s : State) (d slot : Nat) : Bool :=
  match s.inst? d slot with
  | some i => (match i.deadline with
      | some t => decide (t < s.dtc d)
      | none => false) && !i.overruns.getLsbD 3 && (s.ctx i.ctx).run != 3 && s.hasTasks d slot
  | none => false

/-- DEADMISS (R270): the die time exceeds a deadline; POLICY decides what follows. -/
def execDeadmiss (die slot : Nat) (s : State) : Res :=
  if s.cur.isNone && s.misses die slot then .next (s.strike die slot 3 ⟨codeDeadmiss, BitVec.ofNat 64 (s.dtc die), 0#64⟩ noTask)
  else .fault (.notEnabled "DEADMISS")

/-! ## Wait-for graphs (R297) -/

/-- Whether a gang is parked on something that another must do. -/
def Gang.waits (g : Gang) : Bool :=
  g.phase == .parked && !g.woken && (g.wakeKind == 2 || g.wakeKind == 3 || g.wakeKind == 4 || g.wakeKind == 5 || g.wakeKind == 6 || g.wakeKind == 7)

/-- The progress counter of a gang's wake object. -/
def State.wakeProgress (s : State) (g : Gang) : Nat :=
  match g.wakeKind with
  | 2 => (g.watched.map fun l => (look 0#32 (s.die g.die).watched l.key).toNat).getD 0
  | 5 => ((s.group? g.wakeOp).map fun q => q.progress.toNat).getD 0
  | 6 => ((s.counter? g.wakeOp).map fun c => c.progress.toNat).getD 0
  | 7 => ((s.core g.die g.core).doneSeq g.ctx g.wakeOp.toNat).toNat
  | _ => 0

/-- What a build records of some parked gangs: each one's number, what it waits for, with the value or the sequence wanted where its
operand names one, and the progress of that. -/
def State.graphOf (s : State) (gs : List Gang) : List Nat :=
  gs.flatMap fun g => [g.gid, g.wakeKind, g.wakeOp.toNat, if g.wakeKind = 2 || g.wakeKind = 7 then g.wakeOp2.toNat else 0, s.wakeProgress g]

/-- Whether an engine command, an enqueue in a window, or one in a counter table, is of a context. -/
def State.busyCtx (s : State) (ctx : Nat) : Bool :=
  s.dies.any fun e =>
    e.2.cores.any (fun c => c.2.queues.any (fun q => q.1 / 5 == ctx && !q.2.isEmpty) || c.2.evals.any fun v => v.who.ctx == ctx)
    || e.2.windows.any fun w => !w.entries.isEmpty && ((s.inst? e.1 w.inst).map fun i => i.ctx == ctx).getD false

/-- The gangs of a context when every one of its tasks waits, whatever its die: none where it is not so (DEDUCED, log 23). -/
def State.stalled (s : State) (ctx : Nat) : Option (List Gang) :=
  let gs := s.gangs.filter fun g => g.ctx == ctx
  if gs.isEmpty || !gs.all (·.waits) || s.busyCtx ctx
      || s.dies.any (fun x => x.2.cores.any fun e => e.2.gathers.any fun q => ((s.inst? x.1 q.inst).map fun i => i.ctx == ctx).getD false)
    then none else some gs

/-- Whether every sub-gang of a gang's task gang waits at a rendezvous and no key can complete. -/
def State.stuckMeeting (s : State) (g : Gang) : Bool :=
  let gs := s.gangs.filter fun h => h.root == g.root
  gs.all (fun h => h.waits && (h.wakeKind == 3 || h.wakeKind == 4)) && gs.all fun h => match s.meetKey h with
    | some (_, w, _, _, _) => w &&& ~~~((s.meeting h).foldl (fun m q => m ||| q.arch.slices) 0#8) != 0#8
    | none => false

/-- Report DEADLOCK of an instance (R297). -/
def State.deadlock (s : State) (d slot : Nat) : State :=
  let gs := s.gangs.filter fun g => g.isOf (d, slot) && g.phase == .parked
  let low := gs.foldl (fun (m : Nat × Nat × Nat) g => g.taskNums.foldl (fun m n => if n < m.1 then (n, g.wakeKind, g.stage) else m) m) (2 ^ 32, 0, 0)
  s.instanceRecord d slot ⟨codeDeadlock, BitVec.ofNat 64 (gs.length % 65536 + low.2.1 * 65536 + low.1 % 2 ^ 32 * 2 ^ 32), 0#64⟩ (low.1 % 2 ^ 32) low.2.2

/-- The handler gangs of an instance under TRAP, when they all wait and no engine command or enqueue of the context is under way. -/
def State.stalledHandler (s : State) (d slot : Nat) (i : Inst) : Option (List Gang) :=
  let gs := s.gangs.filter fun g => g.isOf (d, slot) && g.stage == i.handler
  if i.trap.isNone || gs.isEmpty || !gs.all (·.waits) || s.busyCtx i.ctx then none else some gs

/-- WAITFOR_BUILD (R297): the graphs of this build are compared with the last one's, and deadlocks reported. -/
def execWaitforBuild (die : Nat) (s : State) : Res :=
  let x := s.die die
  let ctxs := (x.insts.map fun e => e.2.ctx).eraseDups
  let now := (ctxs.filterMap fun c => (s.stalled c).map fun gs => (c, s.graphOf gs))
    ++ x.insts.filterMap fun e => (s.stalledHandler die e.1 e.2).map fun gs => (1000 + e.1, s.graphOf gs)
  let same := (now.filter fun e => look? x.lastGraph e.1 == some e.2).map Prod.fst
  let dead := x.insts.filter fun e => (same.contains e.2.ctx && s.hasTasks die e.1) || same.contains (1000 + e.1)
    || s.gangs.any fun g => g.isOf (die, e.1) && s.stuckMeeting g
  .next (dead.foldl (fun (s : State) e => s.deadlock die e.1) (s.onDie die fun x => { x with lastGraph := now }))

/-! ## Sampling (R298, R299) -/

/-- The words of a SAMPLE after its header. -/
def sampleBody (die : Nat) (t : Nat) (q : SampleData) : List DWord :=
  [sampWord 1 q.header.toNat, sampWord 2 q.flight.toNat,
   sampWord 3 (q.fetch.toNat + q.issue.toNat * 2 ^ 16 + q.operand.toNat * 2 ^ 32),
   sampWord 4 (q.execute.toNat + q.writeBack.toNat * 2 ^ 16 + q.passes.toNat * 2 ^ 32 + q.level.toNat * 2 ^ 40),
   sampWord 5 (q.port.toNat + q.core.toNat * 2 ^ 2 + q.index.toNat * 2 ^ 9 + bit q.discarded * 2 ^ 13 + die % 4 * 2 ^ 14
     + q.slot.toNat * 2 ^ 24 + q.ctx.toNat * 2 ^ 32),
   sampWord 6 t, sampWord 7 0]

/-- Whether a tagged instruction's flight has been discarded: known once the flight has ended, or its gang is gone. -/
def State.fate (s : State) (g : Tagged) : Option Bool :=
  match g.lost with
  | some b => some b
  | none => if (s.gangs ++ (s.cur.map (·.gang)).toList).any fun h => h.gid == g.gid && h.flight == g.num then none else some true

/-- Whether a record's data are of a tagged instruction, of a flight that was discarded or not; its cycles and its memory level are
nature's. -/
def Tagged.describes (g : Tagged) (q : SampleData) (lost : Option Bool) : Bool :=
  lost == some q.discarded &&
  q.header == g.header && q.flight == g.flight && q.passes.toNat == g.passes % 256 && q.port.toNat == g.port % 4 && q.core.toNat == g.core % 128
  && q.index.toNat == g.index % 16 && q.slot.toNat == g.slot % 256 && q.ctx.toNat == g.ctx % 64

/-- SAMPLE_WINDOW (R298): a window ends and the tagged instruction's record is written, once its flight has ended (DEDUCED, log 28). -/
def execSampleWindow (die : Nat) (data : SampleData) (s : State) : Res :=
  match (s.die die).tagged with
  | g :: rest =>
    if s.cur.isNone && g.describes data (s.fate g) then
      .next ((s.onDie die fun x => { x with tagged := rest }).sample die 0 (sampleBody die g.dtc data))
    else .fault (.notEnabled "SAMPLE_WINDOW")
  | [] => .fault (.notEnabled "SAMPLE_WINDOW")

/-! ## Writes to the die's registers (R287, R291, R292, R296, R298) -/

/-- A write that a register may be given. -/
def State.registerEvent (s : State) (d n : Nat) (v : DWord) (name : String) : Res :=
  if sysValueOk n v then .next (s.sysWrite d n v) else .fault (.notEnabled name)

def execTlbinv (die : Nat) (v : DWord) (s : State) : Res := s.registerEvent die 0x110 v "TLBINV"
def execEvdone (die : Nat) (tag : DWord) (s : State) : Res := s.registerEvent die 0x103 tag "EVDONE"
def execDbgresume (die : Nat) (tag : DWord) (s : State) : Res := s.registerEvent die 0x148 tag "DBGRESUME"
def execSampctl (die : Nat) (v : DWord) (s : State) : Res := s.registerEvent die 0x040 v "SAMPCTL"
def execContain (die : Nat) (v : DWord) (s : State) : Res := s.registerEvent die 0x121 v "CONTAIN"

/-- SHOOTDOWN_COMPLETE (R287): the oldest request completes once no write that used what it removed is on its
way. -/
def execShootdownComplete (die : Nat) (s : State) : Res :=
  match (s.die die).shoots with
  | t :: _ => if s.cur.isNone && !s.shootBusy die t then .next (s.shootDone die t) else .fault (.notEnabled "SHOOTDOWN_COMPLETE")
  | [] => .fault (.notEnabled "SHOOTDOWN_COMPLETE")

/-! ## Drains and scans of cores (R294, R295) -/

/-- Whether a core still holds gangs or gathers them. -/
def State.coreHolds (s : State) (d core : Nat) : Bool :=
  s.gangs.any (fun g => g.die == d && g.core == core) || !(s.core d core).gathers.isEmpty

/-- A core answers who awaits its drain. -/
def State.answerDrain (s : State) (d core status : Nat) (scan : Nat) : State :=
  let t := s.onCore d core fun c => { c with scan := scan, drainAt := none, drainTags := [], scanned := false }
  (s.core d core).drainTags.foldl (fun (u : State) tag => u.answerScalar tag (BitVec.ofNat 64 status)) t

/-- CDRAIN_DONE (R294): the drain ends, or its 100 us have passed and the core returns to service (DEDUCED, log 25). -/
def execCdrainDone (die core : Nat) (s : State) : Res :=
  let c := s.core die core
  if s.cur.isSome || c.scan != 1 then .fault (.notEnabled "CDRAIN_DONE")
  else if !s.coreHolds die core then .next (s.answerDrain die core 0 2)
  else if (match c.drainAt with
    | some t => decide (t + 100000 ≤ s.time)
    | none => false) then .next (s.answerDrain die core 2 0)
  else .fault (.notEnabled "CDRAIN_DONE")

/-- CSCAN_DONE (R294, R295): the pattern set has run. A signature equal to SCANGOLD clears the core's
containment count and its suspect ports, and the core returns to service; another leaves it drained (DEDUCED, log 25). -/
def execCscanDone (die core : Nat) (sig : DWord) (s : State) : Res :=
  let c := s.core die core
  if s.cur.isSome || c.scan != 3 then .fault (.notEnabled "CSCAN_DONE")
  else
    let site := ((s.die die).site? core).getD core
    let t := s.onDie die fun x =>
      let y := x.onCore core fun c => { c with scan := 2, drainAt := none, scanTag := none, lastSig := sig, scanned := true }
      if sig = Config.scanGold then
        { y.onCore core fun c => { c with scan := 0, contain := 0 } with
          suspect := y.suspect.filter fun k => k / 4 != site, portCounts := y.portCounts.filter fun e => e.1 / 4 != site }
      else y
    match c.scanTag with
    | some (_, tag) => .next (t.answerScalar tag 0#64)
    | none => .next t

/-! ## Failures, scrubbing and power (R250, R283, R322) -/

/-- CLUSTER_PATH_FAIL (R250): the check of a transfer between two sites of a cluster fails; it is counted, and sent again. At the
sixteenth failure in a row on the path, the path is marked failed and the control core is told. -/
def execClusterPathFail (die src dst : Nat) (s : State) : Res :=
  if src / 16 = dst / 16 && src ≠ dst then
    let n := look 0 (s.die die).pathChecks (src * 128 + dst) + 1
    let t := s.countError die 0x104
    .next (if n < 16 then t.onDie die fun x => { x with pathChecks := put 0 x.pathChecks (src * 128 + dst) n }
      else t.onDie die fun x => { x with pathChecks := erase x.pathChecks (src * 128 + dst), deadPaths := (x.deadPaths ++ [(src, dst)]).eraseDups,
                                         notices := x.notices ++ [.path src dst] })
  else .fault (.notEnabled "CLUSTER_PATH_FAIL")

/-- A word of a core's scratchpad or accumulators, or a landing record, is found beyond correction (R146): the word is
poisoned; the tasks of the record are, and their cohort is contained. The record's Landing offset is open. -/
def State.loseWord (s : State) (found : ScrubFind) : State :=
  match found with
  | .scratch die core inst off _ => (s.countCore die core 0x103).onInst die inst fun i =>
      { i with scratchBad := (i.scratchBad ++ [scratchWord die inst core off]).eraseDups }
  | .accum die core inst off _ => (s.countCore die core 0x103).onInst die inst fun i =>
      { i with accBad := (i.accBad ++ [(coreOf die inst core * 2 ^ 18 + off % 2 ^ 18) / 4]).eraseDups }
  | .landing gid _ =>
    match s.gang? gid with
    | some g =>
      let (off, t) := (s.countCore g.die g.core 0x103).pick landingBytes
      t.takeFault gid ⟨codePoison, BitVec.ofNat 64 off, g.anchor.pc⟩ true 0#64 0
    | none => s
  | _ => s

/-- PATROL_SCRUB (R146, R283): the scrubber reads a line of 64 bytes, corrects it, or poisons it; or SEC-DED corrects or
gives up a word of a core's own stores, or parity finds a line of an L1 bad, which goes, to be fetched again; these are counted in the
core's own counters (R147). -/
def execPatrolScrub (line : Nat) (found : ScrubFind) (s : State) : Res :=
  match found with
  | .clean => .next s
  | .corrected => .next (s.countError (homeDie (line * 64)) 0x102)
  | .uncorrectable =>
    let t := (s.countError (homeDie (line * 64)) 0x103).setPoison (line * 64) true
    .next ([0, 1, 2, 3].foldl (fun (s : State) d => s.dropL1 d line 1000) t)
  | .scratch die core _ _ lost => .next (if lost then s.loseWord found else s.countCore die core 0x102)
  | .accum die core _ _ lost => .next (if lost then s.loseWord found else s.countCore die core 0x102)
  | .l1 die core => .next ((s.countCore die core 0x100).onCore die core fun c => { c with l1 := c.l1.filter (· != line) })
  | .landing gid lost =>
    match s.gang? gid with
    | some g =>
      if s.cur.isSome || (match g.place with
          | .spill _ => true
          | _ => false) then .fault (.notEnabled "PATROL_SCRUB")
      else .next (if lost then s.loseWord found else s.countCore g.die g.core 0x102)
    | none => .fault (.notEnabled "PATROL_SCRUB")

/-- POWER_THROTTLE (R322): fewer permits for new admissions, a slower clock in steps of 50 MHz. -/
def execPowerThrottle (die permits mhz : Nat) (s : State) : Res :=
  let x := s.die die
  if permits ≤ x.permits && mhz ≤ x.mhz && (x.mhz - mhz) % 50 = 0 then .next (s.onDie die fun x => { x with permits := permits, mhz := mhz })
  else .fault (.notEnabled "POWER_THROTTLE")

end Sys2Proof.Machine
end

