-- ==== Sys2Proof/Machine/Pack.lean ====
section
/-!
DEFINITION. Between dies and packages: CAUSAL_MESSAGE, REPLICA_FILL, REPLICA_DROP, D2D_LINK_FAIL and the
fabric's events (R306 to R311, R324 to R330).
-/

namespace Sys2Proof.Machine

/-! ## Causal messages (R308) -/

/-- Whether a die may apply a message from another: the next one of that die, and nothing of a third die that
it has not applied. -/
def State.mayApply (s : State) (src dst : Nat) (m : Msg) : Bool :=
  let a := (s.die dst).applied
  (a.getD src 0 + 1) % 2 ^ 32 == m.vec.getD src 0 && [0, 1, 2, 3].all fun f => f == src || f == dst || ge32 (a.getD f 0) (m.vec.getD f 0)

/-- An effect has been performed at its home: it is over, unless its replica's update has still to come back
to its own die. -/
def State.performedAway (s : State) (o : Out) : State :=
  let back := s.msgs.any fun e => e.2.any fun m => m.writes.any fun w => w.1 == o.id && (match w.2 with
    | .acts _ => true
    | _ => false)
  if back then { s with drain := s.drain.map fun q => if q.id = o.id then { q with effs := [] } else q } else s.dropOut o.id

/-- Write acts into a die's replicas, and report what its gangs watch. -/
def State.updateReplica (s : State) (e : Nat) (as : List Act) : State :=
  s.reportWatched (as.foldl (fun (s : State) a => match a with
    | .write ⟨.phys pa, _, bs, _⟩ => s.toReplica e pa bs
    | _ => s) s)

/-- Apply one write of a message on a die. -/
def State.applyWrite (s : State) (e : Nat) (vec : List Nat) (num : Nat) : Cargo → State
  | .eff (.bind k desc) => s.bindHere e num k desc
  | .eff _ => s
  | .clean line => s.cleanReplica e line
  | .acts as =>
    match (as.head?).map Act.loc with
    | some (.phys pa) =>
      if homeDie pa = e then
        match s.drain.find? fun o => o.id == num with
        | some o => (s.performAt e o.who as o.clears (mergeVec vec (s.vector e)) num).performedAway o
        | none => s
      else
        let t := s.updateReplica e as
        if num = 0 then t else t.dropOut num
    | _ => s

/-- CAUSAL_MESSAGE (R308): a die applies the next message from another. -/
def execCausalMessage (src dst : Nat) (s : State) : Res :=
  match look [] s.msgs (src * 4 + dst) with
  | m :: rest =>
    if s.cur.isNone && s.mayApply src dst m then
      let t := m.writes.foldl (fun (s : State) w => s.applyWrite dst m.vec w.1 w.2) { s with msgs := put [] s.msgs (src * 4 + dst) rest }
      .next (t.onDie dst fun x => { x with applied := x.applied.set src (m.vec.getD src 0) })
    else .fault (.notEnabled "CAUSAL_MESSAGE")
  | [] => .fault (.notEnabled "CAUSAL_MESSAGE")

/-! ## Replicas (R307) -/

/-- REPLICA_FILL: the line is installed once the die has applied what its home had, and its L2 has room. -/
def execReplicaFill (die line : Nat) (s : State) : Res :=
  match (s.die die).pendingFill.find? fun e => e.1 == line with
  | some (_, bs, v) =>
    if s.cur.isNone && s.covers die v && decide ((s.die die).replicas.length < l2Lines) then
      .next (s.onDie die fun x => { x with replicas := put? x.replicas line (some bs), pendingFill := x.pendingFill.filter fun e => e.1 != line })
    else .fault (.notEnabled "REPLICA_FILL")
  | none => .fault (.notEnabled "REPLICA_FILL")

/-- REPLICA_DROP: a die drops a replica; its home stops sending updates. -/
def execReplicaDrop (die line : Nat) (s : State) : Res :=
  if (look? (s.die die).replicas line).isSome then .next ((s.onDie die fun x => { x with replicas := erase x.replicas line }).dropL1 die line 1000)
  else .fault (.notEnabled "REPLICA_DROP")

/-! ## Links between dies (R306) -/

/-- The writes of a message on a link that fails: their outcome is unknown (DESIGN CHOICE, log 18). One that its home has performed, and that the
link would have acknowledged, is among them. -/
def State.loseWrite (s : State) (dst : Nat) (num : Nat) : Cargo → State
  | .eff (.bind k desc) => s.bindHere dst num k desc
  | .eff _ | .clean _ => s
  | .acts _ =>
    match s.drain.find? fun o => o.id == num with
    | some o =>
      let va := (o.acts.head?.map Act.va).getD 0#64
      let t := if o.effs.isEmpty then s.pathFailed o.maker va else s.loseActs o.maker o.acts
      (t.dropOut num).enginePath num va
    | none => s

/-- D2D_LINK_FAIL (R306): one direction of a link is marked failed after 16 failures in a row, and the control cores of both
dies are told; what was on it is lost, and the replicas that it kept up to date go. -/
def execD2dLinkFail (src dst : Nat) (s : State) : Res :=
  if src = dst || 3 < src || 3 < dst then .fault (.notEnabled "D2D_LINK_FAIL")
  else
    let ms := look [] s.msgs (src * 4 + dst)
    let s1 : State := { s with msgs := put [] s.msgs (src * 4 + dst) [], pkg := { s.pkg with deadLinks := (s.pkg.deadLinks ++ [src * 4 + dst]).eraseDups } }
    let s2 := ms.foldl (fun (s : State) m => m.writes.foldl (fun (s : State) w => s.loseWrite dst w.1 w.2) s) s1
    let told := fun (x : Die) => { x with notices := x.notices ++ [.link src dst], errors := alter 0 x.errors 0x105 (· + 16) }
    .next (((s2.onDie src told).onDie dst told).onDie dst fun x =>
      { x with applied := x.applied.set src (ms.foldl (fun n m => if ge32 (m.vec.getD src 0) n then m.vec.getD src 0 else n) (x.applied.getD src 0)),
               replicas := x.replicas.filter fun e => homeDie (e.1 * 64) != src,
               pendingFill := x.pendingFill.filter fun e => homeDie (e.1 * 64) != src })

/-! ## The fabric as a target (R325, R326) -/

/-- The open window that admits an access of `n` bytes by a package, the lowest. -/
def State.admitting (s : State) (src addr n : Nat) (write : Bool) : Option Nat :=
  (List.range 64).find? fun w =>
    let lo := look 0#64 s.pkg.fabwin (2 * w)
    let hi := look 0#64 s.pkg.fabwin (2 * w + 1)
    hi.getLsbD 0 && (hi.getLsbD 1 || !write) && field hi 8 16 == src && decide (field lo 0 30 ≤ addr / 4096)
      && decide ((addr + n - 1) / 4096 < field lo 0 30 + field lo 32 32)

/-- Whether an open window admits an access of `n` bytes by a package. -/
def State.admits (s : State) (src addr n : Nat) (write : Bool) : Bool := (s.admitting src addr n write).isSome

/-- The acts of a fabric access, those of a combined atomic in lane order, how many bytes it touches, and whether it writes. -/
def fabActs (r : FabReq) : List Act × Nat × Bool :=
  match r.op with
  | .load n => ([], n, false)
  | .write bs => ([.write ⟨.phys r.addr, 0#64, bs, false⟩], bs.length, true)
  | .atomic m ps => (ps.map fun p => .atom m ⟨0, .phys (r.addr + p.1), 0#64, p.2.1, p.2.2⟩ 0, ps.foldl (fun n p => max n (p.1 + atomicSize m)) 0, true)
  | .reduce op bs =>
    let size := if op = 2 then 2 else 4
    ((List.range (bs.length / size)).map fun i =>
      .atom (redMinor op) ⟨0, .phys (r.addr + i * size), 0#64, dwordOfBytes ((bs.drop (i * size)).take size), 0#64⟩ 0, bs.length, true)

/-- Another package's accesses are nobody's here; they are under the owner key of the window that admits them (R325). -/
def outsider (die owner : Nat) : Who := ⟨die, 1000, 256, 128 + owner % 64, 0, 0, [], [], 0, false⟩

/-- The old values of acts that are performed one after another. -/
def State.oldsOf (s : State) (w : Who) : List Act → List Byte
  | [] => []
  | .atom m p tag :: rest =>
    bytesOf 8 (dwordOfBytes (s.oldBytes w p.loc p.va (atomicSize m))) ++ (s.perform w (.atom m p tag)).1.oldsOf w rest
  | a :: rest => (s.perform w a).1.oldsOf w rest

/-- An answer to another package. -/
def State.reply (s : State) (src : Nat) (admitted : Bool) (bs : List Byte) : State :=
  { s with pkg := { s.pkg with replies := s.pkg.replies ++ [(src, admitted, bs)] } }

/-- FABRIC_REQUEST (R325, R326): an access from another package is performed at its home on this one if a
window admits it, as a write of the home die, and answered; else it is refused and has no effect. The answer to a load holds the
bytes at the home, none where they are poisoned; that to an atomic eight bytes of old value for each lane. -/
def execFabricRequest (req : FabReq) (s : State) : Res :=
  let (as, n, write) := fabActs req
  let known := match req.op with
    | .atomic m ps => decide (m ≤ 13) && ps.all fun p => (req.addr + p.1) % atomicSize m == 0
    | .reduce op bs => decide (1 ≤ op) && decide (op ≤ 4) && bs.length % (if op = 2 then 2 else 4) == 0
    | _ => true
  if n = 0 || decide (64 < req.addr % 64 + n) || decide (2 ^ 38 ≤ req.addr) || !known then .fault (.notEnabled "FABRIC_REQUEST")
  else match s.admitting req.src req.addr n write with
  | none => .next (s.reply req.src false [])
  | some k =>
    let h := homeDie req.addr
    let w := outsider h (field (look 0#64 s.pkg.fabwin (2 * k + 1)) 24 6)
    let out := match req.op with
      | .load n => if s.badN h 256 (.phys req.addr) n then [] else s.oldBytes w (.phys req.addr) 0#64 n
      | .atomic _ _ => s.oldsOf w as
      | .write _ | .reduce _ _ => []
    let whole := match req.op with
      | .write bs => bs.length == 64
      | _ => false
    .next ((if as.isEmpty then s else s.performAt h w as whole (s.vector h) 0).reply req.src true out)

/-! ## The fabric as a requester (R327, R329) -/

/-- The old values that a fabric acknowledgement brings: eight bytes for each atomic, in order. -/
def State.deliverAll (s : State) : List Act → List Byte → State
  | [], _ => s
  | .write _ :: rest, bs | .merge _ _ :: rest, bs => s.deliverAll rest bs
  | .atom m p tag :: rest, bs => (s.deliverAtom tag p.lane (atomicSize m) (dwordOfBytes (bs.take 8)) none).deliverAll rest (bs.drop 8)

/-- FABRIC_ACK (R327): a write or atomic has been performed at its home in another package, in the order in which requests left for it.
`data` is a status byte, 0 where it is performed, and then the old values of atomics (DESIGN CHOICE, log 67). Another status says that the
package refuses it: PROT, as of a committed write that fails (R325; DEDUCED, log 67). -/
def execFabricAck (id : Nat) (data : List Byte) (s : State) : Res :=
  match s.pkg.fabricOut.find? fun f => f.id == id with
  | some f =>
    if !s.isFirst f then .fault (.notEnabled "FABRIC_ACK")
    else match f.client with
    | .out n =>
      match s.drain.find? fun o => o.id == n with
      | some o =>
        match data with
        | [] => .fault (.notEnabled "FABRIC_ACK")
        | st :: olds =>
          if st ≠ 0#8 then .next ((((s.unperformed o.maker o.acts).dropOut n).enginePath n ((o.acts.head?.map Act.va).getD 0#64)).dropFab id)
          else if olds.length = 8 * (o.acts.filter Act.isAtom).length then .next (((s.deliverAll o.acts olds).dropOut n).dropFab id)
          else .fault (.notEnabled "FABRIC_ACK")
      | none => .next (s.dropFab id)
    | .load _ _ | .copy _ _ _ _ => .fault (.notEnabled "FABRIC_ACK")
  | none => .fault (.notEnabled "FABRIC_ACK")

/-- A request that its package does not answer any more: a load faults, a write's outcome is unknown, a copy command stops (R329). -/
def State.unanswered (s : State) (f : FabOut) : State :=
  let t := s.dropFab f.id
  match f.client with
  | .out n =>
    match t.drain.find? fun o => o.id == n with
    | some o => ((t.loseActs o.maker o.acts).dropOut n).enginePath n ((o.acts.head?.map Act.va).getD 0#64)
    | none => t
  | .load _ r =>
    (t.gangs.filterMap fun g => (g.reqs.find? fun q => q.id == r).map fun q => (g, q)).foldl (fun (s : State) e =>
      if (s.gang? e.1.gid).isSome then s.loadPathFault e.1 e.2 else s) t
  | .copy core key row beat =>
    match (t.core f.die core).copyHead key with
    | some (seq, b, _, w) =>
      t.copyFault f.die core key seq w codeProt (accessInfo 1 false 0 (rowAt b.src b.spitch row + BitVec.ofNat 64 (b.span row beat).1))
    | none => t

/-- The outstanding requests whose path has failed. -/
def State.lostRequests (s : State) : State :=
  (s.pkg.fabricOut.filter fun f => s.pathDown f.die (.fabric f.pkg f.addr)).foldl State.unanswered s

/-- FABRIC_LINK_FAIL (R329): a fabric link is marked failed; its traffic moves, or its path has failed. -/
def execFabricLinkFail (link : Nat) (s : State) : Res :=
  if 15 < link then .fault (.notEnabled "FABRIC_LINK_FAIL")
  else .next (({ s with pkg := { s.pkg with deadFabric := (s.pkg.deadFabric ++ [link]).eraseDups } } : State).lostRequests)

/-- The fabric timeout in ns (R315). -/
def State.fabricNs (s : State) : Nat := (if s.pkg.fabtimeout = 0#16 then 100 else s.pkg.fabtimeout.toNat) * 1000

/-- FABRIC_TIMEOUT (R329): a request was not acknowledged in time; the path to its package has failed (DEDUCED, log 30). -/
def execFabricTimeout (id : Nat) (s : State) : Res :=
  match s.pkg.fabricOut.find? fun f => f.id == id with
  | some f =>
    if s.cur.isNone && decide (f.sentAt + s.fabricNs ≤ s.time) then
      .next (({ s with pkg := { s.pkg with deadPkgs := (s.pkg.deadPkgs ++ [f.pkg]).eraseDups } } : State).lostRequests)
    else .fault (.notEnabled "FABRIC_TIMEOUT")
  | none => .fault (.notEnabled "FABRIC_TIMEOUT")

end Sys2Proof.Machine
end

