-- ==== Sys2Proof/Machine/Contexts.lean ====
section
/-!
DEFINITION. The host's side: package registers, contexts, launch chains, bring-up and attestation
(R277, R278, R314 to R323).
-/

namespace Sys2Proof.Machine

/-! ## Package registers (R315) -/

/-- A package register as the host reads it. -/
def State.packageReg (s : State) (off : Nat) : DWord :=
  let p := s.pkg
  if off % 8 ≠ 0 then 0#64
  else if off = 0 then
    BitVec.ofNat 64 (p.grade.toNat + s.enabledCores % 65536 * 2 ^ 16 + p.stepping.toNat * 2 ^ 40 + bit p.ready * 2 ^ 48)
  else if off = 0x8 then p.ctxbase
  else if off = 0x10 then p.fabid.setWidth 64
  else if off = 0x18 then BitVec.ofNat 64 (if p.fabtimeout = 0#16 then 100 else p.fabtimeout.toNat)
  else if 0x2000 ≤ off && off < 0x2200 then look 0#64 p.frcons ((off - 0x2000) / 8)
  else if 0x3000 ≤ off && off < 0x3200 then (look 0#8 p.ctxctl ((off - 0x3000) / 8)).setWidth 64
  else if 0x4000 ≤ off && off < 0x4400 then look 0#64 p.fabwin ((off - 0x4000) / 8)
  else if 0x5000 ≤ off && off < 0x5800 then look 0#64 p.fabroute ((off - 0x5000) / 8)
  else 0#64

/-- Whether no context is started. -/
def State.noContext (s : State) : Bool := s.pkg.ctxs.all fun e => e.2.run == 0

/-- CTXBASE (R315): accepted while no context is started, once the host link is up. -/
def execCtxbase (v : DWord) (s : State) : Res :=
  .next (if s.pkg.ready && s.noContext then s.onPkg fun p => { p with ctxbase := v &&& 0x3FFFFFFFF80#64 } else s)

/-- FABID (R315): writable while no context is started. -/
def execFabid (v : DWord) (s : State) : Res :=
  .next (if s.pkg.ready && s.noContext then s.onPkg fun p => { p with fabid := v.setWidth 16 } else s)

/-- REGISTER_WRITE (R315, R325, R329): a register with no behaviour of its own; any other offset ignores the
write. -/
def execRegisterWrite (off : BitVec 16) (v : DWord) (s : State) : Res :=
  let o := off.toNat
  .next (if !s.pkg.ready || o % 8 ≠ 0 then s
    else if o = 0x18 then s.onPkg fun p => { p with fabtimeout := v.setWidth 16 }
    else if 0x4000 ≤ o && o < 0x4400 then
      let k := (o - 0x4000) / 8
      s.onPkg fun p => { p with fabwin := put 0#64 p.fabwin k (v &&& (if k % 2 = 0 then 0xFFFFFFFF3FFFFFFF#64 else 0x3FFFFF03#64)) }
    else if 0x5000 ≤ o && o < 0x5800 then s.onPkg fun p => { p with fabroute := put 0#64 p.fabroute ((o - 0x5000) / 8) (v &&& 0x1FFFFFFFF#64) }
    else s)

/-- FRCONS (R317): the host has taken records from the fault ring. -/
def execFrcons (c : Nat) (v : DWord) (s : State) : Res :=
  .next (if c < 64 && s.pkg.ready then s.onPkg fun p => { p with frcons := put 0#64 p.frcons c v } else s)

/-- TAIL (R316): the device may read the chain up to this record. -/
def execTail (c : Nat) (v : DWord) (s : State) : Res :=
  .next (if c < 64 && s.pkg.ready then s.onPkg fun p => { p with tails := put 0#64 p.tails c v } else s)

/-! ## Context entries (R314) -/

/-- The bytes of a context's entry. -/
def State.entryBytes (s : State) (c : Nat) : List Byte := s.bytes (s.entryAddr c) 128

/-- Whether a context's entry can be read. -/
def State.entryReadable (s : State) (c : Nat) : Bool :=
  s.pkg.ctxbase != 0#64 && !s.poisoned (s.entryAddr c) && !s.poisoned (s.entryAddr c + 64)

/-- Whether an entry is well-formed. -/
def State.entryOk (s : State) (bs : List Byte) : Bool :=
  let n := numAt bs
  n 32 8 % 64 == 0 && ((List.range 13).any fun i => n 40 4 == 2 ^ (i + 4)) && n 85 1 < 4 && n 86 2 == 0 && (bs.drop 104).all (· == 0#8)
  && (List.range 4).any fun d => (n 84 1).testBit d && !(s.die d).sites.isEmpty

/-- A context as its entry gives it. -/
def ctxOf (bs : List Byte) : Ctx :=
  let d := fun (o : Nat) => BitVec.ofNat 64 (numAt bs o 8)
  { Ctx.idle with
    run := 1, root := d 0, keymask := d 8, chainNext := d 16, compaddr := d 24, fring := d 32, frsize := numAt bs 40 4,
    ptimer := numAt bs 44 4, lspill := d 48, lsize := numAt bs 56 8, gspill := d 64, gsize := numAt bs 72 8,
    maxinst := numAt bs 80 2, maxarrays := numAt bs 82 2, diemask := BitVec.ofNat 8 (numAt bs 84 1), save := d 88 }

/-- The tag of a line whose owner key is destroyed: no key has it (R318). -/
def deadTag : Nat := 65

/-- Count the contexts that use each owner key. A key that none uses is destroyed: what was written under it cannot be read
again, under a fresh key of its number neither (R318). -/
def State.useKeys (s : State) (mask : DWord) (up : Bool) : State :=
  let keys := ((List.range 64).filter mask.getLsbD).foldl (fun m k => alter 0 m k fun n => if up then n + 1 else n - 1) s.pkg.keys
  { s with pkg := { s.pkg with keys := keys }
           owners := s.owners.map fun e => (e.1, if e.2 ≠ 0 && e.2 ≤ 64 && look 0 keys (e.2 - 1) = 0 then deadTag else e.2) }

/-- Whether another command for the context is still in progress. -/
def State.inProgress (s : State) (c : Nat) : Bool := (s.ctx c).run == 2

/-- A command to a context number that exists, once the package is ready; the checks all commands share. -/
def State.command (s : State) (c : Nat) (name : String) (legal : Bool) (k : State) : Res :=
  if 64 ≤ c || !s.pkg.ready || s.cur.isSome then .fault (.notEnabled name)
  else if s.inProgress c then .next (s.setCtxctl c 0x86#8)
  else if !legal then .next (s.setCtxctl c 0x82#8)
  else .next k

/-- A MARK on each die (R299) (DEDUCED, log 28). -/
def State.markAll (s : State) : State :=
  (s.dies.map Prod.fst).foldl (fun (s : State) d => s.mark d) s

/-- Forget a context's queue sequences: both start at zero (R162). -/
def State.zeroSequences (s : State) (c : Nat) : State :=
  { s with dies := s.dies.map fun e => (e.1, { e.2 with cores := e.2.cores.map fun k =>
      (k.1, { k.2 with issued := k.2.issued.filter (fun q => q.1 / 5 != c), done := k.2.done.filter (fun q => q.1 / 5 != c) }) }) }

/-- Start a context from its entry. What of an earlier use still waits to be told to the host stays, and what
the host has been told is counted on (R317; DEDUCED, log 27). -/
def State.startContext (s : State) (c : Nat) : State :=
  if !s.entryReadable c then s.setCtxctl c 0x83#8
  else
    let bs := s.entryBytes c
    if !s.entryOk bs then s.setCtxctl c 0x84#8
    else
      let x := ctxOf bs
      ((((s.onCtx c fun y => { x with compHeld := y.compHeld, ring := y.ring, completions := y.completions, produced := y.produced }).zeroSequences c).useKeys x.keymask true).markRunning c true).setCtxctl c 0#8

/-- CTXCTL_START (R314). -/
def execCtxctlStart (c : Nat) (s : State) : Res := s.command c "CTXCTL_START" ((s.ctx c).run == 0) (s.startContext c)

/-! ## Switching out (R277, R278, R320) -/

/-- The pre-emption timer in ns; 0 stands for 20 us. -/
def Ctx.timer (x : Ctx) : Nat := (if x.ptimer = 0 then 20 else x.ptimer) * 1000

/-- Begin a drain: nothing more of the context is dispatched, and fused clusters are its no longer (R236). -/
def State.switchOut (s : State) (c : Nat) : State :=
  let t := s.onCtx c fun x => { x with run := 2, drainEnd := some (s.time + x.timer) }
  ((t.unfused c).markAll).setCtxctl c 2#8

/-- A command that needs the context's entry, readable and well-formed (R314). -/
def State.withEntry (s : State) (c : Nat) (k : State) : State :=
  if !s.entryReadable c then s.setCtxctl c 0x83#8 else if !s.entryOk (s.entryBytes c) then s.setCtxctl c 0x84#8 else k

/-- CTXCTL_SWITCH_OUT (R314). -/
def execCtxctlSwitchOut (c : Nat) (s : State) : Res := s.command c "CTXCTL_SWITCH_OUT" ((s.ctx c).run == 1) (s.withEntry c (s.switchOut c))

/-- The effects of a context that wait for room in a queue or a window, and those that follow them: commands that are still to be queued go to
the save area too (R277, R320; DESIGN CHOICE, log 21). -/
def State.roomless (s : State) (c : Nat) : List Nat :=
  let mine := s.drain.filter fun o => o.who.ctx == c && !o.sent
  (List.range mine.length).foldl (fun (ids : List Nat) _ =>
      let waits := fun (o : Out) => o.after.any fun n => mine.any fun q => q.effs.contains n && ids.contains q.id
      (ids ++ (mine.filter waits).map (·.id)).eraseDups)
    ((mine.filter fun o => s.full o || s.heldUp o).map (·.id))

/-- Whether a context's drain has ended: its gangs have left their ports, with evaluations that stand at a step where they await one, its
copies stand between rows, and its effects are performed but for those that wait for room (R223, R224, R277). -/
def State.drained (s : State) (c : Nat) : Bool :=
  s.gangs.all (fun g => g.ctx != c || (!g.resident && (g.phase == .parked || (g.phase == .ending && s.forcing g))))
  && (s.drain.all fun o => o.who.ctx != c || (s.roomless c).contains o.id)
  && s.dies.all fun e => e.2.cores.all fun k =>
      k.2.copying.all (fun q => q.1 / 5 != c || (q.2.beat == 0 && q.2.wait.isNone))
      && k.2.gathers.all fun q => ((look? e.2.insts q.inst).map fun i => i.ctx != c).getD true

/-- CONTEXT_DRAIN_DONE (R320). -/
def execContextDrainDone (ctx : Nat) (s : State) : Res :=
  if s.cur.isNone && (s.ctx ctx).run == 2 && s.drained ctx then .next (s.switchedOut ctx) else .fault (.notEnabled "CONTEXT_DRAIN_DONE")

/-- PREEMPT_TIMEOUT (R278): a drain that outlasts its timer resets the context. -/
def execPreemptTimeout (ctx : Nat) (s : State) : Res :=
  let due := match (s.ctx ctx).drainEnd with
    | some t => decide (t ≤ s.time)
    | none => false
  if s.cur.isNone && (s.ctx ctx).run == 2 && due then .next (s.resetContext ctx) else .fault (.notEnabled "PREEMPT_TIMEOUT")

/-! ## Resuming (R261, R320, R321) -/

/-- Check an instance again as it comes back: it takes its deadline, or is demoted and its handler told
(R321). -/
def State.readmit (s : State) (d slot : Nat) (slack : Int) : State :=
  match s.inst? d slot with
  | none => s
  | some i =>
    let status := s.utilCheck d [i.issue, i.array, i.copy] slack i.arrays none
    if status = 0 then s.onInst d slot fun i => { i with deadline := some ((s.dtc d : Int) + slack).toNat }
    else
      let cls := if status = 4 then 1 else status - 1
      (s.onInst d slot fun i => { i with deadline := none, accounts := false }).instanceRecord d slot
        ⟨codeOverissue + cls, BitVec.ofNat 64 (cls + 8 + status * 256), 0#64⟩ noTask

/-- Whether the save area holds what was saved there: readable and well-formed (R314, R320; DESIGN CHOICE, log 21). -/
def State.saveOk (s : State) (c : Nat) : Bool :=
  let a := s.saveAddr c
  let n := (s.ctx c).image.length
  s.bytes a n == (s.ctx c).image && !(List.range (n / 64 + 1)).any fun i => s.poisoned (a + 64 * i)

/-- A context as its entry gives it when it comes back: its launch chain goes on where it stood, and what the host has not been told
stays (R314, R316, R317; DEDUCED, log 21). -/
def Ctx.restored (x : Ctx) (bs : List Byte) : Ctx :=
  let y := ctxOf bs
  { y with chainNext := if x.chainSeq = 0 then y.chainNext else x.chainNext, chainSeq := x.chainSeq, chainStop := x.chainStop,
           completions := x.completions, compHeld := x.compHeld, produced := x.produced, ring := x.ring, lists := x.lists, tensors := x.tensors }

/-- A place on one core as the place on another. -/
def Loc.rehomed (a b aKey bKey : Nat) : Loc → Loc
  | .scratch c off => .scratch (if c = a then b else c) off
  | .acc off => .acc (if off / 2 ^ 18 = aKey then bKey * 2 ^ 18 + off % 2 ^ 18 else off)
  | l => l

def Act.mapLoc (f : Loc → Loc) : Act → Act
  | .write w => .write { w with loc := f w.loc }
  | .merge w m => .merge { w with loc := f w.loc } m
  | .atom k p tag => .atom k { p with loc := f p.loc } tag

def APart.mapLoc (f : Loc → Loc) (p : APart) : APart := { p with loc := p.loc.map f }

/-- A key whose part above a unit is one core's, as that of another. -/
def rekey (unit aKey bKey k : Nat) : Nat := if k / unit = aKey then bKey * unit + k % unit else k

/-- What an instance holds of one core, as held of another. -/
def Inst.rehomed (i : Inst) (aKey bKey : Nat) : Inst :=
  { i with scratch := i.scratch.foldl (fun m e => put 0#8 m (rekey 0x80000 aKey bKey e.1) e.2) []
           acc := i.acc.foldl (fun m e => put 0#32 m (rekey (2 ^ 16) aKey bKey e.1) e.2) []
           scratchBad := i.scratchBad.map (rekey (2 ^ 17) aKey bKey), accBad := i.accBad.map (rekey (2 ^ 16) aKey bKey)
           errFlags := i.errFlags.map (rekey 5 aKey bKey), pinned := i.pinned.map (rekey 128 aKey bKey) }

/-- A gang that was on a core of a die, or had accesses to what it holds, where that is another core's now. -/
def Gang.rehomed (g : Gang) (a b : Nat) : Gang :=
  let f := Loc.rehomed a b (coreOf g.die g.inst a) (coreOf g.die g.inst b)
  { g with core := if g.core = a then b else g.core
           accs := g.accs.map fun x => { x with parts := x.parts.map (APart.mapLoc f) }
           reqs := g.reqs.map fun q => { q with line := f q.line, parts := q.parts.map fun p => (p.1.mapLoc f, p.2) }
           fwd := g.fwd.map fun e => (e.1, f e.2.1, e.2.2) }

/-- An effect of a core, or on what it holds, likewise. -/
def Out.rehomed (o : Out) (a b : Nat) : Out :=
  let f := Loc.rehomed a b (coreOf o.who.die o.who.inst a) (coreOf o.who.die o.who.inst b)
  { o with who := { o.who with core := if o.who.core = a then b else o.who.core }
           cargo := (match o.cargo with
             | .acts as => .acts (as.map (Act.mapLoc f))
             | k => k) }

/-- Put the image that a context has on one core of a die on another: its records, queues with their sequences, Gallery, evaluations, slots,
scratchpad and replay windows (R320). -/
def State.rehome (s : State) (c d a b : Nat) : State :=
  let mine := fun (e : Nat × Nat) => ((s.inst? e.1 e.2).map fun i => i.ctx == c).getD false
  let key := fun (e k : Nat) => if e = d then k else k + 128 * (d + 1)
  let from_ := s.core d a
  let ours := fun (k : Nat) => k / 5 == c
  let moved := from_.evals.filter fun v => v.who.ctx == c
  let client := fun (k : Client) => match k with
    | .copy e q => if e = a && ours q then .copy b q else k
    | .array e v => if e = a && moved.any (fun w => w.id == v) then .array b v else k
    | .step e v => if e = a && moved.any (fun w => w.id == v) then .step b v else k
    | _ => k
  let s1 : State := { s with
    gangs := s.gangs.map fun g => if g.die = d && g.ctx = c then g.rehomed a b else g
    drain := s.drain.map fun o => if o.who.die = d && o.who.ctx = c then o.rehomed a b else o
    pkg := { s.pkg with fabricOut := s.pkg.fabricOut.map fun f => match f.client with
      | .copy e q row beat => if f.die = d && e = a && ours q then { f with client := .copy b q row beat } else f
      | _ => f }
    dies := s.dies.map fun e => (e.1, { e.2 with
      insts := e.2.insts.map fun i => (i.1, if i.2.ctx = c then i.2.rehomed (key e.1 a) (key e.1 b) else i.2)
      windows := e.2.windows.map fun w => if w.src = .core d a && mine (e.1, w.inst) then { w with src := .core d b } else w
      services := if e.1 = d then e.2.services.map fun q => (q.1, client q.2) else e.2.services }) }
  (s1.onCore d b fun x => { x with
      queues := x.queues ++ from_.queues.filter fun q => ours q.1
      issued := from_.issued.foldl (fun m q => if ours q.1 then put 0#63 m q.1 q.2 else m) x.issued
      done := from_.done.foldl (fun m q => if ours q.1 then put 0#63 m q.1 q.2 else m) x.done
      copying := x.copying ++ from_.copying.filter fun q => ours q.1
      nodes := from_.nodes.foldl (fun m e => if e.2.ctx = c then put? m e.1 (some e.2) else m) x.nodes
      evals := x.evals ++ moved.map fun v => { v with who := { v.who with core := b } } }).onCore d a fun x => { x with
    queues := x.queues.filter fun q => !ours q.1
    copying := x.copying.filter fun q => !ours q.1
    nodes := x.nodes.filter fun e => e.2.ctx != c
    evals := x.evals.filter fun v => v.who.ctx != c }

/-- The cores of a die where a context has an image: records, commands, nodes, slots, scratchpad pages or replay windows. -/
def State.imagesOf (s : State) (c d : Nat) : List Nat :=
  let held := fun (a : Nat) => s.dies.any fun e => e.2.insts.any fun i => i.2.ctx == c &&
    (let k := if e.1 = d then a else a + 128 * (d + 1)
     i.2.scratch.any (fun m => m.1 / 0x80000 == k) || i.2.acc.any fun m => m.1 / 2 ^ 16 == k)
  (List.range 128).filter fun a =>
    s.gangs.any (fun g => g.die == d && g.core == a && g.ctx == c) || held a
    || (s.core d a).nodes.any (fun e => e.2.ctx == c) || (s.core d a).queues.any (fun q => q.1 / 5 == c)
    || s.dies.any fun e => e.2.windows.any fun w => w.src == .core d a && ((look? e.2.insts w.inst).map fun i => i.ctx == c).getD false

/-- Put the images of a context whose cores take no work any more on other cores of their dies, each on one that has none, a free choice
(R320; DESIGN CHOICE, log 21). -/
def State.rehomes (s : State) (c : Nat) : State :=
  [0, 1, 2, 3].foldl (fun (s : State) d =>
    (s.imagesOf c d).foldl (fun (s : State) a =>
      if s.openCore d a nobody then s
      else
        let used := s.imagesOf c d
        let free := (s.die d).coresOf.filter fun b => s.openCore d b nobody && !used.contains b
        let (i, t) := s.pick free.length
        match free[i]? with
        | some b => t.rehome c d a b
        | none => s) s) s

/-- Resume a context: its entry and its save area must be in order and its quotas fit; then its images are on cores that take work, and
each instance is checked with its remaining budgets and slack. -/
def State.resume (s : State) (c : Nat) : State :=
  if !s.entryReadable c then s.setCtxctl c 0x83#8
  else if !s.entryOk (s.entryBytes c) then s.setCtxctl c 0x84#8
  else
    let elapsed := numAt (s.entryBytes c) 96 8
    let saved := (s.ctx c).saved
    if !s.saveOk c then s.setCtxctl c 0x85#8
    else
      let old := (s.ctx c).keymask
      let t := s.onCtx c fun x => x.restored (s.entryBytes c)
      if [0, 1, 2, 3].any fun d => !((t.die d).insts.all fun i => i.2.ctx != c) && t.storageCheck d c 0 0 0 0 0 != 0 then s.setCtxctl c 0x81#8
      else
        let u := saved.foldl (fun (s : State) e => s.onInst (e.1 / 256) (e.1 % 256) fun i => { i with deadline := none }) (t.rehomes c)
        let v := saved.foldl (fun (s : State) e => s.readmit (e.1 / 256) (e.1 % 256) (e.2 - elapsed - 1000)) u
        ((((v.useKeys (v.ctx c).keymask true).useKeys old false).markAll).markRunning c true).setCtxctl c 0#8

/-- CTXCTL_RESUME (R320). -/
def execCtxctlResume (c : Nat) (s : State) : Res := s.command c "CTXCTL_RESUME" ((s.ctx c).run == 3) (s.resume c)

/-! ## Ending -/

/-- End a context: its instances end, how is open; what it held on the dies goes. -/
def State.endContext (s : State) (c : Nat) : State :=
  let (how, s0) := s.pick 3
  let insts := s0.dies.flatMap fun e => (e.2.insts.filter fun i => i.2.ctx == c).map fun i => (e.1, i.1)
  let s1 := insts.foldl (fun (s : State) e => s.endInst e.1 e.2 how) s0
  let s2 : State := { s1 with dies := s1.dies.map fun e =>
    (e.1, { e.2 with vestibule := e.2.vestibule.filter fun r => r.ctx != c
                     groups := e.2.groups.map fun g => (g.1, if g.2.ctx = c then { g.2 with live := false, reserved := false } else g.2)
                     counters := e.2.counters.map fun k => (k.1, if k.2.ctx = c then { k.2 with live := false } else k.2) }) }
  ((((s2.untranslated c).useKeys (s.ctx c).keymask false).onCtx c fun x =>
    { x with run := 0, tensors := [], saved := [], image := [], drainEnd := none }).markRunning c false).setCtxctl c 0#8

/-- CTXCTL_END (R314). -/
def execCtxctlEnd (c : Nat) (s : State) : Res := s.command c "CTXCTL_END" ((s.ctx c).run != 0) (s.withEntry c (s.endContext c))

/-! ## The launch chain (R316) -/

/-- Stop a chain: a PROT record goes to the fault ring (DEDUCED, log 27). -/
def State.stopChain (s : State) (c : Nat) (a : Nat) : State :=
  let f : FaultInfo := ⟨codeProt, accessInfo 0 false 0 (BitVec.ofNat 64 a), 0#64⟩
  (s.onCtx c fun x => { x with chainStop := true }).toHost c
    (recordWords f 2 0 0 noTask 0#32 0#32 0#64 0#64 0 0 0 0#64 (s.time % 2 ^ 32))

/-- The die of a record: 4 stands for the enabled die of DIEMASK with the lowest issue utilisation. -/
def State.chainDie (s : State) (c die : Nat) : Option Nat :=
  let up := fun (d : Nat) => !(s.die d).sites.isEmpty
  if die = 4 then
    let ds := [0, 1, 2, 3].filter fun d => up d && (s.ctx c).diemask.getLsbD d
    ds.find? fun d => ds.all fun e => decide (s.usage d 0 < s.usage e 0) || (decide (s.usage d 0 = s.usage e 0) && decide (d ≤ e))
  else if die < 4 && up die then some die else none

/-- Present a record to its die, or refuse it with QUOTA. -/
def State.present (s : State) (c a : Nat) (bs : List Byte) : State :=
  let seq := numAt bs 8 8
  let t := s.onCtx c fun x => { x with chainNext := BitVec.ofNat 64 a, chainSeq := seq }
  match s.chainDie c (numAt bs 24 1) with
  | some d => t.onDie d fun x =>
      { x with vestibule := x.vestibule ++ [⟨c, BitVec.ofNat 64 (numAt bs 16 8), 0, some (BitVec.ofNat 64 a), false, [0, 0, 0, 0], none, [], s.time⟩] }
  | none =>
    let (d, u) := if numAt bs 24 1 < 4 then (numAt bs 24 1, t) else t.pick 4
    u.onCtx c fun x => { x with compHeld := x.compHeld ++ [(a + 1, statusWord 0x0B 0 d false true 3, u.nextId)] }

/-- The lines that reading the next launch record needs at die 0, where the host link comes in (R307, R316; DESIGN CHOICE, log 10). -/
def State.chainWants (s : State) (c : Nat) : List Nat :=
  let x := s.ctx c
  let ws := if x.chainSeq = 0 then [] else s.vaWants 0 c x.chainNext.toNat 8
  if !ws.isEmpty then ws
  else s.vaWants 0 c (if x.chainSeq = 0 then x.chainNext.toNat else natOfBytes ((s.readable? 0 c x.chainNext.toNat 8 []).getD [])) 64

/-- Whether a context's chain has a record to read. -/
def State.chainOpen (s : State) (c : Nat) : Bool :=
  let x := s.ctx c
  x.run == 1 && !x.chainStop && decide (x.chainSeq < (look 0#64 s.pkg.tails c).toNat)

/-- CHAIN_RECORD (R316): the next launch record is read and presented. -/
def execChainRecord (c : Nat) (s : State) : Res :=
  let x := s.ctx c
  if s.cur.isSome || !s.chainOpen c || !(s.chainWants c).isEmpty then .fault (.notEnabled "CHAIN_RECORD")
  else
    let next := if x.chainSeq = 0 then some x.chainNext.toNat
      else (s.readable? 0 c x.chainNext.toNat 8 []).map natOfBytes
    match next with
    | none => .next (s.stopChain c x.chainNext.toNat)
    | some 0 => .next (s.stopChain c x.chainNext.toNat)
    | some a =>
      match (if a % 64 = 0 then s.readable? 0 c a 64 [] else none) with
      | none => .next (s.stopChain c a)
      | some bs => if numAt bs 8 8 = x.chainSeq + 1 then .next (s.present c a bs) else .next (s.stopChain c a)

/-! ## Bring-up and attestation (R319, R322, R323) -/

/-- The firmware's gang on a control core: one task, at the entry of the loaded image (R291; DESIGN CHOICE, log 22). -/
def firmwareGang (gid n d age : Nat) (entry : DWord) : Gang :=
  let a : Arch := { slices := 1#8, occ := 1#32, exec := 1#32, pc := entry, v := [], p := [], s := [], n := [], depth := 0, rstack := [], split := [],
                    sigval := [], fpctl := [], fpstat := [], flightid := 0#64, bracket := false, vlive := 0#64, slive := 0#32, plive := 0#16,
                    nlive := 0#16, poison := [] }
  { gid := gid, root := gid, die := d, core := controlCore, place := .port 0, inst := 256, stage := 0, ctx := firmware, age := age,
    lanes := [(0, ⟨0, 0, 0, 0, [], ⟨0, 0#64, 0#64⟩, none, false⟩)], arch := a, anchor := a, held := [], pend := [], accs := [], reqs := [], used := [],
    appends := [], gresv := [], cresv := [], binds := [], evals := [], made := [], autos := [], phase := .run, wakeKind := 0,
    wakeOp := 0#64, wakeOp2 := 0#64, ackScope := 0, woken := false, since := none, slack := 0, preempt := false, suspended := false,
    skipBrk := none, pathFault := none, flight := n, stall := false, sigPorts := [], parity := [], causal := [0, 0, 0, 0],
    handler := false, nexts := [], allonD := 0, hit := false, spent := 0, lost := 0, paused := none, wants := [] }

/-- The lane maps that the fuses give a die, over those it has. -/
def fusedLanes (f : Fuses) (d : Nat) (m : List (Nat × Word)) : List (Nat × Word) :=
  (f.lanes.filter fun e => e.1 == d).foldl (fun m e => put allLanes m (e.2.1 * 4 + e.2.2.1) e.2.2.2) m

/-- The good lanes of the enabled ports of a die's site: those with 24 lanes or more, 32 where the fuses name none (R3). -/
def siteLanes (f : Fuses) (d site : Nat) : List Nat :=
  let m := fusedLanes f d []
  ([0, 1, 2, 3].map fun p => ((m.find? fun e => e.1 == site * 4 + p).elim 32 fun e => popcount e.2)).filter fun n => decide (24 ≤ n)

/-- Whether a die's site is enabled: it is not fused off and has three enabled ports (R3). -/
def siteOn (f : Fuses) (d site : Nat) : Bool := !f.disabled.contains (d, site) && decide (3 ≤ (siteLanes f d site).length)

/-- The enabled sites of a die (R3). -/
def sitesOf (f : Fuses) (d : Nat) : List Nat := (List.range 128).filter (siteOn f d)

/-- The good lanes of a die's enabled ports (R2). -/
def goodLanes (f : Fuses) (d : Nat) : Nat := ((sitesOf f d).flatMap (siteLanes f d)).foldl (· + ·) 0

/-- Whether the fuses are those of a part: every cluster of every die has 16 enabled cores, or 15 on UB-DF8-S (R1), and the package's good
lanes reach the grade's floor (R2, R3). -/
def ofPart (f : Fuses) : Bool :=
  decide (f.grade.toNat ≤ 1) && decide ((if f.grade = 0#8 then 62106 else 58224) ≤ goodLanes f 0 + goodLanes f 1 + goodLanes f 2 + goodLanes f 3)
  && (List.range 4).all fun d => (List.range 8).all fun k => (List.range 16).countP (fun i => siteOn f d (16 * k + i)) == 16 - f.grade.toNat

/-- The signature of a core that fails its scan: any but SCANGOLD (R295). -/
def failedSig (n : Nat) : DWord := if Config.freeWord n = Config.scanGold then ~~~Config.scanGold else Config.freeWord n

/-- A die after bring-up: fuses read, every enabled core scanned once, and those that pass mapped to their own numbers: a core that
fails is enabled, with its permit, and in no logical core map, its signature a free value (R322, R323; DEDUCED, log 22). -/
def Die.broughtUp (x : Die) (d free : Nat) (f : Fuses) : Die :=
  let sites := sitesOf f d
  { x with sites := sites, coremap := (sites.filter fun k => !f.failed.contains (d, k)).map fun k => (k, k), permits := sites.length,
           lanemap := fusedLanes f d x.lanemap,
           cores := sites.map fun k => (k, { Core.idle with lastSig := if f.failed.contains (d, k) then failedSig (free + d * 128 + k) else Config.scanGold }) }

/-- BRING_UP (R319, R323): once after power-good, of a part as it is sold; the boot ROM accepts no firmware but what the vendor
key signed. -/
def execBringUp (fuses : Fuses) (s : State) : Res :=
  if s.pkg.ready || !ofPart fuses then .fault (.notEnabled "BRING_UP")
  else if fuses.signedBy ≠ fuses.vendorKey then .next s
  else
    let s1 : State := { s with dies := s.dies.map fun e => (e.1, e.2.broughtUp e.1 s.free fuses), free := s.free + 512 }
    let s2 := [0, 1, 2, 3].foldl (fun (s : State) d =>
      let (gid, t) := s.fresh
      let (n, u) := t.fresh
      { u with gangs := u.gangs ++ [firmwareGang gid n d gid fuses.ccEntry] }) s1
    .next (s2.onPkg fun p => { p with grade := fuses.grade, stepping := fuses.stepping, ready := true })

/-- What an attestation report holds before its signature: the nonce, CONFIG and the package identifier, with
the digests as free values (R319; DESIGN CHOICE, log 5). -/
def State.reportBody (s : State) (nonce : BitVec 256) : List Byte :=
  (List.range 32).map (fun i => nonce.extractLsb' (8 * i) 8) ++ bytesOf 8 s.partConfig ++ bytesN 2 s.pkg.fabid.toNat

/-- ATTESTATION_REQUEST (R319). -/
def execAttestationRequest (nonce : BitVec 256) (s : State) : Res :=
  if s.pkg.ready then
    let b := s.reportBody nonce
    .next (s.onPkg fun p => { p with reports := p.reports ++ [b ++ Config.attest b] })
  else .fault (.notEnabled "ATTESTATION_REQUEST")

end Sys2Proof.Machine
end

