-- ==== Sys2Proof/Machine/Cross.lean ====
section
/-!
DEFINITION. Cross-lane instructions: shuffles, votes, reductions, scans, selection and random numbers,
majors 0x18 to 0x1D (R100 to R116).
-/

namespace Sys2Proof.Machine

/-- A shuffle: each participating lane takes the value of its source lane where that participates, else
its own (R105). -/
def State.shuffleLanes (s : State) (d a : BitVec 6) (g : BitVec 3) (n : BitVec 1) (extra : List Nat)
    (src : Arch → Nat → Int) : Res :=
  s.issue fun r =>
    let x := r.gang.arch
    let act := x.active g n
    s.checked r { vr := a.toNat :: extra, vw := [d.toNat], lanes := act }
      (.next (s.setArch r (x.mapLanes act d.toNat fun l =>
        let j := src x l
        if 0 ≤ j && act.contains j.toNat then x.vget a.toNat j.toNat else x.vget a.toNat l)))

def execShfl (d a b : BitVec 6) (g : BitVec 3) (n : BitVec 1) (s : State) : Res :=
  s.shuffleLanes d a g n [b.toNat] fun x l => (fieldW (x.vget b.toNat l) 0 5 : Nat)
def execShflx (d a : BitVec 6) (k : BitVec 5) (g : BitVec 3) (n : BitVec 1) (s : State) : Res :=
  s.shuffleLanes d a g n [] fun _ l => (l ^^^ k.toNat : Nat)
def execShflup (d a : BitVec 6) (k : BitVec 5) (g : BitVec 3) (n : BitVec 1) (s : State) : Res :=
  s.shuffleLanes d a g n [] fun _ l => (l : Int) - k.toNat
def execShfldn (d a : BitVec 6) (k : BitVec 5) (g : BitVec 3) (n : BitVec 1) (s : State) : Res :=
  s.shuffleLanes d a g n [] fun _ l => (l : Int) + k.toNat
def execBcast (d a : BitVec 6) (k : BitVec 5) (g : BitVec 3) (n : BitVec 1) (s : State) : Res :=
  s.shuffleLanes d a g n [] fun _ _ => (k.toNat : Int)

/-- A vote over the participating lanes, for every executing slice (R106). `f` takes the participating
lanes and those that have the predicate. -/
def State.vote (s : State) (d : BitVec 5) (p : BitVec 7) (f : Word → Word → DWord) : Res :=
  s.scalarOp d.toNat [] fun a _ => f a.exec (a.exec &&& a.pmask p.toNat)

def execVbal (d : BitVec 5) (p : BitVec 7) (s : State) : Res := s.vote d p fun _ b => zext64 b
def execVany (d : BitVec 5) (p : BitVec 7) (s : State) : Res := s.vote d p fun _ b => if b = 0#32 then 0#64 else 1#64
def execVall (d : BitVec 5) (p : BitVec 7) (s : State) : Res := s.vote d p fun e b => if e = b then 1#64 else 0#64
def execVcnt (d : BitVec 5) (p : BitVec 7) (s : State) : Res := s.vote d p fun _ b => BitVec.ofNat 64 (popcount b)

/-! ## Reductions -/

/-- The operands of the 32 lanes, with the identity outside the participating set (R101). -/
def Arch.gather (x : Arch) (act : List Nat) (a : Nat) (ident : Word) : List Word :=
  (List.range 32).map fun l => if act.contains l then x.vget a l else ident

/-- A reduction by an associative and commutative combination (R107). -/
def State.reduce (s : State) (d a : BitVec 6) (g : BitVec 3) (n : BitVec 1) (ident : Word) (f : Word → Word → Word) : Res :=
  s.issue fun r =>
    let x := r.gang.arch
    let act := x.active g n
    s.checked r { vr := [a.toNat], vw := [d.toNat], lanes := act }
      (let z := (x.gather act a.toNat ident).foldl f ident
       .next (s.setArch r (x.mapLanes act d.toNat fun _ => z)))

def execRedAdd (d a : BitVec 6) (g : BitVec 3) (n : BitVec 1) (s : State) : Res := s.reduce d a g n 0#32 fun x y => x + y
def execRedMax (d a : BitVec 6) (g : BitVec 3) (n : BitVec 1) (s : State) : Res := s.reduce d a g n 0x80000000#32 maxS
def execRedMin (d a : BitVec 6) (g : BitVec 3) (n : BitVec 1) (s : State) : Res := s.reduce d a g n 0x7FFFFFFF#32 minS
def execRedMaxu (d a : BitVec 6) (g : BitVec 3) (n : BitVec 1) (s : State) : Res := s.reduce d a g n 0#32 maxU
def execRedMinu (d a : BitVec 6) (g : BitVec 3) (n : BitVec 1) (s : State) : Res := s.reduce d a g n 0xFFFFFFFF#32 minU
def execRedFmax (d a : BitVec 6) (g : BitVec 3) (n : BitVec 1) (s : State) : Res :=
  s.reduce d a g n 0xFF800000#32 fun x y => BitVec.ofNat 32 (floatPick fFP32 true false x.toNat y.toNat)
def execRedFmin (d a : BitVec 6) (g : BitVec 3) (n : BitVec 1) (s : State) : Res :=
  s.reduce d a g n 0x7F800000#32 fun x y => BitVec.ofNat 32 (floatPick fFP32 false false x.toNat y.toNat)
def execRedAnd (d a : BitVec 6) (g : BitVec 3) (n : BitVec 1) (s : State) : Res := s.reduce d a g n 0xFFFFFFFF#32 fun x y => x &&& y
def execRedOr (d a : BitVec 6) (g : BitVec 3) (n : BitVec 1) (s : State) : Res := s.reduce d a g n 0#32 fun x y => x ||| y
def execRedXor (d a : BitVec 6) (g : BitVec 3) (n : BitVec 1) (s : State) : Res := s.reduce d a g n 0#32 fun x y => x ^^^ y

/-- Add and round RNE, flags collected (R108). -/
def addFlags (x y : Word × Flags) : Word × Flags :=
  let (z, f) := fadd32 0 x.1 y.1
  (z, x.2 ||| y.2 ||| f)

/-- One level of the tree of R108. -/
def pairUp : List (Word × Flags) → List (Word × Flags)
  | x :: y :: t => addFlags x y :: pairUp t
  | t => t

/-- The node of the tree over `2^k` lanes, with the flags of the roundings beneath it (R108). -/
def treeNode : Nat → List (Word × Flags) → Word × Flags
  | 0, xs => xs.headD (0x80000000#32, 0#5)
  | k + 1, xs => treeNode k (pairUp xs)

/-- `T(b, k)` over the 32 values (R108). -/
def tree (xs : List Word) (b k : Nat) : Word × Flags := treeNode k (((xs.drop b).take (2 ^ k)).map fun x => (x, 0#5))

/-- OR flags into the slices of lanes (R104). -/
def Arch.flagSlices (x : Arch) (lanes : List Nat) (f : Flags) : Arch := (slicesOf lanes).foldl (fun a k => a.raiseFlags k f) x

def execRedFadd (d a : BitVec 6) (g : BitVec 3) (n : BitVec 1) (s : State) : Res :=
  s.issue fun r =>
    let x := r.gang.arch
    let act := x.active g n
    s.checked r { vr := [a.toNat], vw := [d.toNat], lanes := act }
      (let z := tree (x.gather act a.toNat 0x80000000#32) 0 5
       .next (s.setArch r ((x.mapLanes act d.toNat fun _ => z.1).flagSlices act z.2)))

/-- A value as the indexed float forms, KSORT and KMERGE write it: every NaN canonical (R109, R113). -/
def canonWord (x : Word) : Word := if isNaNBits fFP32 x.toNat then 0x7FC00000#32 else x

/-- An indexed reduction: the pair that wins in `key` order, the lower index at equal keys (R109). -/
def State.reduceIdx (s : State) (d a b : BitVec 6) (g : BitVec 3) (n : BitVec 1) (ident : Word) (key : Word → Int)
    (out : Word → Word) : Res :=
  s.issue fun r =>
    let x := r.gang.arch
    let act := x.active g n
    s.checked r { vr := [a.toNat, b.toNat], vw := [d.toNat, d.toNat + 1], lanes := act }
      (let better := fun (p q : Word × Word) =>
         if key p.1 < key q.1 || (key p.1 == key q.1 && q.2.ult p.2) then q else p
       let z := (act.map fun l => (x.vget a.toNat l, x.vget b.toNat l)).foldl better (ident, 0xFFFFFFFF#32)
       .next (s.setArch r ((x.mapLanes act d.toNat fun _ => out z.1).mapLanes act (d.toNat + 1) fun _ => z.2)))

def execRedMaxi (d a b : BitVec 6) (g : BitVec 3) (n : BitVec 1) (s : State) : Res :=
  s.reduceIdx d a b g n 0x80000000#32 (fun x => x.toInt) id
def execRedMini (d a b : BitVec 6) (g : BitVec 3) (n : BitVec 1) (s : State) : Res :=
  s.reduceIdx d a b g n 0x7FFFFFFF#32 (fun x => -x.toInt) id
def execRedFmaxi (d a b : BitVec 6) (g : BitVec 3) (n : BitVec 1) (s : State) : Res :=
  s.reduceIdx d a b g n 0xFF800000#32 (fun x => (fkey x).toNat) canonWord
def execRedFmini (d a b : BitVec 6) (g : BitVec 3) (n : BitVec 1) (s : State) : Res :=
  s.reduceIdx d a b g n 0x7FC00000#32 (fun x => -((fkey x).toNat : Int)) canonWord

/-! ## Scans -/

/-- A scan: lane l takes the combination of lanes 0 to l, or 0 to l - 1 in the exclusive forms (R110). -/
def State.scan (s : State) (d a : BitVec 6) (g : BitVec 3) (n : BitVec 1) (ident : Word) (inclusive : Bool)
    (f : Word → Word → Word) : Res :=
  s.issue fun r =>
    let x := r.gang.arch
    let act := x.active g n
    s.checked r { vr := [a.toNat], vw := [d.toNat], lanes := act }
      (let xs := x.gather act a.toNat ident
       .next (s.setArch r (x.mapLanes act d.toNat fun l => (xs.take (if inclusive then l + 1 else l)).foldl f ident)))

def execScanAdd (d a : BitVec 6) (g : BitVec 3) (n : BitVec 1) (s : State) : Res := s.scan d a g n 0#32 true fun x y => x + y
def execScanxAdd (d a : BitVec 6) (g : BitVec 3) (n : BitVec 1) (s : State) : Res := s.scan d a g n 0#32 false fun x y => x + y
def execScanMax (d a : BitVec 6) (g : BitVec 3) (n : BitVec 1) (s : State) : Res := s.scan d a g n 0x80000000#32 true maxS
def execScanMin (d a : BitVec 6) (g : BitVec 3) (n : BitVec 1) (s : State) : Res := s.scan d a g n 0x7FFFFFFF#32 true minS
def execScanOr (d a : BitVec 6) (g : BitVec 3) (n : BitVec 1) (s : State) : Res := s.scan d a g n 0#32 true fun x y => x ||| y

/-- `prefix(m)` for `c = m + 1` lanes: aligned blocks from the largest down, added from the left (R111). A NaN leaves
it canonical, as it leaves every operation that is no move (R62). -/
def floatPrefix (xs : List Word) (c : Nat) : Word × Flags :=
  let z := (([5, 4, 3, 2, 1, 0].foldl (fun (acc : Nat × Option (Word × Flags)) k =>
    if c / 2 ^ k % 2 = 1 then
      let t := tree xs acc.1 k
      (acc.1 + 2 ^ k, some (match acc.2 with
        | none => t
        | some u => addFlags u t))
    else acc) (0, none)).2).getD (0x80000000#32, 0#5)
  (canonWord z.1, z.2)

def State.scanFloat (s : State) (d a : BitVec 6) (g : BitVec 3) (n : BitVec 1) (inclusive : Bool) : Res :=
  s.issue fun r =>
    let x := r.gang.arch
    let act := x.active g n
    s.checked r { vr := [a.toNat], vw := [d.toNat], lanes := act }
      (let xs := x.gather act a.toNat 0x80000000#32
       .next (s.setArch r (x.mapFloat act d.toNat fun l => floatPrefix xs (if inclusive then l + 1 else l))))

def execScanFadd (d a : BitVec 6) (g : BitVec 3) (n : BitVec 1) (s : State) : Res := s.scanFloat d a g n true
def execScanxFadd (d a : BitVec 6) (g : BitVec 3) (n : BitVec 1) (s : State) : Res := s.scanFloat d a g n false

/-! ## Sorting and merging -/

/-- Whether pair p precedes or equals pair q in the order of R112. -/
def precedes (p q : Word × Word) : Bool := (fkey q.1).ult (fkey p.1) || (fkey p.1 == fkey q.1 && p.2.ule q.2)

/-- Insert a pair before the first that it precedes. -/
def insertPair (p : Word × Word) : List (Word × Word) → List (Word × Word)
  | [] => [p]
  | q :: t => if precedes p q then p :: q :: t else q :: insertPair p t

/-- Sort into descending order; a pair of the front of the list stays before its equals (R113, R114). -/
def sortPairs (ps : List (Word × Word)) : List (Word × Word) := ps.foldr insertPair []

/-- Place sorted pairs in the participating lanes in lane order (R113). -/
def Arch.place (x : Arch) (act : List Nat) (d : Nat) (q : List (Word × Word)) : Arch :=
  (act.zip q).foldl (fun a e => (a.vset d e.1 (canonWord e.2.1)).vset (d + 1) e.1 e.2.2) x

def Arch.pairsOf (x : Arch) (act : List Nat) (a b : Nat) : List (Word × Word) := act.map fun l => (x.vget a l, x.vget b l)

def execKsort (d a b : BitVec 6) (g : BitVec 3) (n : BitVec 1) (s : State) : Res :=
  s.issue fun r =>
    let x := r.gang.arch
    let act := x.active g n
    s.checked r { vr := [a.toNat, b.toNat], vw := [d.toNat, d.toNat + 1], lanes := act }
      (.next (s.setArch r (x.place act d.toNat (sortPairs (x.pairsOf act a.toNat b.toNat)))))

/-- The top n pairs of two lists; list 1 before list 2 where pairs are equal (R114). -/
def execKmerge (d a b : BitVec 6) (g : BitVec 3) (n : BitVec 1) (s : State) : Res :=
  s.issue fun r =>
    let x := r.gang.arch
    let act := x.active g n
    s.checked r { vr := [a.toNat, a.toNat + 1, b.toNat, b.toNat + 1], vw := [d.toNat, d.toNat + 1], lanes := act }
      (.next (s.setArch r (x.place act d.toNat
        (sortPairs (x.pairsOf act a.toNat (a.toNat + 1) ++ x.pairsOf act b.toNat (b.toNat + 1))))))

/-! ## Random numbers -/

/-- One round of R115. -/
def rngRound (p : Word × Word) : Word × Word :=
  let x0 := p.1 * 0x9E3779B1#32
  let x1 := (p.2 ^^^ (x0 >>> 16)) * 0x85EBCA6B#32
  (x0 ^^^ (x1 >>> 13), x1)

/-- The draw for a counter and a key (R115). -/
def rngDraw (lo hi : Word) (key : DWord) : Word :=
  let p := rngRound (rngRound (lo ^^^ key.extractLsb' 0 32, hi ^^^ key.extractLsb' 32 32))
  p.1 ^^^ p.2

/-- A random number from the counter in vA and vA + 1 and the key in sB (R115). -/
def State.random (s : State) (d a : BitVec 6) (b : BitVec 5) (g : BitVec 3) (n : BitVec 1) (f : Word → Word) : Res :=
  s.vectorOp d.toNat g n [a.toNat, a.toNat + 1] [b.toNat] fun x l =>
    f (rngDraw (x.vget a.toNat l) (x.vget (a.toNat + 1) l) (x.sget (l / 4) b.toNat))

def execRng (d a : BitVec 6) (b : BitVec 5) (g : BitVec 3) (n : BitVec 1) (s : State) : Res := s.random d a b g n id
def execRngf (d a : BitVec 6) (b : BitVec 5) (g : BitVec 3) (n : BitVec 1) (s : State) : Res :=
  s.random d a b g n fun r => BitVec.ofNat 32 (rnd fFP32 0 (.fin false (r.toNat / 256) (-24))).1

end Sys2Proof.Machine
end

