-- ==== Sys2Proof/Machine/Falu.lean ====
section
/-!
DEFINITION. Floating-point vector instructions: FALU, FCVT, HALU, DALU and SFU, majors 0x10 to 0x14
(R90 to R98).
-/

namespace Sys2Proof.Machine

/-- The form `vD, vA, vB` in FP32, from the slice's rounding mode and the operands (R90). -/
def State.float2 (s : State) (d a b : BitVec 6) (g : BitVec 3) (n : BitVec 1) (f : Nat → Word → Word → Word × Flags) : Res :=
  s.floatOp d.toNat g n [a.toNat, b.toNat] fun x l => f (x.mode (l / 4)) (x.vget a.toNat l) (x.vget b.toNat l)

/-- The form where vD is a source too. -/
def State.float3 (s : State) (d a b : BitVec 6) (g : BitVec 3) (n : BitVec 1)
    (f : Nat → Word → Word → Word → Word × Flags) : Res :=
  s.floatOp d.toNat g n [a.toNat, b.toNat, d.toNat] fun x l =>
    f (x.mode (l / 4)) (x.vget a.toNat l) (x.vget b.toNat l) (x.vget d.toNat l)

/-- The form `vD, vA` in FP32. -/
def State.float1 (s : State) (d a : BitVec 6) (g : BitVec 3) (n : BitVec 1) (f : Nat → Word → Word × Flags) : Res :=
  s.floatOp d.toNat g n [a.toNat] fun x l => f (x.mode (l / 4)) (x.vget a.toNat l)

def execFadd (d a b : BitVec 6) (g : BitVec 3) (n : BitVec 1) (s : State) : Res := s.float2 d a b g n fadd32
def execFsub (d a b : BitVec 6) (g : BitVec 3) (n : BitVec 1) (s : State) : Res :=
  s.float2 d a b g n fun m x y => asWord (fadd fFP32 m (f32 x) (numNeg (f32 y)))
def execFmul (d a b : BitVec 6) (g : BitVec 3) (n : BitVec 1) (s : State) : Res :=
  s.float2 d a b g n fun m x y => asWord (fmul fFP32 m (f32 x) (f32 y))
def execFfma (d a b : BitVec 6) (g : BitVec 3) (n : BitVec 1) (s : State) : Res :=
  s.float3 d a b g n fun m x y z => asWord (ffma fFP32 m (f32 x) (f32 y) (f32 z))
def execFfms (d a b : BitVec 6) (g : BitVec 3) (n : BitVec 1) (s : State) : Res :=
  s.float3 d a b g n fun m x y z => asWord (ffma fFP32 m (f32 x) (f32 y) (numNeg (f32 z)))

/-- A minimum or maximum of FP32 words; it sets no flag (R91). -/
def pick32 (big num : Bool) (x y : Word) : Word := BitVec.ofNat 32 (floatPick fFP32 big num x.toNat y.toNat)

def execFmin (d a b : BitVec 6) (g : BitVec 3) (n : BitVec 1) (s : State) : Res := s.vector2 d a b g n (pick32 false false)
def execFmax (d a b : BitVec 6) (g : BitVec 3) (n : BitVec 1) (s : State) : Res := s.vector2 d a b g n (pick32 true false)
def execFminn (d a b : BitVec 6) (g : BitVec 3) (n : BitVec 1) (s : State) : Res := s.vector2 d a b g n (pick32 false true)
def execFmaxn (d a b : BitVec 6) (g : BitVec 3) (n : BitVec 1) (s : State) : Res := s.vector2 d a b g n (pick32 true true)
def execFabs (d a : BitVec 6) (g : BitVec 3) (n : BitVec 1) (s : State) : Res := s.vector1 d a g n fun x => x &&& 0x7FFFFFFF#32
def execFneg (d a : BitVec 6) (g : BitVec 3) (n : BitVec 1) (s : State) : Res := s.vector1 d a g n fun x => x ^^^ 0x80000000#32
def execFcpys (d a b : BitVec 6) (g : BitVec 3) (n : BitVec 1) (s : State) : Res :=
  s.vector2 d a b g n fun x y => (y &&& 0x80000000#32) ||| (x &&& 0x7FFFFFFF#32)

/-- `a * 2^n`, the exponent held where every result is the same (R90). -/
def scaleNum (x : Num) (n : Int) : Num :=
  match x with
  | .fin neg m e => .fin neg m (e + min (max n (-600)) 600)
  | y => y

def execFscl (d a b : BitVec 6) (g : BitVec 3) (n : BitVec 1) (s : State) : Res :=
  s.float2 d a b g n fun m x y => asWord (rnd fFP32 m (scaleNum (f32 x) y.toInt))
def execFcls (d a : BitVec 6) (g : BitVec 3) (n : BitVec 1) (s : State) : Res := s.vector1 d a g n fun x => BitVec.ofNat 32 (classMask x.toNat)

/-- Rounded to an integral FP32 value, a zero keeping the operand's sign; no flag (R90). -/
def integral (mode : Nat) (x : Word) : Word :=
  match f32 x with
  | .nan => 0x7FC00000#32
  | .inf _ => x
  | .fin neg m e =>
    if 0 ≤ e || decide (m = 0) then x
    else BitVec.ofNat 32 (rnd fFP32 mode (.fin neg (toInteger mode neg m e).1.natAbs 0)).1

def execFrnd (d a : BitVec 6) (g : BitVec 3) (n : BitVec 1) (s : State) : Res := s.float1 d a g n fun m x => (integral m x, 0#5)

/-! ## Conversions -/

/-- The width in bits of a narrow source field (R94). -/
def narrowBits (f : Nat) : Nat := if f = 1 || f = 2 then 16 else if f = 7 then 4 else if f = 0 || f = 9 then 32 else 8

/-- The word that holds one value of a format in a register (R68). -/
def narrowWord (f : Nat) (x : Nat) : Word :=
  if f = fINT8 then (BitVec.ofNat 8 x).signExtend 32
  else if f = fINT4 then (BitVec.ofNat 4 x).signExtend 32
  else BitVec.ofNat 32 x

/-- Convert a value to a format, in a mode, with saturation (R94). -/
def convert (f mode : Nat) (sat : Bool) (x : Num) : Nat × Flags :=
  if isInt f then roundInteger f mode x else roundFloat f mode mode sat x

/-- FCVT: `c` is the conversion code of R93. -/
def execFcvt (d a c : BitVec 6) (g : BitVec 3) (n : BitVec 1) (sat : BitVec 1) (r : BitVec 3) (s : State) : Res :=
  let f := (c.extractLsb' 0 4).toNat
  let wide := if c.getLsbD 4 then fFP64 else fFP32
  let src := if c.getLsbD 5 then f else wide
  let dst := if c.getLsbD 5 then wide else f
  let from_ := if src = fFP64 then [a.toNat, a.toNat + 1] else [a.toNat]
  let value := fun (x : Arch) (l : Nat) =>
    if src = fFP64 then floatOf fFP64 (x.dget a.toNat l).toNat else valueOf src ((x.vget a.toNat l).toNat % 2 ^ narrowBits src)
  if dst = fFP64 then
    s.doubleOp d.toNat g n from_ fun x l =>
      let (y, fl) := convert fFP64 r.toNat (sat == 1#1) (value x l)
      (BitVec.ofNat 64 y, fl)
  else
    s.floatOp d.toNat g n from_ fun x l =>
      let (y, fl) := convert dst r.toNat (sat == 1#1) (value x l)
      (narrowWord dst y, fl)

/-! ## Packed pairs -/

/-- An operation on both elements of a word, in FP16 or BF16 (R95). -/
def packed (f : Nat → Nat → Nat → Nat → Nat × Flags) (m : Nat) (x y z : Word) : Word × Flags :=
  let lo := f m (fieldW x 0 16) (fieldW y 0 16) (fieldW z 0 16)
  let hi := f m (fieldW x 16 16) (fieldW y 16 16) (fieldW z 16 16)
  (BitVec.ofNat 16 hi.1 ++ BitVec.ofNat 16 lo.1, lo.2 ||| hi.2)

/-- Addition, subtraction, product and fused product on patterns of a format. -/
def padd (t m x y _z : Nat) : Nat × Flags := fadd t m (floatOf t x) (floatOf t y)
def psub (t m x y _z : Nat) : Nat × Flags := fadd t m (floatOf t x) (numNeg (floatOf t y))
def pmul (t m x y _z : Nat) : Nat × Flags := fmul t m (floatOf t x) (floatOf t y)
def pfma (t m x y z : Nat) : Nat × Flags := ffma t m (floatOf t x) (floatOf t y) (floatOf t z)

def execHadd2 (d a b : BitVec 6) (g : BitVec 3) (n : BitVec 1) (s : State) : Res :=
  s.float2 d a b g n fun m x y => packed (padd fFP16) m x y 0#32
def execHsub2 (d a b : BitVec 6) (g : BitVec 3) (n : BitVec 1) (s : State) : Res :=
  s.float2 d a b g n fun m x y => packed (psub fFP16) m x y 0#32
def execHmul2 (d a b : BitVec 6) (g : BitVec 3) (n : BitVec 1) (s : State) : Res :=
  s.float2 d a b g n fun m x y => packed (pmul fFP16) m x y 0#32
def execHfma2 (d a b : BitVec 6) (g : BitVec 3) (n : BitVec 1) (s : State) : Res :=
  s.float3 d a b g n (packed (pfma fFP16))
def execHmin2 (d a b : BitVec 6) (g : BitVec 3) (n : BitVec 1) (s : State) : Res :=
  s.float2 d a b g n fun m x y => packed (fun _ p q _ => (floatPick fFP16 false false p q, 0#5)) m x y 0#32
def execHmax2 (d a b : BitVec 6) (g : BitVec 3) (n : BitVec 1) (s : State) : Res :=
  s.float2 d a b g n fun m x y => packed (fun _ p q _ => (floatPick fFP16 true false p q, 0#5)) m x y 0#32
def execBadd2 (d a b : BitVec 6) (g : BitVec 3) (n : BitVec 1) (s : State) : Res :=
  s.float2 d a b g n fun m x y => packed (padd fBF16) m x y 0#32
def execBsub2 (d a b : BitVec 6) (g : BitVec 3) (n : BitVec 1) (s : State) : Res :=
  s.float2 d a b g n fun m x y => packed (psub fBF16) m x y 0#32
def execBmul2 (d a b : BitVec 6) (g : BitVec 3) (n : BitVec 1) (s : State) : Res :=
  s.float2 d a b g n fun m x y => packed (pmul fBF16) m x y 0#32
def execBfma2 (d a b : BitVec 6) (g : BitVec 3) (n : BitVec 1) (s : State) : Res :=
  s.float3 d a b g n (packed (pfma fBF16))

/-! ## FP64 pairs -/

/-- The registers of pairs. -/
def pairRegs (ks : List (BitVec 5)) : List Nat := ks.flatMap fun k => [pairReg k, pairReg k + 1]

/-- An FP64 instruction on pairs; D's pair is always checked, and read where `acc` (R96). -/
def State.double2 (s : State) (d a b : BitVec 5) (g : BitVec 3) (n : BitVec 1) (acc : Bool)
    (f : Nat → Nat → Nat → Nat → Nat × Flags) : Res :=
  s.doubleOp (pairReg d) g n (pairRegs (if acc then [a, b, d] else [a, b])) fun x l =>
    let r := f (x.mode (l / 4)) (x.dget (pairReg a) l).toNat (x.dget (pairReg b) l).toNat (x.dget (pairReg d) l).toNat
    (BitVec.ofNat 64 r.1, r.2)

def execDadd (d a b : BitVec 5) (g : BitVec 3) (n : BitVec 1) (s : State) : Res := s.double2 d a b g n false (padd fFP64)
def execDsub (d a b : BitVec 5) (g : BitVec 3) (n : BitVec 1) (s : State) : Res := s.double2 d a b g n false (psub fFP64)
def execDmul (d a b : BitVec 5) (g : BitVec 3) (n : BitVec 1) (s : State) : Res := s.double2 d a b g n false (pmul fFP64)
def execDfma (d a b : BitVec 5) (g : BitVec 3) (n : BitVec 1) (s : State) : Res := s.double2 d a b g n true (pfma fFP64)
def execDmin (d a b : BitVec 5) (g : BitVec 3) (n : BitVec 1) (s : State) : Res :=
  s.double2 d a b g n false fun _ x y _ => (floatPick fFP64 false false x y, 0#5)
def execDmax (d a b : BitVec 5) (g : BitVec 3) (n : BitVec 1) (s : State) : Res :=
  s.double2 d a b g n false fun _ x y _ => (floatPick fFP64 true false x y, 0#5)

/-! ## Special functions -/

/-- A special function of R97 that rounds RNE whatever the mode; the mode counts only beyond the largest
finite value. -/
def State.special (s : State) (d a : BitVec 6) (g : BitVec 3) (n : BitVec 1) (f : Num → Num × Flags) : Res :=
  s.float1 d a g n fun m x => sfuRound m (f (f32 x))

def execExp2 (d a : BitVec 6) (g : BitVec 3) (n : BitVec 1) (s : State) : Res := s.special d a g n fun x => (exp2Num x, 0#5)
def execLog2 (d a : BitVec 6) (g : BitVec 3) (n : BitVec 1) (s : State) : Res := s.special d a g n log2Num
def execRcp (d a : BitVec 6) (g : BitVec 3) (n : BitVec 1) (s : State) : Res := s.special d a g n rcpNum
def execRsq (d a : BitVec 6) (g : BitVec 3) (n : BitVec 1) (s : State) : Res := s.special d a g n rsqNum
/-- The square root rounds in the FPCTL mode (R97); NX only for an inexact root (R67). -/
def execSqrt (d a : BitVec 6) (g : BitVec 3) (n : BitVec 1) (s : State) : Res :=
  s.float1 d a g n fun m x =>
    let (y, fl) := sqrtNum (f32 x)
    let (b, fl2) := rnd fFP32 m y
    (BitVec.ofNat 32 b, fl ||| fl2)
def execSinpi (d a : BitVec 6) (g : BitVec 3) (n : BitVec 1) (s : State) : Res := s.special d a g n fun x => (sinpiNum x, 0#5)
def execCospi (d a : BitVec 6) (g : BitVec 3) (n : BitVec 1) (s : State) : Res := s.special d a g n fun x => (cospiNum x, 0#5)
def execTanh (d a : BitVec 6) (g : BitVec 3) (n : BitVec 1) (s : State) : Res := s.special d a g n fun x => (tanhNum x, 0#5)

end Sys2Proof.Machine
end

