-- ==== Sys2Proof/Machine/Graph.lean ====
section
/-!
DEFINITION. The graph instructions: tensor identifiers, appends, forces and their status; majors 0x28 to
0x2B (R176 to R196).
-/

namespace Sys2Proof.Machine

/-! ## Tensor identifiers (R176) -/

/-- The key of an identifier in a context's bindings, as a die sees them. -/
def bindKey (die k : Nat) : Nat := die * 256 + k

/-- The flight's own binding of an identifier, the latest first. -/
def Gang.ownBind (g : Gang) (k : Nat) : Option Bind := g.binds.find? fun b => b.k == k

/-- What an identifier is bound to, as the gang sees it. -/
def State.bound (s : State) (g : Gang) (k : Nat) : Option TDesc :=
  match g.ownBind k with
  | some b => b.desc
  | none => look? (s.ctx g.ctx).tensors (bindKey g.die k)

/-- FAULTINFO of TNBAD (R205). -/
def tnbadInfo (k off : Nat) : DWord := BitVec.ofNat 64 (k + off * 256)

/-- Bind or empty an identifier for the flight, and hold the binding. -/
def State.rebind (s : State) (r : Running) (b : Bind) : State :=
  s.holding { r with gang := { r.gang with binds := b :: r.gang.binds } } 1 (.bind b.k b.desc)

/-- TNDEF reads its descriptor during the flight, checks it and binds it (R175, R176) (DEDUCED, log 35). -/
def execTndef (a : BitVec 5) (t : BitVec 8) (s : State) : Res :=
  s.issue fun r =>
    let x := r.gang.arch
    s.checked r { sr := [a.toNat], slices := x.first?.toList }
      (match x.first? with
       | none => .next (s.setRun r)
       | some k =>
         let va := x.sget k a.toNat
         if field va 0 5 != 0 then s.raise r codeMisalign (accessInfo 0 false (4 * k) va)
         else
           s.withPlaced r [va] 32 fun s r =>
             match s.readNow r va 32 with
             | (.bad c form, u, q) => u.raiseRead q c (accessInfo form false 0 va)
             | (.bytes b p, u, q) =>
               if p then u.raisePoison q (accessInfo 0 false 0 va)
               else match descErrors b with
                 | e :: es => u.raise q codeTnbad (tnbadInfo t.toNat (es.foldl min e))
                 | [] => .next (u.rebind q ⟨t.toNat, some (descOf b), true⟩))

/-- TNREL acts once for the gang, where some slice acts. -/
def execTnrel (t : BitVec 8) (s : State) : Res :=
  s.issue fun r => .next (if r.gang.arch.first?.isSome then s.rebind r ⟨t.toNat, none, false⟩ else s.setRun r)

/-- TNGET: PENDUSE in file 2 for an identifier that a TNDEF of the flight bound (R55, R176). It is reported before a
pending destination (DESIGN CHOICE, log 51). -/
def execTnget (d : BitVec 5) (t : BitVec 8) (s : State) : Res :=
  s.issue fun r =>
    if r.gang.arch.first?.isSome && ((r.gang.ownBind t.toNat).any (·.isDef)) then s.raise r codePenduse (BitVec.ofNat 64 (512 + t.toNat))
    else
      s.checked r { sw := [d.toNat] }
        (if r.gang.arch.first?.isSome then
          .next (s.setArch r (r.gang.arch.mapSlices d.toNat fun _ => ((s.bound r.gang t.toNat).map (·.base)).getD 0#64))
         else .next (s.setRun r))

/-! ## Appends (R178 to R181) -/

/-- Add a node for the gang that issues, its handle in the node register (R178). -/
def State.addNode (s : State) (r : Running) (d : Nat) (op : NodeOp) (rows cols fmt : Nat) : Res :=
  let (id, t) := s.fresh
  let g := r.gang
  let x := Node.fresh op rows cols fmt r.cl.addr r.cl.idx g.ctx g.inst
  let u := t.onCore g.die g.core fun c => { c with nodes := put? c.nodes id (some x) }
  .next (u.setRun { r with gang := { g with appends := id :: g.appends, arch := g.arch.nset d id } })

/-- Whether the node quota of the gang's context has room for one more node on its core (R217). -/
def State.nodeRoom (s : State) (g : Gang) : Bool :=
  decide (((s.core g.die g.core).nodes.filter fun e => e.2.ctx == g.ctx).length < s.nodeQuota g.die g.ctx)

/-- Send an evaluation request to the matrix queue (R192, R198). -/
def State.request4 (s : State) (r : Running) (id node : Nat) (k : EKind) : State × Running :=
  let g := r.gang
  let v := Eval.fresh id g.gid g.who r.pc r.cl.idx node k
  (s.onCore g.die g.core fun c => ({ c with evals := c.evals ++ [v] } : Core).setQueue g.ctx 4 (c.queue g.ctx 4 ++ [Cmd.eval id]),
   { r with gang := { g with evals := id :: g.evals } })

/-- Append a node with the instruction as its append site, its handle in the node register. Where the node quota has
no room, an auto-force goes to the matrix queue and the append waits for it, or GALLERY is raised (R178, R218, R221). -/
def State.append (s : State) (r : Running) (d : Nat) (op : NodeOp) (rows cols fmt : Nat) : Res :=
  if s.nodeRoom r.gang then s.addNode r d op rows cols fmt
  else
    match s.autoTarget r.gang with
    | .inr info => s.raise r codeGallery info
    | .inl node =>
      let (id, t) := s.fresh
      let (u, q) := t.request4 r id node .auto
      .next (u.pause q [])

/-- A graph instruction acts once for the gang, with the scalars of the lowest acting slice; with no such
slice it does nothing (R178). -/
def State.graph (s : State) (srcs : List Nat) (k : Running → Nat → Res) : Res :=
  s.issue fun r =>
    s.checked r { sr := srcs, slices := r.gang.arch.first?.toList }
      (match r.gang.arch.first? with
       | none => .next (s.setRun r)
       | some j => k r j)

/-- The node that a register holds, or BADNODE (R181). -/
def State.withNode (s : State) (r : Running) (n : BitVec 4) (k : Nat → Node → Res) : Res :=
  let id := r.gang.arch.nget n.toNat
  match (if id = 0 then none else look? (s.core r.gang.die r.gang.core).nodes id) with
  | some x => k id x
  | none => s.raise r codeBadnode (BitVec.ofNat 64 n.toNat)

/-- BADATTR with a node register (R205). -/
def State.badattr (s : State) (r : Running) (n : Nat) : Res := s.raise r codeBadattr (BitVec.ofNat 64 n)

/-- SHAPE: the offending extent and the expected one, each less 1 (R205). -/
def State.shape (s : State) (r : Running) (ext want : Nat) : Res :=
  s.raise r codeShape (BitVec.ofNat 64 ((ext - 1) % 2 ^ 16 + (want - 1) % 2 ^ 16 * 2 ^ 16))

/-- A view's extent along one side: 0 runs to the end (R183); none where it reaches past the tensor, with
the end it would have. -/
def viewExtent (total origin ext : Nat) : Nat ⊕ Nat :=
  let n := if ext = 0 then total - origin else ext
  if n = 0 || decide (total < origin + n) then .inl (origin + max n 1) else .inr n

def execMleaf (d : BitVec 4) (a : BitVec 5) (k : BitVec 8) (t : BitVec 1) (s : State) : Res :=
  s.graph [a.toNat] fun r j =>
    match s.bound r.gang k.toNat with
    | none => s.raise r codeTnbad (tnbadInfo k.toNat 0xFF)
    | some e =>
      let v := r.gang.arch.sget j a.toNat
      match viewExtent e.rows (field v 0 16) (field v 32 16), viewExtent e.cols (field v 16 16) (field v 48 16) with
      | .inl x, _ => s.shape r x e.rows
      | _, .inl x => s.shape r x e.cols
      | .inr rows, .inr cols =>
        let op := NodeOp.leaf e (field v 0 16) (field v 16 16) (t == 1#1)
        if t = 1#1 then s.append r d.toNat op cols rows e.fmt else s.append r d.toNat op rows cols e.fmt

def execMconst (d : BitVec 4) (a : BitVec 5) (y : BitVec 1) (k : BitVec 2) (s : State) : Res :=
  s.graph [a.toNat] fun r j =>
    let v := r.gang.arch.sget j a.toNat
    let rows := field v 32 16
    let cols := field v 48 16
    if rows = 0 || cols = 0 || (k != 1#2 && field v 0 32 != 0) then s.badattr r 0
    else s.append r d.toNat (.const k.toNat (y == 1#1) (v.extractLsb' 0 32)) rows cols (if y = 1#1 then fINT32 else fFP32)

/-- A sparse leaf that may not stand as a factor: as the left one its view must not be turned, as the right
one it must (R188). -/
def sparseBad (x : Node) (right : Bool) : Bool :=
  match x.op with
  | .leaf e _ _ t => isSparse e.fmt && t != right
  | _ => false

/-- A sparse leaf, which may be an operand of no node but a product (R188, R208). -/
def Node.sparse (x : Node) : Bool := sparseBad x false || sparseBad x true

/-- The node that a register holds as the operand of a node other than a product: a sparse leaf is BADATTR (R188). -/
def State.withDense (s : State) (r : Running) (n : BitVec 4) (k : Nat → Node → Res) : Res :=
  s.withNode r n fun id x => if x.sparse then s.badattr r n.toNat else k id x

def execMtri (d n : BitVec 4) (a : BitVec 5) (s : State) : Res :=
  s.graph [a.toNat] fun r j =>
    s.withDense r n fun id x =>
      let v := r.gang.arch.sget j a.toNat
      let fill := field v 33 2
      if field v 35 29 != 0 || fill = 3 || (fill = 1 && classOf x.fmt = 1) then s.badattr r n.toNat
      else s.append r d.toNat (.tri id ((v.extractLsb' 0 32).toInt) (field v 32 1) fill) x.rows x.cols x.fmt

def execMscl (d n : BitVec 4) (a : BitVec 5) (s : State) : Res :=
  s.graph [a.toNat] fun r j =>
    s.withDense r n fun id x =>
      let v := r.gang.arch.sget j a.toNat
      if field v 32 32 != 0 then s.badattr r n.toNat
      else s.append r d.toNat (.scl id (v.extractLsb' 0 32)) x.rows x.cols (if classOf x.fmt = 2 then fFP64 else fFP32)

/-- The value type of a node of a class that an operation makes: FP32, INT32 or FP64 (R188, R189). -/
def classType (c : Nat) : Nat := if c = 1 then fINT32 else if c = 2 then fFP64 else fFP32

def execMmul (d n m : BitVec 4) (t k : BitVec 1) (p : BitVec 1) (q : BitVec 2) (s : State) : Res :=
  s.graph [] fun r _ =>
    s.withNode r n fun a x =>
      s.withNode r m fun b y =>
        let c := classOf x.fmt
        if c != classOf y.fmt || q.toNat != (if c = 1 then 1 else 0) || (c = 2 && t = 1#1) || sparseBad x false then s.badattr r n.toNat
        else if sparseBad y true then s.badattr r m.toNat
        else if x.cols != y.rows then s.shape r y.rows x.cols
        else s.append r d.toNat (.mul a b (p == 1#1) (k == 1#1) (t == 1#1)) x.rows y.cols (classType c)

/-- An elementwise node of two operands (R189): 0 sum, 1 difference, 2 product. Both registers are looked up before an attribute is
checked (R181); of two sparse operands the first is named (DEDUCED, log 42). -/
def State.elementwise (s : State) (op : Nat) (d n m : BitVec 4) (q : BitVec 1) : Res :=
  s.graph [] fun r _ =>
    s.withNode r n fun a x =>
      s.withNode r m fun b y =>
        if x.sparse then s.badattr r n.toNat
        else if y.sparse then s.badattr r m.toNat
        else if classOf x.fmt != classOf y.fmt then s.badattr r n.toNat
        else if x.rows != y.rows then s.shape r y.rows x.rows
        else if x.cols != y.cols then s.shape r y.cols x.cols
        else s.append r d.toNat (.ew op a b (q == 1#1)) x.rows x.cols (classType (classOf x.fmt))

def execMeadd (d n m : BitVec 4) (q : BitVec 1) (s : State) : Res := s.elementwise 0 d n m q
def execMesub (d n m : BitVec 4) (q : BitVec 1) (s : State) : Res := s.elementwise 1 d n m q
def execMemul (d n m : BitVec 4) (q : BitVec 1) (s : State) : Res := s.elementwise 2 d n m q

def execMtrn (d n : BitVec 4) (s : State) : Res :=
  s.graph [] fun r _ => s.withDense r n fun id x => s.append r d.toNat (.trn id) x.cols x.rows x.fmt

/-- MCVT (R190, R65): Q4B and sparse destinations, and an 8-bit float with a mode other than RNE, are
BADATTR. -/
def execMcvt (d n : BitVec 4) (t : BitVec 1) (m : BitVec 3) (f : BitVec 6) (s : State) : Res :=
  s.graph [] fun r _ =>
    s.withDense r n fun id x =>
      if isQ4 f.toNat || isSparse f.toNat || ((f.toNat == fE4M3 || f.toNat == fE5M2) && m != 0#3) then s.badattr r n.toNat
      else s.append r d.toNat (.cvt id f.toNat m.toNat (t == 1#1)) x.rows x.cols f.toNat

def execMact (d n : BitVec 4) (k : BitVec 4) (s : State) : Res :=
  s.graph [] fun r _ =>
    s.withDense r n fun id x =>
      if k != 0#4 && classOf x.fmt != 0 then s.badattr r n.toNat
      else s.append r d.toNat (.act id k.toNat) x.rows x.cols (classType (classOf x.fmt))

/-! ## Forces (R191 to R196) -/

def execForce (n : BitVec 4) (s : State) : Res :=
  s.graph [] fun r _ =>
    s.withNode r n fun node _ =>
      let (id, t) := s.fresh
      let (u, q) := t.request4 r id node .force
      .next (u.setRun q)

/-- MDROP empties its register at once; the reference goes at the commit. -/
def execMdrop (n : BitVec 4) (s : State) : Res :=
  s.graph [] fun r _ => s.withNode r n fun _ _ => .next (s.setArch r (r.gang.arch.nset n.toNat 0))

/-- The registers of an MRD: a pair for a Double node. -/
def State.mrdRegs (s : State) (r : Running) (d : Nat) (n : BitVec 4) : List Nat :=
  match look? (s.core r.gang.die r.gang.core).nodes (r.gang.arch.nget n.toNat) with
  | some x => if x.fmt = fFP64 then [d, d + 1] else [d]
  | none => [d]

def execMrd (d : BitVec 6) (n : BitVec 4) (a : BitVec 5) (s : State) : Res :=
  s.issue fun r =>
    let x := r.gang.arch
    let regs := s.mrdRegs r d.toNat n
    if regs.length = 2 && d.toNat % 2 = 1 && x.first?.isSome then s.illins r 3
    else
      s.checked r { vw := regs, sr := [a.toNat], slices := x.first?.toList }
        (match x.first? with
         | none => .next (s.setRun r)
         | some j =>
           s.withNode r n fun node y =>
             let v := x.sget j a.toNat
             let row := field v 0 32
             let col := field v 32 16
             let width := field v 48 5 + 1
             if field v 53 11 != 0 then s.badattr r n.toNat
             else if y.rows ≤ row then s.shape r (row + 1) y.rows
             else if y.cols < col + width then s.shape r (col + width) y.cols
             else
               let (id, t) := s.fresh
               let (u, q) := t.request4 r id node (.read id d.toNat row col width (bitsOf x.exec))
               .next (u.setRun (q.pend id 0 d.toNat regs.length [] 1 [])))

/-- The addresses that a row of an MST writes, element by element or, by rows, as one run (R194). -/
def mstRuns (e : TDesc) (row col cols : Nat) : List (DWord × Nat) :=
  let bits := elemBits e.fmt
  if e.colMajor then (List.range cols).map fun j => (e.addr row (col + j), bits / 8)
  else [(e.addr row col, if e.fmt = fINT4 then (col % 2 + cols + 1) / 2 else cols * bits / 8)]

/-- One byte in each page that an MST writes, in address order. -/
def mstPages (e : TDesc) (row col rows cols : Nat) : List DWord :=
  let runs := (List.range rows).flatMap fun i => mstRuns e (row + i) col cols
  let pages := runs.flatMap fun p =>
    let lo := p.1.toNat
    (List.range ((lo + p.2 - 1) / 4096 - lo / 4096 + 1)).map fun i => BitVec.ofNat 64 (if i = 0 then lo else (lo / 4096 + i) * 4096)
  pages.foldl (fun acc a => if acc.any fun b => b.toNat / 4096 == a.toNat / 4096 then acc else acc ++ [a]) []

def execMst (n : BitVec 4) (t : BitVec 8) (a : BitVec 5) (f : BitVec 1) (s : State) : Res :=
  s.graph [a.toNat] fun r j =>
    s.withNode r n fun node x =>
      match s.bound r.gang t.toNat with
      | none => s.raise r codeTnbad (tnbadInfo t.toNat 0xFF)
      | some e =>
        let v := r.gang.arch.sget j a.toNat
        let row := field v 0 16
        let col := field v 16 16
        if field v 32 32 != 0 || isQ4 e.fmt || isSparse e.fmt || e.scale != 0 then s.badattr r n.toNat
        else if e.rows < row + x.rows then s.shape r (row + x.rows) e.rows
        else if e.cols < col + x.cols then s.shape r (col + x.cols) e.cols
        else
          let (acc, s1) := s.fresh
          let (id, s2) := s1.fresh
          let go := fun (s : State) (r : Running) =>
            let (u, q) := s.request4 r id node .store
            Host.Outcome.next (u.holding q 1 (.mst e row col (f == 1#1) x.rows x.cols acc id []))
          match accumOff e.base with
          | some off =>
            let slots := ((s.inst? r.gang.die r.gang.inst).map (·.accslots)).getD 0
            match (List.range x.rows).find? fun i => decide (slots * 4096 ≤ off + 128 * (row + i)) with
            | some i => s.raise r codeProt (accessInfo 0 true 0 (e.addr (row + i) col))
            | none => go s2 r
          | none =>
            s2.startAccess r ⟨acc, r.pc, r.cl.idx, .store, (mstPages e row col x.rows x.cols).map fun a => partAt 0 a 1, false, false⟩ go

def execMacc (n : BitVec 4) (k : BitVec 6) (a : BitVec 5) (t i : BitVec 1) (s : State) : Res :=
  s.graph [a.toNat] fun r j =>
    s.withNode r n fun node x =>
      let slots := ((s.inst? r.gang.die r.gang.inst).map (·.accslots)).getD 0
      if slots ≤ k.toNat || x.fmt != (if i = 1#1 then fINT32 else fFP32) then s.badattr r n.toNat
      else if 32 < x.rows then s.shape r x.rows 32
      else if 32 < x.cols then s.shape r x.cols 32
      else
        let ctr := if a = 0#5 then none else some (r.gang.arch.sget j a.toNat)
        .next (s.holding r 1 (.macc node k.toNat (i == 1#1) (t == 1#1) ctr))

/-- MSTAT's value for a node (R196) (DEDUCED, log 35). -/
def State.nodeStatus (s : State) (g : Gang) (id : Nat) (x : Node) : DWord :=
  let busy := (s.core g.die g.core).evals.any fun v => v.node == id || v.pnodes.any fun p => !p.need.isEmpty && p.sinks.contains id
  let state := if x.op == .mat then 4 else if busy then 2 else if x.vals.isEmpty then 1 else 3
  BitVec.ofNat 64 (state + x.sticky.toNat * 16 + x.fmt * 2 ^ 16 + (x.rows - 1) * 2 ^ 32 + (x.cols - 1) * 2 ^ 48)

def execMstat (n : BitVec 4) (d : BitVec 5) (s : State) : Res :=
  s.issue fun r =>
    s.checked r { sw := [d.toNat] }
      (if r.gang.arch.first?.isNone then .next (s.setRun r)
       else
        let id := r.gang.arch.nget n.toNat
        let v := match look? (s.core r.gang.die r.gang.core).nodes id with
          | some x => s.nodeStatus r.gang id x
          | none => 0#64
        .next (s.setArch r (r.gang.arch.mapSlices d.toNat fun _ => v)))

end Sys2Proof.Machine
end

