-- ==== Sys2Proof/Machine/Salu.lean ====
section
/-!
DEFINITION. Scalar arithmetic: majors 0x01 to 0x05 (R40 to R42).
-/

namespace Sys2Proof.Machine

/-- A truth value as a scalar: 1 or 0. -/
def flag64 (b : Bool) : DWord := if b then 1#64 else 0#64

def execSadd (d a b : BitVec 5) (s : State) : Res := s.scalar2 d a b fun x y => x + y
def execSsub (d a b : BitVec 5) (s : State) : Res := s.scalar2 d a b fun x y => x - y
def execSmul (d a b : BitVec 5) (s : State) : Res := s.scalar2 d a b fun x y => x * y
/-- High half of the signed product (R40). -/
def execSmulh (d a b : BitVec 5) (s : State) : Res :=
  s.scalar2 d a b fun x y => BitVec.ofInt 64 (x.toInt * y.toInt / 2 ^ 64)
/-- High half of the unsigned product (R40). -/
def execSmulhu (d a b : BitVec 5) (s : State) : Res :=
  s.scalar2 d a b fun x y => BitVec.ofNat 64 (x.toNat * y.toNat / 2 ^ 64)
def execSand (d a b : BitVec 5) (s : State) : Res := s.scalar2 d a b fun x y => x &&& y
def execSor (d a b : BitVec 5) (s : State) : Res := s.scalar2 d a b fun x y => x ||| y
def execSxor (d a b : BitVec 5) (s : State) : Res := s.scalar2 d a b fun x y => x ^^^ y
/-- Shifts take their amount from S[b][5:0] (R40). -/
def execSshl (d a b : BitVec 5) (s : State) : Res := s.scalar2 d a b fun x y => x <<< (field y 0 6)
def execSshr (d a b : BitVec 5) (s : State) : Res := s.scalar2 d a b fun x y => x >>> (field y 0 6)
def execSsra (d a b : BitVec 5) (s : State) : Res := s.scalar2 d a b fun x y => x.sshiftRight (field y 0 6)
def execSmin (d a b : BitVec 5) (s : State) : Res := s.scalar2 d a b fun x y => if y.slt x then y else x
def execSmax (d a b : BitVec 5) (s : State) : Res := s.scalar2 d a b fun x y => if x.slt y then y else x
def execSminu (d a b : BitVec 5) (s : State) : Res := s.scalar2 d a b fun x y => if y.ult x then y else x
def execSmaxu (d a b : BitVec 5) (s : State) : Res := s.scalar2 d a b fun x y => if x.ult y then y else x
def execSslt (d a b : BitVec 5) (s : State) : Res := s.scalar2 d a b fun x y => flag64 (x.slt y)
def execSsltu (d a b : BitVec 5) (s : State) : Res := s.scalar2 d a b fun x y => flag64 (x.ult y)

/-- Signed division: -1 for a zero divisor, -2^63 for -2^63 by -1, else truncated (R40). -/
def sdivOf (x y : DWord) : DWord :=
  if y = 0#64 then BitVec.ofInt 64 (-1)
  else if x = 0x8000000000000000#64 && y = BitVec.ofInt 64 (-1) then 0x8000000000000000#64
  else BitVec.ofInt 64 (x.toInt.tdiv y.toInt)

/-- Unsigned division: 2^64 - 1 for a zero divisor (R40). -/
def sdivuOf (x y : DWord) : DWord := if y = 0#64 then BitVec.ofInt 64 (-1) else BitVec.ofNat 64 (x.toNat / y.toNat)

def execSdiv (d a b : BitVec 5) (s : State) : Res := s.scalar2 d a b sdivOf
def execSdivu (d a b : BitVec 5) (s : State) : Res := s.scalar2 d a b sdivuOf
def execSrem (d a b : BitVec 5) (s : State) : Res :=
  s.scalar2 d a b fun x y =>
    if y = 0#64 then x
    else if x = 0x8000000000000000#64 && y = BitVec.ofInt 64 (-1) then 0#64
    else x - y * sdivOf x y
def execSremu (d a b : BitVec 5) (s : State) : Res :=
  s.scalar2 d a b fun x y => if y = 0#64 then x else x - y * sdivuOf x y
def execSclz (d a : BitVec 5) (s : State) : Res := s.scalar1 d a fun x => BitVec.ofNat 64 (leadingZeros x)
def execSpop (d a : BitVec 5) (s : State) : Res := s.scalar1 d a fun x => BitVec.ofNat 64 (popcount x)
def execSseq (d a b : BitVec 5) (s : State) : Res := s.scalar2 d a b fun x y => flag64 (x == y)

def execSaddi (d a : BitVec 5) (i : BitVec 10) (s : State) : Res := s.scalarImm d a i fun x y => x + y
def execSandi (d a : BitVec 5) (i : BitVec 10) (s : State) : Res := s.scalarImm d a i fun x y => x &&& y
def execSori (d a : BitVec 5) (i : BitVec 10) (s : State) : Res := s.scalarImm d a i fun x y => x ||| y
def execSxori (d a : BitVec 5) (i : BitVec 10) (s : State) : Res := s.scalarImm d a i fun x y => x ^^^ y
def execSshli (d a : BitVec 5) (i : BitVec 6) (s : State) : Res := s.scalar1 d a fun x => x <<< i.toNat
def execSshri (d a : BitVec 5) (i : BitVec 6) (s : State) : Res := s.scalar1 d a fun x => x >>> i.toNat
def execSsrai (d a : BitVec 5) (i : BitVec 6) (s : State) : Res := s.scalar1 d a fun x => x.sshiftRight i.toNat
def execSslti (d a : BitVec 5) (i : BitVec 10) (s : State) : Res := s.scalarImm d a i fun x y => flag64 (x.slt y)
def execSsltiu (d a : BitVec 5) (i : BitVec 10) (s : State) : Res := s.scalarImm d a i fun x y => flag64 (x.ult y)

/-- `S[d] := sext(IMM20 ++ 0x000)` (R42). -/
def execSlui (d : BitVec 5) (i : BitVec 20) (s : State) : Res :=
  s.scalarOp d.toNat [] fun _ _ => (i ++ 0#12).signExtend 64

/-- `S[d] := H + sext(IMM20) * 4` (R42). -/
def execSadr (d : BitVec 5) (i : BitVec 20) (s : State) : Res :=
  s.issue fun r => s.scalarOp d.toNat [] fun _ _ => headerPlus r i

end Sys2Proof.Machine
end

