-- ==== Sys2Proof/Machine/Dispatch.lean ====
section
/-!
DEFINITION. The meaning of every instruction and event, one arm for each constructor.
-/

namespace Sys2Proof.Machine

def exec (i : Instr) (s : State) : Host.Outcome State Fault Refusal :=
  match i with
  | .sadd d a b => Sys2Proof.Machine.execSadd d a b s
  | .ssub d a b => Sys2Proof.Machine.execSsub d a b s
  | .smul d a b => Sys2Proof.Machine.execSmul d a b s
  | .smulh d a b => Sys2Proof.Machine.execSmulh d a b s
  | .smulhu d a b => Sys2Proof.Machine.execSmulhu d a b s
  | .sand d a b => Sys2Proof.Machine.execSand d a b s
  | .sor d a b => Sys2Proof.Machine.execSor d a b s
  | .sxor d a b => Sys2Proof.Machine.execSxor d a b s
  | .sshl d a b => Sys2Proof.Machine.execSshl d a b s
  | .sshr d a b => Sys2Proof.Machine.execSshr d a b s
  | .ssra d a b => Sys2Proof.Machine.execSsra d a b s
  | .smin d a b => Sys2Proof.Machine.execSmin d a b s
  | .smax d a b => Sys2Proof.Machine.execSmax d a b s
  | .sminu d a b => Sys2Proof.Machine.execSminu d a b s
  | .smaxu d a b => Sys2Proof.Machine.execSmaxu d a b s
  | .sslt d a b => Sys2Proof.Machine.execSslt d a b s
  | .ssltu d a b => Sys2Proof.Machine.execSsltu d a b s
  | .sdiv d a b => Sys2Proof.Machine.execSdiv d a b s
  | .sdivu d a b => Sys2Proof.Machine.execSdivu d a b s
  | .srem d a b => Sys2Proof.Machine.execSrem d a b s
  | .sremu d a b => Sys2Proof.Machine.execSremu d a b s
  | .sclz d a => Sys2Proof.Machine.execSclz d a s
  | .spop d a => Sys2Proof.Machine.execSpop d a s
  | .sseq d a b => Sys2Proof.Machine.execSseq d a b s
  | .saddi d a x_i => Sys2Proof.Machine.execSaddi d a x_i s
  | .sandi d a x_i => Sys2Proof.Machine.execSandi d a x_i s
  | .sori d a x_i => Sys2Proof.Machine.execSori d a x_i s
  | .sxori d a x_i => Sys2Proof.Machine.execSxori d a x_i s
  | .sshli d a x_i => Sys2Proof.Machine.execSshli d a x_i s
  | .sshri d a x_i => Sys2Proof.Machine.execSshri d a x_i s
  | .ssrai d a x_i => Sys2Proof.Machine.execSsrai d a x_i s
  | .sslti d a x_i => Sys2Proof.Machine.execSslti d a x_i s
  | .ssltiu d a x_i => Sys2Proof.Machine.execSsltiu d a x_i s
  | .slui d x_i => Sys2Proof.Machine.execSlui d x_i s
  | .sadr d x_i => Sys2Proof.Machine.execSadr d x_i s
  | .bra o => Sys2Proof.Machine.execBra o s
  | .bz x_s o => Sys2Proof.Machine.execBz x_s o s
  | .bnz x_s o => Sys2Proof.Machine.execBnz x_s o s
  | .bmz o => Sys2Proof.Machine.execBmz o s
  | .bmnz o => Sys2Proof.Machine.execBmnz o s
  | .blt x_s o => Sys2Proof.Machine.execBlt x_s o s
  | .call o => Sys2Proof.Machine.execCall o s
  | .jmp a => Sys2Proof.Machine.execJmp a s
  | .callr a => Sys2Proof.Machine.execCallr a s
  | .ret => Sys2Proof.Machine.execRet s
  | .regang t => Sys2Proof.Machine.execRegang t s
  | .mpush d k => Sys2Proof.Machine.execMpush d k s
  | .mpop a => Sys2Proof.Machine.execMpop a s
  | .melse a => Sys2Proof.Machine.execMelse a s
  | .allon d => Sys2Proof.Machine.execAllon d s
  | .alloff a => Sys2Proof.Machine.execAlloff a s
  | .mget d => Sys2Proof.Machine.execMget d s
  | .mset a => Sys2Proof.Machine.execMset a s
  | .vadd d a b g n => Sys2Proof.Machine.execVadd d a b g n s
  | .vsub d a b g n => Sys2Proof.Machine.execVsub d a b g n s
  | .vmul d a b g n => Sys2Proof.Machine.execVmul d a b g n s
  | .vmulh d a b g n => Sys2Proof.Machine.execVmulh d a b g n s
  | .vmulhu d a b g n => Sys2Proof.Machine.execVmulhu d a b g n s
  | .vmad d a b g n => Sys2Proof.Machine.execVmad d a b g n s
  | .vand d a b g n => Sys2Proof.Machine.execVand d a b g n s
  | .vor d a b g n => Sys2Proof.Machine.execVor d a b g n s
  | .vxor d a b g n => Sys2Proof.Machine.execVxor d a b g n s
  | .vshl d a b g n => Sys2Proof.Machine.execVshl d a b g n s
  | .vshr d a b g n => Sys2Proof.Machine.execVshr d a b g n s
  | .vsra d a b g n => Sys2Proof.Machine.execVsra d a b g n s
  | .vmin d a b g n => Sys2Proof.Machine.execVmin d a b g n s
  | .vmax d a b g n => Sys2Proof.Machine.execVmax d a b g n s
  | .vminu d a b g n => Sys2Proof.Machine.execVminu d a b g n s
  | .vmaxu d a b g n => Sys2Proof.Machine.execVmaxu d a b g n s
  | .vpop d a g n => Sys2Proof.Machine.execVpop d a g n s
  | .vclz d a g n => Sys2Proof.Machine.execVclz d a g n s
  | .vbrev d a g n => Sys2Proof.Machine.execVbrev d a g n s
  | .vabsd d a b g n => Sys2Proof.Machine.execVabsd d a b g n s
  | .vsel d a b g n => Sys2Proof.Machine.execVsel d a b g n s
  | .vmov d a g n => Sys2Proof.Machine.execVmov d a g n s
  | .vdot4 d a b g n => Sys2Proof.Machine.execVdot4 d a b g n s
  | .vdot4u d a b g n => Sys2Proof.Machine.execVdot4u d a b g n s
  | .vreq8 d a b g n => Sys2Proof.Machine.execVreq8 d a b g n s
  | .vreq4 d a b g n => Sys2Proof.Machine.execVreq4 d a b g n s
  | .vlane d g n => Sys2Proof.Machine.execVlane d g n s
  | .vtask d g n => Sys2Proof.Machine.execVtask d g n s
  | .vbcs d a g n => Sys2Proof.Machine.execVbcs d a g n s
  | .vaddi d a x_i => Sys2Proof.Machine.execVaddi d a x_i s
  | .vandi d a x_i => Sys2Proof.Machine.execVandi d a x_i s
  | .vori d a x_i => Sys2Proof.Machine.execVori d a x_i s
  | .vxori d a x_i => Sys2Proof.Machine.execVxori d a x_i s
  | .vshli d a x_i => Sys2Proof.Machine.execVshli d a x_i s
  | .vshri d a x_i => Sys2Proof.Machine.execVshri d a x_i s
  | .vsrai d a x_i => Sys2Proof.Machine.execVsrai d a x_i s
  | .vmini d a x_i => Sys2Proof.Machine.execVmini d a x_i s
  | .vmaxi d a x_i => Sys2Proof.Machine.execVmaxi d a x_i s
  | .vmovi d x_i => Sys2Proof.Machine.execVmovi d x_i s
  | .vunpk d a n => Sys2Proof.Machine.execVunpk d a n s
  | .vlui d x_i => Sys2Proof.Machine.execVlui d x_i s
  | .vcmp p a b c => Sys2Proof.Machine.execVcmp p a b c s
  | .vcmps p a b c => Sys2Proof.Machine.execVcmps p a b c s
  | .fcmp p a b c => Sys2Proof.Machine.execFcmp p a b c s
  | .fcmps p a b c => Sys2Proof.Machine.execFcmps p a b c s
  | .dcmp p a b c => Sys2Proof.Machine.execDcmp p a b c s
  | .pand d a b => Sys2Proof.Machine.execPand d a b s
  | .por d a b => Sys2Proof.Machine.execPor d a b s
  | .pxor d a b => Sys2Proof.Machine.execPxor d a b s
  | .pandn d a b => Sys2Proof.Machine.execPandn d a b s
  | .pnot d a => Sys2Proof.Machine.execPnot d a s
  | .pmov d a => Sys2Proof.Machine.execPmov d a s
  | .pset d => Sys2Proof.Machine.execPset d s
  | .pclr d => Sys2Proof.Machine.execPclr d s
  | .fadd d a b g n => Sys2Proof.Machine.execFadd d a b g n s
  | .fsub d a b g n => Sys2Proof.Machine.execFsub d a b g n s
  | .fmul d a b g n => Sys2Proof.Machine.execFmul d a b g n s
  | .ffma d a b g n => Sys2Proof.Machine.execFfma d a b g n s
  | .ffms d a b g n => Sys2Proof.Machine.execFfms d a b g n s
  | .fmin d a b g n => Sys2Proof.Machine.execFmin d a b g n s
  | .fmax d a b g n => Sys2Proof.Machine.execFmax d a b g n s
  | .fminn d a b g n => Sys2Proof.Machine.execFminn d a b g n s
  | .fmaxn d a b g n => Sys2Proof.Machine.execFmaxn d a b g n s
  | .fabs d a g n => Sys2Proof.Machine.execFabs d a g n s
  | .fneg d a g n => Sys2Proof.Machine.execFneg d a g n s
  | .fcpys d a b g n => Sys2Proof.Machine.execFcpys d a b g n s
  | .fscl d a b g n => Sys2Proof.Machine.execFscl d a b g n s
  | .fcls d a g n => Sys2Proof.Machine.execFcls d a g n s
  | .frnd d a g n => Sys2Proof.Machine.execFrnd d a g n s
  | .fcvt d a c g n x_s r => Sys2Proof.Machine.execFcvt d a c g n x_s r s
  | .hadd2 d a b g n => Sys2Proof.Machine.execHadd2 d a b g n s
  | .hsub2 d a b g n => Sys2Proof.Machine.execHsub2 d a b g n s
  | .hmul2 d a b g n => Sys2Proof.Machine.execHmul2 d a b g n s
  | .hfma2 d a b g n => Sys2Proof.Machine.execHfma2 d a b g n s
  | .hmin2 d a b g n => Sys2Proof.Machine.execHmin2 d a b g n s
  | .hmax2 d a b g n => Sys2Proof.Machine.execHmax2 d a b g n s
  | .badd2 d a b g n => Sys2Proof.Machine.execBadd2 d a b g n s
  | .bsub2 d a b g n => Sys2Proof.Machine.execBsub2 d a b g n s
  | .bmul2 d a b g n => Sys2Proof.Machine.execBmul2 d a b g n s
  | .bfma2 d a b g n => Sys2Proof.Machine.execBfma2 d a b g n s
  | .dadd d a b g n => Sys2Proof.Machine.execDadd d a b g n s
  | .dsub d a b g n => Sys2Proof.Machine.execDsub d a b g n s
  | .dmul d a b g n => Sys2Proof.Machine.execDmul d a b g n s
  | .dfma d a b g n => Sys2Proof.Machine.execDfma d a b g n s
  | .dmin d a b g n => Sys2Proof.Machine.execDmin d a b g n s
  | .dmax d a b g n => Sys2Proof.Machine.execDmax d a b g n s
  | .exp2 d a g n => Sys2Proof.Machine.execExp2 d a g n s
  | .log2 d a g n => Sys2Proof.Machine.execLog2 d a g n s
  | .rcp d a g n => Sys2Proof.Machine.execRcp d a g n s
  | .rsq d a g n => Sys2Proof.Machine.execRsq d a g n s
  | .sqrt d a g n => Sys2Proof.Machine.execSqrt d a g n s
  | .sinpi d a g n => Sys2Proof.Machine.execSinpi d a g n s
  | .cospi d a g n => Sys2Proof.Machine.execCospi d a g n s
  | .tanh d a g n => Sys2Proof.Machine.execTanh d a g n s
  | .shfl d a b g n => Sys2Proof.Machine.execShfl d a b g n s
  | .shflx d a k g n => Sys2Proof.Machine.execShflx d a k g n s
  | .shflup d a k g n => Sys2Proof.Machine.execShflup d a k g n s
  | .shfldn d a k g n => Sys2Proof.Machine.execShfldn d a k g n s
  | .bcast d a k g n => Sys2Proof.Machine.execBcast d a k g n s
  | .vbal d p => Sys2Proof.Machine.execVbal d p s
  | .vany d p => Sys2Proof.Machine.execVany d p s
  | .vall d p => Sys2Proof.Machine.execVall d p s
  | .vcnt d p => Sys2Proof.Machine.execVcnt d p s
  | .redAdd d a g n => Sys2Proof.Machine.execRedAdd d a g n s
  | .redFadd d a g n => Sys2Proof.Machine.execRedFadd d a g n s
  | .redMax d a g n => Sys2Proof.Machine.execRedMax d a g n s
  | .redMin d a g n => Sys2Proof.Machine.execRedMin d a g n s
  | .redMaxu d a g n => Sys2Proof.Machine.execRedMaxu d a g n s
  | .redMinu d a g n => Sys2Proof.Machine.execRedMinu d a g n s
  | .redFmax d a g n => Sys2Proof.Machine.execRedFmax d a g n s
  | .redFmin d a g n => Sys2Proof.Machine.execRedFmin d a g n s
  | .redAnd d a g n => Sys2Proof.Machine.execRedAnd d a g n s
  | .redOr d a g n => Sys2Proof.Machine.execRedOr d a g n s
  | .redXor d a g n => Sys2Proof.Machine.execRedXor d a g n s
  | .redMaxi d a b g n => Sys2Proof.Machine.execRedMaxi d a b g n s
  | .redMini d a b g n => Sys2Proof.Machine.execRedMini d a b g n s
  | .redFmaxi d a b g n => Sys2Proof.Machine.execRedFmaxi d a b g n s
  | .redFmini d a b g n => Sys2Proof.Machine.execRedFmini d a b g n s
  | .scanAdd d a g n => Sys2Proof.Machine.execScanAdd d a g n s
  | .scanxAdd d a g n => Sys2Proof.Machine.execScanxAdd d a g n s
  | .scanFadd d a g n => Sys2Proof.Machine.execScanFadd d a g n s
  | .scanxFadd d a g n => Sys2Proof.Machine.execScanxFadd d a g n s
  | .scanMax d a g n => Sys2Proof.Machine.execScanMax d a g n s
  | .scanMin d a g n => Sys2Proof.Machine.execScanMin d a g n s
  | .scanOr d a g n => Sys2Proof.Machine.execScanOr d a g n s
  | .ksort d a b g n => Sys2Proof.Machine.execKsort d a b g n s
  | .kmerge d a b g n => Sys2Proof.Machine.execKmerge d a b g n s
  | .rng d a b g n => Sys2Proof.Machine.execRng d a b g n s
  | .rngf d a b g n => Sys2Proof.Machine.execRngf d a b g n s
  | .sldB d x_s o => Sys2Proof.Machine.execSldB d x_s o s
  | .sldBu d x_s o => Sys2Proof.Machine.execSldBu d x_s o s
  | .sldH d x_s o => Sys2Proof.Machine.execSldH d x_s o s
  | .sldHu d x_s o => Sys2Proof.Machine.execSldHu d x_s o s
  | .sldW d x_s o => Sys2Proof.Machine.execSldW d x_s o s
  | .sldWu d x_s o => Sys2Proof.Machine.execSldWu d x_s o s
  | .sldD d x_s o => Sys2Proof.Machine.execSldD d x_s o s
  | .sstB d x_s o => Sys2Proof.Machine.execSstB d x_s o s
  | .sstH d x_s o => Sys2Proof.Machine.execSstH d x_s o s
  | .sstW d x_s o => Sys2Proof.Machine.execSstW d x_s o s
  | .sstD d x_s o => Sys2Proof.Machine.execSstD d x_s o s
  | .vldB d x_s e x o => Sys2Proof.Machine.execVldB d x_s e x o s
  | .vldBu d x_s e x o => Sys2Proof.Machine.execVldBu d x_s e x o s
  | .vldH d x_s e x o => Sys2Proof.Machine.execVldH d x_s e x o s
  | .vldHu d x_s e x o => Sys2Proof.Machine.execVldHu d x_s e x o s
  | .vldW d x_s e x o => Sys2Proof.Machine.execVldW d x_s e x o s
  | .vldD d x_s e x o => Sys2Proof.Machine.execVldD d x_s e x o s
  | .vldsW d x_s x o => Sys2Proof.Machine.execVldsW d x_s x o s
  | .vldbW d x_s o => Sys2Proof.Machine.execVldbW d x_s o s
  | .vstB d x_s e x o => Sys2Proof.Machine.execVstB d x_s e x o s
  | .vstH d x_s e x o => Sys2Proof.Machine.execVstH d x_s e x o s
  | .vstW d x_s e x o => Sys2Proof.Machine.execVstW d x_s e x o s
  | .vstD d x_s e x o => Sys2Proof.Machine.execVstD d x_s e x o s
  | .vstsW d x_s x o => Sys2Proof.Machine.execVstsW d x_s x o s
  | .tld d x_s x o => Sys2Proof.Machine.execTld d x_s x o s
  | .tldt d x_s x o => Sys2Proof.Machine.execTldt d x_s x o s
  | .tst d x_s x o => Sys2Proof.Machine.execTst d x_s x o s
  | .tstt d x_s x o => Sys2Proof.Machine.execTstt d x_s x o s
  | .aadd d x_s e x o c => Sys2Proof.Machine.execAadd d x_s e x o c s
  | .amin d x_s e x o c => Sys2Proof.Machine.execAmin d x_s e x o c s
  | .amax d x_s e x o c => Sys2Proof.Machine.execAmax d x_s e x o c s
  | .aminu d x_s e x o c => Sys2Proof.Machine.execAminu d x_s e x o c s
  | .amaxu d x_s e x o c => Sys2Proof.Machine.execAmaxu d x_s e x o c s
  | .aand d x_s e x o c => Sys2Proof.Machine.execAand d x_s e x o c s
  | .aor d x_s e x o c => Sys2Proof.Machine.execAor d x_s e x o c s
  | .axor d x_s e x o c => Sys2Proof.Machine.execAxor d x_s e x o c s
  | .axch d x_s e x o c => Sys2Proof.Machine.execAxch d x_s e x o c s
  | .acas d x_s e x o c => Sys2Proof.Machine.execAcas d x_s e x o c s
  | .afadd d x_s e x o c => Sys2Proof.Machine.execAfadd d x_s e x o c s
  | .aaddD d x_s e x o c => Sys2Proof.Machine.execAaddD d x_s e x o c s
  | .amaxuD d x_s e x o c => Sys2Proof.Machine.execAmaxuD d x_s e x o c s
  | .acasD d x_s e x o c => Sys2Proof.Machine.execAcasD d x_s e x o c s
  | .fenceRel c => Sys2Proof.Machine.execFenceRel c s
  | .fenceAcq c => Sys2Proof.Machine.execFenceAcq c s
  | .fenceFull c => Sys2Proof.Machine.execFenceFull c s
  | .qfence m => Sys2Proof.Machine.execQfence m s
  | .waita d a => Sys2Proof.Machine.execWaita d a s
  | .waitq d q => Sys2Proof.Machine.execWaitq d q s
  | .cpy d a q => Sys2Proof.Machine.execCpy d a q s
  | .qseq d q => Sys2Proof.Machine.execQseq d q s
  | .tndef a t => Sys2Proof.Machine.execTndef a t s
  | .tnrel t => Sys2Proof.Machine.execTnrel t s
  | .tnget d t => Sys2Proof.Machine.execTnget d t s
  | .mleaf d x_s k t => Sys2Proof.Machine.execMleaf d x_s k t s
  | .mconst d x_s y k => Sys2Proof.Machine.execMconst d x_s y k s
  | .mtri d a x_s => Sys2Proof.Machine.execMtri d a x_s s
  | .mscl d a x_s => Sys2Proof.Machine.execMscl d a x_s s
  | .mmul d a b t k x_s q => Sys2Proof.Machine.execMmul d a b t k x_s q s
  | .meadd d a b x_s => Sys2Proof.Machine.execMeadd d a b x_s s
  | .mesub d a b x_s => Sys2Proof.Machine.execMesub d a b x_s s
  | .memul d a b x_s => Sys2Proof.Machine.execMemul d a b x_s s
  | .mtrn d a => Sys2Proof.Machine.execMtrn d a s
  | .mcvt d a t r f => Sys2Proof.Machine.execMcvt d a t r f s
  | .mact d a k => Sys2Proof.Machine.execMact d a k s
  | .force n => Sys2Proof.Machine.execForce n s
  | .mdrop n => Sys2Proof.Machine.execMdrop n s
  | .mrd d n x_s => Sys2Proof.Machine.execMrd d n x_s s
  | .mst n t x_s f => Sys2Proof.Machine.execMst n t x_s f s
  | .macc n k x_s t x_i => Sys2Proof.Machine.execMacc n k x_s t x_i s
  | .mstat n d => Sys2Proof.Machine.execMstat n d s
  | .tend => Sys2Proof.Machine.execTend s
  | .tinst d => Sys2Proof.Machine.execTinst d s
  | .tstg d => Sys2Proof.Machine.execTstg d s
  | .tbud d k => Sys2Proof.Machine.execTbud d k s
  | .tslk d => Sys2Proof.Machine.execTslk d s
  | .enq a n g => Sys2Proof.Machine.execEnq a n g s
  | .enqv f n g => Sys2Proof.Machine.execEnqv f n g s
  | .launch d a t => Sys2Proof.Machine.execLaunch d a t s
  | .depnew d a => Sys2Proof.Machine.execDepnew d a s
  | .depsig a m => Sys2Proof.Machine.execDepsig a m s
  | .depwait a => Sys2Proof.Machine.execDepwait a s
  | .deparm d a n g => Sys2Proof.Machine.execDeparm d a n g s
  | .gnew d => Sys2Proof.Machine.execGnew d s
  | .gjoin a => Sys2Proof.Machine.execGjoin a s
  | .gleave a => Sys2Proof.Machine.execGleave a s
  | .gbar a => Sys2Proof.Machine.execGbar a s
  | .gsize d a => Sys2Proof.Machine.execGsize d a s
  | .sysr d n => Sys2Proof.Machine.execSysr d n s
  | .sysw a n => Sys2Proof.Machine.execSysw a n s
  | .trap c => Sys2Proof.Machine.execTrap c s
  | .nop => Sys2Proof.Machine.execNop s
  | .cdrain d a => Sys2Proof.Machine.execCdrain d a s
  | .cscan d a => Sys2Proof.Machine.execCscan d a s
  | .csig d a => Sys2Proof.Machine.execCsig d a s
  | .cmaprm a => Sys2Proof.Machine.execCmaprm a s
  | .cmapad a => Sys2Proof.Machine.execCmapad a s
  | .creset a => Sys2Proof.Machine.execCreset a s
  | .eret => Sys2Proof.Machine.execEret s
  | .clauseIssue die core port flips => Sys2Proof.Machine.execClauseIssue die core port flips s
  | .flightCommit gid upset => Sys2Proof.Machine.execFlightCommit gid upset s
  | .resultArrival gid req ext => Sys2Proof.Machine.execResultArrival gid req ext s
  | .pageWalk gid vpn => Sys2Proof.Machine.execPageWalk gid vpn s
  | .scratchRefill die core slot page => Sys2Proof.Machine.execScratchRefill die core slot page s
  | .relaunch gid port => Sys2Proof.Machine.execRelaunch gid port s
  | .preemptGang gid => Sys2Proof.Machine.execPreemptGang gid s
  | .recordMove gid die core => Sys2Proof.Machine.execRecordMove gid die core s
  | .gatherTimeout gather => Sys2Proof.Machine.execGatherTimeout gather s
  | .dispatch die => Sys2Proof.Machine.execDispatch die s
  | .admission die => Sys2Proof.Machine.execAdmission die s
  | .enqueueOffer win => Sys2Proof.Machine.execEnqueueOffer win s
  | .enqueueBackoff win => Sys2Proof.Machine.execEnqueueBackoff win s
  | .counterDecrement id => Sys2Proof.Machine.execCounterDecrement id s
  | .gbarArrival gid => Sys2Proof.Machine.execGbarArrival gid s
  | .watchChange gid => Sys2Proof.Machine.execWatchChange gid s
  | .homeStore id => Sys2Proof.Machine.execHomeStore id s
  | .homeAtomic id => Sys2Proof.Machine.execHomeAtomic id s
  | .remoteScratchAccess op => Sys2Proof.Machine.execRemoteScratchAccess op s
  | .clusterPathFail die src dst => Sys2Proof.Machine.execClusterPathFail die src dst s
  | .copyBeat die core q ext => Sys2Proof.Machine.execCopyBeat die core q ext s
  | .copyNotify die core q => Sys2Proof.Machine.execCopyNotify die core q s
  | .arrayOperandStep die core => Sys2Proof.Machine.execArrayOperandStep die core s
  | .emulatedStepDone die core host => Sys2Proof.Machine.execEmulatedStepDone die core host s
  | .deadmiss die slot => Sys2Proof.Machine.execDeadmiss die slot s
  | .preemptTimeout ctx => Sys2Proof.Machine.execPreemptTimeout ctx s
  | .contextDrainDone ctx => Sys2Proof.Machine.execContextDrainDone ctx s
  | .waitforBuild die => Sys2Proof.Machine.execWaitforBuild die s
  | .sampleWindow die data => Sys2Proof.Machine.execSampleWindow die data s
  | .tlbinv die v => Sys2Proof.Machine.execTlbinv die v s
  | .shootdownComplete die => Sys2Proof.Machine.execShootdownComplete die s
  | .evdone die tag => Sys2Proof.Machine.execEvdone die tag s
  | .dbgresume die tag => Sys2Proof.Machine.execDbgresume die tag s
  | .sampctl die v => Sys2Proof.Machine.execSampctl die v s
  | .contain die v => Sys2Proof.Machine.execContain die v s
  | .cdrainDone die core => Sys2Proof.Machine.execCdrainDone die core s
  | .cscanDone die core sig => Sys2Proof.Machine.execCscanDone die core sig s
  | .causalMessage src dst => Sys2Proof.Machine.execCausalMessage src dst s
  | .replicaFill die line => Sys2Proof.Machine.execReplicaFill die line s
  | .d2dLinkFail src dst => Sys2Proof.Machine.execD2dLinkFail src dst s
  | .fabricRequest req => Sys2Proof.Machine.execFabricRequest req s
  | .fabricAck id data => Sys2Proof.Machine.execFabricAck id data s
  | .fabricLinkFail link => Sys2Proof.Machine.execFabricLinkFail link s
  | .fabricTimeout id => Sys2Proof.Machine.execFabricTimeout id s
  | .patrolScrub line found => Sys2Proof.Machine.execPatrolScrub line found s
  | .powerThrottle die permits mhz => Sys2Proof.Machine.execPowerThrottle die permits mhz s
  | .bringUp fuses => Sys2Proof.Machine.execBringUp fuses s
  | .attestationRequest nonce => Sys2Proof.Machine.execAttestationRequest nonce s
  | .tail c v => Sys2Proof.Machine.execTail c v s
  | .chainRecord c => Sys2Proof.Machine.execChainRecord c s
  | .frcons c v => Sys2Proof.Machine.execFrcons c v s
  | .ctxctlStart c => Sys2Proof.Machine.execCtxctlStart c s
  | .ctxctlSwitchOut c => Sys2Proof.Machine.execCtxctlSwitchOut c s
  | .ctxctlResume c => Sys2Proof.Machine.execCtxctlResume c s
  | .ctxctlEnd c => Sys2Proof.Machine.execCtxctlEnd c s
  | .ctxbase v => Sys2Proof.Machine.execCtxbase v s
  | .fabid v => Sys2Proof.Machine.execFabid v s
  | .registerWrite off v => Sys2Proof.Machine.execRegisterWrite off v s
  | .classifierWindow die => Sys2Proof.Machine.execClassifierWindow die s
  | .replicaDrop die line => Sys2Proof.Machine.execReplicaDrop die line s
  | .hostAdmissionAnswer die status => Sys2Proof.Machine.execHostAdmissionAnswer die status s

end Sys2Proof.Machine
end

