-- ==== Sys2Proof/Machine/Schedule.lean ====
section
/-!
DEFINITION. What happens next: the events that the state enables, the passing of time, what follows from a
step at once, and the word that a port issues. Which of several enabled events comes first is open, and a
free choice (DESIGN CHOICE, log 7); what the outside does comes from the agenda (DESIGN CHOICE, log 6).
-/

namespace Sys2Proof.Machine

/-! ## What follows at once -/

/-- A copy engine asks for what the beat that its queue has come to needs: replicas of the source's lines and of the walks' to both ends,
and its source bytes from another package (R167, R285, R307, R327). -/
def State.askBeat (s : State) (d core key : Nat) : State :=
  match (s.core d core).copyHead key with
  | none => s
  | some (_, b, _, w) =>
    let p := (s.core d core).progress key
    if p.wait.isSome || decide (b.rows ≤ p.row) || !s.copyTurn d core key || !s.enginesRun w.ctx (p.beat != 0)
        || s.errored w.die w.inst w.core (key % 5) then s
    else
      let (lo, n) := b.span p.row p.beat
      let wants := fun (a : DWord) (n kind : Nat) => s.reachWants d core w.inst w.ctx a n kind
      let from_ := rowAt b.src b.spitch p.row + BitVec.ofNat 64 lo
      let ls := (cutLines from_ 0 n 3).flatMap (fun q => wants q.1 q.2.2 0)
        ++ (if b.mcast then [] else (cutLines (rowAt b.dst b.dpitch p.row + BitVec.ofNat 64 lo) 0 n 3).flatMap fun q =>
              wants q.1 0 (if b.redop = 0 then 1 else 3))
      let t := ls.foldl (fun (s : State) l => s.askLine d (64 * l)) s
      match (cutLines from_ 0 n 3).findSome? fun q => match (t.copyPlace w q.1 0).1 with
        | .inr (.fabric k a) => if t.pathDown d (.fabric k a) then none else some (k, a)
        | _ => none with
      | some (k, a) =>
        if ls.isEmpty && (t.askedCopy d core key p).isNone then
          let (id, u) := t.fresh
          { u with pkg := { u.pkg with fabricOut := u.pkg.fabricOut ++ [⟨id, .copy core key p.row p.beat, d, k, a, u.time⟩] } }
        else t
      | none => t

def State.settleCopies (s : State) : State :=
  (s.dies.flatMap fun e => e.2.cores.flatMap fun c => c.2.queues.map fun q => (e.1, c.1, q.1)).foldl
    (fun (s : State) k => s.askBeat k.1 k.2.1 k.2.2) s

/-- Ask for the lines that the Vestibules' heads and the launch chains read (R260, R307, R316). -/
def State.settleLaunches (s : State) : State :=
  let heads := s.dies.flatMap fun e => match e.2.vestibule.head? with
    | some r => (s.descWants e.1 r).map fun l => (e.1, l)
    | none => []
  let chains := (s.pkg.ctxs.filter fun c => s.chainOpen c.1).flatMap fun c => (s.chainWants c.1).map fun l => (0, l)
  (heads ++ chains).foldl (fun (s : State) a => s.askLine a.1 (64 * a.2)) s

/-- All that follows at once from a step (DESIGN CHOICE, log 17). -/
def State.settle (s : State) : State :=
  let t := s.settleEffs.settleJoins.settleMeets.settleBacks.settleLoads.settleWants.settleCopies.settleLaunches.settleCounters.settleInsts.settleHost.settleTraps.settleLanding
  ((t.dies.map Prod.fst).foldl State.flushEvents t).settleSince

/-! ## Enabled events -/

/-- How many free values an event that is offered may hold. -/
def offered : Nat := 64

/-- The cores to which a record might move. -/
noncomputable def State.moves (s : State) (g : Gang) : List Instr :=
  s.dies.flatMap fun x => x.2.coremap.map fun e => Instr.recordMove g.gid x.1 e.1

/-- The events of a gang: its clause, its flight, its accesses, its record. -/
noncomputable def State.gangEvents (s : State) (g : Gang) : List Instr :=
  (match g.place with
   | .port p => [.clauseIssue g.die g.core p []]
   | _ => [])
  ++ [.flightCommit g.gid .clean, .gbarArrival g.gid, .watchChange g.gid, .preemptGang g.gid]
  ++ (match s.missing g with
      | some (_, p) => [.pageWalk g.gid (p.va.toNat / 4096)]
      | none => [])
  ++ g.reqs.flatMap (fun q =>
      [Instr.resultArrival g.gid q.id (match q.line with
        | .fabric _ _ => s.freeBytes 64
        | _ => []), .resultArrival g.gid q.id [], .remoteScratchAccess (.load g.gid q.id)]
      ++ (match q.line with
          | .scratch c off => [.scratchRefill g.die c g.inst (off / 4096)]
          | _ => []))
  ++ (if s.eligible g then
        (List.range 4).map (fun p => Instr.relaunch g.gid p) ++ s.moves g
      else if (s.core g.die g.core).scan ≠ 0 then s.moves g
      else [])

/-- The events of what is on its way. -/
noncomputable def State.outEvents (s : State) : List Instr :=
  s.drain.flatMap fun o => [.homeStore o.id, .homeAtomic o.id, .remoteScratchAccess (.effect o.id), .counterDecrement o.id]

/-- The events of a die's cores: their engines and drains. -/
noncomputable def State.coreEvents (s : State) (d : Nat) : List Instr :=
  (s.die d).cores.flatMap fun c =>
    (c.2.queues.flatMap fun q => [.copyBeat d c.1 q.1 (s.freeBytes 64), .copyBeat d c.1 q.1 [], .copyNotify d c.1 q.1])
    ++ (c.2.evals.flatMap fun v => (s.stepPages v).map fun p => Instr.scratchRefill d p.1 v.who.inst p.2)
    ++ [.arrayOperandStep d c.1, .emulatedStepDone d c.1 [], .cdrainDone d c.1]

/-- The sample of a tagged instruction: what it was, and the cycles and the memory level that the port measured, which are open
(R298, R299). -/
noncomputable def State.sampleOf (s : State) (g : Tagged) : SampleData :=
  let w := fun (i : Nat) => Config.freeWord (s.free + i)
  { header := g.header, flight := g.flight, fetch := (w 0).setWidth 16, issue := (w 1).setWidth 16, operand := (w 2).setWidth 16,
    execute := (w 3).setWidth 16, writeBack := (w 4).setWidth 16, passes := BitVec.ofNat 8 g.passes, level := (w 5).setWidth 8 &&& 7#8,
    port := BitVec.ofNat 2 g.port, core := BitVec.ofNat 7 g.core, index := BitVec.ofNat 4 g.index, discarded := (s.fate g).getD false,
    slot := BitVec.ofNat 8 g.slot, ctx := BitVec.ofNat 6 g.ctx }

/-- The other events of a die. -/
noncomputable def State.dieEvents (s : State) (d : Nat) : List Instr :=
  [.dispatch d, .admission d, .shootdownComplete d]
  ++ (match (s.die d).tagged with
      | g :: _ => [.sampleWindow d (s.sampleOf g)]
      | [] => [])
  ++ (s.die d).windows.map (fun w => .enqueueOffer w.id)
  ++ (s.die d).pendingFill.map (fun e => .replicaFill d e.1)
  ++ (s.die d).replicas.map (fun e => .replicaDrop d e.1)
  ++ [0, 1, 2, 3].map (fun src => .causalMessage src d)

/-- The events of the package: contexts, and what other packages acknowledge or refuse. -/
noncomputable def State.packageEvents (s : State) : List Instr :=
  (s.pkg.ctxs.flatMap fun c => [.chainRecord c.1, .contextDrainDone c.1])
  ++ s.pkg.fabricOut.map (fun f => .fabricAck f.id (0#8 :: match f.client with
    | .out n => match s.drain.find? fun o => o.id == n with
      | some o => s.freeBytes (8 * (o.acts.filter Act.isAtom).length)
      | none => []
    | .load _ _ | .copy _ _ _ _ => []))
  ++ s.pkg.fabricOut.map fun f => .fabricAck f.id [1#8]

/-- The events that come at a time of their own, before more time passes (R123, R268, R270, R278, R294, R329). -/
noncomputable def State.timedEvents (s : State) : List Instr :=
  (s.dies.flatMap fun e =>
    (e.2.insts.map fun i => .deadmiss e.1 i.1)
    ++ e.2.windows.map (fun w => .enqueueBackoff w.id)
    ++ e.2.cores.flatMap fun c =>
        c.2.gathers.map (fun q => .gatherTimeout q.id)
        ++ (match c.2.drainAt with
            | some t => if c.2.scan = 3 && t + 200000 ≤ s.time then [.cscanDone e.1 c.1 (Config.freeWord s.free)]
                        else if c.2.scan = 1 && t + 100000 ≤ s.time then [.cdrainDone e.1 c.1] else []
            | none => []))
  ++ s.pkg.ctxs.map (fun c => .preemptTimeout c.1)
  ++ s.pkg.fabricOut.map (fun f => .fabricTimeout f.id)

noncomputable def State.otherEvents (s : State) : List Instr :=
  s.gangs.flatMap s.gangEvents ++ s.outEvents ++ (s.dies.flatMap fun e => s.coreEvents e.1 ++ s.dieEvents e.1) ++ s.packageEvents

/-- Whether an event can happen. -/
def State.enabled (s : State) (e : Instr) : Bool :=
  match exec e s with
  | .next _ => true
  | _ => false

/-! ## Time -/

/-- What the clock itself brings at a time: the wait-for graphs at each millisecond, the classifier's windows
at the multiples of 65,536 ticks of a die's time (R265, R297). -/
noncomputable def State.clockEvents (s : State) : List Instr :=
  (if s.time % 1000000 = 0 then s.dies.map fun e => .waitforBuild e.1 else [])
  ++ (s.dies.filter fun e => s.dtc e.1 % 65536 == 0).map fun e => .classifierWindow e.1

/-- A nanosecond passes. What the clock brings stands first on the agenda (DESIGN CHOICE, log 39). -/
noncomputable def State.tick (s : State) : State :=
  let t := { s with time := s.time + 1 }
  { t with agenda := t.clockEvents.map (fun e => ⟨t.time, e⟩) ++ t.agenda }

/-- The machine's own next event, or the passing of time, chosen freely among what is enabled; time waits for
events that are due (DESIGN CHOICE, log 17). -/
noncomputable def State.autoEvent (s : State) : Res :=
  let t := { s with free := s.free + offered }
  let due := s.timedEvents.filter s.enabled
  let all := due ++ s.otherEvents.filter s.enabled
  let (i, u) := t.pick (if due.isEmpty then all.length + 1 else all.length)
  match all[i]? with
  | some e =>
    match exec e u with
    | .next v => .next v
    | _ => .next s.tick
  | none => .next s.tick

/-! ## One step -/

/-- What follows a step, once no port is issuing; `before` is the state that it began in. -/
def State.settled (s before : State) : State := (if s.cur.isNone then s.settle else s).noteDevice before

/-- The first event of the agenda, if it is due. -/
def State.dueNow (s : State) : Option (Instr × State) :=
  match s.agenda with
  | d :: rest => if d.time ≤ s.time then some (d.op, { s with agenda := rest }) else none
  | [] => none

/-- One step: the port that issues does its next word; else the agenda's first event, if it is due; else an
event of the machine's own. Then what follows at once. -/
noncomputable def State.machineStep (s : State) : Res :=
  let r := match s.cur with
    | some _ => s.issueWord exec
    | none => match s.dueNow with
      | some (e, t) => exec e t
      | none => s.autoEvent
  match r with
  | .next t => .next (t.settled s)
  | o => o

/-! ## A word to run -/

/-- The gang that a word is given to: on port 0 of core 0 of die 0, one slice with one task; for a word of the
control core's major opcode, the firmware's gang (DESIGN CHOICE, log 15). -/
def fetchGang (w : Word) : Gang :=
  let g := firmwareGang 0 0 0 0 0#64
  if fieldW w 26 6 = 0x34 then g else { g with core := 0, inst := 0, ctx := 0 }

/-- A clause of one word, about to issue. -/
def fetchClause (w : Word) : Clause :=
  { addr := 0#64, count := 1, cls := fieldW w 29 3, wait := 0, chk := false, sig := 0#16, words := [w], idx := 1, cycles := 0, next := [],
    ended := false }

/-- The state with a port that issues the word. -/
def State.withWord (s : State) (w : Word) : State := { s with cur := some ⟨fetchGang w, fetchClause w⟩ }

end Sys2Proof.Machine
end

