-- ==== Sys2Proof/Machine/Step.lean ====
section
/-!
DEFINITION. One step of the machine, and the state in which the next step runs a given word.
-/

namespace Sys2Proof.Machine

/-- One step: the next word of the clause that a port issues, or the next event. -/
noncomputable def step (s : State) : Host.Outcome State Fault Refusal := s.machineStep

/-- The state with a word of the opcode table in the issue buffer of a port, next to issue (DESIGN CHOICE, log 15). -/
def State.withFetchWord (s : State) (_nbits w : Nat) : State := s.withWord (BitVec.ofNat 32 w)

end Sys2Proof.Machine
end

