-- ==== Sys2Proof/Safety.lean ====
section
/-!
DEFINITION. What counts as a safe run, and the terms in which claims are stated: registers that can be used,
and what changes of registers leave.
-/

namespace Sys2Proof

open Machine

/-! ## Runs -/

/-- One step leads from a state to another. -/
def StepsTo (s t : State) : Prop := step s = .next t

/-- A state that some number of steps reaches from another. -/
inductive Reaches : State → State → Prop
  | refl (s : State) : Reaches s s
  | tail {s t u : State} (h : Reaches s t) (h' : StepsTo t u) : Reaches s u

/-- A run from a state that no fault of the model and no refusal ends. -/
def RunsOn (s : State) : Prop := ∀ t, Reaches s t → ∃ u, StepsTo t u

/-- Memory and its poison marks are in canonical form. -/
def CanonicalMemory (s : State) : Prop := Memory.wf s.mem ∧ mapWf false s.poison = true

/-- A safe run: it does not stop, and every state of it has its memory in canonical form. -/
def Safe (s : State) : Prop := RunsOn s ∧ ∀ t, Reaches s t → CanonicalMemory t

/-! ## Instructions of the gang that issues -/

/-- The registers an instruction names can be used: each is one of the stage's, none is pending, and none
that is read is marked as poisoned (R55, R124, R153). -/
structure Usable (s : State) (r : Running) (u : Uses) : Prop where
  vector : ∀ v ∈ u.vr ++ u.vw, v < s.regLimit r.gang ∧ r.gang.pending 0 v = false
  scalar : ∀ v ∈ u.sr ++ u.sw, v ≠ 0 → r.gang.pending 1 v = false
  clean : ∀ v ∈ u.vr, ∀ l ∈ u.lanes, look? r.gang.arch.poison (v * 32 + l) = none
  cleanScalar : ∀ v ∈ u.sr, ∀ k ∈ u.slices, look? r.gang.arch.poison (2048 + k * 32 + v) = none

/-- The instruction changes the registers of the gang that issues, from `x` to some `y` with `P y`, and nothing
else of the machine. -/
def Sets (s : State) (r : Running) (i : Instr) (P : Arch → Prop) : Prop := ∃ y, exec i s = .next (s.setArch r y) ∧ P y

/-- The instruction changes what the machine holds for the gang that issues, and numbers that the model gives
out; nothing else. -/
def Issues (s : State) (i : Instr) (P : Running → Prop) : Prop := ∃ q n, exec i s = .next { s with cur := some q, nextId := n } ∧ P q

/-- Scalar `d` of the slices `ks` takes the values of `f`; every other register is as before. s0 takes none. -/
structure ScalarsWritten (x y : Arch) (d : Nat) (ks : List Nat) (f : Nat → DWord) : Prop where
  read : ∀ k j, j < 32 → y.sget k j = if k ∈ ks ∧ j = d ∧ d ≠ 0 then f k else x.sget k j
  saved : y.slive = if d = 0 ∨ ks = [] then x.slive else x.slive ||| (1#32 <<< d)
  marks : ∀ i, look? y.poison i = if d ≠ 0 ∧ ∃ k ∈ ks, i = 2048 + k * 32 + d then none else look? x.poison i
  rest : { y with s := x.s, slive := x.slive, poison := x.poison } = x

/-- Vector register `d` takes the values of `f` in some lanes; every other register and lane is as before. -/
structure VectorWritten (x y : Arch) (d : Nat) (lanes : List Nat) (f : Nat → Word) : Prop where
  read : ∀ j l, l < 32 → y.vget j l = if l ∈ lanes ∧ j = d then f l else x.vget j l
  saved : y.vlive = if lanes = [] then x.vlive else x.vlive ||| (1#64 <<< d)
  marks : ∀ i, look? y.poison i = if ∃ l ∈ lanes, i = d * 32 + l then none else look? x.poison i
  rest : { y with v := x.v, vlive := x.vlive, poison := x.poison } = x

/-- The same, and each lane's flags are added to its slice's. -/
structure FloatWritten (x y : Arch) (d : Nat) (lanes : List Nat) (f : Nat → Word × Flags) : Prop where
  read : ∀ j l, l < 32 → y.vget j l = if l ∈ lanes ∧ j = d then (f l).1 else x.vget j l
  stat : ∀ k, y.stat k = (lanes.filter fun l => l / 4 == k).foldl (fun m l => m ||| (f l).2) (x.stat k)
  saved : y.vlive = if lanes = [] then x.vlive else x.vlive ||| (1#64 <<< d)
  marks : ∀ i, look? y.poison i = if ∃ l ∈ lanes, i = d * 32 + l then none else look? x.poison i
  rest : { y with v := x.v, vlive := x.vlive, poison := x.poison, fpstat := x.fpstat } = x

/-- A pair of vector registers, the even one `d`, takes doublewords in some lanes, and each lane's flags are
added to its slice's. -/
structure PairWritten (x y : Arch) (d : Nat) (lanes : List Nat) (f : Nat → DWord × Flags) : Prop where
  read : ∀ j l, l < 32 → y.vget j l = if l ∈ lanes ∧ j = d then (f l).1.extractLsb' 0 32
    else if l ∈ lanes ∧ j = d + 1 then (f l).1.extractLsb' 32 32 else x.vget j l
  stat : ∀ k, y.stat k = (lanes.filter fun l => l / 4 == k).foldl (fun m l => m ||| (f l).2) (x.stat k)
  saved : y.vlive = if lanes = [] then x.vlive else x.vlive ||| (1#64 <<< d) ||| (1#64 <<< (d + 1))
  marks : ∀ i, look? y.poison i = if ∃ l ∈ lanes, i = d * 32 + l ∨ i = (d + 1) * 32 + l then none else look? x.poison i
  rest : { y with v := x.v, vlive := x.vlive, poison := x.poison, fpstat := x.fpstat } = x

/-- Predicate `p` takes the values of `f` in some lanes; every other predicate and lane is as before. -/
structure PredicateWritten (x y : Arch) (p : Nat) (lanes : List Nat) (f : Nat → Bool) : Prop where
  read : ∀ j l, l < 32 → y.pget j l = if l ∈ lanes ∧ j = p then f l else x.pget j l
  saved : y.plive = if lanes = [] then x.plive else x.plive ||| (1#16 <<< (p / 8))
  rest : { y with p := x.p, plive := x.plive } = x

/-! ## Terms of the statements -/

/-- The class of an FP32 pattern by its sign, exponent and fraction: the bit that R92 numbers. -/
def fp32ClassIs (c : Nat) (x : Word) : Prop :=
  let neg := x.getLsbD 31 = true
  let e := x.toNat / 2 ^ 23 % 256
  let f := x.toNat % 2 ^ 23
  match c with
  | 0 => neg ∧ e = 255 ∧ f = 0
  | 1 => neg ∧ 0 < e ∧ e < 255
  | 2 => neg ∧ e = 0 ∧ f ≠ 0
  | 3 => neg ∧ e = 0 ∧ f = 0
  | 4 => ¬ neg ∧ e = 0 ∧ f = 0
  | 5 => ¬ neg ∧ e = 0 ∧ f ≠ 0
  | 6 => ¬ neg ∧ 0 < e ∧ e < 255
  | 7 => ¬ neg ∧ e = 255 ∧ f = 0
  | 8 => e = 255 ∧ f ≠ 0
  | _ => False

/-- A value rounded once to a format: its pattern in a word, and the flags of the operation and of the rounding. -/
def onceRounded (w f mode : Nat) (z : Sys2Proof.Num × Flags) : BitVec w × Flags := (BitVec.ofNat w (rnd f mode z.1).1, z.2 ||| (rnd f mode z.1).2)

/-- An operation on the low and the high element of a word, in a 16-bit format. -/
def bothHalves (f : Nat → Nat → Nat → BitVec 16 × Flags) (x y z : Word) : Word × Flags :=
  let lo := f (x.toNat % 2 ^ 16) (y.toNat % 2 ^ 16) (z.toNat % 2 ^ 16)
  let hi := f (x.toNat / 2 ^ 16) (y.toNat / 2 ^ 16) (z.toNat / 2 ^ 16)
  (hi.1 ++ lo.1, lo.2 ||| hi.2)

/-- The exact product plus or minus a third value, with the invalid cases of both (R67, R90). -/
def fused (mode : Nat) (x y z : Sys2Proof.Num) : Sys2Proof.Num × Flags :=
  ((numAdd mode (numMul x y).1 z).1, (numMul x y).2 ||| (numAdd mode (numMul x y).1 z).2)

/-- The source and destination formats of a conversion code (R93). -/
def convFormats (c : BitVec 6) : Nat × Nat :=
  match c.toNat / 16 with
  | 0 => (fFP32, c.toNat % 16)
  | 1 => (fFP64, c.toNat % 16)
  | 2 => (c.toNat % 16, fFP32)
  | _ => (c.toNat % 16, fFP64)

/-- What a lane supplies to a reduction or scan: its word, or the operation's identity where it does not take part (R101). -/
def supplied (x : Arch) (act : List Nat) (a : Nat) (ident : Word) (l : Nat) : Word := if l ∈ act then x.vget a l else ident

/-- The value of the tree of R108 at the node over the `2^k` lanes from `b`, with the flags of the roundings beneath it. -/
def laneTree (x : Nat → Word) (b : Nat) : Nat → Word × Flags
  | 0 => (x b, 0#5)
  | k + 1 =>
    let p := laneTree x b k
    let q := laneTree x (b + 2 ^ k) k
    let z := onceRounded 32 fFP32 0 (numAdd 0 (f32 p.1) (f32 q.1))
    (z.1, p.2 ||| q.2 ||| z.2)

/-- The issuing clause with a next address for each executing slice. -/
def Machine.Clause.withNext (c : Clause) (slices : List Nat) (f : Nat → DWord) : Clause := { c with next := slices.map fun k => (k, f k) }

/-- The parts of an access can be issued: each address is a multiple of its part's size, and none is found to fault (R149). -/
def Issuable (s : State) (r : Running) (need : Nat) (parts : List APart) : Prop :=
  ∀ p ∈ parts, p.va.toNat % p.size = 0 ∧ ∀ c f, s.find r.gang.die r.gang.core r.gang.inst r.gang.ctx p.va need ≠ .bad c f

/-- The parts of an access after its issue: those asked for, each placed where its address is found; the access is ready when all
are (R149). -/
structure PartsPlaced (s : State) (r : Running) (need : Nat) (parts ps : List APart) (ready : Bool) : Prop where
  same : ps.map (fun p => (p.lane, p.va, p.size)) = parts.map fun p => (p.lane, p.va, p.size)
  placed : ∀ p ∈ ps, ∀ l, p.loc = some l → s.find r.gang.die r.gang.core r.gang.inst r.gang.ctx p.va need = .at_ l p.tso
  all : ready = true ↔ ∀ p ∈ ps, p.loc.isSome = true

/-- The accesses of a flight with one more, under its number. -/
def withAccess (as : List Access) (a : Access) : List Access := as.map (fun x => if x.id = a.id then a else x) ++ [a]

/-- A load is under way: its access, its requests for each 64-byte line once all its parts are placed, and its destination on the
pending list; nothing else of the gang has changed (R55, R152, R154). -/
structure LoadIssued (s : State) (r : Running) (file reg cnt : Nat) (parts : List APart) (dests : List Dest) (q : Running) : Prop where
  clause : q.cl = r.cl
  access : ∃ ps ready rs, PartsPlaced s r 0 parts ps ready ∧
    q.gang.accs = withAccess r.gang.accs ⟨s.nextId, r.cl.addr + BitVec.ofNat 64 (4 * r.cl.idx), r.cl.idx, .load s.nextId dests, ps, ready, false⟩ ∧
    q.gang.reqs = r.gang.reqs ++ rs ∧ (∀ m ∈ rs, m.acc = s.nextId) ∧ (ready = false → rs = []) ∧
    (ready = true → ∀ e ∈ ps.zip dests, ∃ m ∈ rs, e ∈ m.parts ∧ e.1.loc.map Loc.line = some m.line)
  pending : q.gang.pend = r.gang.pend ++ if file = 1 ∧ reg = 0 then [] else [⟨s.nextId, file, reg, cnt, dests.flatMap Dest.lanes, 0, []⟩]
  rest : { q.gang with accs := r.gang.accs, reqs := r.gang.reqs, used := r.gang.used, pend := r.gang.pend } = r.gang

/-- A store or an atomic is under way: its access, its effect held after the earlier ones of the flight, and what it makes pending;
nothing else of the gang has changed, and memory is as it was (R127, R131). -/
structure EffectIssued (s : State) (r : Running) (kind : AccKind) (parts : List APart) (entries : Nat) (e : Nat → Eff)
    (pend : Nat → List Pend) (q : Running) : Prop where
  clause : q.cl = r.cl
  access : ∃ ps ready wide, PartsPlaced s r kind.needs parts ps ready ∧
    q.gang.accs = withAccess r.gang.accs ⟨s.nextId, r.cl.addr + BitVec.ofNat 64 (4 * r.cl.idx), r.cl.idx, kind, ps, ready, wide⟩
  held : q.gang.held = r.gang.held ++ [⟨s.nextId + 1, r.cl.addr + BitVec.ofNat 64 (4 * r.cl.idx), r.cl.idx, entries, e s.nextId⟩]
  pending : q.gang.pend = r.gang.pend ++ pend s.nextId
  rest : { q.gang with accs := r.gang.accs, held := r.gang.held, used := r.gang.used, pend := r.gang.pend } = r.gang

/-- How many 64-byte lines the addresses of parts name. -/
def linesNamed (parts : List APart) : Nat := (parts.map fun p => p.va.toNat / 64).eraseDups.length

/-- Reads at issue go through: the flight's own accesses are all placed, no line of another die's memory is awaited for `n` bytes at
each of `reads`, nor a load of the flight that the read must follow (R56, R313), nor the rest of a commit on the core's scratchpad (R169), and each address of
`as` is found in memory or on a pinned page of a scratchpad of this package, its `m` bytes unpoisoned and under no other owner's key. -/
def ReadsPlaced (s : State) (r : Running) (at_ : Nat → Loc) (tso : Nat → Bool) (n : Nat) (reads : List DWord) (m : Nat)
    (as : List (Nat × DWord)) : Prop :=
  let g := r.gang
  (∀ a ∈ g.accs, a.ready = true) ∧ (∀ a ∈ reads, s.reachWants g.die g.core g.inst g.ctx a n 0 = []) ∧
  (∀ a ∈ reads, (match (s.findNow g.die g.core g.inst g.ctx a 0).1 with
    | .at_ l t => g.readAfter l t ++ s.readWaits g l
    | _ => g.readAfter (.acc 0) false) = []) ∧
  ∀ e ∈ as, s.find g.die g.core g.inst g.ctx e.2 0 = .at_ (at_ e.1) (tso e.1) ∧ s.badN g.die g.inst (at_ e.1) m = false ∧
    (∀ p b, at_ e.1 ≠ .fabric p b) ∧ s.pinned g.die g.inst (at_ e.1) = true ∧ ∀ bs, bs.length ≤ m → s.seal g.die g.core g.ctx e.2.toNat (at_ e.1) bs = bs

/-- A gang's causal vector after reads at some places: host lines bring the vector of what was written there (R309, R310). -/
def vectorSeen (s : State) (v : List Nat) (ls : List Loc) : List Nat :=
  ls.foldl (fun v l => match l with
    | .phys pa => if isHost pa then mergeVec v (s.hostVec pa) else v
    | _ => v) v

/-- Of the machine's state only the core `c` of die `d`, the gang that issues and the numbers given out may differ; the core is `k`. -/
structure CoreSet (s t : State) (d c : Nat) (k : Core) : Prop where
  core : ∀ e b, t.core e b = if e = d ∧ b = c then k else s.core e b
  die : ∀ e, { t.die e with cores := (s.die e).cores } = s.die e
  rest : { t with dies := s.dies, cur := s.cur, nextId := s.nextId } = s

/-- A node register holds a node of the core's Gallery (R179, R181). -/
def NodeIn (s : State) (r : Running) (n : BitVec 4) (x : Node) : Prop :=
  r.gang.arch.nget n.toNat ≠ 0 ∧ look? (s.core r.gang.die r.gang.core).nodes (r.gang.arch.nget n.toNat) = some x

/-- An instruction appends one node, puts its handle in a node register and does nothing else (R178). -/
def Appends (s : State) (r : Running) (i : Instr) (d : BitVec 4) (op : NodeOp) (rows cols fmt : Nat) : Prop :=
  let g := r.gang
  let c := s.core g.die g.core
  let node : Node := ⟨op, rows, cols, fmt, r.cl.addr, r.cl.idx, g.ctx, g.inst, [], 0#7, 0, false, none, 0#7⟩
  ∃ t, exec i s = .next t ∧ t.nextId = s.nextId + 1 ∧ CoreSet s t g.die g.core { c with nodes := put? c.nodes s.nextId (some node) } ∧
    t.cur = some { r with gang := { g with appends := s.nextId :: g.appends, arch := g.arch.nset d.toNat s.nextId } }

/-- The core after an evaluation request: the evaluation, and its command in the matrix queue of the gang's context (R192, R198). -/
def requested (c : Core) (r : Running) (id node : Nat) (kind : EKind) : Core :=
  let v : Eval := ⟨id, r.gang.gid, r.gang.who, r.cl.addr + BitVec.ofNat 64 (4 * r.cl.idx), r.cl.idx, node, kind, false, [], [], none, false, [], none, []⟩
  ({ c with evals := c.evals ++ [v] } : Core).setQueue r.gang.ctx 4 (c.queue r.gang.ctx 4 ++ [Cmd.eval id])

/-- A record of a type stands in the sample ring where there is room for it before the ring's end: its header, its words, the head and
the sequence after it (R299, R300). -/
def SampleWritten (s t : State) (d type : Nat) (body : List DWord) : Prop :=
  let x := s.die d
  let base := (x.sysreg 0x130).toNat % 2 ^ 42
  let head := (x.sysreg 0x132).toNat
  let seq := (x.sysreg 0x133).toNat % 2 ^ 32
  let len := 8 * (body.length + 1)
  head + len ≤ (x.sysreg 0x131).toNat →
    dwordOfBytes (t.bytes (base + head) 8) = BitVec.ofNat 64 (0xA5 + len / 8 % 2 ^ 8 * 2 ^ 8 + type * 2 ^ 16 + seq * 2 ^ 24) ∧
    t.bytes (base + head + 8) (8 * body.length) = body.flatMap (bytesOf 8) ∧
    ((t.die d).sysreg 0x132).toNat = head + len ∧ ((t.die d).sysreg 0x133).toNat = ((x.sysreg 0x133).toNat + 1) % 2 ^ 32

/-- The part of the statement about scheduling that speaks of issuing a clause. -/
def ClauseIssueRuns : Prop :=
  ∀ (s u v w : State) (d core port : Nat) (g : Gang) (h : Word) (ws : List Word), s.cur = none →
    s.firstGang (s.ready d core port) = some (g, u) → g.paused = none → g.pathFault = none → u.breakAt g = false → u.fetch g g.arch.pc = (.word h, v) →
    headerReason h (((v.stage? g).map fun st => st.flags.getLsbD 3).getD false) = none →
    v.fetchWords g (g.arch.pc + 4#64) (h.toNat / 2 ^ 28) [] = (.inl ws, w) → (∀ x ∈ ws, x.toNat / 2 ^ 29 = h.toNat / 2 ^ 25 % 2 ^ 3) →
    (h.getLsbD 22 = true → h.setWidth 16 = signature ws) →
    ∃ t q, exec (.clauseIssue d core port []) s = .next t ∧ t.cur = some q ∧ t.gangs = w.gangs.filter (fun k => k.gid != g.gid) ∧
      q.cl = ⟨g.arch.pc, h.toNat / 2 ^ 28, h.toNat / 2 ^ 25 % 2 ^ 3, h.toNat / 2 ^ 23 % 2 ^ 2, h.getLsbD 22, h.setWidth 16, ws, 1, 0, [], false, 0, 0⟩ ∧
      { q.gang with arch := g.arch, skipBrk := g.skipBrk, used := g.used } = g ∧ { q.gang.arch with sigval := g.arch.sigval } = g.arch ∧
      ∀ k, look 0#16 q.gang.arch.sigval k = if k ∈ g.arch.slicesList then signature ws else look 0#16 g.arch.sigval k

/-- The part of it that speaks of the events of one gang. -/
def GangEventsRun : Prop :=
  ∀ (s : State) (g : Gang), s.cur = none → s.gang? g.gid = some g →
    (s.mayCommit g = true →
      (∃ t, exec (.flightCommit g.gid .clean) s = .next t ∧ (g.held = [] → g.nexts = [] → g.wakeKind = 0 → g.pathFault = none →
        g.resident = true → (s.putGang g).checkRecord g = none → ∃ k, t.gang? g.gid = some k ∧
          k.arch.flightid = flightIdOf g.arch.flightid (g.arch.flightid.toNat % 2 ^ 29 + 1) g.arch.lowSlice ∧ k.held = [] ∧
          t.mem = s.mem ∧ (k.phase = .run ∧ k.place = g.place ∧ (k.anchor = k.arch ∨ g.ctx = firmware) ∨ k.phase = .parked ∧ k.place = .landing))) ∧
      (∀ port, g.place = .port port → g.parity.count port < 2 → (g.ctx = firmware → g.handler = false) → ∃ t k, exec (.flightCommit g.gid .parity) s = .next t ∧ t.gang? g.gid = some k ∧
        k.arch = g.anchor ∧ k.held = [] ∧ k.nexts = [] ∧ k.pend = [] ∧ k.parity = port :: g.parity ∧ t.mem = s.mem ∧ t.drain = s.drain ∧
        (g.anchorAt = none → k.phase = .run ∧ k.place = g.place) ∧ ∀ a, g.anchorAt = some a → k.phase = .parked ∧ k.place = .spill a)) ∧
    (∀ port, s.eligible g = true → s.canTake g port = true → (∀ h ∈ s.takeable g.die g.core port, s.precedes h g = false) → g.place = .landing →
      ∃ t k, exec (.relaunch g.gid port) s = .next t ∧ t.gang? g.gid = some k ∧ k.place = .port port ∧ k.phase = .run ∧
        (g.paused ≠ none → k.paused = g.paused ∧ k.arch = g.arch ∧ k.held = g.held ∧ k.anchor = g.anchor) ∧
        (g.paused = none → g.wakeKind = 9 → k.arch = g.arch ∧ k.nexts = [] ∧ k.anchor = if g.ctx = firmware ∧ g.handler = true then g.anchor else g.arch) ∧
        (g.paused = none → g.wakeKind ≠ 9 → k.arch = g.deliverAll.arch ∧ k.pend = [] ∧ k.flight = s.nextId ∧ (g.ctx ≠ firmware → k.anchor = k.arch))) ∧
    (s.preempts g = true → exec (.preemptGang g.gid) s = .next (s.putGang (if g.paused.isSome = true then
      { g.leavePort with phase := .parked, wakeKind := 8, wakeOp := 0#64, wakeOp2 := 0#64, woken := false, slack := s.slackOf g }
      else if g.phase = .run then { g with phase := .ending, preempt := true, wakeKind := 8, wakeOp := 0#64, wakeOp2 := 0#64, nexts := [] }
      else { g.leavePort with preempt := true, slack := s.slackOf g }))) ∧
    (∀ core, g.movable = true → (∀ a, g.place ≠ .spill a) → core ≠ g.core → s.openCore g.die core g.inst = true →
      ((s.core g.die g.core).scan ≠ 0 ∨ s.eligible g = true ∧ ∃ n, g.since = some n ∧ n + 10000 ≤ s.time) →
      let t := s.putGang { g with core := core, place := .landing, since := none }
      t.landingFits g.die core = true → exec (.recordMove g.gid g.die core) s = .next t) ∧
    (∀ e core, g.movable = true → (∀ a, g.place ≠ .spill a) → e < 4 → e ≠ g.die → (s.ctx g.ctx).diemask.getLsbD e = true → (s.ctx g.ctx).run = 1 → s.mayCross g = true →
      s.openCore e core (instName e (homeInst g.die g.inst)) = true →
      ((s.core g.die g.core).scan ≠ 0 ∨ s.eligible g = true ∧ ∃ n, g.since = some n ∧ n + 10000 ≤ s.time) →
      (s.putGang (s.moved g e core)).landingFits e core = true → ∃ k, exec (.recordMove g.gid e core) s = .next (s.putGang k) ∧
        k.die = e ∧ k.core = core ∧ k.place = .landing ∧ k.arch = g.arch ∧ k.lanes = g.lanes ∧ k.lost = g.lost + 1000 ∧
        ((homeInst g.die g.inst).2 < 256 → homeInst e k.inst = homeInst g.die g.inst) ∧
        k.causal = mergeVec g.causal ((List.range 4).map fun f => (s.die f).sent)) ∧
    (∀ a p, s.missing g = some (a, p) → s.unread g.die (s.walked g.die g.ctx p.va.toNat).2.2 = [] →
      (∀ l h u, s.walk g.die g.ctx p.va.toNat = .ok l →
        ((s.fillWalk g.die (s.walked g.die g.ctx p.va.toNat).2.1).fillTlb g.die g.core g.ctx p.va.toNat l).placeAccess g a = (h, .done, u) →
        (∀ b ∈ h.accs, b.ready = true) → exec (.pageWalk g.gid (p.va.toNat / 4096)) s = .next (u.putGang h)) ∧
      ∀ e ∈ ([(.page, 0x0010), (.prot, 0x0011), (.poison, 0x0013)] : List (Walk × Nat)), g.phase ≠ .parked → s.walk g.die g.ctx p.va.toNat = e.1 →
        exec (.pageWalk g.gid (p.va.toNat / 4096)) s = .next (s.takeFault g.gid ⟨e.2, partInfo a.kind 0 p, a.pc⟩ (e.2 == 0x0013) 0#64 0)) ∧
    (∀ q, (g.reqs.find? fun r => r.id == q.id) = some q → s.mayLoad q = true →
      let answered := fun (i : Instr) (v : List Nat) => ∃ t, exec i s = .next t ∧ t.mem = s.mem ∧
        t.gang? g.gid = some { g.answer q (fun va l n => s.seal g.die g.core g.ctx va.toNat l (s.readN g.die g.inst l n)) (s.badN g.die g.inst) with causal := v }
      (∀ pa, q.line = .phys pa → s.readable g.die q.line = true →
        answered (.resultArrival g.gid q.id []) (if isHost pa then mergeVec g.causal (s.hostVec pa) else g.causal)) ∧
      (∀ b o, q.line = .scratch b o → s.pinned g.die g.inst q.line = true →
        (b = g.core → s.halfDone g.die b g.root (g.lanes.map (·.1)) = false → answered (.resultArrival g.gid q.id []) g.causal) ∧
        (b ≠ g.core → (((s.die g.die).site? g.core).getD g.core, ((s.die g.die).site? b).getD b) ∉ (s.die g.die).deadPaths →
          answered (.remoteScratchAccess (.load g.gid q.id)) g.causal)) ∧
      (∀ b o j, q.line = .scratch b o → s.inst? g.die g.inst = some j → j.pinned.contains (coreOf g.die g.inst b * 128 + o / 4096) = false →
        exec (.scratchRefill g.die b g.inst (o / 4096)) s =
          .next (s.onInst g.die g.inst fun i => { i with pinned := (coreOf g.die g.inst b * 128 + o / 4096) :: i.pinned })))

/-- The part of it that speaks of a gather whose time is up: all its records are in new gangs, in one where its ports take them all. -/
def GatherTimeoutRuns : Prop :=
  ∀ (s : State) (id d core : Nat) (q : Gather) (i : Inst) (st : Stage), s.cur = none → s.gather? id = some (d, core, q) → q.opened + 34 ≤ s.time →
    s.inst? d q.inst = some i → i.stages[q.stage]? = some st → q.recs.length ≤ 32 → q.recs ≠ [] →
    let s0 := s.onCore d core fun c => { c with gathers := c.gathers.filter fun g => g.id != q.id }
    (∃ t gs, exec (.gatherTimeout id) s = .next t ∧ t.gangs = s.gangs ++ gs ∧ gs.flatMap (fun g => g.lanes.map fun e => e.2.num) = q.recs.map Prod.fst) ∧
    (q.recs.length ≤ s0.closeCap d core q (s0.paired d q.inst q.stage) →
    ∃ t g, exec (.gatherTimeout id) s = .next t ∧ t.gangs = s.gangs ++ [g] ∧ g.anchor = g.arch ∧
      (3 ≤ ((s.die d).portsOf core).length → q.port ∈ (s.die d).portsOf core → (st.flags.getLsbD 0 = true → ∃ p ∈ (s.die d).portsOf core, q.pair = some p) →
        g.place = .port q.port ∧ g.pair = q.pair ∧ g.phase = .run) ∧
      (s0.closePorts d core q (st.regs * q.slices * 16) (st.flags.getLsbD 0) = none → g.place = .landing ∧ g.phase = .parked) ∧
      g.arch.pc = st.entry ∧ g.arch.exec = g.arch.occ ∧ g.lanes.map (fun e => (e.1, e.2.num)) = (List.range q.recs.length).zip (q.recs.map (·.1)) ∧
      (∀ l, g.arch.occ.getLsbD l = decide (l < q.recs.length)) ∧ (∀ k, g.arch.slices.getLsbD k = decide (4 * k < q.recs.length)) ∧
      (∀ l j, l < q.recs.length → j < st.args → g.arch.vget j l = ((q.recs.map fun e => e.2.words).getD l []).getD j 0#32) ∧
      ∀ k, 4 * k < q.recs.length → g.arch.sget k 1 = i.param)

/-- The part of it that speaks of dispatching a record. -/
def DispatchRuns : Prop :=
  ∀ (s : State) (d slot k core : Nat) (i : Inst) (f : Option Nat) (r : Rec) (rest : List Rec), s.cur = none → s.bestInst d = some (slot, i) →
    s.inst? d slot = some i → s.bestStage d slot i = some k → s.placeFor d slot k i = some (core, f) → look [] i.queues k = r :: rest →
    ∃ t j, exec (.dispatch d) s = .next t ∧ t.inst? d slot = some j ∧ look [] j.queues k = rest ∧ look 0 j.inflight k = look 0 i.inflight k + 1

/-- The part of it that speaks of a launch request at the head of its vestibule. -/
def AdmissionRuns : Prop :=
  ∀ (s : State) (d : Nat) (r : LaunchReq), s.cur = none → s.request? d = some r →
    (s.readDesc d r.ctx r.desc r.vec = none → exec (.admission d) s = .next (s.refuse d r 0x0A)) ∧
    ∀ h sts recs, s.readDesc d r.ctx r.desc r.vec = some (h, sts, recs) →
      (s.earlyCheck d r h ≠ 0 → exec (.admission d) s = .next (s.refuse d r (s.earlyCheck d r h))) ∧
      (s.earlyCheck d r h = 0 → (s.die d).assisted = false → s.utilCheck d [(h.issue : Int), (h.array : Int), (h.copy : Int)] (r.slack h) h.arrays none = 0 →
        s.storageCheck d r.ctx h.sppages (h.accslots + h.itiles) h.gnodes h.gspill h.landbytes = 0 → s.freeInstSlots d ≠ [] →
        ∃ t slot i, exec (.admission d) s = .next t ∧ s.inst? d slot = none ∧ (∀ k < slot, s.inst? d k ≠ none) ∧ t.inst? d slot = some i ∧ i.ctx = r.ctx ∧ i.stages = sts ∧ i.queues = recs ∧
          i.issue = h.issue ∧ i.array = h.array ∧ i.copy = h.copy ∧ i.deadline = some (s.time + (s.die d).dtcBase + (r.slack h).toNat - if r.forwarded = true then s.time - r.received else 0) ∧
          (t.die d).vestibule = (s.die d).vestibule.tail) ∧
      (∀ n ≤ 4, s.earlyCheck d r h = 0 → (s.die d).assisted = true → r.answer = none →
        exec (.hostAdmissionAnswer d n) s =
          .next (s.setDie d { s.die d with vestibule := { r with answer := some n } :: (s.die d).vestibule.tail }))

/-- The part of the statement about effects that speaks of the arrays' steps, those of the array and those that firmware emulates: the new value of each element of a product's chunk, of a sum and of an elementwise product, in the floating types and in INT32, and the slot after
a MACC of a node whose values are there (R187 to R189, R195, R197, R199, R214, R222). The pieces and steps of a plan are the model's own form of it. -/
def ArrayRuns (s : State) : Prop :=
  let narrow := fun (sat : Bool) (z : Int) => if sat = true then max (-2 ^ 31) (min (2 ^ 31 - 1) z) else Int.bmod z (2 ^ 32)
  ∀ (d c : Nat) (v : Eval), v.planned = true → v.who.die = d → v.who.core = c →
    (∀ (i : Instr) (u : State) (st : PStep) (rest : List PStep) (p : PNode), v.kind = .force → v.steps = st :: rest → rest ≠ [] → v.pnodes[st.p]? = some p →
      (i = .arrayOperandStep d c ∧ u = s ∧ s.arrayReady d c = [v] ∧ st.emul = false ∧ s.sameReads d c v = [] ∧
          (∀ j ∈ s.inst? v.who.die v.who.inst, j.accounts = false) ∨
        i = .emulatedStepDone d c [] ∧ u = s.onDie d (fun x => { x with services := x.services.filter fun e => e.2 != .step c v.id }) ∧
          ((s.core d c).evals.find? fun v => v.busy && v.back.isNone) = some v ∧ ((s.die d).sysreg 0x100).getLsbD 1 = false ∧ (s.ctx v.who.ctx).run ≠ 2 ∧
          (s.ctx v.who.ctx).run ≠ 3 ∧ u.stepOpen v = true) →
      u.spaceFor v p st = (u, none) →
      let cols := (List.range (min 32 (p.cols - 32 * st.strip))).map (32 * st.strip + ·)
      let reads := fun (k a b : Nat) (x : Sys2Proof.Num) => u.pieceAt v.who v.pnodes k a b = .val x false false
      let fmt := fun (dbl : Bool) => if dbl then fFP64 else fFP32
      let makes := fun (value : Nat → Nat → Sys2Proof.Num) => ∃ t w q, exec i s = .next t ∧ w ∈ (t.core d c).evals ∧ w.id = v.id ∧ w.steps = rest ∧
        w.pnodes[st.p]? = some q ∧ ∀ a ∈ st.rows, ∀ b ∈ cols, stripAt q.vals a b = some (value a b)
      (∀ a b k lo hi dbl sat slot (x y : Nat → Nat → Sys2Proof.Num), p.op = .mul a b k lo hi false dbl sat slot →
        (∀ r ∈ st.rows, ∀ n, st.k0 ≤ n → n < st.k1 → reads a r n (x r n)) → (∀ e ∈ cols, ∀ n, st.k0 ≤ n → n < st.k1 → reads b n e (y n e)) →
        makes fun r e =>
          let before := if st.k0 = lo then u.startValue v.who slot false r e else (stripAt p.vals r e).getD .nan
          let chunk := (exactSum ((List.range' st.k0 (st.k1 - st.k0)).map fun n => (numMul (x r n) (y n e)).1)).1
          (roundNum (fmt dbl) 0 sat (numAdd 0 before chunk).1).1) ∧
      (∀ a b dbl (x y : Nat → Nat → Sys2Proof.Num), p.op = .had a b false dbl → (∀ r ∈ st.rows, ∀ e ∈ cols, reads a r e (x r e) ∧ reads b r e (y r e)) →
        makes fun r e => (roundNum (fmt dbl) 0 false (numMul (x r e) (y r e)).1).1) ∧
      (∀ ts dbl (x : Nat → Nat → Nat → Sys2Proof.Num), p.op = .sum ts false dbl → (∀ k < ts.length, ∀ r ∈ st.rows, ∀ e ∈ cols, reads ((ts.getD k (false, 0)).2) r e (x k r e)) →
        makes fun r e => (roundNum (fmt dbl) 0 false (exactSum ((List.range ts.length).map fun k =>
          if (ts.getD k (false, 0)).1 = true then numNeg (x k r e) else x k r e)).1).1) ∧
      (∀ a b k lo hi dbl sat slot (x y c : Nat → Nat → Int), p.op = .mul a b k lo hi true dbl sat slot →
        (∀ r ∈ st.rows, ∀ n, st.k0 ≤ n → n < st.k1 → reads a r n (numOfInt (x r n))) → (∀ e ∈ cols, ∀ n, st.k0 ≤ n → n < st.k1 → reads b n e (numOfInt (y n e))) →
        (∀ r ∈ st.rows, ∀ e ∈ cols, (if st.k0 = lo then u.startValue v.who slot true r e else (stripAt p.vals r e).getD .nan) = numOfInt (c r e)) →
        makes fun r e => numOfInt (narrow sat (c r e + (((List.range' st.k0 (st.k1 - st.k0)).map fun n => x r n * y n e).foldl (· + ·) 0)))) ∧
      (∀ a b dbl (x y : Nat → Nat → Int), p.op = .had a b true dbl → (∀ r ∈ st.rows, ∀ e ∈ cols, reads a r e (numOfInt (x r e)) ∧ reads b r e (numOfInt (y r e))) →
        makes fun r e => numOfInt (narrow false (x r e * y r e))) ∧
      (∀ ts dbl (x : Nat → Nat → Nat → Int), p.op = .sum ts true dbl → (∀ k < ts.length, ∀ r ∈ st.rows, ∀ e ∈ cols, reads ((ts.getD k (false, 0)).2) r e (numOfInt (x k r e))) →
        makes fun r e => numOfInt (narrow false (((List.range ts.length).map fun k =>
          if (ts.getD k (false, 0)).1 = true then -x k r e else x k r e).foldl (· + ·) 0)))) ∧
    (∀ x seq slot int sat j, v.kind = .macc seq slot int sat none → v.steps = [] → s.arrayReady d c = [v] → s.sameReads d c v = [] → s.discards v = none → s.maccBad v = none →
      look? (s.core d c).nodes v.node = some x → s.inst? d v.who.inst = some j →
      let at_ := fun (r e : Nat) => (coreOf d v.who.inst c * 2 ^ 18 + slot * 4096 + 128 * r + 4 * e) / 4
      let product := ∃ a b f g h, x.op = .mul a b f g h
      ∃ t k, exec (.arrayOperandStep d c) s = .next t ∧ t.inst? d v.who.inst = some k ∧ look 0#63 (t.core d c).done (v.who.ctx * 5 + 4) = BitVec.ofNat 63 seq ∧
        (∀ r < x.rows, ∀ e < x.cols,
          (int = false → (product → look 0#32 k.acc (at_ r e) = BitVec.ofNat 32 (roundFloat fFP32 0 0 false (v.result r e)).1) ∧
            (¬ product → look 0#32 k.acc (at_ r e) = BitVec.ofNat 32 (roundFloat fFP32 0 0 false
              (roundNum fFP32 0 sat (numAdd 0 (floatOf fFP32 (look 0#32 j.acc (at_ r e)).toNat) (exactSum [v.result r e]).1).1).1).1)) ∧
          (∀ z : Int, int = true → v.result r e = numOfInt z → (product → look 0#32 k.acc (at_ r e) = BitVec.ofInt 32 z) ∧
            (¬ product → look 0#32 k.acc (at_ r e) = BitVec.ofInt 32 (narrow sat ((look 0#32 j.acc (at_ r e)).toInt + z))))) ∧
        ∀ n, (∀ r < x.rows, ∀ e < x.cols, n ≠ at_ r e) → look 0#32 k.acc n = look 0#32 j.acc n)

/-- Effects that a commit hands to queues, tables and engines. -/
def Handed : Eff → Prop
  | .enq _ _ | .launch _ _ _ | .cpy _ _ _ _ _ | .depsig _ | .deparm _ _ _ => True
  | _ => False

/-- The part of it that speaks of a flight's commit: its effects leave in their order, a store waits for its home's turn, a flight that
ends at several addresses is split, and parts that meet at a REGANG become one gang. The numbers of gangs are the model's own: each has
one, below those still to be given out. -/
def CommitRuns : Prop :=
  ∀ (s : State) (g : Gang), s.cur = none → s.gang? g.gid = some g → s.mayCommit g = true → g.pathFault = none → g.resident = true →
    (s.putGang g).lateFault g = none → (s.putGang g).checkRecord g = none → (s.gangs.map (·.gid)).Nodup → (∀ h ∈ s.gangs, h.gid < s.nextId) →
    (g.wakeKind ≤ 1 → ∃ t, exec (.flightCommit g.gid .clean) s = .next t ∧
      ((∀ h ∈ g.held, Handed h.eff) → ∃ os, t.drain = s.drain ++ os ∧ t.mem = s.mem ∧
        os.map (fun o => (o.effs, o.cargo)) = g.held.map (fun h => ([h.seq], .eff h.eff)) ∧
        (os.Pairwise fun a b => ∀ n ∈ a.effs, n ∈ b.after) ∧ ∀ o ∈ os, o.sent = false ∧ o.who = g.who ∧ ∀ n ∈ s.behind g, n ∈ o.after) ∧
      (∀ h a p pa bs, g.held = [h] → h.eff = .store a.id [bs] → g.acc? a.id = some a → a.parts = [p] → p.loc = some (.phys pa) → isHost pa = false →
        homeDie pa = g.die → pa % 64 + bs.length ≤ 64 → (∀ e, (s.die e).replicates (pa / 64) = false) → ∃ o, t.drain = s.drain ++ [o] ∧ t.mem = s.mem ∧
          o.effs = [h.seq] ∧ o.cargo = .acts [.write ⟨.phys pa, p.va, bs, p.tso⟩] ∧ o.who = g.who ∧ o.sent = false ∧ ∀ n ∈ s.behind g, n ∈ o.after) ∧
      (∀ h e row col sat m n acc tag vals tso (x : Nat → Nat → Sys2Proof.Num) (pa : Nat → Nat), g.held = [h] → h.eff = .mst e row col sat m n acc tag vals →
        e.colMajor = false → e.fmt ≠ fINT4 → 0 < n → (∀ i < m, ∀ j < n, stripAt vals i j = some (x i j)) → (∀ i < m, accumOff (e.addr (row + i) col) = none ∧
          s.find g.die g.core g.inst g.ctx (e.addr (row + i) col) 1 = .at_ (.phys (pa i)) tso ∧ isHost (pa i) = false ∧ homeDie (pa i) = g.die ∧
          pa i % 64 + n * (elemBits e.fmt / 8) ≤ 64 ∧ (e.addr (row + i) col).toNat % 4096 + n * (elemBits e.fmt / 8) ≤ 4096 ∧
          ∀ f, (s.die f).replicates (pa i / 64) = false) → ∃ os, t.drain = s.drain ++ os ∧ t.mem = s.mem ∧
          os.map (·.cargo) = (List.range m).map fun i => .acts [.write ⟨.phys (pa i), e.addr (row + i) col, (List.range n).flatMap fun j => bytesN (elemBits e.fmt / 8)
            (if isInt e.fmt = true then (roundInteger e.fmt 0 (x i j)).1 else (roundFloat e.fmt 0 0 sat (x i j)).1), tso⟩]) ∧
      (g.held = [] → (∀ e ∈ g.nexts, e.1 < 8 ∧ g.arch.slices.getLsbD e.1 = true) → 2 ≤ (groupByAddr g.nexts).length → ∀ q ∈ groupByAddr g.nexts,
        ∃ k ∈ t.gangs, k.root = g.root ∧ k.arch.pc = q.1 ∧ (∀ j, k.arch.slices.getLsbD j = decide (j ∈ q.2)) ∧
          ∀ j ∈ q.2, look [] k.arch.split j = g.arch.slices :: look [] g.arch.split j)) ∧
    ∀ (h : Gang) (w : Byte), g.wakeKind = 3 → g.held = [] → g.nexts = [] → h ∈ s.gangs → h.gid ≠ g.gid → h.root = g.root → h.phase = .parked →
      h.woken = false → h.place = .landing → h.wakeKind = 3 → h.wakeOp = g.wakeOp → h.wakeOp2 &&& 0xFFF#64 = g.wakeOp2 &&& 0xFFF#64 → h.arch.depth = g.arch.depth →
      g.arch.rendezvous = some w → h.arch.rendezvous = some w → w = g.arch.slices ||| h.arch.slices → g.arch.slices &&& h.arch.slices = 0#8 →
      (∀ k ∈ s.gangs, k.root = g.root → k.gid = g.gid ∨ k.gid = h.gid) → (∀ p ∈ g.pend ++ h.pend, p.complete = true) →
      (∀ k ∈ [g, h], ∀ j, look? k.arch.split j ≠ none → j < 8 ∧ k.arch.slices.getLsbD j = true) →
      ∃ t k, exec (.flightCommit g.gid .clean) s = .next t ∧ (t.gangs.filter fun m => m.root == g.root) = [k] ∧ k.arch.slices = w ∧
        ∀ m ∈ [g, h], ∀ j < 8, m.arch.slices.getLsbD j = true → look [] k.arch.split j = (look [] m.arch.split j).tail

end Sys2Proof
end

