-- ==== Sys2Proof/Certificates/Slice0/Obligations.lean ====
section
/-!
DEFINITION. The statements about the model: what decoding gives, what each instruction and event does and
leaves, and what every step keeps.
-/

open Sys2Proof Sys2Proof.Machine

/-! ## Decoding and steps -/

/-- Every well-formed instruction is read back from the word that encodes it (R31 to R34). -/
def Obligations.DecodeInvertsEncode : Prop :=
  ∀ (i : Instr) (w : Word), i.WellFormed → encode i = some w → decode w = .ok i

/-- A word that decodes is the own word of a well-formed instruction, and a word that does not has a reason of R38 (R36, R38). -/
def Obligations.DecodedOrReasons : Prop :=
  ∀ w : Word, match decode w with
    | .ok i => encode i = some w ∧ i.WellFormed
    | .error es => es ≠ []

/-- Words of the spec's examples decode to what the spec says they are. -/
def Obligations.SampleWordsDecode : Prop :=
  decode 0x0C900010#32 = .ok (.saddi 9#5 0#5 1#10) ∧ decode 0x191C0006#32 = .ok (.bnz 7#5 6#18) ∧
  decode 0x20610500#32 = .ok (.vadd 6#6 4#6 5#6 0#3 0#1) ∧ decode 0x40708303#32 = .ok (.ffma 7#6 2#6 3#6 0#3 0#1) ∧
  decode 0x88414204#32 = .ok (.vldW 4#6 2#5 1#1 1#5 0#5) ∧ decode 0xA8C48040#32 = .ok (.mmul 3#4 1#4 2#4 0#1 0#1 1#1 0#2) ∧
  decode 0xC0050335#32 = .ok (.enq 5#5 3#4 3#4) ∧ decode 0xD0000006#32 = .ok .eret

/-- A step of an issuing port runs the decoded word, then the port moves on, and what follows at once is done (R37; log 17). -/
def Obligations.StepRunsDecodedWord : Prop :=
  ∀ (s : State) (r : Running) (w : Word) (i : Instr), s.cur = some r → w = r.cl.words.getD (r.cl.idx - 1) 0#32 →
    decode w = .ok i → (r.cl.idx < r.cl.count → mustBeLast w (r.gang.ctx == firmware) = false) →
    step s = match exec i s with
      | .next t => .next (((t.tagWord r).advance w).settled s)
      | o => o

/-- A word that is no instruction, or stands where R35 does not let it, raises ILLINS with one of its reasons (R36 to R38);
which of several is the model's free choice (log 7). -/
def Obligations.BadWordRaisesIllins : Prop :=
  ∀ (s : State) (r : Running) (w : Word), s.cur = some r → w = r.cl.words.getD (r.cl.idx - 1) 0#32 →
    ((∃ es, decode w = .error es) ∨ (∃ i, decode w = .ok i ∧ r.cl.idx < r.cl.count ∧ mustBeLast w (r.gang.ctx == firmware) = true)) →
    ∃ e n, (e ∈ wordReasons r w) ∧
      step s = .next ((State.raiseAt { s with free := n } r codeIllins (insInfo r e) false).settled s)

/-- With no port issuing, the first event of the agenda is taken once it is due; with none due the machine goes on by an event of
its own or by a nanosecond passing (log 6, log 7); what follows a step at once is done with it (log 17). -/
def Obligations.StepBetweenClauses : Prop :=
  (∀ (s : State) (d : Due) (ds : List Due), s.cur = none → s.agenda = d :: ds → d.time ≤ s.time →
    step s = match exec d.op { s with agenda := ds } with
      | .next t => .next (t.settled s)
      | o => o) ∧
  (∀ s : State, s.cur = none → (∀ d ∈ s.agenda.head?, s.time < d.time) →
    ∃ t, step s = .next t ∧ (t = s.tick.settled s ∨ ∃ e n u, exec e { s with free := n } = .next u ∧ t = u.settled s))

/-- A gang or sub-gang of m present slices runs in ceil(4m / g) passes on a port of g good lanes, never more than 2, whatever lanes
are occupied (R119); NOP, of one cycle per pass, costs them. -/
def Obligations.PassesOfAGang : Prop :=
  ∀ (s : State) (r : Running) (p : Nat), r.gang.place = .port p →
    let g := (s.die r.gang.die).good r.gang.core p
    let m := (List.range 8).countP fun k => r.gang.arch.slices.getLsbD k
    let passes := passesOn r.gang.arch.slices g
    24 ≤ g → g ≤ 32 →
    4 * m ≤ passes * g ∧ passes * g < 4 * m + g ∧ passes ≤ 2 ∧ s.wordCost r 0xCC000003#32 = passes

/-! ## Scalar instructions (R40 to R42, R51, R106) -/

/-- The two-source scalar instructions (R40): the result in every executing slice, and nothing else changed. s0 takes none. -/
def Obligations.ScalarTwoSources : Prop :=
  ∀ (s : State) (r : Running) (d a b : BitVec 5), s.cur = some r →
    Usable s r { sr := [a.toNat, b.toNat], sw := [d.toNat], slices := r.gang.arch.slicesList } →
    ∀ e ∈ ([
      (.sadd d a b, fun x y => x + y), (.ssub d a b, fun x y => x - y), (.smul d a b, fun x y => x * y),
      (.smulh d a b, fun x y => BitVec.ofInt 64 (x.toInt * y.toInt / 2 ^ 64)),
      (.smulhu d a b, fun x y => BitVec.ofNat 64 (x.toNat * y.toNat / 2 ^ 64)),
      (.sand d a b, fun x y => x &&& y), (.sor d a b, fun x y => x ||| y), (.sxor d a b, fun x y => x ^^^ y),
      (.sshl d a b, fun x y => x <<< (y.toNat % 64)), (.sshr d a b, fun x y => x >>> (y.toNat % 64)),
      (.ssra d a b, fun x y => x.sshiftRight (y.toNat % 64)),
      (.smin d a b, fun x y => if x.toInt ≤ y.toInt then x else y), (.smax d a b, fun x y => if x.toInt ≤ y.toInt then y else x),
      (.sminu d a b, fun x y => if x.toNat ≤ y.toNat then x else y), (.smaxu d a b, fun x y => if x.toNat ≤ y.toNat then y else x),
      (.sslt d a b, fun x y => if x.toInt < y.toInt then 1#64 else 0#64), (.ssltu d a b, fun x y => if x.toNat < y.toNat then 1#64 else 0#64),
      (.sseq d a b, fun x y => if x = y then 1#64 else 0#64),
      (.sdiv d a b, fun x y => if y = 0#64 then BitVec.ofInt 64 (-1) else x.sdiv y),
      (.sdivu d a b, fun x y => if y = 0#64 then BitVec.ofInt 64 (-1) else BitVec.ofNat 64 (x.toNat / y.toNat)),
      (.srem d a b, fun x y => if y = 0#64 then x else x.srem y),
      (.sremu d a b, fun x y => if y = 0#64 then x else BitVec.ofNat 64 (x.toNat % y.toNat))] : List (Instr × (DWord → DWord → DWord))),
    Sets s r e.1 fun z => ScalarsWritten r.gang.arch z d.toNat r.gang.arch.slicesList fun k =>
      e.2 (r.gang.arch.sget k a.toNat) (r.gang.arch.sget k b.toNat)

/-- The other scalar instructions: one source and immediate forms (R40, R41), and those that read no general register, which tell what a
task can learn of itself, of the exec mask and of the votes (R42, R49, R51, R106); TBUD has every engine charge in it (log 56). TSLK counts
by the clock of the die that holds the instance, less what moves have lost (R261, R266; log 4, log 16), and best-effort work has 2^63 - 1
(R260). -/
def Obligations.ScalarOthers : Prop :=
  ∀ (s : State) (r : Running) (d a : BitVec 5) (i : BitVec 10) (k : BitVec 6) (j : BitVec 20) (c : BitVec 12) (p : BitVec 7), s.cur = some r →
    (Usable s r { sr := [a.toNat], sw := [d.toNat], slices := r.gang.arch.slicesList } →
      ∀ e ∈ ([
        (.sclz d a, fun x => BitVec.ofNat 64 ((List.range 64).findIdx fun i => x.getLsbD (63 - i))),
        (.spop d a, fun x => BitVec.ofNat 64 ((List.range 64).countP fun i => x.getLsbD i)),
        (.saddi d a i, fun x => x + i.signExtend 64), (.sandi d a i, fun x => x &&& i.signExtend 64),
        (.sori d a i, fun x => x ||| i.signExtend 64), (.sxori d a i, fun x => x ^^^ i.signExtend 64),
        (.sshli d a k, fun x => x <<< k.toNat), (.sshri d a k, fun x => x >>> k.toNat), (.ssrai d a k, fun x => x.sshiftRight k.toNat),
        (.sslti d a i, fun x => if x.toInt < i.toInt then 1#64 else 0#64),
        (.ssltiu d a i, fun x => if x.toNat < (i.signExtend 64).toNat then 1#64 else 0#64)] : List (Instr × (DWord → DWord))),
      Sets s r e.1 fun z => ScalarsWritten r.gang.arch z d.toNat r.gang.arch.slicesList fun k => e.2 (r.gang.arch.sget k a.toNat)) ∧
    (Usable s r { sw := [d.toNat], slices := r.gang.arch.slicesList } →
      ∀ e ∈ ([
        (.slui d j, (j ++ 0#12).signExtend 64), (.sadr d j, r.cl.addr + j.signExtend 64 * 4#64), (.mget d, r.gang.arch.exec.setWidth 64),
        (.tinst d, BitVec.ofNat 64 (r.gang.inst % 256 + r.gang.die * 2 ^ 8 + r.gang.ctx % 64 * 2 ^ 10)),
        (.tstg d, BitVec.ofNat 64 r.gang.stage),
        (.tbud d c, BitVec.ofInt 64 (((s.inst? r.gang.die r.gang.inst).map fun i => i.account c.toNat).getD 0)),
        (.tslk d, match (s.inst? r.gang.die r.gang.inst).bind (·.deadline) with
          | some t => BitVec.ofInt 64 ((t : Int) - s.dtc (homeInst r.gang.die r.gang.inst).1 - r.gang.lost)
          | none => BitVec.ofNat 64 (2 ^ 63 - 1)),
        (.vbal d p, (r.gang.arch.exec &&& r.gang.arch.pmask p.toNat).setWidth 64),
        (.vany d p, if r.gang.arch.exec &&& r.gang.arch.pmask p.toNat = 0#32 then 0#64 else 1#64),
        (.vall d p, if r.gang.arch.exec &&& ~~~ r.gang.arch.pmask p.toNat = 0#32 then 1#64 else 0#64),
        (.vcnt d p, BitVec.ofNat 64 ((List.range 32).countP fun l => r.gang.arch.exec.getLsbD l && r.gang.arch.pget p.toNat l))] : List (Instr × DWord)),
      Sets s r e.1 fun z => ScalarsWritten r.gang.arch z d.toNat r.gang.arch.slicesList fun _ => e.2)

/-! ## Vector integer instructions (R81 to R89) -/

/-- The two-source vector instructions on words (R81, R82, R91): the result in every active lane, nothing else changed. -/
def Obligations.VectorTwoSources : Prop :=
  ∀ (s : State) (r : Running) (d a b : BitVec 6) (g : BitVec 3) (n : BitVec 1), s.cur = some r →
    Usable s r { vr := [a.toNat, b.toNat], vw := [d.toNat], lanes := r.gang.arch.active g n, slices := slicesOf (r.gang.arch.active g n) } →
    ∀ e ∈ ([
      (.vadd d a b g n, fun x y => x + y), (.vsub d a b g n, fun x y => x - y), (.vmul d a b g n, fun x y => x * y),
      (.vmulh d a b g n, fun x y => BitVec.ofInt 32 (x.toInt * y.toInt / 2 ^ 32)),
      (.vmulhu d a b g n, fun x y => BitVec.ofNat 32 (x.toNat * y.toNat / 2 ^ 32)),
      (.vand d a b g n, fun x y => x &&& y), (.vor d a b g n, fun x y => x ||| y), (.vxor d a b g n, fun x y => x ^^^ y),
      (.vshl d a b g n, fun x y => x <<< (y.toNat % 32)), (.vshr d a b g n, fun x y => x >>> (y.toNat % 32)),
      (.vsra d a b g n, fun x y => x.sshiftRight (y.toNat % 32)),
      (.vmin d a b g n, fun x y => if x.toInt ≤ y.toInt then x else y), (.vmax d a b g n, fun x y => if x.toInt ≤ y.toInt then y else x),
      (.vminu d a b g n, fun x y => if x.toNat ≤ y.toNat then x else y), (.vmaxu d a b g n, fun x y => if x.toNat ≤ y.toNat then y else x),
      (.vabsd d a b g n, fun x y => BitVec.ofNat 32 (x.toInt - y.toInt).natAbs),
      (.fcpys d a b g n, fun x y => (y &&& 0x80000000#32) ||| (x &&& 0x7FFFFFFF#32)),
      (.fmin d a b g n, fun x y => BitVec.ofNat 32 (floatPick fFP32 false false x.toNat y.toNat)),
      (.fmax d a b g n, fun x y => BitVec.ofNat 32 (floatPick fFP32 true false x.toNat y.toNat)),
      (.fminn d a b g n, fun x y => BitVec.ofNat 32 (floatPick fFP32 false true x.toNat y.toNat)),
      (.fmaxn d a b g n, fun x y => BitVec.ofNat 32 (floatPick fFP32 true true x.toNat y.toNat))] : List (Instr × (Word → Word → Word))),
    Sets s r e.1 fun z => VectorWritten r.gang.arch z d.toNat (r.gang.arch.active g n) fun l =>
      e.2 (r.gang.arch.vget a.toNat l) (r.gang.arch.vget b.toNat l)

/-- The one-source vector instructions on words (R82, R90). -/
def Obligations.VectorOneSource : Prop :=
  ∀ (s : State) (r : Running) (d a : BitVec 6) (g : BitVec 3) (n : BitVec 1), s.cur = some r →
    Usable s r { vr := [a.toNat], vw := [d.toNat], lanes := r.gang.arch.active g n, slices := slicesOf (r.gang.arch.active g n) } →
    ∀ e ∈ ([
      (.vpop d a g n, fun x => BitVec.ofNat 32 ((List.range 32).countP fun i => x.getLsbD i)),
      (.vclz d a g n, fun x => BitVec.ofNat 32 ((List.range 32).findIdx fun i => x.getLsbD (31 - i))),
      (.vbrev d a g n, fun x => x.reverse), (.vmov d a g n, fun x => x),
      (.fabs d a g n, fun x => x &&& 0x7FFFFFFF#32), (.fneg d a g n, fun x => x ^^^ 0x80000000#32)] : List (Instr × (Word → Word))),
    Sets s r e.1 fun z => VectorWritten r.gang.arch z d.toNat (r.gang.arch.active g n) fun l => e.2 (r.gang.arch.vget a.toNat l)

/-- FCLS sets exactly one bit of the result, that of the operand's class (R92). -/
def Obligations.FclsClassifies : Prop :=
  ∀ (s : State) (r : Running) (d a : BitVec 6) (g : BitVec 3) (n : BitVec 1), s.cur = some r →
    Usable s r { vr := [a.toNat], vw := [d.toNat], lanes := r.gang.arch.active g n, slices := slicesOf (r.gang.arch.active g n) } →
    ∃ f : Nat → Word, (∀ l, ∃ c, fp32ClassIs c (r.gang.arch.vget a.toNat l) ∧ f l = 1#32 <<< c) ∧
      Sets s r (.fcls d a g n) fun z => VectorWritten r.gang.arch z d.toNat (r.gang.arch.active g n) f

/-- The vector instructions that read their destination (R81, R83). -/
def Obligations.VectorThreeSources : Prop :=
  ∀ (s : State) (r : Running) (d a b : BitVec 6) (g : BitVec 3) (n : BitVec 1), s.cur = some r →
    Usable s r { vr := [a.toNat, b.toNat, d.toNat], vw := [d.toNat], lanes := r.gang.arch.active g n,
                 slices := slicesOf (r.gang.arch.active g n) } →
    ∀ e ∈ ([
      (.vmad d a b g n, fun x y z => x * y + z),
      (.vdot4 d a b g n, fun x y z => z + BitVec.ofInt 32
        (((List.range 4).map fun i => (x.extractLsb' (8 * i) 8).toInt * (y.extractLsb' (8 * i) 8).toInt).sum)),
      (.vdot4u d a b g n, fun x y z => z + BitVec.ofNat 32
        (((List.range 4).map fun i => (x.extractLsb' (8 * i) 8).toNat * (y.extractLsb' (8 * i) 8).toNat).sum))] :
        List (Instr × (Word → Word → Word → Word))),
    Sets s r e.1 fun z => VectorWritten r.gang.arch z d.toNat (r.gang.arch.active g n) fun l =>
      e.2 (r.gang.arch.vget a.toNat l) (r.gang.arch.vget b.toNat l) (r.gang.arch.vget d.toNat l)

/-- The immediate vector forms, which have no guard (R85, R86). -/
def Obligations.VectorImmediates : Prop :=
  ∀ (s : State) (r : Running) (d a : BitVec 6) (i : BitVec 10) (k : BitVec 5) (u : BitVec 3), s.cur = some r →
    Usable s r { vr := [a.toNat], vw := [d.toNat], lanes := r.gang.arch.active 0#3 0#1, slices := slicesOf (r.gang.arch.active 0#3 0#1) } →
    ∀ e ∈ ([
      (.vaddi d a i, fun x => x + i.signExtend 32), (.vandi d a i, fun x => x &&& i.signExtend 32), (.vori d a i, fun x => x ||| i.signExtend 32),
      (.vxori d a i, fun x => x ^^^ i.signExtend 32), (.vshli d a k, fun x => x <<< k.toNat), (.vshri d a k, fun x => x >>> k.toNat),
      (.vsrai d a k, fun x => x.sshiftRight k.toNat), (.vmini d a i, fun x => if x.toInt ≤ i.toInt then x else i.signExtend 32),
      (.vmaxi d a i, fun x => if x.toInt ≤ i.toInt then i.signExtend 32 else x),
      (.vunpk d a u, fun x => if 4 ≤ u.toNat then (x.extractLsb' (8 * (u.toNat % 4)) 8).signExtend 32
        else (x.extractLsb' (8 * (u.toNat % 4)) 8).setWidth 32)] : List (Instr × (Word → Word))),
    Sets s r e.1 fun z => VectorWritten r.gang.arch z d.toNat (r.gang.arch.active 0#3 0#1) fun l => e.2 (r.gang.arch.vget a.toNat l)

/-- The other vector instructions on words, each with the vector registers and scalars that it reads: lane and task numbers, the
scalar's word, requantisation, random numbers, constants, and selection by a predicate, which acts in every lane of the exec
mask (R79, R82, R84 to R86, R115). -/
def Obligations.VectorOthers : Prop :=
  ∀ (s : State) (r : Running) (d a b : BitVec 6) (c : BitVec 5) (g : BitVec 3) (n : BitVec 1) (i : BitVec 10) (j : BitVec 20), s.cur = some r →
    let x := r.gang.arch
    let draw := fun (l : Nat) => rngDraw (x.vget a.toNat l) (x.vget (a.toNat + 1) l) (x.sget (l / 4) c.toNat)
    ∀ e ∈ ([
      (.vlane d g n, x.active g n, [], [], fun l => BitVec.ofNat 32 l),
      (.vtask d g n, x.active g n, [], [], fun l => match look? r.gang.lanes l with
        | some t => BitVec.ofNat 32 t.num
        | none => 0#32),
      (.vbcs d c g n, x.active g n, [], [c.toNat], fun l => (x.sget (l / 4) c.toNat).setWidth 32),
      (.vreq8 d a c g n, x.active g n, [a.toNat], [c.toNat], fun l => requant (-128) 127 (x.vget a.toNat l) (x.sget (l / 4) c.toNat)),
      (.vreq4 d a c g n, x.active g n, [a.toNat], [c.toNat], fun l => requant (-8) 7 (x.vget a.toNat l) (x.sget (l / 4) c.toNat)),
      (.rng d a c g n, x.active g n, [a.toNat, a.toNat + 1], [c.toNat], draw),
      (.rngf d a c g n, x.active g n, [a.toNat, a.toNat + 1], [c.toNat], fun l =>
        BitVec.ofNat 32 (rnd fFP32 0 (.fin false ((draw l).toNat / 256) (-24))).1),
      (.vmovi d i, x.active 0#3 0#1, [], [], fun _ => i.signExtend 32),
      (.vlui d j, x.active 0#3 0#1, [], [], fun _ => j ++ 0#12),
      (.vsel d a b g n, x.active 0#3 0#1, [a.toNat, b.toNat], [], fun l =>
        if x.pget g.toNat l = true ↔ n = 0#1 then x.vget a.toNat l else x.vget b.toNat l)] :
        List (Instr × List Nat × List Nat × List Nat × (Nat → Word))),
    Usable s r { vr := e.2.2.1, vw := [d.toNat], sr := e.2.2.2.1, lanes := e.2.1, slices := slicesOf e.2.1 } →
    Sets s r e.1 fun z => VectorWritten x z d.toNat e.2.1 e.2.2.2.2

/-- The integer compares by the conditions of R87, into a predicate. -/
def Obligations.IntegerCompares : Prop :=
  ∀ (s : State) (r : Running) (p : BitVec 7) (a b : BitVec 6) (c : BitVec 5), s.cur = some r →
    let x := r.gang.arch
    let act := x.active 0#3 0#1
    ∀ q ∈ ([(0#3, fun x y => x = y), (1#3, fun x y => x ≠ y), (2#3, fun x y => x.toInt < y.toInt), (3#3, fun x y => x.toInt ≤ y.toInt),
        (4#3, fun x y => x.toNat < y.toNat), (5#3, fun x y => x.toNat ≤ y.toNat), (6#3, fun x y => x &&& y ≠ 0#32),
        (7#3, fun x y => x &&& y = 0#32)] : List (BitVec 3 × (Word → Word → Prop))),
      (Usable s r { vr := [a.toNat, b.toNat], lanes := act, slices := slicesOf act } →
        ∃ f : Nat → Bool, (∀ l, f l = true ↔ q.2 (x.vget a.toNat l) (x.vget b.toNat l)) ∧
        Sets s r (.vcmp p a b q.1) fun z => PredicateWritten x z p.toNat act f) ∧
      (Usable s r { vr := [a.toNat], sr := [c.toNat], lanes := act, slices := slicesOf act } →
        ∃ f : Nat → Bool, (∀ l, f l = true ↔ q.2 (x.vget a.toNat l) ((x.sget (l / 4) c.toNat).setWidth 32)) ∧
        Sets s r (.vcmps p a c q.1) fun z => PredicateWritten x z p.toNat act f)

/-- The predicate logic of R89: in every active lane, whatever the state of the registers. -/
def Obligations.PredicateLogic : Prop :=
  ∀ (s : State) (r : Running) (p u v : BitVec 7), s.cur = some r →
    ∀ e ∈ ([
      (.pand p u v, fun x y => x && y), (.por p u v, fun x y => x || y), (.pxor p u v, fun x y => x != y), (.pandn p u v, fun x y => x && !y),
      (.pnot p u, fun x _ => !x), (.pmov p u, fun x _ => x), (.pset p, fun _ _ => true), (.pclr p, fun _ _ => false)] :
        List (Instr × (Bool → Bool → Bool))),
      Sets s r e.1 fun z => PredicateWritten r.gang.arch z p.toNat (r.gang.arch.active 0#3 0#1) fun l =>
        e.2 (r.gang.arch.pget u.toNat l) (r.gang.arch.pget v.toNat l)

/-! ## Floating point (R58 to R68, R88 to R98) -/

/-- How a rounding to a multiple of `2^q` chooses, in each mode (R63): nearest with ties to even, towards zero, towards
+∞, towards -∞, nearest with ties away; and when it is inexact. -/
def Obligations.RoundingChooses : Prop :=
  ∀ (mode : Nat) (neg : Bool) (m : Nat) (e q : Int), mode ≤ 4 → e < q →
    let u := 2 ^ (q - e).toNat
    let k := (roundTo mode neg m e q).1
    ((roundTo mode neg m e q).2 = true ↔ ¬ u ∣ m) ∧
    (mode = 0 → 2 * m ≤ 2 * (k * u) + u ∧ 2 * (k * u) ≤ 2 * m + u ∧ ((2 * m = 2 * (k * u) + u ∨ 2 * (k * u) = 2 * m + u) → k % 2 = 0)) ∧
    (mode = 1 → k * u ≤ m ∧ m < k * u + u) ∧
    (mode = 2 → if neg = true then k * u ≤ m ∧ m < k * u + u else m ≤ k * u ∧ k * u < m + u) ∧
    (mode = 3 → if neg = true then m ≤ k * u ∧ k * u < m + u else k * u ≤ m ∧ m < k * u + u) ∧
    (mode = 4 → 2 * m < 2 * (k * u) + u ∧ 2 * (k * u) ≤ 2 * m + u)

/-- The two-source floating-point instructions (R90, R95): one rounding of the exact result in the slice's mode, and the
flags of the active lanes. -/
def Obligations.FloatTwoSources : Prop :=
  ∀ (s : State) (r : Running) (d a b : BitVec 6) (g : BitVec 3) (n : BitVec 1), s.cur = some r →
    Usable s r { vr := [a.toNat, b.toNat], vw := [d.toNat], lanes := r.gang.arch.active g n } →
    let h := fun (t : Nat) (op : Nat → Sys2Proof.Num → Sys2Proof.Num → Sys2Proof.Num × Flags) (m : Nat) (x y : Word) =>
      bothHalves (fun x y _ => onceRounded 16 t m (op m (floatOf t x) (floatOf t y))) x y 0#32
    let pick := fun (big : Bool) (x y : Word) => bothHalves (fun x y _ => (BitVec.ofNat 16 (floatPick fFP16 big false x y), 0#5)) x y 0#32
    ∀ e ∈ ([
      (.fadd d a b g n, fun m x y => onceRounded 32 fFP32 m (numAdd m (f32 x) (f32 y))),
      (.fsub d a b g n, fun m x y => onceRounded 32 fFP32 m (numAdd m (f32 x) (numNeg (f32 y)))),
      (.fmul d a b g n, fun m x y => onceRounded 32 fFP32 m (numMul (f32 x) (f32 y))),
      (.fscl d a b g n, fun m x y => onceRounded 32 fFP32 m (scaleNum (f32 x) y.toInt, 0#5)),
      (.hadd2 d a b g n, h fFP16 numAdd), (.hsub2 d a b g n, h fFP16 fun m x y => numAdd m x (numNeg y)), (.hmul2 d a b g n, h fFP16 fun _ => numMul),
      (.hmin2 d a b g n, fun _ => pick false), (.hmax2 d a b g n, fun _ => pick true),
      (.badd2 d a b g n, h fBF16 numAdd), (.bsub2 d a b g n, h fBF16 fun m x y => numAdd m x (numNeg y)),
      (.bmul2 d a b g n, h fBF16 fun _ => numMul)] : List (Instr × (Nat → Word → Word → Word × Flags))),
    Sets s r e.1 fun z => FloatWritten r.gang.arch z d.toNat (r.gang.arch.active g n) fun l =>
      e.2 (r.gang.arch.mode (l / 4)) (r.gang.arch.vget a.toNat l) (r.gang.arch.vget b.toNat l)

/-- The fused multiply-adds, which read their destination (R90, R95). -/
def Obligations.FloatThreeSources : Prop :=
  ∀ (s : State) (r : Running) (d a b : BitVec 6) (g : BitVec 3) (n : BitVec 1), s.cur = some r →
    Usable s r { vr := [a.toNat, b.toNat, d.toNat], vw := [d.toNat], lanes := r.gang.arch.active g n } →
    let h := fun (t m : Nat) => bothHalves fun x y z => onceRounded 16 t m (fused m (floatOf t x) (floatOf t y) (floatOf t z))
    ∀ e ∈ ([
      (.ffma d a b g n, fun m x y z => onceRounded 32 fFP32 m (fused m (f32 x) (f32 y) (f32 z))),
      (.ffms d a b g n, fun m x y z => onceRounded 32 fFP32 m (fused m (f32 x) (f32 y) (numNeg (f32 z)))),
      (.hfma2 d a b g n, h fFP16), (.bfma2 d a b g n, h fBF16)] : List (Instr × (Nat → Word → Word → Word → Word × Flags))),
    Sets s r e.1 fun z => FloatWritten r.gang.arch z d.toNat (r.gang.arch.active g n) fun l =>
      e.2 (r.gang.arch.mode (l / 4)) (r.gang.arch.vget a.toNat l) (r.gang.arch.vget b.toNat l) (r.gang.arch.vget d.toNat l)

/-- FRND and the special functions (R90, R97): each function's exact or far finer value, rounded once; NX of SQRT and UF of TANH
as log 46 has them. -/
def Obligations.FloatOneSource : Prop :=
  ∀ (s : State) (r : Running) (d a : BitVec 6) (g : BitVec 3) (n : BitVec 1), s.cur = some r →
    Usable s r { vr := [a.toNat], vw := [d.toNat], lanes := r.gang.arch.active g n } →
    ∀ e ∈ ([
      (.frnd d a g n, fun m x => (integral m x, 0#5)),
      (.exp2 d a g n, fun m x => sfuRound m (exp2Num (f32 x), 0#5)), (.log2 d a g n, fun m x => sfuRound m (log2Num (f32 x))),
      (.rcp d a g n, fun m x => sfuRound m (rcpNum (f32 x))), (.rsq d a g n, fun m x => sfuRound m (rsqNum (f32 x))),
      (.sqrt d a g n, fun m x => onceRounded 32 fFP32 m (sqrtNum (f32 x))),
      (.sinpi d a g n, fun m x => sfuRound m (sinpiNum (f32 x), 0#5)), (.cospi d a g n, fun m x => sfuRound m (cospiNum (f32 x), 0#5)),
      (.tanh d a g n, fun m x => sfuRound m (tanhNum (f32 x), 0#5))] : List (Instr × (Nat → Word → Word × Flags))),
    Sets s r e.1 fun z => FloatWritten r.gang.arch z d.toNat (r.gang.arch.active g n) fun l =>
      e.2 (r.gang.arch.mode (l / 4)) (r.gang.arch.vget a.toNat l)

/-- The FP64 instructions on pairs (R96): the pair of D, and the flags. DFMA reads its destination too. -/
def Obligations.DoublePairs : Prop :=
  ∀ (s : State) (r : Running) (d a b : BitVec 5) (g : BitVec 3) (n : BitVec 1), s.cur = some r →
    let x := r.gang.arch
    let val := fun (k : BitVec 5) (l : Nat) => floatOf fFP64 (x.vget (2 * k.toNat + 1) l ++ x.vget (2 * k.toNat) l).toNat
    let bits := fun (k : BitVec 5) (l : Nat) => (x.vget (2 * k.toNat + 1) l ++ x.vget (2 * k.toNat) l).toNat
    let two := [2 * a.toNat, 2 * a.toNat + 1, 2 * b.toNat, 2 * b.toNat + 1]
    ∀ e ∈ ([
      (.dadd d a b g n, two, fun l => onceRounded 64 fFP64 (x.mode (l / 4)) (numAdd (x.mode (l / 4)) (val a l) (val b l))),
      (.dsub d a b g n, two, fun l => onceRounded 64 fFP64 (x.mode (l / 4)) (numAdd (x.mode (l / 4)) (val a l) (numNeg (val b l)))),
      (.dmul d a b g n, two, fun l => onceRounded 64 fFP64 (x.mode (l / 4)) (numMul (val a l) (val b l))),
      (.dmin d a b g n, two, fun l => (BitVec.ofNat 64 (floatPick fFP64 false false (bits a l) (bits b l)), 0#5)),
      (.dmax d a b g n, two, fun l => (BitVec.ofNat 64 (floatPick fFP64 true false (bits a l) (bits b l)), 0#5)),
      (.dfma d a b g n, two ++ [2 * d.toNat, 2 * d.toNat + 1], fun l =>
        onceRounded 64 fFP64 (x.mode (l / 4)) (fused (x.mode (l / 4)) (val a l) (val b l) (val d l)))] : List (Instr × List Nat × (Nat → DWord × Flags))),
    Usable s r { vr := e.2.1, vw := [2 * d.toNat, 2 * d.toNat + 1], lanes := x.active g n } →
    Sets s r e.1 fun z => PairWritten x z (2 * d.toNat) (x.active g n) e.2.2

/-- FCVT converts the value of its source to the destination's format, with the flags (R66, R93, R94). -/
def Obligations.FcvtConverts : Prop :=
  ∀ (s : State) (r : Running) (d a c : BitVec 6) (g : BitVec 3) (n sat : BitVec 1) (m : BitVec 3), s.cur = some r →
    let x := r.gang.arch
    let act := x.active g n
    let src := (convFormats c).1
    let dst := (convFormats c).2
    let value := fun (l : Nat) => if src = fFP64 then floatOf fFP64 (x.vget (a.toNat + 1) l ++ x.vget a.toNat l).toNat
      else valueOf src ((x.vget a.toNat l).toNat % 2 ^ narrowBits src)
    let result := fun (l : Nat) => if isInt dst then roundInteger dst m.toNat (value l) else roundFloat dst m.toNat m.toNat (sat == 1#1) (value l)
    let from_ := if src = fFP64 then [a.toNat, a.toNat + 1] else [a.toNat]
    (dst = fFP64 → Usable s r { vr := from_, vw := [d.toNat, d.toNat + 1], lanes := act } →
      Sets s r (.fcvt d a c g n sat m) fun z => PairWritten x z d.toNat act fun l => (BitVec.ofNat 64 (result l).1, (result l).2)) ∧
    (dst ≠ fFP64 → Usable s r { vr := from_, vw := [d.toNat], lanes := act } →
      Sets s r (.fcvt d a c g n sat m) fun z => FloatWritten x z d.toNat act fun l =>
        (if dst = fINT8 then ((BitVec.ofNat 8 (result l).1).signExtend 32 : Word) else if dst = fINT4 then (BitVec.ofNat 4 (result l).1).signExtend 32
          else BitVec.ofNat 32 (result l).1, (result l).2))

/-- The float compares by the table of R88: the bit of each active lane, IV in the lane's slice for LT and LE with a NaN, no
other flag; and CC 6 and 7 are reserved selectors. -/
def Obligations.FloatCompares : Prop :=
  (∀ (s : State) (r : Running) (p : BitVec 7) (a b : BitVec 6) (u v c : BitVec 5), s.cur = some r →
    let x := r.gang.arch
    let act := x.active 0#3 0#1
    let lane := fun (k l : Nat) => f32 (x.vget k l)
    let pair := fun (k l : Nat) => floatOf fFP64 (x.vget (2 * k + 1) l ++ x.vget (2 * k) l).toNat
    ∀ q ∈ ([(0#3, fun o => o = some .eq, false), (1#3, fun o => o ≠ some .eq, false), (2#3, fun o => o = some .lt, true),
        (3#3, fun o => o = some .lt ∨ o = some .eq, true), (4#3, fun o => o = none, false), (5#3, fun o => o ≠ none, false)] :
        List (BitVec 3 × (Option Ordering → Prop) × Bool)),
    ∀ e ∈ ([
      (.fcmp p a b q.1, [a.toNat, b.toNat], [], lane a.toNat, lane b.toNat),
      (.fcmps p a c q.1, [a.toNat], [c.toNat], lane a.toNat, fun l => f32 ((x.sget (l / 4) c.toNat).setWidth 32)),
      (.dcmp p u v q.1, [2 * u.toNat, 2 * u.toNat + 1, 2 * v.toNat, 2 * v.toNat + 1], [], pair u.toNat, pair v.toNat)] :
        List (Instr × List Nat × List Nat × (Nat → Sys2Proof.Num) × (Nat → Sys2Proof.Num))),
    Usable s r { vr := e.2.1, sr := e.2.2.1, lanes := act, slices := slicesOf act } →
    ∃ f : Nat → Bool, (∀ l, f l = true ↔ q.2.1 (numCmp (e.2.2.2.1 l) (e.2.2.2.2 l))) ∧
      Sets s r e.1 fun z => PredicateWritten x { z with fpstat := x.fpstat } p.toNat act f ∧
        ∀ k, z.stat k = if q.2.2 = true ∧ ∃ l ∈ act, l / 4 = k ∧ (e.2.2.2.1 l = .nan ∨ e.2.2.2.2 l = .nan) then x.stat k ||| fIV else x.stat k) ∧
  (∀ (w : Word) (p : BitVec 7) (a b : BitVec 6) (u v c : BitVec 5) (cc : BitVec 3), 6 ≤ cc.toNat →
    rawDecode w = some (.fcmp p a b cc) ∨ rawDecode w = some (.fcmps p a c cc) ∨ rawDecode w = some (.dcmp p u v cc) →
    ∃ es, decode w = .error es ∧ DecodeError.reservedSelector ∈ es)

/-! ## Cross-lane instructions (R100 to R114) -/

/-- The shuffles (R105): each active lane takes its source lane's word where that lane is active, else its own. -/
def Obligations.Shuffles : Prop :=
  ∀ (s : State) (r : Running) (d a b : BitVec 6) (k : BitVec 5) (g : BitVec 3) (n : BitVec 1), s.cur = some r →
    let x := r.gang.arch
    let act := x.active g n
    ∀ e ∈ ([
      (.shfl d a b g n, [a.toNat, b.toNat], fun l => (((x.vget b.toNat l).toNat % 32 : Nat) : Int)),
      (.shflx d a k g n, [a.toNat], fun l => ((l ^^^ k.toNat : Nat) : Int)), (.shflup d a k g n, [a.toNat], fun l => (l : Int) - k.toNat),
      (.shfldn d a k g n, [a.toNat], fun l => (l : Int) + k.toNat), (.bcast d a k g n, [a.toNat], fun _ => (k.toNat : Int))] :
        List (Instr × List Nat × (Nat → Int))),
    Usable s r { vr := e.2.1, vw := [d.toNat], lanes := act } →
    ∃ f : Nat → Word, (∀ l ∈ act, (∀ j ∈ act, (j : Int) = e.2.2 l → f l = x.vget a.toNat j) ∧ ((∀ j ∈ act, (j : Int) ≠ e.2.2 l) → f l = x.vget a.toNat l)) ∧
      Sets s r e.1 fun z => VectorWritten x z d.toNat act f

/-- The reductions (R107): the one combination of the 32 lanes, in every active lane. -/
def Obligations.Reductions : Prop :=
  ∀ (s : State) (r : Running) (d a : BitVec 6) (g : BitVec 3) (n : BitVec 1), s.cur = some r →
    let x := r.gang.arch
    let act := x.active g n
    Usable s r { vr := [a.toNat], vw := [d.toNat], lanes := act } →
    ∀ e ∈ ([
      (.redAdd d a g n, 0#32, fun x y => x + y), (.redAnd d a g n, 0xFFFFFFFF#32, fun x y => x &&& y), (.redOr d a g n, 0#32, fun x y => x ||| y),
      (.redXor d a g n, 0#32, fun x y => x ^^^ y), (.redMax d a g n, 0x80000000#32, fun x y => if x.toInt < y.toInt then y else x),
      (.redMin d a g n, 0x7FFFFFFF#32, fun x y => if y.toInt < x.toInt then y else x), (.redMaxu d a g n, 0#32, fun x y => if x.toNat < y.toNat then y else x),
      (.redMinu d a g n, 0xFFFFFFFF#32, fun x y => if y.toNat < x.toNat then y else x),
      (.redFmax d a g n, 0xFF800000#32, fun x y => BitVec.ofNat 32 (floatPick fFP32 true false x.toNat y.toNat)),
      (.redFmin d a g n, 0x7F800000#32, fun x y => BitVec.ofNat 32 (floatPick fFP32 false false x.toNat y.toNat))] :
        List (Instr × Word × (Word → Word → Word))),
    Sets s r e.1 fun z => VectorWritten x z d.toNat act fun _ => ((List.range 32).map (supplied x act a.toNat e.2.1)).foldl e.2.2 e.2.1

/-- RED.FADD sums by the fixed tree of R108; each slice with an active lane takes the flags of all roundings (R104). -/
def Obligations.RedFaddSumsByTree : Prop :=
  ∀ (s : State) (r : Running) (d a : BitVec 6) (g : BitVec 3) (n : BitVec 1), s.cur = some r →
    let x := r.gang.arch
    let act := x.active g n
    let sum := laneTree (supplied x act a.toNat 0x80000000#32) 0 5
    Usable s r { vr := [a.toNat], vw := [d.toNat], lanes := act } →
    Sets s r (.redFadd d a g n) fun z => VectorWritten x { z with fpstat := x.fpstat } d.toNat act (fun _ => sum.1) ∧
      ∀ k, z.stat k = if ∃ l ∈ act, l / 4 = k then x.stat k ||| sum.2 else x.stat k

/-- The indexed reductions (R109): a value and an index that some active lane holds and that no other beats, in the pair of
registers from D; with no active lane nothing is written. -/
def Obligations.IndexedReductions : Prop :=
  ∀ (s : State) (r : Running) (d a b : BitVec 6) (g : BitVec 3) (n : BitVec 1), s.cur = some r →
    let x := r.gang.arch
    let act := x.active g n
    Usable s r { vr := [a.toNat, b.toNat], vw := [d.toNat, d.toNat + 1], lanes := act } →
    ∀ e ∈ ([
      (.redMaxi d a b g n, fun x => x.toInt, false), (.redMini d a b g n, fun x => -x.toInt, false),
      (.redFmaxi d a b g n, fun x => ((fkey x).toNat : Int), true), (.redFmini d a b g n, fun x => -((fkey x).toNat : Int), true)] :
        List (Instr × (Word → Int) × Bool)),
    (act = [] → exec e.1 s = .next s) ∧
    (act ≠ [] → ∃ l ∈ act, (∀ j ∈ act, e.2.1 (x.vget a.toNat j) < e.2.1 (x.vget a.toNat l) ∨
        e.2.1 (x.vget a.toNat j) = e.2.1 (x.vget a.toNat l) ∧ (x.vget b.toNat l).toNat ≤ (x.vget b.toNat j).toNat) ∧
      Sets s r e.1 fun z => PairWritten x z d.toNat act fun _ =>
        (x.vget b.toNat l ++ (if e.2.2 = true ∧ f32 (x.vget a.toNat l) = .nan then 0x7FC00000#32 else x.vget a.toNat l), 0#5))

/-- The scans (R110): each active lane takes the combination of the lanes up to it, itself left out in the exclusive form. -/
def Obligations.Scans : Prop :=
  ∀ (s : State) (r : Running) (d a : BitVec 6) (g : BitVec 3) (n : BitVec 1), s.cur = some r →
    let x := r.gang.arch
    let act := x.active g n
    Usable s r { vr := [a.toNat], vw := [d.toNat], lanes := act } →
    (∀ e ∈ ([
      (.scanAdd d a g n, 0#32, 1, fun x y => x + y), (.scanxAdd d a g n, 0#32, 0, fun x y => x + y),
      (.scanMax d a g n, 0x80000000#32, 1, fun x y => if x.toInt < y.toInt then y else x),
      (.scanMin d a g n, 0x7FFFFFFF#32, 1, fun x y => if y.toInt < x.toInt then y else x), (.scanOr d a g n, 0#32, 1, fun x y => x ||| y)] :
        List (Instr × Word × Nat × (Word → Word → Word))),
      Sets s r e.1 fun z => VectorWritten x z d.toNat act fun l =>
        ((List.range (l + e.2.2.1)).map (supplied x act a.toNat e.2.1)).foldl e.2.2.2 e.2.1) ∧
    (∀ e ∈ ([(.scanFadd d a g n, 1), (.scanxFadd d a g n, 0)] : List (Instr × Nat)),
      Sets s r e.1 fun z => FloatWritten x z d.toNat act fun l =>
        floatPrefix ((List.range 32).map (supplied x act a.toNat 0x80000000#32)) (l + e.2))

/-- KSORT and KMERGE (R112 to R114): the pairs of the active lanes, in descending order of value and then rising index, placed in
the active lanes from the lowest; KMERGE keeps the first of the union of two lists. -/
def Obligations.SortAndMerge : Prop :=
  ∀ (s : State) (r : Running) (d a b : BitVec 6) (g : BitVec 3) (n : BitVec 1), s.cur = some r →
    let x := r.gang.arch
    let act := x.active g n
    let pairs := fun (v i : Nat) => act.map fun l => (x.vget v l, x.vget i l)
    ∀ e ∈ ([
      (.ksort d a b g n, [a.toNat, b.toNat], pairs a.toNat b.toNat),
      (.kmerge d a b g n, [a.toNat, a.toNat + 1, b.toNat, b.toNat + 1], pairs a.toNat (a.toNat + 1) ++ pairs b.toNat (b.toNat + 1))] :
        List (Instr × List Nat × List (Word × Word))),
    Usable s r { vr := e.2.1, vw := [d.toNat, d.toNat + 1], lanes := act } →
    ∃ q : List (Word × Word), q.Perm e.2.2 ∧
      q.Pairwise (fun p t => (fkey t.1).toNat < (fkey p.1).toNat ∨ fkey p.1 = fkey t.1 ∧ p.2.toNat ≤ t.2.toNat) ∧
      Sets s r e.1 fun z => PairWritten x z d.toNat act fun l =>
        let p := q.getD (act.idxOf l) (0#32, 0#32)
        (p.2 ++ (if f32 p.1 = .nan then 0x7FC00000#32 else p.1), 0#5)

/-! ## Control flow and masks (R43 to R52) -/

/-- The branches (R43): each executing slice goes to the target by its own condition, else to the next clause. -/
def Obligations.Branches : Prop :=
  ∀ (s : State) (r : Running) (x : BitVec 5) (o : BitVec 18), s.cur = some r →
    let a := r.gang.arch
    let to_ := fun (c : Nat → Bool) (k : Nat) => if c k = true then r.cl.addr + o.signExtend 64 * 4#64 else r.cl.addr + BitVec.ofNat 64 (4 * (r.cl.count + 1))
    let goes := fun (c : Nat → Bool) => Host.Outcome.next { s with cur := some { r with cl := r.cl.withNext a.slicesList (to_ c) } }
    exec (.bra o) s = goes (fun _ => true) ∧
    exec (.bmz o) s = goes (fun k => decide (a.exec.extractLsb' (4 * k) 4 = 0#4)) ∧
    exec (.bmnz o) s = goes (fun k => decide (a.exec.extractLsb' (4 * k) 4 ≠ 0#4)) ∧
    (Usable s r { sr := [x.toNat], slices := a.slicesList } →
      exec (.bz x o) s = goes (fun k => decide (a.sget k x.toNat = 0#64)) ∧
      exec (.bnz x o) s = goes (fun k => decide (a.sget k x.toNat ≠ 0#64)) ∧
      exec (.blt x o) s = goes (fun k => decide ((a.sget k x.toNat).toInt < 0)))

/-- Calls, jumps and returns (R44): the return stack of each executing slice, and the next addresses. -/
def Obligations.CallsAndReturns : Prop :=
  ∀ (s : State) (r : Running) (x : BitVec 5) (o : BitVec 18), s.cur = some r →
    let a := r.gang.arch
    let back := r.cl.addr + BitVec.ofNat 64 (4 * (r.cl.count + 1))
    let leaves := fun (i : Instr) (P : Arch → Prop) (f : Nat → DWord) => ∃ y,
      exec i s = .next { s with cur := some ⟨{ r.gang with arch := y }, r.cl.withNext a.slicesList f⟩ } ∧ P y
    let pushed := fun (y : Arch) => y.depth = a.depth + 1 ∧ { y with depth := a.depth, rstack := a.rstack } = a ∧
      ∀ k j, j < 16 → look 0#64 y.rstack (k * 16 + j) = if k ∈ a.slicesList ∧ j = a.depth then back else look 0#64 a.rstack (k * 16 + j)
    let aligned := Usable s r { sr := [x.toNat], slices := a.slicesList } ∧ ∀ k ∈ a.slicesList, (a.sget k x.toNat).toNat % 4 = 0
    (a.depth < 16 → leaves (.call o) pushed fun _ => r.cl.addr + o.signExtend 64 * 4#64) ∧
    (a.depth < 16 → aligned → leaves (.callr x) pushed fun k => a.sget k x.toNat) ∧
    (aligned → leaves (.jmp x) (fun y => y = a) fun k => a.sget k x.toNat) ∧
    (0 < a.depth → leaves .ret (fun y => y = { a with depth := a.depth - 1 }) fun k => look 0#64 a.rstack (k * 16 + (a.depth - 1)))

/-- What CALL, CALLR, JMP and RET raise: ILLINS reasons 5 and 6 at the ends of the return stack, and MISALIGN with the low bits of
a target that is not aligned, where there are several the lowest slice's (R44, R57; whose they are is the model's choice, DESIGN CHOICE, log 68). -/
def Obligations.CallsRaise : Prop :=
  ∀ (s : State) (r : Running) (x : BitVec 5) (o : BitVec 18), s.cur = some r →
    let a := r.gang.arch
    let illins := fun (n : Nat) => Host.Outcome.next (s.raiseAt r 0x0001 (BitVec.ofNat 64 (r.cl.idx % 16 + 16 * n)) false)
    let use := Usable s r { sr := [x.toNat], slices := a.slicesList }
    (a.depth = 16 → exec (.call o) s = illins 5) ∧ (a.depth = 16 → use → exec (.callr x) s = illins 5) ∧
    (a.depth = 0 → exec .ret s = illins 6) ∧
    (∀ k ∈ a.slicesList, use → (a.sget k x.toNat).toNat % 4 ≠ 0 → (∀ j ∈ a.slicesList, j < k → (a.sget j x.toNat).toNat % 4 = 0) →
      let low := Host.Outcome.next (s.raiseAt r 0x0004 (BitVec.ofNat 64 ((a.sget k x.toNat).toNat % 4)) false)
      exec (.jmp x) s = low ∧ (a.depth ≠ 16 → exec (.callr x) s = low))

/-- The mask instructions (R49) and ALLOFF (R50): what each does to the exec mask, in the lanes of the executing slices, and that
they change nothing else. -/
def Obligations.MaskInstructions : Prop :=
  ∀ (s : State) (r : Running) (d a : BitVec 5) (k : BitVec 7), s.cur = some r →
    let x := r.gang.arch
    let saved := fun (l : Nat) => (x.sget (l / 4) a.toNat).getLsbD l && x.occ.getLsbD l
    (Usable s r { sw := [d.toNat] } → Sets s r (.mpush d k) fun z =>
      ScalarsWritten x { z with exec := x.exec } d.toNat x.slicesList (fun _ => x.exec.setWidth 64) ∧ z.exec = x.exec &&& x.pmask k.toNat) ∧
    (Usable s r { sr := [a.toNat], slices := x.slicesList } →
      ∀ e ∈ ([(.mpop a, fun l => saved l, x.bracket), (.mset a, fun l => saved l, x.bracket), (.melse a, fun l => saved l && !x.exec.getLsbD l, x.bracket),
          (.alloff a, fun l => saved l, false)] : List (Instr × (Nat → Bool) × Bool)),
        Sets s r e.1 fun z => (∀ l < 32, z.exec.getLsbD l = if l / 4 ∈ x.slicesList then e.2.1 l else x.exec.getLsbD l) ∧
          z.bracket = e.2.2 ∧ { z with exec := x.exec, bracket := x.bracket } = x)

/-- What ends a flight: REGANG and ALLON go to their rendezvous, TEND holds the retirement of the active lanes (R47, R50, R52). -/
def Obligations.FlightEnds : Prop :=
  ∀ (s : State) (r : Running) (t : BitVec 12) (d : BitVec 5), s.cur = some r →
    let ends := fun (g : Gang) (kind : Nat) (op op2 : DWord) (n : Nat) =>
      Host.Outcome.next { s with nextId := n, cur := some ⟨{ g with wakeKind := kind, wakeOp := op, wakeOp2 := op2 }, { r.cl with ended := true }⟩ }
    exec (.regang t) s = ends r.gang 3 r.cl.addr (t.setWidth 64) s.nextId ∧
    (Usable s r { sw := [d.toNat] } → exec (.allon d) s = ends { r.gang with allonD := d.toNat } 4 r.cl.addr 0#64 s.nextId) ∧
    exec .tend s = ends { r.gang with held := r.gang.held ++
      [⟨s.nextId, r.cl.addr + BitVec.ofNat 64 (4 * r.cl.idx), r.cl.idx, 1, .retire (r.gang.arch.exec &&& r.gang.arch.occ)⟩] } 0 0#64 0#64 (s.nextId + 1)

/-! ## Memory instructions (R148 to R163) -/

/-- The scalar loads and stores (R154), in each executing slice whose exec-mask part is not empty: the parts, and the destination
pending or the low bytes of the scalar held. -/
def Obligations.ScalarLoadsAndStores : Prop :=
  ∀ (s : State) (r : Running) (d b o : BitVec 5), s.cur = some r →
    let x := r.gang.arch
    let act := x.slicesList.filter fun k => x.exec.extractLsb' (4 * k) 4 != 0#4
    let parts := fun (size : Nat) => act.map fun k => partAt (4 * k) (x.sget k b.toNat + BitVec.ofNat 64 (o.toNat * size)) size
    (Usable s r { sr := [b.toNat], sw := [d.toNat], slices := act } →
      ∀ e ∈ ([(.sldB d b o, 1, true), (.sldBu d b o, 1, false), (.sldH d b o, 2, true), (.sldHu d b o, 2, false), (.sldW d b o, 4, true),
          (.sldWu d b o, 4, false), (.sldD d b o, 8, false)] : List (Instr × Nat × Bool)),
        Issuable s r 0 (parts e.2.1) →
        Issues s e.1 (LoadIssued s r 1 d.toNat 1 (parts e.2.1) (act.map fun k => ⟨false, [k * 32 + d.toNat], e.2.2⟩))) ∧
    (Usable s r { sr := [b.toNat, d.toNat], slices := act } →
      ∀ e ∈ ([(.sstB d b o, 1), (.sstH d b o, 2), (.sstW d b o, 4), (.sstD d b o, 8)] : List (Instr × Nat)),
        Issuable s r 1 (parts e.2) →
        Issues s e.1 (EffectIssued s r .store (parts e.2) 1 (fun id => .store id (act.map fun k => bytesOf e.2 (x.sget k d.toNat))) fun _ => []))

/-- The vector loads (R155): one part for each lane of the exec mask, into a register or a pair; VLDB.W reads one word for all. -/
def Obligations.VectorLoads : Prop :=
  ∀ (s : State) (r : Running) (d : BitVec 6) (k b i o : BitVec 5) (g : BitVec 1), s.cur = some r →
    let x := r.gang.arch
    let act := bitsOf x.exec
    let at_ := fun (size l : Nat) => x.sget (l / 4) b.toNat + (if g = 1#1 then (x.vget i.toNat l).setWidth 64 else 0#64) + BitVec.ofNat 64 (o.toNat * size)
    let index := if g = 1#1 then [i.toNat] else []
    (∀ e ∈ ([(.vldB d b g i o, 1, true), (.vldBu d b g i o, 1, false), (.vldH d b g i o, 2, true), (.vldHu d b g i o, 2, false),
        (.vldW d b g i o, 4, false)] : List (Instr × Nat × Bool)),
      let parts := act.map fun l => partAt l (at_ e.2.1 l) e.2.1
      Usable s r { vr := index, vw := [d.toNat], sr := [b.toNat], lanes := act, slices := slicesOf act } → Issuable s r 0 parts →
      Issues s e.1 (LoadIssued s r 0 d.toNat 1 parts (act.map fun l => ⟨true, [d.toNat * 32 + l], e.2.2⟩))) ∧
    (let parts := act.map fun l => partAt l (at_ 8 l) 8;
      Usable s r { vr := index, vw := [2 * k.toNat, 2 * k.toNat + 1], sr := [b.toNat], lanes := act, slices := slicesOf act } → Issuable s r 0 parts →
      Issues s (.vldD k b g i o) (LoadIssued s r 0 (2 * k.toNat) 2 parts
        (act.map fun l => ⟨true, [(2 * k.toNat) * 32 + l, (2 * k.toNat + 1) * 32 + l], false⟩))) ∧
    (let parts := act.map fun l => partAt l (x.sget (l / 4) b.toNat + BitVec.ofNat 64 (o.toNat * 4) + BitVec.ofNat 64 l * x.sget (l / 4) i.toNat) 4;
      Usable s r { vw := [d.toNat], sr := [b.toNat, i.toNat], lanes := act, slices := slicesOf act } → Issuable s r 0 parts →
      Issues s (.vldsW d b i o) (LoadIssued s r 0 d.toNat 1 parts (act.map fun l => ⟨true, [d.toNat * 32 + l], false⟩))) ∧
    (let first := (x.slicesList.filter fun k => x.exec.extractLsb' (4 * k) 4 != 0#4).head?;
      let parts := first.toList.map fun k => partAt (act.headD 0) (x.sget k b.toNat + BitVec.ofNat 64 (o.toNat * 4)) 4;
      Usable s r { vw := [d.toNat], sr := [b.toNat], slices := first.toList } → Issuable s r 0 parts →
      Issues s (.vldbW d b o) (LoadIssued s r 0 d.toNat 1 parts (first.toList.map fun _ => ⟨true, act.map fun l => d.toNat * 32 + l, false⟩)))

/-- The vector stores (R155), which take a buffer entry for each 64-byte line they touch (R128). -/
def Obligations.VectorStores : Prop :=
  ∀ (s : State) (r : Running) (d : BitVec 6) (k b i o : BitVec 5) (g : BitVec 1), s.cur = some r →
    let x := r.gang.arch
    let act := bitsOf x.exec
    let at_ := fun (size l : Nat) => x.sget (l / 4) b.toNat + (if g = 1#1 then (x.vget i.toNat l).setWidth 64 else 0#64) + BitVec.ofNat 64 (o.toNat * size)
    let index := if g = 1#1 then [i.toNat] else []
    (∀ e ∈ ([(.vstB d b g i o, 1), (.vstH d b g i o, 2), (.vstW d b g i o, 4)] : List (Instr × Nat)),
      let parts := act.map fun l => partAt l (at_ e.2 l) e.2
      Usable s r { vr := d.toNat :: index, sr := [b.toNat], lanes := act, slices := slicesOf act } → Issuable s r 1 parts →
      Issues s e.1 (EffectIssued s r .store parts (linesNamed parts)
        (fun id => .store id (act.map fun l => bytesOf e.2 ((x.vget d.toNat l).setWidth 64))) fun _ => [])) ∧
    (let parts := act.map fun l => partAt l (at_ 8 l) 8;
      Usable s r { vr := 2 * k.toNat :: (2 * k.toNat + 1) :: index, sr := [b.toNat], lanes := act, slices := slicesOf act } → Issuable s r 1 parts →
      Issues s (.vstD k b g i o) (EffectIssued s r .store parts (linesNamed parts)
        (fun id => .store id (act.map fun l => bytesOf 8 (x.vget (2 * k.toNat + 1) l ++ x.vget (2 * k.toNat) l))) fun _ => [])) ∧
    (let parts := act.map fun l => partAt l (x.sget (l / 4) b.toNat + BitVec.ofNat 64 (o.toNat * 4) + BitVec.ofNat 64 l * x.sget (l / 4) i.toNat) 4;
      Usable s r { vr := [d.toNat], sr := [b.toNat, i.toNat], lanes := act, slices := slicesOf act } → Issuable s r 1 parts →
      Issues s (.vstsW d b i o) (EffectIssued s r .store parts (linesNamed parts)
        (fun id => .store id (act.map fun l => bytesOf 4 ((x.vget d.toNat l).setWidth 64))) fun _ => []))

/-- The tile moves (R156): 32 words for each lane of the exec mask, by rows or turned, between a scratchpad and half of the vector
registers, where every pitch is a multiple of 4 and every address lies in a scratchpad window. -/
def Obligations.TileMoves : Prop :=
  ∀ (s : State) (r : Running) (h : BitVec 1) (b i o : BitVec 5), s.cur = some r →
    let x := r.gang.arch
    let half := (List.range 32).map fun k => 32 * h.toNat + k
    let words := fun (turn : Bool) => (bitsOf x.exec).flatMap fun j => (List.range 32).map fun k =>
      (j, 32 * h.toNat + k, x.sget (j / 4) b.toNat + BitVec.ofNat 64 (o.toNat * 4) +
        BitVec.ofNat 64 (if turn = true then j else k) * x.sget (j / 4) i.toNat + BitVec.ofNat 64 (4 * (if turn = true then k else j)))
    let parts := fun (turn : Bool) => (words turn).map fun w => partAt w.1 w.2.2 4
    let inPlace := fun (turn : Bool) => ∀ w ∈ words turn, (x.sget (w.1 / 4) i.toNat).toNat % 4 = 0 ∧ inScratch w.2.2 = true
    (∀ e ∈ ([(.tld h b i o, false), (.tldt h b i o, true)] : List (Instr × Bool)),
      Usable s r { vw := half, sr := [b.toNat, i.toNat], lanes := bitsOf x.exec, slices := x.acting } → inPlace e.2 → Issuable s r 0 (parts e.2) →
      Issues s e.1 (LoadIssued s r 0 (32 * h.toNat) 32 (parts e.2) ((words e.2).map fun w => ⟨true, [w.2.1 * 32 + w.1], false⟩))) ∧
    (∀ e ∈ ([(.tst h b i o, false), (.tstt h b i o, true)] : List (Instr × Bool)),
      Usable s r { vr := half, sr := [b.toNat, i.toNat], lanes := bitsOf x.exec, slices := x.acting } → inPlace e.2 → Issuable s r 1 (parts e.2) →
      Issues s e.1 (EffectIssued s r .store (parts e.2) 32
        (fun id => .store id ((words e.2).map fun w => bytesOf 4 ((x.vget w.2.1 w.1).setWidth 64))) fun _ => []))

/-- The atomics (R158): the operation held with its order, scope and data, the old value pending in the destination. -/
def Obligations.AtomicsAreHeld : Prop :=
  ∀ (s : State) (r : Running) (d : BitVec 6) (k b i : BitVec 5) (g : BitVec 1) (o : BitVec 2) (c : BitVec 3), s.cur = some r →
    let x := r.gang.arch
    let act := bitsOf x.exec
    let index := if g = 1#1 then [i.toNat] else []
    let parts := fun (size : Nat) => act.map fun l => partAt l (x.sget (l / 4) b.toNat + (if g = 1#1 then (x.vget i.toNat l).setWidth 64 else 0#64)) size
    (∀ e ∈ ([(.aadd d b g i o c, 0), (.amin d b g i o c, 1), (.amax d b g i o c, 2), (.aminu d b g i o c, 3), (.amaxu d b g i o c, 4),
        (.aand d b g i o c, 5), (.aor d b g i o c, 6), (.axor d b g i o c, 7), (.axch d b g i o c, 8), (.acas d b g i o c, 9),
        (.afadd d b g i o c, 10)] : List (Instr × Nat)),
      Usable s r { vr := (if e.2 = 9 then [d.toNat, d.toNat + 1] else [d.toNat]) ++ index, vw := [d.toNat], sr := [b.toNat], lanes := act, slices := slicesOf act } →
      Issuable s r 3 (parts 4) →
      Issues s e.1 (EffectIssued s r .atomic (parts 4) (linesNamed (parts 4))
        (fun id => .atomic e.2 o.toNat c.toNat id (act.map fun l => ((x.vget d.toNat l).setWidth 64, (x.vget (d.toNat + 1) l).setWidth 64)) id)
        fun id => [⟨id, 0, d.toNat, 1, act, 0, []⟩])) ∧
    (∀ e ∈ ([(.aaddD k b g i o c, 11), (.amaxuD k b g i o c, 12), (.acasD k b g i o c, 13)] : List (Instr × Nat)),
      let p := 2 * k.toNat
      Usable s r { vr := (if e.2 = 13 then [p, p + 1, p + 2, p + 3] else [p, p + 1]) ++ index, vw := [p, p + 1], sr := [b.toNat], lanes := act, slices := slicesOf act } →
      Issuable s r 3 (parts 8) →
      Issues s e.1 (EffectIssued s r .atomic (parts 8) (linesNamed (parts 8))
        (fun id => .atomic e.2 o.toNat c.toNat id (act.map fun l => (x.vget (p + 1) l ++ x.vget p l, x.vget (p + 3) l ++ x.vget (p + 2) l)) id)
        fun id => [⟨id, 0, p, 2, act, 0, []⟩]))

/-- What each atomic leaves in the word (R158), from the word's old value, the data and the swap data. -/
def Obligations.AtomicResults : Prop :=
  ∀ (m v x : Word) (n y z : DWord),
    (∀ e ∈ ([(0, m + v), (1, if m.toInt ≤ v.toInt then m else v), (2, if m.toInt ≤ v.toInt then v else m), (3, if m.toNat ≤ v.toNat then m else v),
        (4, if m.toNat ≤ v.toNat then v else m), (5, m &&& v), (6, m ||| v), (7, m ^^^ v), (8, v), (9, if m = v then x else m),
        (10, (onceRounded 32 fFP32 0 (numAdd 0 (f32 m) (f32 v))).1)] : List (Nat × Word)),
      atomicNew e.1 (m.setWidth 64) (v.setWidth 64) (x.setWidth 64) = e.2.setWidth 64) ∧
    atomicNew 11 n y z = n + y ∧ atomicNew 12 n y z = (if n.toNat < y.toNat then y else n) ∧ atomicNew 13 n y z = (if n = y then z else n)

/-- An access that is not aligned to its size in some lane raises MISALIGN for the lowest such lane, with its address, and no lane's
access takes place (R149, R157): scalar and vector loads and stores, the atomics, WAITA, the block of CPY, and the tile moves, whose
pitch must be a multiple of 4 (R156). That a scalar access of slice k names lane 4k, and that a pitch at fault reports the first word's
address in lane order, are the model's reading (DEDUCED, log 42). -/
def Obligations.MisalignedAccessRaises : Prop :=
  ∀ (s : State) (r : Running) (d : BitVec 6) (e k b i o : BitVec 5) (g h : BitVec 1) (u : BitVec 2) (c : BitVec 3) (l : Nat) (va : DWord), s.cur = some r →
    let x := r.gang.arch
    let act := bitsOf x.exec
    let acting := x.slicesList.filter fun k => x.exec.extractLsb' (4 * k) 4 != 0#4
    let index := if g = 1#1 then [i.toNat] else []
    let offset := fun (l : Nat) => x.sget (l / 4) b.toNat + if g = 1#1 then (x.vget i.toNat l).setWidth 64 else 0#64
    let lanes := fun (size : Nat) => act.map fun l => (l, offset l + BitVec.ofNat 64 (o.toNat * size))
    let scalars := fun (size : Nat) => acting.map fun k => (4 * k, x.sget k b.toNat + BitVec.ofNat 64 (o.toNat * size))
    let strided := act.map fun l => (l, x.sget (l / 4) b.toNat + BitVec.ofNat 64 (o.toNat * 4) + BitVec.ofNat 64 l * x.sget (l / 4) i.toNat)
    let bad := fun (size : Nat) (as : List (Nat × DWord)) => as.find? (fun a => decide (a.2.toNat % size ≠ 0)) = some (l, va)
    let raises := fun (i : Instr) (st n : Nat) => exec i s =
      .next (State.raiseAt { s with nextId := s.nextId + n } r 0x0004 (BitVec.ofNat 64 (st * 2 ^ 61 + l * 2 ^ 56 + va.toNat % 2 ^ 56)) false)
    (Usable s r { sr := [b.toNat], sw := [e.toNat], slices := acting } → ∀ f ∈ ([(.sldH e b o, 2), (.sldHu e b o, 2), (.sldW e b o, 4),
      (.sldWu e b o, 4), (.sldD e b o, 8)] : List (Instr × Nat)), bad f.2 (scalars f.2) → raises f.1 0 1) ∧
    (Usable s r { sr := [b.toNat, e.toNat], slices := acting } → ∀ f ∈ ([(.sstH e b o, 2), (.sstW e b o, 4), (.sstD e b o, 8)] : List (Instr × Nat)),
      bad f.2 (scalars f.2) → raises f.1 1 1) ∧
    (Usable s r { vr := index, vw := [d.toNat], sr := [b.toNat], lanes := act, slices := slicesOf act } →
      ∀ f ∈ ([(.vldH d b g i o, 2), (.vldHu d b g i o, 2), (.vldW d b g i o, 4)] : List (Instr × Nat)), bad f.2 (lanes f.2) → raises f.1 0 1) ∧
    (Usable s r { vr := index, vw := [2 * k.toNat, 2 * k.toNat + 1], sr := [b.toNat], lanes := act, slices := slicesOf act } →
      bad 8 (lanes 8) → raises (.vldD k b g i o) 0 1) ∧
    (Usable s r { vr := d.toNat :: index, sr := [b.toNat], lanes := act, slices := slicesOf act } →
      ∀ f ∈ ([(.vstH d b g i o, 2), (.vstW d b g i o, 4)] : List (Instr × Nat)), bad f.2 (lanes f.2) → raises f.1 1 1) ∧
    (Usable s r { vr := 2 * k.toNat :: (2 * k.toNat + 1) :: index, sr := [b.toNat], lanes := act, slices := slicesOf act } →
      bad 8 (lanes 8) → raises (.vstD k b g i o) 1 1) ∧
    (Usable s r { vw := [d.toNat], sr := [b.toNat, i.toNat], lanes := act, slices := slicesOf act } → bad 4 strided → raises (.vldsW d b i o) 0 1) ∧
    (Usable s r { vr := [d.toNat], sr := [b.toNat, i.toNat], lanes := act, slices := slicesOf act } → bad 4 strided → raises (.vstsW d b i o) 1 1) ∧
    (Usable s r { vw := [d.toNat], sr := [b.toNat], slices := acting.head?.toList } →
      bad 4 (acting.head?.toList.map fun k => (act.headD 0, x.sget k b.toNat + BitVec.ofNat 64 (o.toNat * 4))) → raises (.vldbW d b o) 0 1) ∧
    (∀ f ∈ ([(.aadd d b g i u c, false), (.amin d b g i u c, false), (.amax d b g i u c, false), (.aminu d b g i u c, false), (.amaxu d b g i u c, false),
        (.aand d b g i u c, false), (.aor d b g i u c, false), (.axor d b g i u c, false), (.axch d b g i u c, false), (.acas d b g i u c, true),
        (.afadd d b g i u c, false)] : List (Instr × Bool)),
      Usable s r { vr := (if f.2 = true then [d.toNat, d.toNat + 1] else [d.toNat]) ++ index, vw := [d.toNat], sr := [b.toNat], lanes := act, slices := slicesOf act } →
      bad 4 (act.map fun l => (l, offset l)) → raises f.1 1 1) ∧
    (∀ f ∈ ([(.aaddD k b g i u c, false), (.amaxuD k b g i u c, false), (.acasD k b g i u c, true)] : List (Instr × Bool)),
      let p := 2 * k.toNat
      Usable s r { vr := (if f.2 = true then [p, p + 1, p + 2, p + 3] else [p, p + 1]) ++ index, vw := [p, p + 1], sr := [b.toNat], lanes := act, slices := slicesOf act } →
      bad 8 (act.map fun l => (l, offset l)) → raises f.1 1 1) ∧
    (Usable s r { sr := [b.toNat, e.toNat], slices := acting.head?.toList } →
      bad 4 (acting.head?.toList.map fun k => (4 * k, x.sget k b.toNat)) → raises (.waita e b) 0 1) ∧
    (Usable s r { sr := [b.toNat], sw := if e = 0#5 then [] else [e.toNat], slices := acting } →
      bad 64 (acting.map fun k => (4 * k, x.sget k b.toNat)) → raises (.cpy e b u) 0 0) ∧
    ∀ turn : Bool,
      let half := (List.range 32).map fun k => 32 * h.toNat + k
      let words := act.flatMap fun j => (List.range 32).map fun k =>
        (j, x.sget (j / 4) b.toNat + BitVec.ofNat 64 (o.toNat * 4) + BitVec.ofNat 64 (if turn = true then j else k) * x.sget (j / 4) i.toNat +
          BitVec.ofNat 64 (4 * (if turn = true then k else j)))
      words.find? (fun a => decide ((x.sget (a.1 / 4) i.toNat).toNat % 4 ≠ 0 ∨ a.2.toNat % 4 ≠ 0)) = some (l, va) →
        (Usable s r { vw := half, sr := [b.toNat, i.toNat], lanes := act, slices := acting } → raises (if turn = true then .tldt h b i o else .tld h b i o) 0 0) ∧
        (Usable s r { vr := half, sr := [b.toNat, i.toNat], lanes := act, slices := acting } → raises (if turn = true then .tstt h b i o else .tst h b i o) 1 0)

/-- Fences, queue fences and waits (R160 to R163): what stands in the held stream, and what ends the flight and waits for what. -/
def Obligations.FencesAndWaits : Prop :=
  ∀ (s : State) (r : Running) (c : BitVec 3) (m d a : BitVec 5) (q : BitVec 3), s.cur = some r →
    let x := r.gang.arch
    let first := (x.slicesList.filter fun k => x.exec.extractLsb' (4 * k) 4 != 0#4).head?
    let holds := fun (n : Nat) (e : Eff) => Host.Outcome.next { s with nextId := s.nextId + 1, cur := some { r with gang := { r.gang with held := r.gang.held ++
      [⟨s.nextId, r.cl.addr + BitVec.ofNat 64 (4 * r.cl.idx), r.cl.idx, n, e⟩] } } }
    let ends := fun (g : Gang) (kind : Nat) (op op2 : DWord) =>
      Host.Outcome.next { s with cur := some ⟨{ g with wakeKind := kind, wakeOp := op, wakeOp2 := op2 }, { r.cl with ended := true }⟩ }
    exec (.fenceRel c) s = holds 0 (.fence c.toNat) ∧
    exec (.fenceAcq c) s = ends r.gang 0 0#64 0#64 ∧
    exec (.fenceFull c) s = ends { r.gang with ackScope := c.toNat, fenced := true } (if c = 3#3 then 1 else 0) 0#64 0#64 ∧
    exec (.qfence m) s = holds 1 (.qfence m.toNat) ∧
    (Usable s r { sr := [d.toNat], slices := first.toList } →
      exec (.waitq d q) s = match first with
        | some k => ends r.gang 7 (q.setWidth 64) ((x.sget k d.toNat).extractLsb' 0 63 |>.setWidth 64)
        | none => ends r.gang 0 0#64 0#64) ∧
    (Usable s r { sr := [a.toNat, d.toNat], slices := first.toList } → first = none → exec (.waita d a) s = ends r.gang 0 0#64 0#64) ∧
    (∀ k, Usable s r { sr := [a.toNat, d.toNat], slices := first.toList } → first = some k → Issuable s r 0 [partAt (4 * k) (x.sget k a.toNat) 4] →
      Issues s (.waita d a) fun p => p.cl = { r.cl with ended := true } ∧ p.gang.wakeKind = 2 ∧ p.gang.wakeOp = x.sget k a.toNat ∧
        p.gang.wakeOp2 = ((x.sget k d.toNat).extractLsb' 0 32).setWidth 64 ∧ p.gang.arch = x ∧ p.gang.held = r.gang.held ∧
        ∃ ps ready, PartsPlaced s r 0 [partAt (4 * k) (x.sget k a.toNat) 4] ps ready ∧
          p.gang.accs = withAccess r.gang.accs ⟨s.nextId, r.cl.addr + BitVec.ofNat 64 (4 * r.cl.idx), r.cl.idx, .watch, ps, ready, true⟩) ∧
    (Usable s r { sw := [d.toNat] } → Issues s (.qseq d q) fun p => p.cl = r.cl ∧
      p.gang = { r.gang with
        held := r.gang.held ++ [⟨s.nextId, r.cl.addr + BitVec.ofNat 64 (4 * r.cl.idx), r.cl.idx, 0, .qseq q.toNat s.nextId⟩]
        pend := r.gang.pend ++ if d = 0#5 then [] else [⟨s.nextId, 1, d.toNat, 1, [], 1, []⟩] })

/-- CPY (R164, R165): one command for each acting slice, in slice order, made of the block that the slice's address names as the flight
sees it, with the node that the block's follow-on names; the sequence numbers pending in D. A block read from host memory brings the vector of what was written there (R309, R310, DEDUCED,
log 70); a scratchpad page that is not pinned yet is pinned at the read (log 38), which is not said here. -/
def Obligations.CpyIssuesCommands : Prop :=
  ∀ (s : State) (r : Running) (d a : BitVec 5) (q : BitVec 2) (at_ : Nat → Loc) (tso : Nat → Bool), s.cur = some r →
    let x := r.gang.arch
    let act := x.slicesList.filter fun k => x.exec.extractLsb' (4 * k) 4 != 0#4
    let block := fun (k : Nat) => blockOf (r.gang.seen s.nextId (at_ k) (s.readN r.gang.die r.gang.inst (at_ k) 64))
    Usable s r { sr := [a.toNat], sw := if d = 0#5 then [] else [d.toNat], slices := act } → 
      ReadsPlaced s r at_ tso 64 (act.map fun k => x.sget k a.toNat) 64 (act.map fun k => (k, x.sget k a.toNat)) →
    (∀ k ∈ act, (x.sget k a.toNat).toNat % 64 = 0 ∧ s.blockFault r k (block k) = none) →
    Issues s (.cpy d a q) fun p => p.cl = r.cl ∧
      { p.gang with used := r.gang.used } = { r.gang with
        causal := vectorSeen s r.gang.causal (act.map at_)
        held := r.gang.held ++ act.zipIdx.map fun e => ⟨s.nextId + 1 + e.2, r.cl.addr + BitVec.ofNat 64 (4 * r.cl.idx), r.cl.idx, 1,
          .cpy q.toNat (block e.1) (if (block e.1).follow = 0 then 0 else x.nget (block e.1).nodeReg) s.nextId e.1⟩
        pend := r.gang.pend ++ if d = 0#5 then [] else [⟨s.nextId, 1, d.toNat, 1, act.map fun k => 4 * k, 0, []⟩] }

/-! ## The matrix graph (R173 to R196) -/

/-- TNDEF binds the checked contents of a descriptor for the flight and holds the binding, TNREL empties one, TNGET gives the BASE of
what the gang sees; with no acting slice they do nothing (R176). A descriptor read from host memory brings the vector of what was written there
(R309, R310, DEDUCED, log 70). -/
def Obligations.TensorIdentifiers : Prop :=
  ∀ (s : State) (r : Running) (d a : BitVec 5) (t : BitVec 8), s.cur = some r →
    let x := r.gang.arch
    let act := x.slicesList.filter fun k => x.exec.extractLsb' (4 * k) 4 != 0#4
    let binds := fun (i : Instr) (v : Option TDesc) (isDef : Bool) (seen : List Loc) => Issues s i fun p => p.cl = r.cl ∧
      { p.gang with used := r.gang.used } = { r.gang with
        causal := vectorSeen s r.gang.causal seen
        binds := ⟨t.toNat, v, isDef⟩ :: r.gang.binds
        held := r.gang.held ++ [⟨s.nextId, r.cl.addr + BitVec.ofNat 64 (4 * r.cl.idx), r.cl.idx, 1, .bind t.toNat v⟩] }
    let seen := match r.gang.binds.find? fun b => b.k == t.toNat with
      | some b => b.desc
      | none => look? (s.ctx r.gang.ctx).tensors (r.gang.die * 256 + t.toNat)
    (∀ k, act.head? = some k →
      (∀ at_ tso, Usable s r { sr := [a.toNat], slices := [k] } → (x.sget k a.toNat).toNat % 32 = 0 →
        ReadsPlaced s r at_ tso 32 [x.sget k a.toNat] 32 [(k, x.sget k a.toNat)] →
        let bs := r.gang.seen s.nextId (at_ k) (s.readN r.gang.die r.gang.inst (at_ k) 32)
        descErrors bs = [] → binds (.tndef a t) (some (descOf bs)) true [at_ k]) ∧
      binds (.tnrel t) none false [] ∧
      ((∀ b ∈ r.gang.binds.find? fun b => b.k == t.toNat, b.isDef = false) → Usable s r { sw := [d.toNat] } →
        Sets s r (.tnget d t) fun z => ScalarsWritten x z d.toNat x.slicesList fun _ => (seen.map (·.base)).getD 0#64)) ∧
    (act = [] → exec (.tnrel t) s = .next s ∧ (Usable s r { sr := [a.toNat] } → exec (.tndef a t) s = .next s) ∧
      (Usable s r { sw := [d.toNat] } → exec (.tnget d t) s = .next s))

/-- The appending instructions (R178, R183 to R190): where the quota has room and the operands pass the checks of R181, each appends
its node, of the shape and type that its rule gives; a sparse leaf as an operand of any but MMUL is BADATTR, and an empty register of
MEADD, MESUB or MEMUL is BADNODE before that; where both operands are at fault the first is named (log 42). With no acting slice they do nothing. -/
def Obligations.GraphAppends : Prop :=
  ∀ (s : State) (r : Running) (d n m : BitVec 4) (a : BitVec 5) (k : BitVec 8) (t p u : BitVec 1) (q kind : BitVec 2) (rm : BitVec 3)
    (f : BitVec 6) (w : BitVec 4) (X Y : Node), s.cur = some r → s.nodeRoom r.gang = true →
    let x := r.gang.arch
    let act := x.slicesList.filter fun k => x.exec.extractLsb' (4 * k) 4 != 0#4
    let id := fun (n : BitVec 4) => x.nget n.toNat
    let wide := fun (c : Nat) => if c = 1 then fINT32 else if c = 2 then fFP64 else fFP32
    let sparse := fun (x : Node) => ∃ e r0 c0 tr, x.op = .leaf e r0 c0 tr ∧ isSparse e.fmt = true
    (∀ j, act.head? = some j →
      let v := x.sget j a.toNat
      let f16 := fun (i : Nat) => v.toNat / 2 ^ i % 2 ^ 16
      (Usable s r { sr := [a.toNat], slices := [j] } →
        (∀ e, s.bound r.gang k.toNat = some e →
          let rows := if f16 32 = 0 then e.rows - f16 0 else f16 32
          let cols := if f16 48 = 0 then e.cols - f16 16 else f16 48
          0 < rows → f16 0 + rows ≤ e.rows → 0 < cols → f16 16 + cols ≤ e.cols →
          Appends s r (.mleaf d a k t) d (.leaf e (f16 0) (f16 16) (t == 1#1)) (if t = 1#1 then cols else rows) (if t = 1#1 then rows else cols) e.fmt) ∧
        (0 < f16 32 → 0 < f16 48 → (kind = 1#2 ∨ v.toNat % 2 ^ 32 = 0) →
          Appends s r (.mconst d a u kind) d (.const kind.toNat (u == 1#1) (v.setWidth 32)) (f16 32) (f16 48) (if u = 1#1 then fINT32 else fFP32)) ∧
        (NodeIn s r n X → ¬ sparse X → v.toNat / 2 ^ 35 = 0 → v.toNat / 2 ^ 33 % 4 ≠ 3 → (v.toNat / 2 ^ 33 % 4 = 1 → classOf X.fmt ≠ 1) →
          Appends s r (.mtri d n a) d (.tri (id n) (v.setWidth 32).toInt (v.toNat / 2 ^ 32 % 2) (v.toNat / 2 ^ 33 % 4)) X.rows X.cols X.fmt) ∧
        (NodeIn s r n X → ¬ sparse X → v.toNat / 2 ^ 32 = 0 →
          Appends s r (.mscl d n a) d (.scl (id n) (v.setWidth 32)) X.rows X.cols (if classOf X.fmt = 2 then fFP64 else fFP32))) ∧
      (NodeIn s r n X → NodeIn s r m Y → classOf X.fmt = classOf Y.fmt →
        (q.toNat = (if classOf X.fmt = 1 then 1 else 0) → (classOf X.fmt = 2 → t = 0#1) → X.cols = Y.rows →
          (∀ e r0 c0 tr, X.op = .leaf e r0 c0 tr → isSparse e.fmt = true → tr = false) →
          (∀ e r0 c0 tr, Y.op = .leaf e r0 c0 tr → isSparse e.fmt = true → tr = true) →
          Appends s r (.mmul d n m t u p q) d (.mul (id n) (id m) (p == 1#1) (u == 1#1) (t == 1#1)) X.rows Y.cols (wide (classOf X.fmt))) ∧
        (¬ sparse X → ¬ sparse Y → X.rows = Y.rows → X.cols = Y.cols →
          Appends s r (.meadd d n m p) d (.ew 0 (id n) (id m) (p == 1#1)) X.rows X.cols (wide (classOf X.fmt)) ∧
          Appends s r (.mesub d n m p) d (.ew 1 (id n) (id m) (p == 1#1)) X.rows X.cols (wide (classOf X.fmt)) ∧
          Appends s r (.memul d n m p) d (.ew 2 (id n) (id m) (p == 1#1)) X.rows X.cols (wide (classOf X.fmt)))) ∧
      (NodeIn s r n X → sparse X → ∀ i ∈ ([.mtri d n a, .mscl d n a, .mtrn d n, .mcvt d n t rm f, .mact d n w] : List Instr),
        Usable s r { sr := [a.toNat], slices := [j] } → exec i s = .next (s.raiseAt r 0x0028 (BitVec.ofNat 64 n.toNat) false)) ∧
      (∀ i ∈ ([.meadd d n m p, .mesub d n m p, .memul d n m p] : List Instr),
        (NodeIn s r n X → NodeIn s r m Y → (sparse X → exec i s = .next (s.raiseAt r 0x0028 (BitVec.ofNat 64 n.toNat) false)) ∧
          (¬ sparse X → sparse Y → exec i s = .next (s.raiseAt r 0x0028 (BitVec.ofNat 64 m.toNat) false))) ∧
        (id n = 0 → exec i s = .next (s.raiseAt r 0x0021 (BitVec.ofNat 64 n.toNat) false)) ∧
        (NodeIn s r n X → id m = 0 → exec i s = .next (s.raiseAt r 0x0021 (BitVec.ofNat 64 m.toNat) false))) ∧
      (NodeIn s r n X → ¬ sparse X →
        Appends s r (.mtrn d n) d (.trn (id n)) X.cols X.rows X.fmt ∧
        (isQ4 f.toNat = false → isSparse f.toNat = false → (f.toNat = fE4M3 ∨ f.toNat = fE5M2 → rm = 0#3) →
          Appends s r (.mcvt d n t rm f) d (.cvt (id n) f.toNat rm.toNat (t == 1#1)) X.rows X.cols f.toNat) ∧
        (w = 0#4 ∨ classOf X.fmt = 0 → Appends s r (.mact d n w) d (.act (id n) w.toNat) X.rows X.cols (wide (classOf X.fmt))))) ∧
    (act = [] → (∀ i ∈ ([.mmul d n m t u p q, .meadd d n m p, .mesub d n m p, .memul d n m p, .mtrn d n, .mcvt d n t rm f, .mact d n w] : List Instr),
      exec i s = .next s) ∧
      (Usable s r { sr := [a.toNat] } → ∀ i ∈ ([.mleaf d a k t, .mconst d a u kind, .mtri d n a, .mscl d n a] : List Instr), exec i s = .next s))

/-- What forces and asks (R192 to R196): FORCE, MRD and MST send their evaluation to the matrix queue, MRD's register pending and MST's
store held; MACC is held; MDROP empties its register; MSTAT reads a snapshot, STATE 2 as log 35 has it. An empty operand register is
BADNODE, but 0 to MSTAT; with no acting slice each does nothing. -/
def Obligations.ForcesAndReads : Prop :=
  ∀ (s : State) (r : Running) (n : BitVec 4) (v : BitVec 6) (d a : BitVec 5) (k : BitVec 8) (slot : BitVec 6) (sat int : BitVec 1) (j : Nat) (X : Node),
    s.cur = some r →
    let g := r.gang
    let x := g.arch
    let act := x.slicesList.filter fun k => x.exec.extractLsb' (4 * k) 4 != 0#4
    let node := x.nget n.toNat
    let c := s.core g.die g.core
    let y := x.sget j a.toNat
    let pc := r.cl.addr + BitVec.ofNat 64 (4 * r.cl.idx)
    let badnode := fun (i : Instr) => exec i s = .next (s.raiseAt r 0x0021 (BitVec.ofNat 64 n.toNat) false)
    (act.head? = some j → NodeIn s r n X →
    (∃ t, exec (.force n) s = .next t ∧ t.nextId = s.nextId + 1 ∧ CoreSet s t g.die g.core (requested c r s.nextId node .force) ∧
      t.cur = some { r with gang := { g with evals := s.nextId :: g.evals } }) ∧
    Sets s r (.mdrop n) (fun z => z = x.nset n.toNat 0) ∧
    (let regs := if X.fmt = fFP64 then [v.toNat, v.toNat + 1] else [v.toNat];
      let row := y.toNat % 2 ^ 32;
      let col := y.toNat / 2 ^ 32 % 2 ^ 16;
      let width := y.toNat / 2 ^ 48 % 2 ^ 5 + 1;
      (X.fmt = fFP64 → v.toNat % 2 = 0) → Usable s r { vw := regs, sr := [a.toNat], slices := [j] } →
      y.toNat / 2 ^ 53 = 0 → row < X.rows → col + width ≤ X.cols →
      ∃ t, exec (.mrd v n a) s = .next t ∧ t.nextId = s.nextId + 1 ∧
        CoreSet s t g.die g.core (requested c r s.nextId node (.read s.nextId v.toNat row col width (bitsOf x.exec))) ∧
        t.cur = some { r with gang := { g with evals := s.nextId :: g.evals, pend := g.pend ++ [⟨s.nextId, 0, v.toNat, regs.length, [], 1, []⟩] } }) ∧
    (∀ e, Usable s r { sr := [a.toNat], slices := [j] } → s.bound g k.toNat = some e →
      let row := y.toNat % 2 ^ 16
      let col := y.toNat / 2 ^ 16 % 2 ^ 16
      let parts := (mstPages e row col X.rows X.cols).map fun p => partAt 0 p 1
      let slots := ((s.inst? g.die g.inst).map (·.accslots)).getD 0
      y.toNat / 2 ^ 32 = 0 → isQ4 e.fmt = false → isSparse e.fmt = false → e.scale = 0 → row + X.rows ≤ e.rows → col + X.cols ≤ e.cols →
      (match accumOff e.base with
       | some off => ∀ i < X.rows, off + 128 * (row + i) < slots * 4096
       | none => Issuable s r 1 parts) →
      ∃ t q, exec (.mst n k a sat) s = .next t ∧ t.cur = some q ∧ q.cl = r.cl ∧
        CoreSet s t g.die g.core (requested c r (s.nextId + 1) node .store) ∧
        q.gang.held = g.held ++ [⟨s.nextId + 2, pc, r.cl.idx, 1, .mst e row col (sat == 1#1) X.rows X.cols s.nextId (s.nextId + 1) []⟩] ∧
        (match accumOff e.base with
         | some _ => q.gang.accs = g.accs
         | none => ∃ ps ready, PartsPlaced s r 1 parts ps ready ∧ q.gang.accs = withAccess g.accs ⟨s.nextId, pc, r.cl.idx, .store, ps, ready, false⟩) ∧
        { q.gang with held := g.held, accs := g.accs, used := g.used, evals := g.evals } = g ∧ q.gang.evals = (s.nextId + 1) :: g.evals) ∧
    (Usable s r { sr := [a.toNat], slices := [j] } → slot.toNat < ((s.inst? g.die g.inst).map (·.accslots)).getD 0 →
      X.fmt = (if int = 1#1 then fINT32 else fFP32) → X.rows ≤ 32 → X.cols ≤ 32 →
      exec (.macc n slot a sat int) s = .next { s with nextId := s.nextId + 1, cur := some { r with gang := { g with held := g.held ++
        [⟨s.nextId, pc, r.cl.idx, 1, .macc node slot.toNat (int == 1#1) (sat == 1#1) (if a = 0#5 then none else some y)⟩] } } }) ∧
    (Usable s r { sw := [d.toNat] } → Sets s r (.mstat n d) fun z => ScalarsWritten x z d.toNat x.slicesList fun _ => s.nodeStatus g node X) ∧
    (let st := s.nodeStatus g node X;
      X.rows ≤ 2 ^ 16 → 0 < X.rows → X.cols ≤ 2 ^ 16 → 0 < X.cols → X.fmt < 64 →
      st.toNat / 2 ^ 48 = X.cols - 1 ∧ st.toNat / 2 ^ 32 % 2 ^ 16 = X.rows - 1 ∧ st.toNat / 2 ^ 16 % 2 ^ 16 = X.fmt ∧
      st.toNat / 16 % 2 ^ 12 = X.sticky.toNat ∧ (st.toNat % 16 = 4 ↔ X.op = .mat))) ∧
    (act.head? = some j → node = 0 → badnode (.force n) ∧ badnode (.mdrop n) ∧
      (Usable s r { sr := [a.toNat], slices := [j] } → badnode (.mst n k a sat) ∧ badnode (.macc n slot a sat int)) ∧
      (look? c.nodes 0 = none → Usable s r { vw := [v.toNat], sr := [a.toNat], slices := [j] } → badnode (.mrd v n a))) ∧
    (act ≠ [] → look? c.nodes node = none → Usable s r { sw := [d.toNat] } →
      Sets s r (.mstat n d) fun z => ScalarsWritten x z d.toNat x.slicesList fun _ => 0#64) ∧
    (act = [] → exec (.force n) s = .next s ∧ exec (.mdrop n) s = .next s ∧
      (Usable s r { sr := [a.toNat] } → exec (.mst n k a sat) s = .next s ∧ exec (.macc n slot a sat int) s = .next s) ∧
      (look? c.nodes node = some X → Usable s r { vw := if X.fmt = fFP64 then [v.toNat, v.toNat + 1] else [v.toNat], sr := [a.toNat] } →
        exec (.mrd v n a) s = .next s) ∧
      (Usable s r { sw := [d.toNat] } → exec (.mstat n d) s = .next s))

/-! ## Pipelines, counters and groups (R238 to R241, R271 to R275) -/

/-- ENQ, ENQV, LAUNCH, DEPSIG, DEPARM and DEPWAIT (R271, R273, R275): the records and signals held in order, LAUNCH's answer pending, and
the flight's end on a counter. Each passes where the stage takes the words and the counter passes its checks; a record's words read from
host memory bring the vector of what was written there (R309, R310, DEDUCED, log 70). -/
def Obligations.EnqueuesAndSignals : Prop :=
  ∀ (s : State) (r : Running) (d a : BitVec 5) (n g : BitVec 4) (m : BitVec 12) (t : BitVec 3) (st : Stage) (at_ : Nat → Loc) (tso : Nat → Bool),
    s.cur = some r → r.gang.ctx ≠ firmware → (s.inst? r.gang.die r.gang.inst).bind (fun i => i.stages[g.toNat]?) = some st → n.toNat + 1 ≤ st.args →
    let x := r.gang.arch
    let pc := r.cl.addr + BitVec.ofNat 64 (4 * r.cl.idx)
    let act := x.slicesList.filter fun k => x.exec.extractLsb' (4 * k) 4 != 0#4
    let lanes := bitsOf x.exec
    let first := act.head?
    let padded := fun (ws : List Word) => ws ++ List.replicate (st.args - ws.length) 0#32
    let addrs := fun (k : Nat) => (List.range (n.toNat + 1)).map fun i => (16 * k + i, x.sget k a.toNat + BitVec.ofNat 64 (4 * i))
    let record := fun (k before : Nat) => padded ((List.range (n.toNat + 1)).map fun i =>
      BitVec.ofNat 32 (natOfBytes (r.gang.seen before (at_ (16 * k + i)) (s.readN r.gang.die r.gang.inst (at_ (16 * k + i)) 4))))
    let holds := fun (i : Instr) (es : List Eff) (seen : List Loc) => Issues s i fun p => p.cl = r.cl ∧
      { p.gang with used := r.gang.used } = { r.gang with causal := vectorSeen s r.gang.causal seen, held := r.gang.held ++ es.zipIdx.map fun e => ⟨s.nextId + e.2, pc, r.cl.idx, if e.2 = 0 then 1 else 0, e.1⟩ }
    let ends := fun (i : Instr) (kind : Nat) (op op2 : DWord) =>
      exec i s = .next { s with cur := some ⟨{ r.gang with wakeKind := kind, wakeOp := op, wakeOp2 := op2 }, { r.cl with ended := true }⟩ }
    (Usable s r { sr := [a.toNat], slices := act } → (∀ k ∈ act, (x.sget k a.toNat).toNat % 4 = 0) →
      ReadsPlaced s r at_ tso (4 * (n.toNat + 1)) (act.map fun k => x.sget k a.toNat) 4 (act.flatMap addrs) →
      holds (.enq a n g) (act.zipIdx.map fun e => .enq g.toNat (record e.1 (s.nextId + e.2))) ((act.flatMap addrs).map fun e => at_ e.1)) ∧
    (let regs := (List.range (n.toNat + 1)).map (a.toNat + ·);
      Usable s r { vr := regs, lanes := lanes } →
      holds (.enqv a n g) (lanes.map fun l => .enq g.toNat (padded (regs.map fun v => x.vget v l))) []) ∧
    (Usable s r { sr := [a.toNat], sw := [d.toNat], slices := first.toList } →
      (first = none → exec (.launch d a t) s = .next s) ∧
      ∀ k, first = some k → Issues s (.launch d a t) fun p => p.cl = r.cl ∧ p.gang = { r.gang with
        held := r.gang.held ++ [⟨s.nextId, pc, r.cl.idx, 1, .launch (x.sget k a.toNat) (if t.toNat = 4 then r.gang.die else t.toNat) s.nextId⟩]
        pend := r.gang.pend ++ if d = 0#5 then [] else [⟨s.nextId, 1, d.toNat, 1, [], 1, []⟩] }) ∧
    (Usable s r { sr := [a.toNat], slices := slicesOf lanes } → (∀ l ∈ lanes, idCtx (x.sget (l / 4) a.toNat) = r.gang.ctx) →
      holds (.depsig a m) [.depsig (lanes.map fun l => (x.sget (l / 4) a.toNat, m.toNat))] []) ∧
    (Usable s r { sr := [a.toNat], slices := first.toList } →
      (first = none → ends (.depwait a) 0 0#64 0#64) ∧
      ∀ k, first = some k → idCtx (x.sget k a.toNat) = r.gang.ctx → ends (.depwait a) 6 (x.sget k a.toNat) pc) ∧
    (Usable s r { sr := [d.toNat, a.toNat], slices := first.toList } →
      (first = none → exec (.deparm d a n g) s = .next s) ∧
      ∀ k c, first = some k → idCtx (x.sget k d.toNat) = r.gang.ctx → s.counter? (x.sget k d.toNat) = some c → c.armed = none → c.fired = false →
        (x.sget k a.toNat).toNat % 4 = 0 → ReadsPlaced s r at_ tso (4 * (n.toNat + 1)) [x.sget k a.toNat] 4 (addrs k) →
        holds (.deparm d a n g) [.deparm (x.sget k d.toNat) g.toNat (record k s.nextId)] ((addrs k).map fun e => at_ e.1))

/-- DEPNEW and GNEW (R240, R274): a free slot of the die's table, which one being the model's free choice (log 22), with the next
generation, one more than the slot's last (0 before its first use, log 1), past the greatest 1 again and never 0; its identifier is delivered to every executing slice, or
0 where the count is 0 or no slot is free. -/
def Obligations.NewIdentifiers : Prop :=
  ∀ (s : State) (r : Running) (d a : BitVec 5), s.cur = some r →
    let x := r.gang.arch
    let y := s.die r.gang.die
    let first := (x.slicesList.filter fun k => x.exec.extractLsb' (4 * k) 4 != 0#4).head?
    let count := match first with
      | some k => (x.sget k a.toNat).toNat % 2 ^ 32
      | none => 0
    let deliver := fun (id : DWord) => if d = 0#5 then [] else
      [(⟨s.nextId, 1, d.toNat, 1, [], 0, x.slicesList.map fun k => ⟨false, k * 32 + d.toNat, id, none⟩⟩ : Pend)]
    -- the generation after a slot's last one: one more, and past the greatest the first; a slot never used before holds 0
    let after := fun (last : Option Nat) (top gen : Nat) => last.getD 0 < top → gen = if last.getD 0 + 1 < top then last.getD 0 + 1 else 1
    let identifier := fun (low : Nat) => BitVec.ofNat 64 (low + r.gang.die % 4 * 2 ^ 32 + r.gang.ctx % 64 * 2 ^ 34)
    -- of the machine only this die and the issuing gang change, and the numbers that the model gives out
    let only := fun (t : State) (z : Die) (g : Gang) => t.nextId = s.nextId + 1 ∧ t.free = s.free + 1 ∧
      { t with cur := s.cur, dies := s.dies, nextId := s.nextId, free := s.free } = s ∧
      (∀ e, t.die e = if e = r.gang.die then z else s.die e) ∧ t.cur = some { r with gang := g }
    (Usable s r { sr := [a.toNat], sw := [d.toNat], slices := first.toList } →
      (count = 0 ∨ (∀ k < 16384, ∃ c, look? y.counters k = some c ∧ c.live = true) →
        ∃ t, exec (.depnew d a) s = .next t ∧ only t y { r.gang with pend := r.gang.pend ++ deliver 0#64 }) ∧
      (∀ k < 16384, count ≠ 0 → (∀ c ∈ look? y.counters k, c.live = false) →
        ∃ t, exec (.depnew d a) s = .next t ∧ ∃ slot gen, slot < 16384 ∧
          (∀ c ∈ look? y.counters slot, c.live = false) ∧ after ((look? y.counters slot).map (·.gen)) (2 ^ 18) gen ∧ 0 < gen ∧ gen < 2 ^ 18 ∧
          let id := identifier (slot + gen * 2 ^ 14)
          only t { y with counters := put? y.counters slot (some ⟨gen, r.gang.ctx, true, count, none, false, 0#32⟩) }
            { r.gang with cresv := id :: r.gang.cresv, pend := r.gang.pend ++ deliver id })) ∧
    (Usable s r { sw := [d.toNat] } →
      ((∀ k < 4096, ∃ c, look? y.groups k = some c ∧ (c.live = true ∨ c.reserved = true)) →
        ∃ t, exec (.gnew d) s = .next t ∧ only t y { r.gang with pend := r.gang.pend ++ deliver 0#64 }) ∧
      (∀ k < 4096, (∀ c ∈ look? y.groups k, c.live = false ∧ c.reserved = false) →
        ∃ t, exec (.gnew d) s = .next t ∧ ∃ slot gen, slot < 4096 ∧
          (∀ c ∈ look? y.groups slot, c.live = false ∧ c.reserved = false) ∧ after ((look? y.groups slot).map (·.gen)) (2 ^ 20) gen ∧ 0 < gen ∧ gen < 2 ^ 20 ∧
          let id := identifier (slot + gen * 2 ^ 12)
          only t { y with groups := put? y.groups slot (some ⟨gen, r.gang.ctx, r.gang.inst, true, false, [], [], 0, false, 0#32⟩) }
            { r.gang with gresv := id :: r.gang.gresv, pend := r.gang.pend ++ deliver id,
                          held := r.gang.held ++ [⟨s.nextId, r.cl.addr + BitVec.ofNat 64 (4 * r.cl.idx), r.cl.idx, 1, .gnew id⟩] }))

/-- GJOIN, GLEAVE, GBAR and GSIZE (R239 to R241): joins and leaves held lane by lane, the flight's end at a barrier, and the member count;
an identifier of another die, another context, not live, of a failed group, or a fifth membership is reported instead, the first
lane's first, in the order of log 42. GSIZE answers 0 for an identifier that is not live; of a live group of another die or context it
answers that group's count (the model's choice, log 42), as it is when the instruction issues (DESIGN CHOICE, log 75). Each is said where no
making of the group by an earlier flight of the gang, and for GSIZE no change of its members by one, is still on its way to the table. -/
def Obligations.GroupInstructions : Prop :=
  ∀ (s : State) (r : Running) (d a : BitVec 5), s.cur = some r →
    let x := r.gang.arch
    let pc := r.cl.addr + BitVec.ofNat 64 (4 * r.cl.idx)
    let ps := (bitsOf x.exec).map fun l => (l, x.sget (l / 4) a.toNat)
    let lead := ((x.slicesList.find? fun k => x.occ.extractLsb' (4 * k) 4 != 0#4)).getD 0
    let id := x.sget lead a.toNat
    let good := fun (id : DWord) => idDie id = r.gang.die ∧ idCtx id = r.gang.ctx ∧ ∃ q, s.group? id = some q ∧ q.failed = false
    let fits := fun (p : Nat × DWord) => p.2 ∈ s.groupsOf r.gang p.1 ∨ (s.groupsOf r.gang p.1).length < 4
    let holds := fun (i : Instr) (e : Eff) => exec i s = .next { s with nextId := s.nextId + 1, cur := some { r with gang := { r.gang with held := r.gang.held ++
      [⟨s.nextId, pc, r.cl.idx, 1, e⟩] } } }
    let reports := fun (i : Instr) (code reason : Nat) (id : DWord) (consumed : Bool) =>
      exec i s = .next (s.raiseAt r code (BitVec.ofNat 64 (3 * 2 ^ 62 + reason * 2 ^ 58 + id.toNat % 2 ^ 40)) consumed)
    let refused := fun (i : Instr) (id : DWord) =>
      (idDie id ≠ r.gang.die → reports i 0x0011 2 id false) ∧
      (idDie id = r.gang.die → idCtx id ≠ r.gang.ctx → reports i 0x0011 3 id false) ∧
      (idDie id = r.gang.die → idCtx id = r.gang.ctx → s.group? id = none → reports i 0x0011 1 id false) ∧
      (∀ q, idDie id = r.gang.die → idCtx id = r.gang.ctx → s.group? id = some q → q.failed = true → reports i 0x0013 8 id true)
    (Usable s r { sr := [a.toNat], slices := slicesOf (bitsOf x.exec) } → s.makings r.gang (ps.map (·.2)) = [] →
      ((∀ p ∈ ps, good p.2) → holds (.gleave a) (.gleave ps)) ∧ ((∀ p ∈ ps, good p.2 ∧ fits p) → holds (.gjoin a) (.gjoin ps)) ∧
      ∀ before p after, ps = before ++ p :: after → (∀ q ∈ before, good q.2 ∧ fits q) → ∀ i ∈ ([.gjoin a, .gleave a] : List Instr),
        refused i p.2 ∧ (good p.2 → ¬ fits p → i = .gjoin a → reports i 0x0011 5 p.2 false)) ∧
    (Usable s r { sr := [a.toNat], slices := [lead] } → s.makings r.gang [id] = [] → refused (.gbar a) id ∧ (good id →
      exec (.gbar a) s = .next { s with cur := some ⟨{ r.gang with wakeKind := 5, wakeOp := id, wakeOp2 := pc }, { r.cl with ended := true }⟩ })) ∧
    (Usable s r { sr := [a.toNat], sw := [d.toNat], slices := [lead] } → s.changes r.gang [id] = [] →
      let n := ((s.group? id).map fun q => q.members.length).getD 0
      exec (.gsize d a) s = .next { s with nextId := s.nextId + 1, cur := some { r with gang := { r.gang with pend := r.gang.pend ++
        if d = 0#5 then [] else [⟨s.nextId, 1, d.toNat, 1, [], 0, x.slicesList.map fun k => ⟨false, k * 32 + d.toNat, BitVec.ofNat 64 n, none⟩⟩] } } })

/-! ## System registers, the control core and exceptions (R53, R54, R131, R289 to R294) -/

/-- SYSR and SYSW (R53): the value of each register in each slice, the two writable ones of a compute core, and what an unassigned
number, a protected register and a bad value raise. NOP changes nothing (R54). Where a slice holds tasks launched for different faults,
its FAULT registers are those of its lowest occupied lane (the model's choice, log 64). -/
def Obligations.SystemRegisters : Prop :=
  ∀ (s : State) (r : Running) (d a : BitVec 5) (n : BitVec 12), s.cur = some r →
    let g := r.gang
    let x := g.arch
    let y := s.die g.die
    let site := (y.site? g.core).getD g.core
    let fault := fun (k : Nat) => if g.handler = true then ((g.lanes.find? fun e => e.1 / 4 == k).map fun e => e.2.fault).getD ⟨0, 0#64, 0#64⟩ else ⟨0, 0#64, 0#64⟩
    let raises := fun (i : Instr) (code info : Nat) => exec i s = .next (s.raiseAt r code (BitVec.ofNat 64 (r.cl.idx % 16 + 16 * info)) false)
    (Usable s r { sw := [d.toNat], slices := x.slicesList } → g.ctx ≠ firmware → g.core ≠ controlCore →
      ∀ e ∈ ([(0x000#12, fun k => (look 0#3 x.fpctl k).setWidth 64), (0x001#12, fun k => (look 0#5 x.fpstat k).setWidth 64),
          (0x002#12, fun _ => x.occ.setWidth 64), (0x003#12, fun k => (look 0#16 x.sigval k).setWidth 64),
          (0x010#12, fun _ => (y.laneMap site 0).setWidth 64), (0x011#12, fun _ => (y.laneMap site 1).setWidth 64),
          (0x012#12, fun _ => (y.laneMap site 2).setWidth 64), (0x013#12, fun _ => (y.laneMap site 3).setWidth 64),
          (0x014#12, fun _ => y.corecfg s.pkg.stepping g.core), (0x015#12, fun _ => BitVec.ofNat 64 (site * 2 ^ 8 + g.core)),
          (0x016#12, fun _ => BitVec.ofNat 64 (site % 16 * 2 ^ 4 + site / 16)), (0x017#12, fun _ => BitVec.ofNat 64 (s.pkg.fabid.toNat * 2 ^ 16 + g.die)),
          (0x020#12, fun _ => BitVec.ofNat 64 (s.time + y.dtcBase)), (0x021#12, fun _ => x.flightid), (0x030#12, fun k => BitVec.ofNat 64 (fault k).code),
          (0x031#12, fun k => (fault k).info), (0x032#12, fun k => (fault k).pc), (0x040#12, fun _ => look 0#64 y.sysregs 0x040)] :
          List (BitVec 12 × (Nat → DWord))),
        Sets s r (.sysr d e.1) fun z => ScalarsWritten x z d.toNat x.slicesList e.2) ∧
    (Usable s r { sr := [a.toNat], slices := x.slicesList } →
      ((∀ k ∈ x.slicesList, (x.sget k a.toNat).toNat < 5) → Sets s r (.sysw a 0#12) fun z => { z with fpctl := x.fpctl } = x ∧
        ∀ k, look 0#3 z.fpctl k = if k ∈ x.slicesList then (x.sget k a.toNat).setWidth 3 else look 0#3 x.fpctl k) ∧
      ((∃ k ∈ x.slicesList, 5 ≤ (x.sget k a.toNat).toNat) → raises (.sysw a 0#12) 0x0001 2) ∧
      ((∀ k ∈ x.slicesList, (x.sget k a.toNat).toNat < 32) → Sets s r (.sysw a 1#12) fun z => { z with fpstat := x.fpstat } = x ∧
        ∀ k, look 0#5 z.fpstat k = if k ∈ x.slicesList then (x.sget k a.toNat).setWidth 5 else look 0#5 x.fpstat k) ∧
      ((∃ k ∈ x.slicesList, 32 ≤ (x.sget k a.toNat).toNat) → raises (.sysw a 1#12) 0x0001 2)) ∧
    (g.ctx ≠ firmware → 0x100 ≤ n.toNat → raises (.sysr d n) 0x0005 n.toNat ∧ raises (.sysw a n) 0x0005 n.toNat) ∧
    (g.ctx ≠ firmware → ∀ k ∈ ([0x002#12, 0x003#12, 0x010#12, 0x011#12, 0x012#12, 0x013#12, 0x014#12, 0x015#12, 0x016#12, 0x017#12, 0x020#12, 0x021#12,
        0x030#12, 0x031#12, 0x032#12, 0x040#12] : List (BitVec 12)), raises (.sysw a k) 0x0005 k.toNat) ∧
    (n.toNat < 0x100 → n.toNat ∉ [0x0, 0x1, 0x2, 0x3, 0x10, 0x11, 0x12, 0x13, 0x14, 0x15, 0x16, 0x17, 0x20, 0x21, 0x30, 0x31, 0x32, 0x40] → raises (.sysr d n) 0x0001 1 ∧ raises (.sysw a n) 0x0001 1) ∧
    exec .nop s = .next s

/-- The instructions of the control core (R293, R294): their effects held, the status pending, in firmware; PRIVILEGE in any other gang.
CMAPRM and CMAPAD raise PROT, reason 7, where their core or number is not as it must be. -/
def Obligations.ControlCoreInstructions : Prop :=
  ∀ (s : State) (r : Running) (d a : BitVec 5), s.cur = some r →
    let x := r.gang.arch
    let y := s.die r.gang.die
    let pc := r.cl.addr + BitVec.ofNat 64 (4 * r.cl.idx)
    let v := x.sget (x.slicesList.headD 0) a.toNat
    let core := v.toNat % 2 ^ 7
    let answers := fun (i : Instr) (held : List Held) (left : Nat) (vals : List Deliv) =>
      exec i s = .next { s with nextId := s.nextId + 1, cur := some { r with gang := { r.gang with held := r.gang.held ++ held
                                                                                                   pend := r.gang.pend ++
        if d = 0#5 then [] else [⟨s.nextId, 1, d.toNat, 1, [], left, vals⟩] } } }
    let holds := fun (i : Instr) (e : Eff) => exec i s = .next { s with nextId := s.nextId + 1, cur := some { r with gang := { r.gang with held :=
      r.gang.held ++ [⟨s.nextId, pc, r.cl.idx, 1, e⟩] } } }
    let prot := fun (i : Instr) => exec i s = .next (s.raiseAt r 0x0011 (BitVec.ofNat 64 (3 * 2 ^ 62 + 7 * 2 ^ 58 + v.toNat % 2 ^ 40)) false)
    (r.gang.ctx = firmware →
      (Usable s r { sr := [a.toNat], sw := [d.toNat], slices := x.slicesList } →
        answers (.cdrain d a) [⟨s.nextId, pc, r.cl.idx, 1, .cdrain core s.nextId⟩] 1 [] ∧
        answers (.cscan d a) [⟨s.nextId, pc, r.cl.idx, 1, .cscan core s.nextId⟩] 1 [] ∧
        answers (.csig d a) [] 0 (x.slicesList.map fun k => ⟨false, k * 32 + d.toNat, (s.core r.gang.die core).lastSig, none⟩)) ∧
      (Usable s r { sr := [a.toNat], slices := x.slicesList } →
        ((s.core r.gang.die core).scan = 2 → holds (.cmaprm a) (.cmaprm v)) ∧ ((s.core r.gang.die core).scan ≠ 2 → prot (.cmaprm a)) ∧
        (y.site? core = none → y.coreAt? (v.toNat / 2 ^ 8 % 2 ^ 8) = none → holds (.cmapad a) (.cmapad v)) ∧
        (y.site? core ≠ none ∨ y.coreAt? (v.toNat / 2 ^ 8 % 2 ^ 8) ≠ none → prot (.cmapad a)) ∧
        holds (.creset a) (.creset (v.toNat % 2 ^ 6))) ∧
      exec .eret s = .next { s with cur := some ⟨{ r.gang with wakeKind := 11, wakeOp := 0#64, wakeOp2 := 0#64 }, { r.cl with ended := true }⟩ }) ∧
    (r.gang.ctx ≠ firmware → ∀ i ∈ ([.cdrain d a, .cscan d a, .csig d a, .cmaprm a, .cmapad a, .creset a, .eret] : List Instr),
      exec i s = .next (s.raiseAt r 0x0005 (BitVec.ofNat 64 (r.cl.idx % 16)) false))

/-- Taking an exception (R131, R289, R293). TRAP raises TRAPINS with its code, at its own address, the gang off its port and its cycles
charged first. A fault of the flight class ends every lane of the gang, performs none of the flight's effects, leaves the committed ones
on their way, and sends one record: to the handler stage, or to the host where there is none or it is the handler's own. Firmware's own
fault goes on at CCVEC from its anchor, CCEPC and the FAULT registers set. Fields of the record without a subject are as log 20 has them. -/
def Obligations.ExceptionsTaken : Prop :=
  (∀ (s : State) (r : Running) (c : BitVec 12), s.cur = some r →
    let t := ({ s with cur := none, gangs := s.gangs ++ [r.gang] } : State).chargeClause r
    exec (.trap c) s = .next (t.takeFault r.gang.gid ⟨0x0006, c.setWidth 64, r.cl.addr + BitVec.ofNat 64 (4 * r.cl.idx)⟩ false 0#64 0)) ∧
  ∀ (s : State) (g : Gang) (f : FaultInfo) (site : DWord) (k : Nat), s.gang? g.gid = some g →
    let t := s.takeFault g.gid f false site k
    (f.code ≠ 0x0052 → t.mem = s.mem ∧ t.drain = s.drain ∧ t.cur = s.cur) ∧
    (g.ctx ≠ firmware → f.code ≠ 0x0010 → f.code ≠ 0x0052 →
      (∀ h ∈ t.gang? g.gid, ∀ e ∈ h.lanes, 32 ≤ e.1) ∧
      let words := recordWords f 0 g.stage g.inst g.lowTask g.anchor.occ g.anchor.exec g.anchor.flightid
        site k 0 0 0#64 ((s.time + (s.die g.die).dtcBase) % 2 ^ 32)
      (g.handler = true ∨ (∀ i ∈ s.inst? g.die g.inst, i.handler = 0xFF) → (t.ctx g.ctx).ring = (s.ctx g.ctx).ring ++ [words]) ∧
      (∀ i, s.inst? g.die g.inst = some i → g.handler = false → i.handler ≠ 0xFF → ∃ w ∈ (t.die (homeInst g.die g.inst).1).windows, w.src = .die ∧
        w.inst = (homeInst g.die g.inst).2 ∧
        w.stage = i.handler ∧ ∃ e ∈ w.entries, e.record.fault = some f ∧ e.record.words = words.take (((i.stages[i.handler]?).map (·.args)).getD 16))) ∧
    (g.ctx = firmware → g.handler = false → (∃ p, g.place = .port p) →
      (∃ h, t.gang? g.gid = some h ∧ h.handler = true ∧ h.phase = .run ∧ h.held = [] ∧ h.pend = [] ∧ h.anchor = g.anchor ∧
        h.arch = { g.anchor with pc := look 0#64 (s.die g.die).sysregs 0x106 }) ∧
      look 0#64 (t.die g.die).sysregs 0x107 = g.anchor.pc ∧ (t.die g.die).ccFault = f)

/-! ## Events (R55, R123, R129, R137 to R139, R150, R157, R244 to R330) -/

/-- Writes of registers by the host and by firmware, and what the die itself does to its registers (R146, R147, R250, R265, R283, R287,
R291, R292, R296 to R300, R315 to R317, R322, R325, R329). `registerWrite` ignores 0x0008, 0x0010 and 0x1000 to 0x31F8: by the model's
choice the read-write registers there have events of their own (ctxbase, fabid, tail, frcons and the four of CTXCTL). A change of
SAMPCTL leaves its MARK whatever EN holds (log 28); a failed path counts and is marked as log 67 has it, and graphs are built over all
dies as log 23 has them. A DEADLOCK record's fields without a subject are zero (DEDUCED, log 20), SAMPBASE is a 42-bit physical address
(log 19), and TLBINV clears the whole walk cache (DESIGN CHOICE, log 9). -/
def Obligations.RegisterEvents : Prop :=
  ∀ (s : State) (d c k : Nat) (v : DWord) (off : BitVec 16),
    let x := s.die d
    let p := s.pkg
    let gives := fun (i : Instr) (P : State → Prop) => ∃ t, exec i s = .next t ∧ P t
    let package := fun (q : Package) (t : State) => t = { s with pkg := q }
    let idle := p.ready = true ∧ ∀ e ∈ p.ctxs, e.2.run = 0
    (idle → gives (.ctxbase v) (package { p with ctxbase := v &&& 0x3FFFFFFFF80#64 }) ∧ gives (.fabid v) (package { p with fabid := v.setWidth 16 })) ∧
    (¬ idle → exec (.ctxbase v) s = .next s ∧ exec (.fabid v) s = .next s) ∧
    (c < 64 → p.ready = true → gives (.frcons c v) (package { p with frcons := put 0#64 p.frcons c v }) ∧
      gives (.tail c v) (package { p with tails := put 0#64 p.tails c v })) ∧
    (p.ready = true → gives (.registerWrite 0x18#16 v) (package { p with fabtimeout := v.setWidth 16 }) ∧
      (k < 64 → gives (.registerWrite (BitVec.ofNat 16 (0x4000 + 16 * k)) v) (fun t =>
          { t with pkg := { t.pkg with fabwin := p.fabwin } } = s ∧ look 0#64 t.pkg.fabwin (2 * k) = v &&& 0xFFFFFFFF3FFFFFFF#64) ∧
        gives (.registerWrite (BitVec.ofNat 16 (0x4008 + 16 * k)) v) (fun t =>
          { t with pkg := { t.pkg with fabwin := p.fabwin } } = s ∧ look 0#64 t.pkg.fabwin (2 * k + 1) = v &&& 0x3FFFFF03#64)) ∧
      (k < 256 → gives (.registerWrite (BitVec.ofNat 16 (0x5000 + 8 * k)) v) (fun t =>
        { t with pkg := { t.pkg with fabroute := p.fabroute } } = s ∧ look 0#64 t.pkg.fabroute k = v &&& 0x1FFFFFFFF#64))) ∧
    (off.toNat % 8 ≠ 0 ∨ off.toNat < 0x18 ∨ 0x20 ≤ off.toNat ∧ off.toNat < 0x4000 ∨
      0x4400 ≤ off.toNat ∧ off.toNat < 0x5000 ∨ 0x5800 ≤ off.toNat → exec (.registerWrite off v) s = .next s) ∧
    (v.toNat / 2 ^ 56 = 0 → v.toNat / 2 ^ 6 % 8 = 0 → gives (.tlbinv d v) fun t =>
      ∃ gone, let q : Shoot := ⟨x.shootNum + 1, v.toNat / 2 ^ 12 % 2 ^ 44 * 4096, shootBits v, v.getLsbD 9, v.toNat % 2 ^ 6, gone⟩
      (t.die d).shootNum = x.shootNum + 1 ∧ (t.die d).shoots = x.shoots ++ [q] ∧ (t.die d).walkCache = [] ∧
      (∀ b e, e ∈ (s.core d b).tlb → q.hits e = true → q.bits < e.leaf.bits → (e.base, e.leaf.bits) ∈ gone) ∧
      ∀ b e, e ∈ (t.core d b).tlb ↔ e ∈ (s.core d b).tlb ∧ q.hits e = false) ∧
    (gives (.evdone d v) fun t => ∀ gid g, look? x.services v.toNat = some (.gang gid) → s.gang? gid = some g → g.wakeKind = 9 → g.wakeOp2 = v →
      t.gang? gid = some { g with woken := true } ∧ look? (t.die d).services v.toNat = none) ∧
    (gives (.dbgresume d v) fun t => ∀ gid g, s.gang? gid = some g → t.gang? gid =
      some (if g.die = d ∧ g.phase = .parked ∧ g.wakeKind = 10 ∧ g.wakeOp2 = v then { g with woken := true, skipBrk := some g.wakeOp } else g)) ∧
    (v.toNat / 2 ^ 40 = 0 → v.toNat / 2 ^ 3 % 2 ^ 5 = 0 → gives (.sampctl d v) fun t =>
      (v.getLsbD 1 = false → (t.die d).sysreg 0x040 = v) ∧
      (x.sysreg 0x040 = v → t = s) ∧ (x.sysreg 0x040 ≠ v → SampleWritten s t d 2 [BitVec.ofNat 64 ((s.time + x.dtcBase) % 2 ^ 56 * 256 + 1)])) ∧
    exec (.contain d v) s = .next (s.setDie d { x with containSel := v.toNat % 2 ^ 7 }) ∧
    (∀ g rest q, s.cur = none → x.tagged = g :: rest → g.describes q (s.fate g) = true → gives (.sampleWindow d q) fun t =>
      SampleWritten s t d 0 (sampleBody d g.dtc q) ∧ (t.die d).tagged = rest) ∧
    (∀ permits mhz, permits ≤ x.permits → mhz ≤ x.mhz → (x.mhz - mhz) % 50 = 0 →
      exec (.powerThrottle d permits mhz) s = .next (s.setDie d { x with permits := permits, mhz := mhz })) ∧
    (∀ a b, a / 16 = b / 16 → a ≠ b → gives (.clusterPathFail d a b) fun t =>
      let n := look 0 x.pathChecks (a * 128 + b)
      look 0 (t.die d).errors 0x104 = look 0 x.errors 0x104 + 1 ∧
      (n + 1 < 16 → (t.die d).deadPaths = x.deadPaths ∧ (t.die d).notices = x.notices ∧ look 0 (t.die d).pathChecks (a * 128 + b) = n + 1) ∧
      (16 ≤ n + 1 → (∀ e, e ∈ (t.die d).deadPaths ↔ e ∈ x.deadPaths ∨ e = (a, b)) ∧ (t.die d).notices = x.notices ++ [.path a b])) ∧
    exec (.patrolScrub k .clean) s = .next s ∧
    (gives (.patrolScrub k .corrected) fun t => t.mem = s.mem ∧ t.poison = s.poison ∧
      look 0 (t.die (homeDie (k * 64))).errors 0x102 = look 0 (s.die (homeDie (k * 64))).errors 0x102 + 1) ∧
    (gives (.patrolScrub k .uncorrectable) fun t => t.mem = s.mem ∧ (∀ a, t.poisoned a = (a / 64 == k || s.poisoned a)) ∧
      look 0 (t.die (homeDie (k * 64))).errors 0x103 = look 0 (s.die (homeDie (k * 64))).errors 0x103 + 1) ∧
    (∀ b e o, gives (.patrolScrub k (.scratch d b e o false)) (fun t => look 0 (t.core d b).errors 0x102 = look 0 (s.core d b).errors 0x102 + 1 ∧
        t.mem = s.mem ∧ ∀ j, t.inst? d j = s.inst? d j) ∧
      gives (.patrolScrub k (.scratch d b e o true)) (fun t => look 0 (t.core d b).errors 0x103 = look 0 (s.core d b).errors 0x103 + 1 ∧
        t.mem = s.mem ∧ (e < 256 → ∀ i, s.inst? d e = some i → ∃ bad, t.inst? d e = some { i with scratchBad := bad } ∧
          ∀ w, w ∈ bad ↔ w ∈ i.scratchBad ∨ w = scratchWord d e b o)) ∧
      gives (.patrolScrub k (.accum d b e o true)) (fun t => look 0 (t.core d b).errors 0x103 = look 0 (s.core d b).errors 0x103 + 1 ∧
        t.mem = s.mem ∧ (e < 256 → ∀ i, s.inst? d e = some i → ∃ bad, t.inst? d e = some { i with accBad := bad } ∧
          ∀ w, w ∈ bad ↔ w ∈ i.accBad ∨ w = (coreOf d e b * 2 ^ 18 + o % 2 ^ 18) / 4)) ∧
      gives (.patrolScrub k (.l1 d b)) (fun t => look 0 (t.core d b).errors 0x100 = look 0 (s.core d b).errors 0x100 + 1 ∧ t.mem = s.mem ∧
        k ∉ (t.core d b).l1)) ∧
    (gives (.classifierWindow d) fun t => ∀ j < 256, t.inst? d j = (s.inst? d j).map fun i =>
      { i with cls := if i.whole = false then i.cls else if 16 * i.memory ≤ i.compute then 1 else 2, whole := true, compute := 0, memory := 0 }) ∧
    (gives (.waitforBuild d) fun t => t.gangs = s.gangs ∧ t.mem = s.mem ∧ (x.insts = [] → t = s.setDie d { x with lastGraph := [] }) ∧
      ∀ slot i gs, s.inst? d slot = some i → s.stalled i.ctx = some gs → look? (t.die d).lastGraph i.ctx = some (s.graphOf gs) ∧
        let parked := s.gangs.filter fun g => g.isOf (d, slot) && g.phase == .parked
        (look? x.lastGraph i.ctx = some (s.graphOf gs) → s.hasTasks d slot = true → i.handler = 0xFF → (∀ g ∈ parked, ∀ n ∈ g.taskNums, n < 2 ^ 32) →
          (∃ g ∈ parked, g.taskNums ≠ []) → ∃ g ∈ parked, ∃ low ∈ g.taskNums, (∀ h ∈ parked, ∀ n ∈ h.taskNums, low ≤ n) ∧
            recordWords ⟨0x0060, BitVec.ofNat 64 (parked.length % 2 ^ 16 + g.wakeKind * 2 ^ 16 + low * 2 ^ 32), 0#64⟩ 2 g.stage slot low 0#32 0#32 0#64 0#64 0 0 0
              0#64 ((s.time + x.dtcBase) % 2 ^ 32) ∈ (t.ctx i.ctx).ring))

/-- Contexts (R277, R278, R314, R316, R320, R323): what each command of CTXCTL does and answers, what ends a drain, what a chain record
brings, and bring-up and attestation; addresses, save area, firmware's gang and digests as log 19, log 21, log 22 and log 5 have them. What start and resume keep and what an
unreadable chain record does are log 27's (DEDUCED); the chain is read on die 0 (DESIGN CHOICE, log 10). -/
def Obligations.ContextEvents : Prop :=
  ∀ (s : State) (c : Nat) (fuses : Fuses) (nonce : BitVec 256), s.cur = none →
    let x := s.ctx c
    let entry := s.pkg.ctxbase.toNat + 128 * c
    let bs := s.bytes entry 128
    let answers := fun (i : Instr) (v : Byte) (P : State → Prop) => ∃ t, exec i s = .next t ∧ look 0#8 t.pkg.ctxctl c = v ∧ P t
    let commands : List (Instr × List Nat) := [(.ctxctlStart c, [0]), (.ctxctlSwitchOut c, [1]), (.ctxctlResume c, [3]), (.ctxctlEnd c, [1, 3])]
    (c < 64 → s.pkg.ready = true →
      (x.run = 2 → ∀ e ∈ commands, answers e.1 0x86#8 fun t => t.ctx c = x) ∧
      (x.run < 4 → x.run ≠ 2 → ∀ e ∈ commands, x.run ∉ e.2 → answers e.1 0x82#8 fun t => t.ctx c = x) ∧
      (x.run = 0 →
        (s.entryReadable c = false → answers (.ctxctlStart c) 0x83#8 fun t => t.ctx c = x) ∧
        (s.entryReadable c = true → s.entryOk bs = false → answers (.ctxctlStart c) 0x84#8 fun t => t.ctx c = x) ∧
        (s.entryReadable c = true → s.entryOk bs = true → answers (.ctxctlStart c) 0#8 fun t =>
          t.ctx c = { ctxOf bs with compHeld := x.compHeld, ring := x.ring, completions := x.completions, produced := x.produced } ∧ (t.byte (entry + 85)).getLsbD 1 = true ∧ ∀ a, a ≠ entry + 85 → t.byte a = s.byte a)) ∧
      (x.run = 1 ∨ x.run = 3 → s.entryReadable c = false → ∀ i ∈ ([.ctxctlSwitchOut c, .ctxctlResume c, .ctxctlEnd c] : List Instr),
        (i = .ctxctlSwitchOut c → x.run = 1) → (i = .ctxctlResume c → x.run = 3) → answers i 0x83#8 fun t => t.ctx c = x) ∧
      (x.run = 1 ∨ x.run = 3 → s.entryReadable c = true → s.entryOk bs = false → ∀ i ∈ ([.ctxctlSwitchOut c, .ctxctlResume c, .ctxctlEnd c] : List Instr),
        (i = .ctxctlSwitchOut c → x.run = 1) → (i = .ctxctlResume c → x.run = 3) → answers i 0x84#8 fun t => t.ctx c = x) ∧
      (x.run = 1 → s.entryReadable c = true → s.entryOk bs = true → answers (.ctxctlSwitchOut c) 2#8 fun t =>
        t.ctx c = { x with run := 2, drainEnd := some (s.time + (if x.ptimer = 0 then 20 else x.ptimer) * 1000) }) ∧
      (x.run = 3 → s.entryReadable c = true → s.entryOk bs = true →
        (s.saveOk c = false → answers (.ctxctlResume c) 0x85#8 fun t => t.ctx c = x) ∧
        (s.saveOk c = true → (∀ e ∈ s.dies, ∀ i ∈ e.2.insts, i.2.ctx ≠ c) → x.saved = [] →
          answers (.ctxctlResume c) 0#8 fun t => t.ctx c = { ctxOf bs with chainNext := if x.chainSeq = 0 then (ctxOf bs).chainNext else x.chainNext
                                                                           chainSeq := x.chainSeq, chainStop := x.chainStop, tensors := x.tensors, lists := x.lists
                                                                           completions := x.completions, compHeld := x.compHeld, produced := x.produced, ring := x.ring })) ∧
      (x.run = 1 ∨ x.run = 3 → s.entryReadable c = true → s.entryOk bs = true → answers (.ctxctlEnd c) 0#8 fun t => (t.ctx c).run = 0 ∧ (t.ctx c).tensors = [])) ∧
    (x.run = 2 → s.drained c = true → answers (.contextDrainDone c) 0#8 fun t => (t.ctx c).run = 3 ∧ (t.ctx c).drainEnd = none ∧
      let save := x.save.toNat % 2 ^ 42
      let image := (t.ctx c).image
      8 ≤ image.length ∧ (∀ k < image.length, save + k ≠ entry + 85 → t.byte (save + k) = image.getD k 0#8) ∧
        (t.byte (entry + 85)).getLsbD 1 = false ∧ ∀ a, a ≠ entry + 85 → ¬ (save ≤ a ∧ a < save + image.length) → t.byte a = s.byte a) ∧
    (∀ n, x.run = 2 → x.drainEnd = some n → n ≤ s.time → answers (.preemptTimeout c) 0#8 fun t => (t.ctx c).run = 3) ∧
    (x.run = 1 → x.chainStop = false → x.chainSeq < (look 0#64 s.pkg.tails c).toNat → s.chainWants c = [] →
      (∃ t, exec (.chainRecord c) s = .next t ∧ ((t.ctx c).chainStop = true ∨ (t.ctx c).chainSeq = x.chainSeq + 1)) ∧
      (∀ rec_ d, x.chainSeq = 0 → x.chainNext.toNat ≠ 0 → x.chainNext.toNat % 64 = 0 → s.readable? 0 c x.chainNext.toNat 64 [] = some rec_ →
        numAt rec_ 8 8 = 1 → s.chainDie c (numAt rec_ 24 1) = some d → ∃ t, exec (.chainRecord c) s = .next t ∧ (t.ctx c).chainSeq = 1 ∧
          (t.die d).vestibule = (s.die d).vestibule ++ [⟨c, BitVec.ofNat 64 (numAt rec_ 16 8), 0, some x.chainNext, false, [0, 0, 0, 0], none, [], s.time⟩])) ∧
    (s.pkg.ready = false → ofPart fuses = true → fuses.signedBy ≠ fuses.vendorKey → exec (.bringUp fuses) s = .next s) ∧
    (s.pkg.ready = false → ofPart fuses = true → fuses.signedBy = fuses.vendorKey → ∃ t, exec (.bringUp fuses) s = .next t ∧ t.pkg.ready = true ∧ t.pkg.grade = fuses.grade ∧ t.pkg.stepping = fuses.stepping ∧
      t.mem = s.mem ∧ (∀ d < 4, look? s.dies d ≠ none → (t.die d).sites = sitesOf fuses d ∧ (t.die d).permits = (sitesOf fuses d).length ∧
        ∀ k, (k, k) ∈ (t.die d).coremap ↔ k ∈ sitesOf fuses d ∧ (d, k) ∉ fuses.failed) ∧
      ∃ gs, t.gangs = s.gangs ++ gs ∧ gs.map (fun g => (g.die, g.core, g.ctx, g.arch.pc, g.place)) =
        [0, 1, 2, 3].map fun d => (d, 128, firmware, fuses.ccEntry, .port 0)) ∧
    (s.pkg.ready = true → ∃ t r, exec (.attestationRequest nonce) s = .next t ∧ t = { s with pkg := { s.pkg with reports := s.pkg.reports ++ [r] } } ∧
      r.take 32 = (List.range 32).map fun i => nonce.extractLsb' (8 * i) 8)

/-- What ports, gangs and the dispatcher do (R37, R45 to R47, R55, R123, R127, R129, R131, R133, R138, R139, R143, R150, R157, R170, R233,
R262, R264); moves between dies, the page awaited, the check of records and full dies as log 16, log 20, log 40 and log 43 have them. The vector of a
host line is log 70's (DEDUCED), a misaligned descriptor's BADDESC log 27's (DEDUCED), a gather's time in whole nanoseconds log 4's, and a
gang that leaves its port amid a clause log 74's (DESIGN CHOICE). -/
def Obligations.SchedulingEvents : Prop :=
  ClauseIssueRuns ∧ GangEventsRun ∧ CommitRuns ∧ GatherTimeoutRuns ∧ DispatchRuns ∧ AdmissionRuns

/-- What homes, windows, tables, engines and arrays do (R151, R161, R167, R187 to R189, R195, R198, R199, R222, R233, R241, R268, R270, R274,
R275, R282, R287, R294, R295); beats, batches, deadlines, drains and multicast reads as log 23 to log 26 and log 39 have them. A watch of another place
may wake at any time (DESIGN CHOICE, log 14), with the vector of log 70 (DEDUCED); TLBWORD is a physical address modulo 2^42 (log 19), and 0
there gets no write (DEDUCED, log 83); a line of owner 0 and what is read under another key are log 53's; a GBAR not yet counted whose group is
gone is woken (DESIGN CHOICE, log 85). -/
def Obligations.EffectEvents : Prop :=
  ∀ s : State, s.cur = none →
    (∀ o, (s.drain.find? fun q => q.id == o.id) = some o →
      (∀ w pa, o.cargo = .acts [.write w] → w.loc = .phys pa → homeDie pa = o.who.die → s.maySendOut o false false = true →
        (look 0 s.owners (pa / 64) = 0 ∨ look 0 s.owners (pa / 64) = s.ownerTag o.who w.va) →
        ∃ t, exec (.homeStore o.id) s = .next t ∧ (∀ q ∈ t.drain, q.id ≠ o.id) ∧
          ∀ a, t.byte a = if pa ≤ a ∧ a < pa + w.bytes.length then w.bytes.getD (a - pa) 0#8 else s.byte a) ∧
      (∀ minor p tag pa, o.cargo = .acts [.atom minor p tag] → p.loc = .phys pa → homeDie pa = o.who.die → s.maySendOut o true false = true →
        pa % atomicSize minor = 0 → (look 0 s.owners (pa / 64) = 0 ∨ look 0 s.owners (pa / 64) = s.ownerTag o.who p.va) →
        let size := atomicSize minor
        let old := dwordOfBytes (s.bytes pa size)
        ∃ t, exec (.homeAtomic o.id) s = .next t ∧ (∀ q ∈ t.drain, q.id ≠ o.id) ∧
          ∀ a, t.byte a = if pa ≤ a ∧ a < pa + size then (bytesOf size (atomicNew minor old p.v p.w)).getD (a - pa) 0#8 else s.byte a) ∧
      (∀ w b off, o.cargo = .acts [.write w] → w.loc = .scratch b off → s.maySendOut o false true = true →
        ∃ t, exec (.remoteScratchAccess (.effect o.id)) s = .next t ∧ t.mem = s.mem ∧ (∀ q ∈ t.drain, q.id ≠ o.id) ∧
          (s.clusterDown o.who.die o.who.core b = false → off + w.bytes.length ≤ 0x80000 → (∃ i, s.inst? o.who.die o.who.inst = some i) → ∀ a < 0x80000,
            t.read o.who.die o.who.inst (.scratch b a) =
              if off ≤ a ∧ a < off + w.bytes.length then w.bytes.getD (a - off) 0#8 else s.read o.who.die o.who.inst (.scratch b a))) ∧
      (∀ id m x, o.cargo = .eff (.depsig [(id, m)]) → o.sent = true → s.covers (Eff.target (.depsig [(id, m)]) o.who.die) o.vec = true →
        s.counter? id = some x → x.count ≠ 0 → x.armed = none → ∃ t, exec (.counterDecrement o.id) s = .next t ∧
          look? (t.die (idDie id)).counters (counterSlot id) = some (if x.count ≤ m then { x with count := 0, progress := x.progress + 1#32, fired := true, live := false }
            else { x with count := x.count - m, progress := x.progress + 1#32 }))) ∧
    (∀ d w e rest i st, s.window? w.id = some (d, w) → w.entries = e :: rest → s.inst? d w.inst = some i → i.stages[w.stage]? = some st →
      s.mayOffer d w = true →
      ∀ ev, (w.due = none ∧ ev = .enqueueOffer w.id ∨ (∃ n ∈ w.due, n ≤ s.time) ∧ ev = .enqueueBackoff w.id) →
        ((look [] i.queues w.stage).length < st.depth → ∃ t j, exec ev s = .next t ∧ t.inst? d w.inst = some j ∧
          look [] j.queues w.stage = look [] i.queues w.stage ++ [e.record]) ∧
        (st.depth ≤ (look [] i.queues w.stage).length → (∀ q ∈ w.entries, q.refusals < 63) → w ∈ (s.die d).windows →
          ∃ t u, exec ev s = .next t ∧ u ∈ (t.die d).windows ∧ u.id = w.id ∧ u.wait = (if w.wait = 0 then st.backoff else min (2 * w.wait) st.backcap) ∧
            u.due = some (s.time + u.wait) ∧ u.entries.length = w.entries.length ∧ (u.entries.head?.map fun q => (q.record, q.refusals)) = some (e.record, e.refusals + 1))) ∧
    (∀ g, s.gang? g.gid = some g → g.phase = .parked →
      (g.wakeKind = 5 → g.hit = false → g.woken = false → g.resident = false → s.behind g = [] →
        (s.group? g.wakeOp = none → exec (.gbarArrival g.gid) s = .next (s.putGang { g with hit := true, woken := true })) ∧
        ∀ q, s.group? g.wakeOp = some q → q.failed = false → q.members ≠ [] →
          let all := q.arrived ++ (s.arriving g g.wakeOp).filter fun m => !q.arrived.contains m
          ∃ t, exec (.gbarArrival g.gid) s = .next t ∧
            (all.length ≠ q.members.length → t.group? g.wakeOp = some { q with arrived := all, progress := q.progress + 1#32 }) ∧
            (all.length = q.members.length → (t.gang? g.gid).map (·.woken) = some true ∧
              t.group? g.wakeOp = some { q with arrived := [], generation := q.generation + 1, progress := q.progress + 2#32 })) ∧
      (∀ l, g.watched = some l → g.woken = false → g.hit = true ∨ s.behind g = [] ∧ s.readWaits g l = [] ∧ g.reqs = [] ∧ (l.elsewhere = true ∨
          BitVec.ofNat 32 (natOfBytes (s.seal g.die g.core g.ctx g.wakeOp.toNat l (s.readN (g.homeOf l) g.inst l 4))) = g.wakeOp2.setWidth 32) →
        ∃ t k, exec (.watchChange g.gid) s = .next t ∧ t.gang? g.gid = some k ∧ k.woken = true ∧ { k with woken := false, causal := g.causal } = g ∧
          (∀ pa, l = .phys pa → k.causal = mergeVec g.causal (if isHost pa = true then s.hostVec pa else s.vector (homeDie pa))))) ∧
    (∀ d c q seq b node w, (s.core d c).copyHead q = some (seq, b, node, w) → ((s.core d c).progress q).wait = none → (s.ctx w.ctx).run = 1 → s.copyTurn d c q = true →
      (s.errored w.die w.inst w.core (q % 5) = true → s.copySent ((s.core d c).progress q) = false → exec (.copyBeat d c q []) s = .next (s.copyOver d c q seq)) ∧
      (∀ t, s.errored w.die w.inst w.core (q % 5) = false → ((s.core d c).progress q).row < b.rows → s.askedCopy d c q ((s.core d c).progress q) = none → s.copyBeat d c q [] seq b w = some t →
        exec (.copyBeat d c q []) s = .next t) ∧
      (s.errored w.die w.inst w.core (q % 5) = false → b.rows ≤ ((s.core d c).progress q).row → b.notify = false → b.follow = 0 →
        (∀ n ∈ ((s.core d c).progress q).outs, ∀ o ∈ s.drain, o.id ≠ n) →
        ∃ t, exec (.copyNotify d c q) s = .next t ∧ look [] (t.core d c).queues q = (look [] (s.core d c).queues q).tail ∧
          look 0#63 (t.core d c).done q = BitVec.ofNat 63 seq ∧ t.mem = s.mem)) ∧
    (∀ d c q seq b node w pa pb ta tb, (s.core d c).copyHead q = some (seq, b, node, w) →
      let p := (s.core d c).progress q
      let from_ := b.src + BitVec.ofNat 64 (p.row * b.spitch)
      let to_ := b.dst + BitVec.ofNat 64 (p.row * b.dpitch)
      let n := b.rowBytes
      p.wait = none → p.beat = 0 → p.row < b.rows → (s.ctx w.ctx).run = 1 → s.copyTurn d c q = true → s.askedCopy d c q p = none →
      s.errored w.die w.inst w.core (q % 5) = false → isHost pa = false → isHost pb = false →
      b.redop = 0 → b.mcast = false → 0 < n → from_.toNat % 64 + n ≤ 64 → to_.toNat % 64 + n ≤ 64 → pa % 64 + n ≤ 64 → pb % 64 + n ≤ 64 →
      s.find w.die w.core w.inst w.ctx from_ 0 = .at_ (.phys pa) ta → s.find w.die w.core w.inst w.ctx to_ 1 = .at_ (.phys pb) tb →
      homeDie pa = w.die → homeDie pb = w.die → (∀ i < n, s.poisoned (pa + i) = false) → s.poisoned pb = false →
      look 0 s.owners (pa / 64) = 0 → look 0 s.owners (pb / 64) = 0 →
      ∃ t, exec (.copyBeat d c q []) s = .next t ∧ (∀ a, t.byte a = if pb ≤ a ∧ a < pb + n then s.byte (pa + (a - pb)) else s.byte a) ∧
        ((∀ i ∈ s.inst? w.die w.inst, i.accounts = false) → (t.core d c).progress q = { p with row := p.row + 1 })) ∧
    (∀ d c v, s.arrayReady d c = [v] → exec (.arrayOperandStep d c) s = .next ((s.arrayStep v).multicast (s.sameReads d c v))) ∧
    (∀ d c v, ((s.core d c).evals.find? fun v => v.busy && v.back.isNone) = some v →
      let u := s.onDie d fun x => { x with services := x.services.filter fun e => e.2 != .step c v.id }
      (((s.die d).sysreg 0x100).getLsbD 1 = false →
        exec (.emulatedStepDone d c []) s = .next (if (s.ctx v.who.ctx).run = 2 ∨ (s.ctx v.who.ctx).run = 3 then u.putEval { v with back := some [] } else u.emulatedStep v [])) ∧
      (((s.die d).sysreg 0x100).getLsbD 1 = true → exec (.emulatedStepDone d c []) s = .next (s.putEval { v with back := some [] }))) ∧ ArrayRuns s ∧
    (∀ d slot i n, s.inst? d slot = some i → i.deadline = some n → n < s.time + (s.die d).dtcBase → i.overruns.getLsbD 3 = false → (s.ctx i.ctx).run ≠ 3 →
      s.hasTasks d slot = true → ∃ t, exec (.deadmiss d slot) s = .next t ∧
        (i.policy = 0 → t.inst? d slot = none) ∧
        (i.policy = 1 → t.inst? d slot = some { i with overruns := i.overruns ||| 8#4, deadline := none, accounts := false }) ∧
        (2 ≤ i.policy → t.inst? d slot = some (if i.handler = 0xFF then { i with overruns := i.overruns ||| 8#4, trap := some (i.trap.getD 0), trapMark := (s.ctx i.ctx).produced + (s.ctx i.ctx).ring.length + 1 }
          else { i with overruns := i.overruns ||| 8#4, trap := some (i.trap.getD 0 + 1) }))) ∧
    (∀ d q rest, (s.die d).shoots = q :: rest → s.shootBusy d q = false → ∃ t, exec (.shootdownComplete d) s = .next t ∧
      (t.die d).sysreg 0x111 = BitVec.ofNat 64 q.num ∧ (∀ u, u ∈ (t.die d).shoots ↔ u ∈ rest ∧ u.num ≠ q.num) ∧
      let a := ((s.die d).sysreg 0x112).toNat % 2 ^ 42
      (a ≠ 0 → t.bytes a 4 = bytesOf 4 (BitVec.ofNat 64 q.num)) ∧ (a = 0 → t.mem = s.mem)) ∧
    (∀ d c, (s.core d c).scan = 1 →
      (s.coreHolds d c = false → ∃ t, exec (.cdrainDone d c) s = .next t ∧ (t.core d c).scan = 2) ∧
      (∀ n, s.coreHolds d c = true → (s.core d c).drainAt = some n → n + 100000 ≤ s.time → ∃ t, exec (.cdrainDone d c) s = .next t ∧ (t.core d c).scan = 0)) ∧
    (∀ d c sig, (s.core d c).scan = 3 → ∃ t, exec (.cscanDone d c sig) s = .next t ∧ (t.core d c).lastSig = sig ∧
      (sig = Config.scanGold → (t.core d c).scan = 0 ∧ (t.core d c).contain = 0) ∧ (sig ≠ Config.scanGold → (t.core d c).scan = 2))

/-- Between dies and packages (R306 to R308, R324 to R329): messages applied in their order with their writes, replicas, links that fail,
and accesses that windows admit; the room for replicas and what a failed link loses as log 9 and log 18 have them. A line that nobody has
written through a key reads and is written as it is (log 53). What an acknowledgement brings is log 67's, and a package that has not
answered in time is taken as failed for good (log 30). A package answers its requests in turn, and one that is not first is none yet
(DEDUCED, log 41); that a status comes with the acknowledgement is log 14's (DESIGN CHOICE). -/
def Obligations.PackageEvents : Prop :=
  ∀ s : State,
    (∀ src dst m rest, s.cur = none → look [] s.msgs (src * 4 + dst) = m :: rest → s.mayApply src dst m = true → m.writes = [] →
      exec (.causalMessage src dst) s = .next (({ s with msgs := put [] s.msgs (src * 4 + dst) rest } : State).setDie dst
        { s.die dst with applied := (s.die dst).applied.set src (m.vec.getD src 0) })) ∧
    (∀ src dst m rest o w pa, s.cur = none → look [] s.msgs (src * 4 + dst) = m :: rest → s.mayApply src dst m = true → w.loc = .phys pa → isHost pa = false →
      pa % 64 + w.bytes.length ≤ 64 →
      (m.writes = [(o.id, .acts [.write w])] → homeDie pa = dst → (s.drain.find? fun q => q.id == o.id) = some o →
        (look 0 s.owners (pa / 64) = 0 ∨ look 0 s.owners (pa / 64) = s.ownerTag o.who w.va) → (∀ e, (s.die e).replicates (pa / 64) = false) →
        ∃ t, exec (.causalMessage src dst) s = .next t ∧ (t.die dst).applied = (s.die dst).applied.set src (m.vec.getD src 0) ∧
          (∀ a, t.byte a = if pa ≤ a ∧ a < pa + w.bytes.length then w.bytes.getD (a - pa) 0#8 else s.byte a) ∧ ∀ q ∈ t.drain, q.id = o.id → q.effs = []) ∧
      (∀ old : Replica, m.writes = [(0, .acts [.write w])] → homeDie pa ≠ dst → look? (s.die dst).replicas (pa / 64) = some old → old.bytes.length = 64 →
        ∃ t new, exec (.causalMessage src dst) s = .next t ∧ (t.die dst).applied = (s.die dst).applied.set src (m.vec.getD src 0) ∧ t.mem = s.mem ∧
          look? (t.die dst).replicas (pa / 64) = some new ∧ ∀ i < 64, new.bytes.getD i 0#8 =
            if pa % 64 ≤ i ∧ i < pa % 64 + w.bytes.length then w.bytes.getD (i - pa % 64) 0#8 else old.bytes.getD i 0#8)) ∧
    (∀ d line bs v, s.cur = none → ((s.die d).pendingFill.find? fun e => e.1 == line) = some (line, bs, v) → s.covers d v = true →
      (s.die d).replicas.length < l2Lines →
      ∃ t, exec (.replicaFill d line) s = .next t ∧ look? (t.die d).replicas line = some bs ∧ (∀ e ∈ (t.die d).pendingFill, e.1 ≠ line) ∧ t.mem = s.mem) ∧
    (∀ d line, (look? (s.die d).replicas line).isSome = true → ∃ t, exec (.replicaDrop d line) s = .next t ∧
      look? (t.die d).replicas line = none ∧ (∀ c ≤ 128, line ∉ (t.core d c).l1) ∧ t.mem = s.mem) ∧
    (∀ src dst, src ≠ dst → src < 4 → dst < 4 → ∃ t, exec (.d2dLinkFail src dst) s = .next t ∧ (∀ e ∈ (t.die dst).replicas, homeDie (e.1 * 64) ≠ src) ∧
      (look [] s.msgs (src * 4 + dst) = [] → (∀ e, e ∈ t.pkg.deadLinks ↔ e ∈ s.pkg.deadLinks ∨ e = src * 4 + dst) ∧ t.mem = s.mem)) ∧
    (∀ src addr bs, bs ≠ [] → addr % 64 + bs.length ≤ 64 → addr < 2 ^ 38 →
      let answer := fun (t : State) (ok : Bool) (got : List Byte) => t.pkg.replies = s.pkg.replies ++ [(src, ok, got)]
      (s.admits src addr bs.length true = false → ∃ t, exec (.fabricRequest ⟨src, addr, .write bs⟩) s = .next t ∧ answer t false [] ∧ t.mem = s.mem) ∧
      (s.admits src addr bs.length false = false → ∃ t, exec (.fabricRequest ⟨src, addr, .load bs.length⟩) s = .next t ∧ answer t false [] ∧ t.mem = s.mem) ∧
      (s.admits src addr bs.length false = true → look 0 s.owners (addr / 64) = 0 → s.badN (homeDie addr) 256 (.phys addr) bs.length = false →
        ∃ t, exec (.fabricRequest ⟨src, addr, .load bs.length⟩) s = .next t ∧ answer t true (s.bytes addr bs.length) ∧ t.mem = s.mem) ∧
      (s.admits src addr bs.length true = true → look 0 s.owners (addr / 64) = 0 → ∃ t, exec (.fabricRequest ⟨src, addr, .write bs⟩) s = .next t ∧ answer t true [] ∧
        ∀ a, t.byte a = if addr ≤ a ∧ a < addr + bs.length then bs.getD (a - addr) 0#8 else s.byte a)) ∧
    (∀ f n, (s.pkg.fabricOut.find? fun q => q.id == f.id) = some f → f.client = .out n →
      (s.isFirst f = false → exec (.fabricAck f.id []) s = .fault (.notEnabled "FABRIC_ACK")) ∧
      (s.isFirst f = true →
        (∀ o, (s.drain.find? fun q => q.id == n) = some o → (o.acts.filter Act.isAtom = [] → exec (.fabricAck f.id [0#8]) s = .next ((s.dropOut n).dropFab f.id)) ∧
          ∃ t, exec (.fabricAck f.id [1#8]) s = .next t ∧ t.mem = s.mem ∧ (∀ q ∈ t.drain, q.id ≠ n) ∧ ∀ q ∈ t.pkg.fabricOut, q.id ≠ f.id) ∧
        ((s.drain.find? fun q => q.id == n) = none → exec (.fabricAck f.id []) s = .next (s.dropFab f.id)))) ∧
    (∀ link, link < 16 → exec (.fabricLinkFail link) s =
      .next ({ s with pkg := { s.pkg with deadFabric := (s.pkg.deadFabric ++ [link]).eraseDups } } : State).lostRequests) ∧
    (∀ f, s.cur = none → (s.pkg.fabricOut.find? fun q => q.id == f.id) = some f →
      f.sentAt + (if s.pkg.fabtimeout = 0#16 then 100 else s.pkg.fabtimeout.toNat) * 1000 ≤ s.time →
      exec (.fabricTimeout f.id) s = .next ({ s with pkg := { s.pkg with deadPkgs := (s.pkg.deadPkgs ++ [f.pkg]).eraseDups } } : State).lostRequests)

/-! ## Reset and the invariant (R283, R323) -/

/-- The package right after power-good: nothing is ready or running, and its memory is in canonical form (log 1, log 2, log 3); no event of its
own is due (log 6). -/
def Obligations.ResetState : Prop :=
  CanonicalMemory State.reset ∧ State.reset.pkg.ready = false ∧ State.reset.cur = none ∧ State.reset.gangs = [] ∧ State.reset.agenda = [] ∧
  (∀ c, (State.reset.ctx c).run = 0) ∧ (∀ a, State.reset.byte a = 0#8 ∧ State.reset.poisoned a = false) ∧
  ∀ d n, (State.reset.die d).sysreg n = 0#64 ∧ (State.reset.die d).insts = []

/-- Every step keeps memory and its poison marks in canonical form: addresses rise strictly, and no entry stands for what an unlisted
address reads as (log 3). A step takes an event of the agenda or of the machine's own and does what follows at once (log 6, log 17). -/
def Obligations.StepKeepsMemoryCanonical : Prop := ∀ s t : State, CanonicalMemory s → step s = .next t → CanonicalMemory t
end

