-- ==== Sys2Proof/Laws/Exec.lean ====
section
/-!
SUPPORT. The meaning that each constructor dispatches to, one equation for each.
-/

namespace Sys2Proof.Machine

variable (s : State)

@[simp] theorem exec_sadd d a b : exec (.sadd d a b) s = execSadd d a b s := rfl
@[simp] theorem exec_ssub d a b : exec (.ssub d a b) s = execSsub d a b s := rfl
@[simp] theorem exec_smul d a b : exec (.smul d a b) s = execSmul d a b s := rfl
@[simp] theorem exec_smulh d a b : exec (.smulh d a b) s = execSmulh d a b s := rfl
@[simp] theorem exec_smulhu d a b : exec (.smulhu d a b) s = execSmulhu d a b s := rfl
@[simp] theorem exec_sand d a b : exec (.sand d a b) s = execSand d a b s := rfl
@[simp] theorem exec_sor d a b : exec (.sor d a b) s = execSor d a b s := rfl
@[simp] theorem exec_sxor d a b : exec (.sxor d a b) s = execSxor d a b s := rfl
@[simp] theorem exec_sshl d a b : exec (.sshl d a b) s = execSshl d a b s := rfl
@[simp] theorem exec_sshr d a b : exec (.sshr d a b) s = execSshr d a b s := rfl
@[simp] theorem exec_ssra d a b : exec (.ssra d a b) s = execSsra d a b s := rfl
@[simp] theorem exec_smin d a b : exec (.smin d a b) s = execSmin d a b s := rfl
@[simp] theorem exec_smax d a b : exec (.smax d a b) s = execSmax d a b s := rfl
@[simp] theorem exec_sminu d a b : exec (.sminu d a b) s = execSminu d a b s := rfl
@[simp] theorem exec_smaxu d a b : exec (.smaxu d a b) s = execSmaxu d a b s := rfl
@[simp] theorem exec_sslt d a b : exec (.sslt d a b) s = execSslt d a b s := rfl
@[simp] theorem exec_ssltu d a b : exec (.ssltu d a b) s = execSsltu d a b s := rfl
@[simp] theorem exec_sdiv d a b : exec (.sdiv d a b) s = execSdiv d a b s := rfl
@[simp] theorem exec_sdivu d a b : exec (.sdivu d a b) s = execSdivu d a b s := rfl
@[simp] theorem exec_srem d a b : exec (.srem d a b) s = execSrem d a b s := rfl
@[simp] theorem exec_sremu d a b : exec (.sremu d a b) s = execSremu d a b s := rfl
@[simp] theorem exec_sclz d a : exec (.sclz d a) s = execSclz d a s := rfl
@[simp] theorem exec_spop d a : exec (.spop d a) s = execSpop d a s := rfl
@[simp] theorem exec_sseq d a b : exec (.sseq d a b) s = execSseq d a b s := rfl
@[simp] theorem exec_saddi d a x_i : exec (.saddi d a x_i) s = execSaddi d a x_i s := rfl
@[simp] theorem exec_sandi d a x_i : exec (.sandi d a x_i) s = execSandi d a x_i s := rfl
@[simp] theorem exec_sori d a x_i : exec (.sori d a x_i) s = execSori d a x_i s := rfl
@[simp] theorem exec_sxori d a x_i : exec (.sxori d a x_i) s = execSxori d a x_i s := rfl
@[simp] theorem exec_sshli d a x_i : exec (.sshli d a x_i) s = execSshli d a x_i s := rfl
@[simp] theorem exec_sshri d a x_i : exec (.sshri d a x_i) s = execSshri d a x_i s := rfl
@[simp] theorem exec_ssrai d a x_i : exec (.ssrai d a x_i) s = execSsrai d a x_i s := rfl
@[simp] theorem exec_sslti d a x_i : exec (.sslti d a x_i) s = execSslti d a x_i s := rfl
@[simp] theorem exec_ssltiu d a x_i : exec (.ssltiu d a x_i) s = execSsltiu d a x_i s := rfl
@[simp] theorem exec_slui d x_i : exec (.slui d x_i) s = execSlui d x_i s := rfl
@[simp] theorem exec_sadr d x_i : exec (.sadr d x_i) s = execSadr d x_i s := rfl
@[simp] theorem exec_bra o : exec (.bra o) s = execBra o s := rfl
@[simp] theorem exec_bz x_s o : exec (.bz x_s o) s = execBz x_s o s := rfl
@[simp] theorem exec_bnz x_s o : exec (.bnz x_s o) s = execBnz x_s o s := rfl
@[simp] theorem exec_bmz o : exec (.bmz o) s = execBmz o s := rfl
@[simp] theorem exec_bmnz o : exec (.bmnz o) s = execBmnz o s := rfl
@[simp] theorem exec_blt x_s o : exec (.blt x_s o) s = execBlt x_s o s := rfl
@[simp] theorem exec_call o : exec (.call o) s = execCall o s := rfl
@[simp] theorem exec_jmp a : exec (.jmp a) s = execJmp a s := rfl
@[simp] theorem exec_callr a : exec (.callr a) s = execCallr a s := rfl
@[simp] theorem exec_ret : exec (.ret) s = execRet s := rfl
@[simp] theorem exec_regang t : exec (.regang t) s = execRegang t s := rfl
@[simp] theorem exec_mpush d k : exec (.mpush d k) s = execMpush d k s := rfl
@[simp] theorem exec_mpop a : exec (.mpop a) s = execMpop a s := rfl
@[simp] theorem exec_melse a : exec (.melse a) s = execMelse a s := rfl
@[simp] theorem exec_allon d : exec (.allon d) s = execAllon d s := rfl
@[simp] theorem exec_alloff a : exec (.alloff a) s = execAlloff a s := rfl
@[simp] theorem exec_mget d : exec (.mget d) s = execMget d s := rfl
@[simp] theorem exec_mset a : exec (.mset a) s = execMset a s := rfl
@[simp] theorem exec_vadd d a b g n : exec (.vadd d a b g n) s = execVadd d a b g n s := rfl
@[simp] theorem exec_vsub d a b g n : exec (.vsub d a b g n) s = execVsub d a b g n s := rfl
@[simp] theorem exec_vmul d a b g n : exec (.vmul d a b g n) s = execVmul d a b g n s := rfl
@[simp] theorem exec_vmulh d a b g n : exec (.vmulh d a b g n) s = execVmulh d a b g n s := rfl
@[simp] theorem exec_vmulhu d a b g n : exec (.vmulhu d a b g n) s = execVmulhu d a b g n s := rfl
@[simp] theorem exec_vmad d a b g n : exec (.vmad d a b g n) s = execVmad d a b g n s := rfl
@[simp] theorem exec_vand d a b g n : exec (.vand d a b g n) s = execVand d a b g n s := rfl
@[simp] theorem exec_vor d a b g n : exec (.vor d a b g n) s = execVor d a b g n s := rfl
@[simp] theorem exec_vxor d a b g n : exec (.vxor d a b g n) s = execVxor d a b g n s := rfl
@[simp] theorem exec_vshl d a b g n : exec (.vshl d a b g n) s = execVshl d a b g n s := rfl
@[simp] theorem exec_vshr d a b g n : exec (.vshr d a b g n) s = execVshr d a b g n s := rfl
@[simp] theorem exec_vsra d a b g n : exec (.vsra d a b g n) s = execVsra d a b g n s := rfl
@[simp] theorem exec_vmin d a b g n : exec (.vmin d a b g n) s = execVmin d a b g n s := rfl
@[simp] theorem exec_vmax d a b g n : exec (.vmax d a b g n) s = execVmax d a b g n s := rfl
@[simp] theorem exec_vminu d a b g n : exec (.vminu d a b g n) s = execVminu d a b g n s := rfl
@[simp] theorem exec_vmaxu d a b g n : exec (.vmaxu d a b g n) s = execVmaxu d a b g n s := rfl
@[simp] theorem exec_vpop d a g n : exec (.vpop d a g n) s = execVpop d a g n s := rfl
@[simp] theorem exec_vclz d a g n : exec (.vclz d a g n) s = execVclz d a g n s := rfl
@[simp] theorem exec_vbrev d a g n : exec (.vbrev d a g n) s = execVbrev d a g n s := rfl
@[simp] theorem exec_vabsd d a b g n : exec (.vabsd d a b g n) s = execVabsd d a b g n s := rfl
@[simp] theorem exec_vsel d a b g n : exec (.vsel d a b g n) s = execVsel d a b g n s := rfl
@[simp] theorem exec_vmov d a g n : exec (.vmov d a g n) s = execVmov d a g n s := rfl
@[simp] theorem exec_vdot4 d a b g n : exec (.vdot4 d a b g n) s = execVdot4 d a b g n s := rfl
@[simp] theorem exec_vdot4u d a b g n : exec (.vdot4u d a b g n) s = execVdot4u d a b g n s := rfl
@[simp] theorem exec_vreq8 d a b g n : exec (.vreq8 d a b g n) s = execVreq8 d a b g n s := rfl
@[simp] theorem exec_vreq4 d a b g n : exec (.vreq4 d a b g n) s = execVreq4 d a b g n s := rfl
@[simp] theorem exec_vlane d g n : exec (.vlane d g n) s = execVlane d g n s := rfl
@[simp] theorem exec_vtask d g n : exec (.vtask d g n) s = execVtask d g n s := rfl
@[simp] theorem exec_vbcs d a g n : exec (.vbcs d a g n) s = execVbcs d a g n s := rfl
@[simp] theorem exec_vaddi d a x_i : exec (.vaddi d a x_i) s = execVaddi d a x_i s := rfl
@[simp] theorem exec_vandi d a x_i : exec (.vandi d a x_i) s = execVandi d a x_i s := rfl
@[simp] theorem exec_vori d a x_i : exec (.vori d a x_i) s = execVori d a x_i s := rfl
@[simp] theorem exec_vxori d a x_i : exec (.vxori d a x_i) s = execVxori d a x_i s := rfl
@[simp] theorem exec_vshli d a x_i : exec (.vshli d a x_i) s = execVshli d a x_i s := rfl
@[simp] theorem exec_vshri d a x_i : exec (.vshri d a x_i) s = execVshri d a x_i s := rfl
@[simp] theorem exec_vsrai d a x_i : exec (.vsrai d a x_i) s = execVsrai d a x_i s := rfl
@[simp] theorem exec_vmini d a x_i : exec (.vmini d a x_i) s = execVmini d a x_i s := rfl
@[simp] theorem exec_vmaxi d a x_i : exec (.vmaxi d a x_i) s = execVmaxi d a x_i s := rfl
@[simp] theorem exec_vmovi d x_i : exec (.vmovi d x_i) s = execVmovi d x_i s := rfl
@[simp] theorem exec_vunpk d a n : exec (.vunpk d a n) s = execVunpk d a n s := rfl
@[simp] theorem exec_vlui d x_i : exec (.vlui d x_i) s = execVlui d x_i s := rfl
@[simp] theorem exec_vcmp p a b c : exec (.vcmp p a b c) s = execVcmp p a b c s := rfl
@[simp] theorem exec_vcmps p a b c : exec (.vcmps p a b c) s = execVcmps p a b c s := rfl
@[simp] theorem exec_fcmp p a b c : exec (.fcmp p a b c) s = execFcmp p a b c s := rfl
@[simp] theorem exec_fcmps p a b c : exec (.fcmps p a b c) s = execFcmps p a b c s := rfl
@[simp] theorem exec_dcmp p a b c : exec (.dcmp p a b c) s = execDcmp p a b c s := rfl
@[simp] theorem exec_pand d a b : exec (.pand d a b) s = execPand d a b s := rfl
@[simp] theorem exec_por d a b : exec (.por d a b) s = execPor d a b s := rfl
@[simp] theorem exec_pxor d a b : exec (.pxor d a b) s = execPxor d a b s := rfl
@[simp] theorem exec_pandn d a b : exec (.pandn d a b) s = execPandn d a b s := rfl
@[simp] theorem exec_pnot d a : exec (.pnot d a) s = execPnot d a s := rfl
@[simp] theorem exec_pmov d a : exec (.pmov d a) s = execPmov d a s := rfl
@[simp] theorem exec_pset d : exec (.pset d) s = execPset d s := rfl
@[simp] theorem exec_pclr d : exec (.pclr d) s = execPclr d s := rfl
@[simp] theorem exec_fadd d a b g n : exec (.fadd d a b g n) s = execFadd d a b g n s := rfl
@[simp] theorem exec_fsub d a b g n : exec (.fsub d a b g n) s = execFsub d a b g n s := rfl
@[simp] theorem exec_fmul d a b g n : exec (.fmul d a b g n) s = execFmul d a b g n s := rfl
@[simp] theorem exec_ffma d a b g n : exec (.ffma d a b g n) s = execFfma d a b g n s := rfl
@[simp] theorem exec_ffms d a b g n : exec (.ffms d a b g n) s = execFfms d a b g n s := rfl
@[simp] theorem exec_fmin d a b g n : exec (.fmin d a b g n) s = execFmin d a b g n s := rfl
@[simp] theorem exec_fmax d a b g n : exec (.fmax d a b g n) s = execFmax d a b g n s := rfl
@[simp] theorem exec_fminn d a b g n : exec (.fminn d a b g n) s = execFminn d a b g n s := rfl
@[simp] theorem exec_fmaxn d a b g n : exec (.fmaxn d a b g n) s = execFmaxn d a b g n s := rfl
@[simp] theorem exec_fabs d a g n : exec (.fabs d a g n) s = execFabs d a g n s := rfl
@[simp] theorem exec_fneg d a g n : exec (.fneg d a g n) s = execFneg d a g n s := rfl
@[simp] theorem exec_fcpys d a b g n : exec (.fcpys d a b g n) s = execFcpys d a b g n s := rfl
@[simp] theorem exec_fscl d a b g n : exec (.fscl d a b g n) s = execFscl d a b g n s := rfl
@[simp] theorem exec_fcls d a g n : exec (.fcls d a g n) s = execFcls d a g n s := rfl
@[simp] theorem exec_frnd d a g n : exec (.frnd d a g n) s = execFrnd d a g n s := rfl
@[simp] theorem exec_fcvt d a c g n x_s r : exec (.fcvt d a c g n x_s r) s = execFcvt d a c g n x_s r s := rfl
@[simp] theorem exec_hadd2 d a b g n : exec (.hadd2 d a b g n) s = execHadd2 d a b g n s := rfl
@[simp] theorem exec_hsub2 d a b g n : exec (.hsub2 d a b g n) s = execHsub2 d a b g n s := rfl
@[simp] theorem exec_hmul2 d a b g n : exec (.hmul2 d a b g n) s = execHmul2 d a b g n s := rfl
@[simp] theorem exec_hfma2 d a b g n : exec (.hfma2 d a b g n) s = execHfma2 d a b g n s := rfl
@[simp] theorem exec_hmin2 d a b g n : exec (.hmin2 d a b g n) s = execHmin2 d a b g n s := rfl
@[simp] theorem exec_hmax2 d a b g n : exec (.hmax2 d a b g n) s = execHmax2 d a b g n s := rfl
@[simp] theorem exec_badd2 d a b g n : exec (.badd2 d a b g n) s = execBadd2 d a b g n s := rfl
@[simp] theorem exec_bsub2 d a b g n : exec (.bsub2 d a b g n) s = execBsub2 d a b g n s := rfl
@[simp] theorem exec_bmul2 d a b g n : exec (.bmul2 d a b g n) s = execBmul2 d a b g n s := rfl
@[simp] theorem exec_bfma2 d a b g n : exec (.bfma2 d a b g n) s = execBfma2 d a b g n s := rfl
@[simp] theorem exec_dadd d a b g n : exec (.dadd d a b g n) s = execDadd d a b g n s := rfl
@[simp] theorem exec_dsub d a b g n : exec (.dsub d a b g n) s = execDsub d a b g n s := rfl
@[simp] theorem exec_dmul d a b g n : exec (.dmul d a b g n) s = execDmul d a b g n s := rfl
@[simp] theorem exec_dfma d a b g n : exec (.dfma d a b g n) s = execDfma d a b g n s := rfl
@[simp] theorem exec_dmin d a b g n : exec (.dmin d a b g n) s = execDmin d a b g n s := rfl
@[simp] theorem exec_dmax d a b g n : exec (.dmax d a b g n) s = execDmax d a b g n s := rfl
@[simp] theorem exec_exp2 d a g n : exec (.exp2 d a g n) s = execExp2 d a g n s := rfl
@[simp] theorem exec_log2 d a g n : exec (.log2 d a g n) s = execLog2 d a g n s := rfl
@[simp] theorem exec_rcp d a g n : exec (.rcp d a g n) s = execRcp d a g n s := rfl
@[simp] theorem exec_rsq d a g n : exec (.rsq d a g n) s = execRsq d a g n s := rfl
@[simp] theorem exec_sqrt d a g n : exec (.sqrt d a g n) s = execSqrt d a g n s := rfl
@[simp] theorem exec_sinpi d a g n : exec (.sinpi d a g n) s = execSinpi d a g n s := rfl
@[simp] theorem exec_cospi d a g n : exec (.cospi d a g n) s = execCospi d a g n s := rfl
@[simp] theorem exec_tanh d a g n : exec (.tanh d a g n) s = execTanh d a g n s := rfl
@[simp] theorem exec_shfl d a b g n : exec (.shfl d a b g n) s = execShfl d a b g n s := rfl
@[simp] theorem exec_shflx d a k g n : exec (.shflx d a k g n) s = execShflx d a k g n s := rfl
@[simp] theorem exec_shflup d a k g n : exec (.shflup d a k g n) s = execShflup d a k g n s := rfl
@[simp] theorem exec_shfldn d a k g n : exec (.shfldn d a k g n) s = execShfldn d a k g n s := rfl
@[simp] theorem exec_bcast d a k g n : exec (.bcast d a k g n) s = execBcast d a k g n s := rfl
@[simp] theorem exec_vbal d p : exec (.vbal d p) s = execVbal d p s := rfl
@[simp] theorem exec_vany d p : exec (.vany d p) s = execVany d p s := rfl
@[simp] theorem exec_vall d p : exec (.vall d p) s = execVall d p s := rfl
@[simp] theorem exec_vcnt d p : exec (.vcnt d p) s = execVcnt d p s := rfl
@[simp] theorem exec_redAdd d a g n : exec (.redAdd d a g n) s = execRedAdd d a g n s := rfl
@[simp] theorem exec_redFadd d a g n : exec (.redFadd d a g n) s = execRedFadd d a g n s := rfl
@[simp] theorem exec_redMax d a g n : exec (.redMax d a g n) s = execRedMax d a g n s := rfl
@[simp] theorem exec_redMin d a g n : exec (.redMin d a g n) s = execRedMin d a g n s := rfl
@[simp] theorem exec_redMaxu d a g n : exec (.redMaxu d a g n) s = execRedMaxu d a g n s := rfl
@[simp] theorem exec_redMinu d a g n : exec (.redMinu d a g n) s = execRedMinu d a g n s := rfl
@[simp] theorem exec_redFmax d a g n : exec (.redFmax d a g n) s = execRedFmax d a g n s := rfl
@[simp] theorem exec_redFmin d a g n : exec (.redFmin d a g n) s = execRedFmin d a g n s := rfl
@[simp] theorem exec_redAnd d a g n : exec (.redAnd d a g n) s = execRedAnd d a g n s := rfl
@[simp] theorem exec_redOr d a g n : exec (.redOr d a g n) s = execRedOr d a g n s := rfl
@[simp] theorem exec_redXor d a g n : exec (.redXor d a g n) s = execRedXor d a g n s := rfl
@[simp] theorem exec_redMaxi d a b g n : exec (.redMaxi d a b g n) s = execRedMaxi d a b g n s := rfl
@[simp] theorem exec_redMini d a b g n : exec (.redMini d a b g n) s = execRedMini d a b g n s := rfl
@[simp] theorem exec_redFmaxi d a b g n : exec (.redFmaxi d a b g n) s = execRedFmaxi d a b g n s := rfl
@[simp] theorem exec_redFmini d a b g n : exec (.redFmini d a b g n) s = execRedFmini d a b g n s := rfl
@[simp] theorem exec_scanAdd d a g n : exec (.scanAdd d a g n) s = execScanAdd d a g n s := rfl
@[simp] theorem exec_scanxAdd d a g n : exec (.scanxAdd d a g n) s = execScanxAdd d a g n s := rfl
@[simp] theorem exec_scanFadd d a g n : exec (.scanFadd d a g n) s = execScanFadd d a g n s := rfl
@[simp] theorem exec_scanxFadd d a g n : exec (.scanxFadd d a g n) s = execScanxFadd d a g n s := rfl
@[simp] theorem exec_scanMax d a g n : exec (.scanMax d a g n) s = execScanMax d a g n s := rfl
@[simp] theorem exec_scanMin d a g n : exec (.scanMin d a g n) s = execScanMin d a g n s := rfl
@[simp] theorem exec_scanOr d a g n : exec (.scanOr d a g n) s = execScanOr d a g n s := rfl
@[simp] theorem exec_ksort d a b g n : exec (.ksort d a b g n) s = execKsort d a b g n s := rfl
@[simp] theorem exec_kmerge d a b g n : exec (.kmerge d a b g n) s = execKmerge d a b g n s := rfl
@[simp] theorem exec_rng d a b g n : exec (.rng d a b g n) s = execRng d a b g n s := rfl
@[simp] theorem exec_rngf d a b g n : exec (.rngf d a b g n) s = execRngf d a b g n s := rfl
@[simp] theorem exec_sldB d x_s o : exec (.sldB d x_s o) s = execSldB d x_s o s := rfl
@[simp] theorem exec_sldBu d x_s o : exec (.sldBu d x_s o) s = execSldBu d x_s o s := rfl
@[simp] theorem exec_sldH d x_s o : exec (.sldH d x_s o) s = execSldH d x_s o s := rfl
@[simp] theorem exec_sldHu d x_s o : exec (.sldHu d x_s o) s = execSldHu d x_s o s := rfl
@[simp] theorem exec_sldW d x_s o : exec (.sldW d x_s o) s = execSldW d x_s o s := rfl
@[simp] theorem exec_sldWu d x_s o : exec (.sldWu d x_s o) s = execSldWu d x_s o s := rfl
@[simp] theorem exec_sldD d x_s o : exec (.sldD d x_s o) s = execSldD d x_s o s := rfl
@[simp] theorem exec_sstB d x_s o : exec (.sstB d x_s o) s = execSstB d x_s o s := rfl
@[simp] theorem exec_sstH d x_s o : exec (.sstH d x_s o) s = execSstH d x_s o s := rfl
@[simp] theorem exec_sstW d x_s o : exec (.sstW d x_s o) s = execSstW d x_s o s := rfl
@[simp] theorem exec_sstD d x_s o : exec (.sstD d x_s o) s = execSstD d x_s o s := rfl
@[simp] theorem exec_vldB d x_s e x o : exec (.vldB d x_s e x o) s = execVldB d x_s e x o s := rfl
@[simp] theorem exec_vldBu d x_s e x o : exec (.vldBu d x_s e x o) s = execVldBu d x_s e x o s := rfl
@[simp] theorem exec_vldH d x_s e x o : exec (.vldH d x_s e x o) s = execVldH d x_s e x o s := rfl
@[simp] theorem exec_vldHu d x_s e x o : exec (.vldHu d x_s e x o) s = execVldHu d x_s e x o s := rfl
@[simp] theorem exec_vldW d x_s e x o : exec (.vldW d x_s e x o) s = execVldW d x_s e x o s := rfl
@[simp] theorem exec_vldD d x_s e x o : exec (.vldD d x_s e x o) s = execVldD d x_s e x o s := rfl
@[simp] theorem exec_vldsW d x_s x o : exec (.vldsW d x_s x o) s = execVldsW d x_s x o s := rfl
@[simp] theorem exec_vldbW d x_s o : exec (.vldbW d x_s o) s = execVldbW d x_s o s := rfl
@[simp] theorem exec_vstB d x_s e x o : exec (.vstB d x_s e x o) s = execVstB d x_s e x o s := rfl
@[simp] theorem exec_vstH d x_s e x o : exec (.vstH d x_s e x o) s = execVstH d x_s e x o s := rfl
@[simp] theorem exec_vstW d x_s e x o : exec (.vstW d x_s e x o) s = execVstW d x_s e x o s := rfl
@[simp] theorem exec_vstD d x_s e x o : exec (.vstD d x_s e x o) s = execVstD d x_s e x o s := rfl
@[simp] theorem exec_vstsW d x_s x o : exec (.vstsW d x_s x o) s = execVstsW d x_s x o s := rfl
@[simp] theorem exec_tld d x_s x o : exec (.tld d x_s x o) s = execTld d x_s x o s := rfl
@[simp] theorem exec_tldt d x_s x o : exec (.tldt d x_s x o) s = execTldt d x_s x o s := rfl
@[simp] theorem exec_tst d x_s x o : exec (.tst d x_s x o) s = execTst d x_s x o s := rfl
@[simp] theorem exec_tstt d x_s x o : exec (.tstt d x_s x o) s = execTstt d x_s x o s := rfl
@[simp] theorem exec_aadd d x_s e x o c : exec (.aadd d x_s e x o c) s = execAadd d x_s e x o c s := rfl
@[simp] theorem exec_amin d x_s e x o c : exec (.amin d x_s e x o c) s = execAmin d x_s e x o c s := rfl
@[simp] theorem exec_amax d x_s e x o c : exec (.amax d x_s e x o c) s = execAmax d x_s e x o c s := rfl
@[simp] theorem exec_aminu d x_s e x o c : exec (.aminu d x_s e x o c) s = execAminu d x_s e x o c s := rfl
@[simp] theorem exec_amaxu d x_s e x o c : exec (.amaxu d x_s e x o c) s = execAmaxu d x_s e x o c s := rfl
@[simp] theorem exec_aand d x_s e x o c : exec (.aand d x_s e x o c) s = execAand d x_s e x o c s := rfl
@[simp] theorem exec_aor d x_s e x o c : exec (.aor d x_s e x o c) s = execAor d x_s e x o c s := rfl
@[simp] theorem exec_axor d x_s e x o c : exec (.axor d x_s e x o c) s = execAxor d x_s e x o c s := rfl
@[simp] theorem exec_axch d x_s e x o c : exec (.axch d x_s e x o c) s = execAxch d x_s e x o c s := rfl
@[simp] theorem exec_acas d x_s e x o c : exec (.acas d x_s e x o c) s = execAcas d x_s e x o c s := rfl
@[simp] theorem exec_afadd d x_s e x o c : exec (.afadd d x_s e x o c) s = execAfadd d x_s e x o c s := rfl
@[simp] theorem exec_aaddD d x_s e x o c : exec (.aaddD d x_s e x o c) s = execAaddD d x_s e x o c s := rfl
@[simp] theorem exec_amaxuD d x_s e x o c : exec (.amaxuD d x_s e x o c) s = execAmaxuD d x_s e x o c s := rfl
@[simp] theorem exec_acasD d x_s e x o c : exec (.acasD d x_s e x o c) s = execAcasD d x_s e x o c s := rfl
@[simp] theorem exec_fenceRel c : exec (.fenceRel c) s = execFenceRel c s := rfl
@[simp] theorem exec_fenceAcq c : exec (.fenceAcq c) s = execFenceAcq c s := rfl
@[simp] theorem exec_fenceFull c : exec (.fenceFull c) s = execFenceFull c s := rfl
@[simp] theorem exec_qfence m : exec (.qfence m) s = execQfence m s := rfl
@[simp] theorem exec_waita d a : exec (.waita d a) s = execWaita d a s := rfl
@[simp] theorem exec_waitq d q : exec (.waitq d q) s = execWaitq d q s := rfl
@[simp] theorem exec_cpy d a q : exec (.cpy d a q) s = execCpy d a q s := rfl
@[simp] theorem exec_qseq d q : exec (.qseq d q) s = execQseq d q s := rfl
@[simp] theorem exec_tndef a t : exec (.tndef a t) s = execTndef a t s := rfl
@[simp] theorem exec_tnrel t : exec (.tnrel t) s = execTnrel t s := rfl
@[simp] theorem exec_tnget d t : exec (.tnget d t) s = execTnget d t s := rfl
@[simp] theorem exec_mleaf d x_s k t : exec (.mleaf d x_s k t) s = execMleaf d x_s k t s := rfl
@[simp] theorem exec_mconst d x_s y k : exec (.mconst d x_s y k) s = execMconst d x_s y k s := rfl
@[simp] theorem exec_mtri d a x_s : exec (.mtri d a x_s) s = execMtri d a x_s s := rfl
@[simp] theorem exec_mscl d a x_s : exec (.mscl d a x_s) s = execMscl d a x_s s := rfl
@[simp] theorem exec_mmul d a b t k x_s q : exec (.mmul d a b t k x_s q) s = execMmul d a b t k x_s q s := rfl
@[simp] theorem exec_meadd d a b x_s : exec (.meadd d a b x_s) s = execMeadd d a b x_s s := rfl
@[simp] theorem exec_mesub d a b x_s : exec (.mesub d a b x_s) s = execMesub d a b x_s s := rfl
@[simp] theorem exec_memul d a b x_s : exec (.memul d a b x_s) s = execMemul d a b x_s s := rfl
@[simp] theorem exec_mtrn d a : exec (.mtrn d a) s = execMtrn d a s := rfl
@[simp] theorem exec_mcvt d a t r f : exec (.mcvt d a t r f) s = execMcvt d a t r f s := rfl
@[simp] theorem exec_mact d a k : exec (.mact d a k) s = execMact d a k s := rfl
@[simp] theorem exec_force n : exec (.force n) s = execForce n s := rfl
@[simp] theorem exec_mdrop n : exec (.mdrop n) s = execMdrop n s := rfl
@[simp] theorem exec_mrd d n x_s : exec (.mrd d n x_s) s = execMrd d n x_s s := rfl
@[simp] theorem exec_mst n t x_s f : exec (.mst n t x_s f) s = execMst n t x_s f s := rfl
@[simp] theorem exec_macc n k x_s t x_i : exec (.macc n k x_s t x_i) s = execMacc n k x_s t x_i s := rfl
@[simp] theorem exec_mstat n d : exec (.mstat n d) s = execMstat n d s := rfl
@[simp] theorem exec_tend : exec (.tend) s = execTend s := rfl
@[simp] theorem exec_tinst d : exec (.tinst d) s = execTinst d s := rfl
@[simp] theorem exec_tstg d : exec (.tstg d) s = execTstg d s := rfl
@[simp] theorem exec_tbud d k : exec (.tbud d k) s = execTbud d k s := rfl
@[simp] theorem exec_tslk d : exec (.tslk d) s = execTslk d s := rfl
@[simp] theorem exec_enq a n g : exec (.enq a n g) s = execEnq a n g s := rfl
@[simp] theorem exec_enqv f n g : exec (.enqv f n g) s = execEnqv f n g s := rfl
@[simp] theorem exec_launch d a t : exec (.launch d a t) s = execLaunch d a t s := rfl
@[simp] theorem exec_depnew d a : exec (.depnew d a) s = execDepnew d a s := rfl
@[simp] theorem exec_depsig a m : exec (.depsig a m) s = execDepsig a m s := rfl
@[simp] theorem exec_depwait a : exec (.depwait a) s = execDepwait a s := rfl
@[simp] theorem exec_deparm d a n g : exec (.deparm d a n g) s = execDeparm d a n g s := rfl
@[simp] theorem exec_gnew d : exec (.gnew d) s = execGnew d s := rfl
@[simp] theorem exec_gjoin a : exec (.gjoin a) s = execGjoin a s := rfl
@[simp] theorem exec_gleave a : exec (.gleave a) s = execGleave a s := rfl
@[simp] theorem exec_gbar a : exec (.gbar a) s = execGbar a s := rfl
@[simp] theorem exec_gsize d a : exec (.gsize d a) s = execGsize d a s := rfl
@[simp] theorem exec_sysr d n : exec (.sysr d n) s = execSysr d n s := rfl
@[simp] theorem exec_sysw a n : exec (.sysw a n) s = execSysw a n s := rfl
@[simp] theorem exec_trap c : exec (.trap c) s = execTrap c s := rfl
@[simp] theorem exec_nop : exec (.nop) s = execNop s := rfl
@[simp] theorem exec_cdrain d a : exec (.cdrain d a) s = execCdrain d a s := rfl
@[simp] theorem exec_cscan d a : exec (.cscan d a) s = execCscan d a s := rfl
@[simp] theorem exec_csig d a : exec (.csig d a) s = execCsig d a s := rfl
@[simp] theorem exec_cmaprm a : exec (.cmaprm a) s = execCmaprm a s := rfl
@[simp] theorem exec_cmapad a : exec (.cmapad a) s = execCmapad a s := rfl
@[simp] theorem exec_creset a : exec (.creset a) s = execCreset a s := rfl
@[simp] theorem exec_eret : exec (.eret) s = execEret s := rfl
@[simp] theorem exec_clauseIssue die core port flips : exec (.clauseIssue die core port flips) s = execClauseIssue die core port flips s := rfl
@[simp] theorem exec_flightCommit gid upset : exec (.flightCommit gid upset) s = execFlightCommit gid upset s := rfl
@[simp] theorem exec_resultArrival gid req ext : exec (.resultArrival gid req ext) s = execResultArrival gid req ext s := rfl
@[simp] theorem exec_pageWalk gid vpn : exec (.pageWalk gid vpn) s = execPageWalk gid vpn s := rfl
@[simp] theorem exec_scratchRefill die core slot page : exec (.scratchRefill die core slot page) s = execScratchRefill die core slot page s := rfl
@[simp] theorem exec_relaunch gid port : exec (.relaunch gid port) s = execRelaunch gid port s := rfl
@[simp] theorem exec_preemptGang gid : exec (.preemptGang gid) s = execPreemptGang gid s := rfl
@[simp] theorem exec_recordMove gid die core : exec (.recordMove gid die core) s = execRecordMove gid die core s := rfl
@[simp] theorem exec_gatherTimeout gather : exec (.gatherTimeout gather) s = execGatherTimeout gather s := rfl
@[simp] theorem exec_dispatch die : exec (.dispatch die) s = execDispatch die s := rfl
@[simp] theorem exec_admission die : exec (.admission die) s = execAdmission die s := rfl
@[simp] theorem exec_enqueueOffer win : exec (.enqueueOffer win) s = execEnqueueOffer win s := rfl
@[simp] theorem exec_enqueueBackoff win : exec (.enqueueBackoff win) s = execEnqueueBackoff win s := rfl
@[simp] theorem exec_counterDecrement id : exec (.counterDecrement id) s = execCounterDecrement id s := rfl
@[simp] theorem exec_gbarArrival gid : exec (.gbarArrival gid) s = execGbarArrival gid s := rfl
@[simp] theorem exec_watchChange gid : exec (.watchChange gid) s = execWatchChange gid s := rfl
@[simp] theorem exec_homeStore id : exec (.homeStore id) s = execHomeStore id s := rfl
@[simp] theorem exec_homeAtomic id : exec (.homeAtomic id) s = execHomeAtomic id s := rfl
@[simp] theorem exec_remoteScratchAccess op : exec (.remoteScratchAccess op) s = execRemoteScratchAccess op s := rfl
@[simp] theorem exec_clusterPathFail die src dst : exec (.clusterPathFail die src dst) s = execClusterPathFail die src dst s := rfl
@[simp] theorem exec_copyBeat die core q ext : exec (.copyBeat die core q ext) s = execCopyBeat die core q ext s := rfl
@[simp] theorem exec_copyNotify die core q : exec (.copyNotify die core q) s = execCopyNotify die core q s := rfl
@[simp] theorem exec_arrayOperandStep die core : exec (.arrayOperandStep die core) s = execArrayOperandStep die core s := rfl
@[simp] theorem exec_emulatedStepDone die core host : exec (.emulatedStepDone die core host) s = execEmulatedStepDone die core host s := rfl
@[simp] theorem exec_deadmiss die slot : exec (.deadmiss die slot) s = execDeadmiss die slot s := rfl
@[simp] theorem exec_preemptTimeout ctx : exec (.preemptTimeout ctx) s = execPreemptTimeout ctx s := rfl
@[simp] theorem exec_contextDrainDone ctx : exec (.contextDrainDone ctx) s = execContextDrainDone ctx s := rfl
@[simp] theorem exec_waitforBuild die : exec (.waitforBuild die) s = execWaitforBuild die s := rfl
@[simp] theorem exec_sampleWindow die data : exec (.sampleWindow die data) s = execSampleWindow die data s := rfl
@[simp] theorem exec_tlbinv die v : exec (.tlbinv die v) s = execTlbinv die v s := rfl
@[simp] theorem exec_shootdownComplete die : exec (.shootdownComplete die) s = execShootdownComplete die s := rfl
@[simp] theorem exec_evdone die tag : exec (.evdone die tag) s = execEvdone die tag s := rfl
@[simp] theorem exec_dbgresume die tag : exec (.dbgresume die tag) s = execDbgresume die tag s := rfl
@[simp] theorem exec_sampctl die v : exec (.sampctl die v) s = execSampctl die v s := rfl
@[simp] theorem exec_contain die v : exec (.contain die v) s = execContain die v s := rfl
@[simp] theorem exec_cdrainDone die core : exec (.cdrainDone die core) s = execCdrainDone die core s := rfl
@[simp] theorem exec_cscanDone die core sig : exec (.cscanDone die core sig) s = execCscanDone die core sig s := rfl
@[simp] theorem exec_causalMessage src dst : exec (.causalMessage src dst) s = execCausalMessage src dst s := rfl
@[simp] theorem exec_replicaFill die line : exec (.replicaFill die line) s = execReplicaFill die line s := rfl
@[simp] theorem exec_d2dLinkFail src dst : exec (.d2dLinkFail src dst) s = execD2dLinkFail src dst s := rfl
@[simp] theorem exec_fabricRequest req : exec (.fabricRequest req) s = execFabricRequest req s := rfl
@[simp] theorem exec_fabricAck id data : exec (.fabricAck id data) s = execFabricAck id data s := rfl
@[simp] theorem exec_fabricLinkFail link : exec (.fabricLinkFail link) s = execFabricLinkFail link s := rfl
@[simp] theorem exec_fabricTimeout id : exec (.fabricTimeout id) s = execFabricTimeout id s := rfl
@[simp] theorem exec_patrolScrub line found : exec (.patrolScrub line found) s = execPatrolScrub line found s := rfl
@[simp] theorem exec_powerThrottle die permits mhz : exec (.powerThrottle die permits mhz) s = execPowerThrottle die permits mhz s := rfl
@[simp] theorem exec_bringUp fuses : exec (.bringUp fuses) s = execBringUp fuses s := rfl
@[simp] theorem exec_attestationRequest nonce : exec (.attestationRequest nonce) s = execAttestationRequest nonce s := rfl
@[simp] theorem exec_tail c v : exec (.tail c v) s = execTail c v s := rfl
@[simp] theorem exec_chainRecord c : exec (.chainRecord c) s = execChainRecord c s := rfl
@[simp] theorem exec_frcons c v : exec (.frcons c v) s = execFrcons c v s := rfl
@[simp] theorem exec_ctxctlStart c : exec (.ctxctlStart c) s = execCtxctlStart c s := rfl
@[simp] theorem exec_ctxctlSwitchOut c : exec (.ctxctlSwitchOut c) s = execCtxctlSwitchOut c s := rfl
@[simp] theorem exec_ctxctlResume c : exec (.ctxctlResume c) s = execCtxctlResume c s := rfl
@[simp] theorem exec_ctxctlEnd c : exec (.ctxctlEnd c) s = execCtxctlEnd c s := rfl
@[simp] theorem exec_ctxbase v : exec (.ctxbase v) s = execCtxbase v s := rfl
@[simp] theorem exec_fabid v : exec (.fabid v) s = execFabid v s := rfl
@[simp] theorem exec_registerWrite off v : exec (.registerWrite off v) s = execRegisterWrite off v s := rfl
@[simp] theorem exec_classifierWindow die : exec (.classifierWindow die) s = execClassifierWindow die s := rfl
@[simp] theorem exec_replicaDrop die line : exec (.replicaDrop die line) s = execReplicaDrop die line s := rfl
@[simp] theorem exec_hostAdmissionAnswer die status : exec (.hostAdmissionAnswer die status) s = execHostAdmissionAnswer die status s := rfl

end Sys2Proof.Machine
end

