-- ==== Sys2Proof/Laws/Map.lean ====
section
/-!
SUPPORT. The laws of sparse maps: what is read after a write, and that writes keep the canonical form.
-/

namespace Sys2Proof.Machine

variable {α : Type}

@[simp] theorem look?_nil (i : Nat) : look? ([] : List (Nat × α)) i = none := rfl

@[simp] theorem look_nil (d : α) (i : Nat) : look d [] i = d := rfl

/-- Erasing a key takes away its entry and no other. -/
theorem look?_erase (m : List (Nat × α)) (i j : Nat) : look? (erase m i) j = if i = j then none else look? m j := by
  induction m with
  | nil => simp [erase]
  | cons e m ih =>
    obtain ⟨k, v⟩ := e
    by_cases h : k = i <;> by_cases h' : k = j <;> simp_all [erase, look?]
    all_goals (intro h''; simp_all)

/-- Inserting a key that has no entry gives it one and keeps the others. -/
theorem look?_insertAt (m : List (Nat × α)) (i j : Nat) (x : α) (h : look? m i = none) :
    look? (insertAt m i x) j = if i = j then some x else look? m j := by
  induction m with
  | nil => simp [insertAt, look?]
  | cons e m ih =>
    obtain ⟨k, v⟩ := e
    by_cases hk : k = i
    · simp [look?, hk] at h
    · have h' : look? m i = none := by simpa [look?, hk] using h
      by_cases hlt : i < k
      · simp [insertAt, hlt, look?]
      · by_cases hj : k = j
        · subst hj; simp [insertAt, hlt, look?, Ne.symm hk]
        · simp [insertAt, hlt, look?, hj, ih h']

/-- Read after write of an entry. -/
theorem look?_put? (m : List (Nat × α)) (i j : Nat) (x : Option α) : look? (put? m i x) j = if i = j then x else look? m j := by
  cases x with
  | none => simp [put?, look?_erase]
  | some x =>
    have h : look? (erase m i) i = none := by simp [look?_erase]
    simp only [put?, look?_insertAt _ _ _ _ h, look?_erase]
    split <;> rfl

@[simp] theorem look?_put?_same (m : List (Nat × α)) (i : Nat) (x : Option α) : look? (put? m i x) i = x := by simp [look?_put?]

theorem look?_put?_other (m : List (Nat × α)) {i j : Nat} (x : Option α) (h : i ≠ j) : look? (put? m i x) j = look? m j := by
  simp [look?_put?, h]

variable [DecidableEq α]

/-- Read after write of a value. -/
theorem look_put (d : α) (m : List (Nat × α)) (i j : Nat) (x : α) : look d (put d m i x) j = if i = j then x else look d m j := by
  by_cases h : i = j <;> by_cases hx : x = d <;> simp_all [look, put, look?_put?]

@[simp] theorem look_put_same (d : α) (m : List (Nat × α)) (i : Nat) (x : α) : look d (put d m i x) i = x := by simp [look_put]

theorem look_put_other (d : α) (m : List (Nat × α)) {i j : Nat} (x : α) (h : i ≠ j) : look d (put d m i x) j = look d m j := by
  simp [look_put, h]

/-- Read after a change of a value. -/
theorem look_alter (d : α) (m : List (Nat × α)) (i j : Nat) (f : α → α) :
    look d (alter d m i f) j = if i = j then f (look d m j) else look d m j := by
  by_cases h : i = j <;> simp [alter, look_put, h]

/-! ## The canonical form -/

omit [DecidableEq α] in
theorem sortedAbove_mono {lo lo' : Nat} (h : lo' ≤ lo) (m : List (Nat × α)) (hm : sortedAbove lo m = true) : sortedAbove lo' m = true := by
  cases m with
  | nil => rfl
  | cons e m => simp [sortedAbove] at hm ⊢; exact ⟨by omega, hm.2⟩

omit [DecidableEq α] in
theorem sortedAbove_erase (m : List (Nat × α)) : ∀ (lo i : Nat), sortedAbove lo m = true → sortedAbove lo (erase m i) = true := by
  induction m with
  | nil => intro _ _ h; simpa [erase] using h
  | cons e m ih =>
    obtain ⟨k, v⟩ := e
    intro lo i h
    simp [sortedAbove] at h
    by_cases hk : k = i
    · simp only [erase, hk, if_true]; exact sortedAbove_mono (by omega) _ (ih _ i h.2)
    · simp [erase, hk, sortedAbove, h.1, ih _ i h.2]

omit [DecidableEq α] in
theorem sortedAbove_insertAt (m : List (Nat × α)) (x : α) : ∀ (lo i : Nat), sortedAbove lo m = true → lo ≤ i →
    look? m i = none → sortedAbove lo (insertAt m i x) = true := by
  induction m with
  | nil => intro _ _ _ hi _; simp [insertAt, sortedAbove, hi]
  | cons e m ih =>
    obtain ⟨k, v⟩ := e
    intro lo i h hi hn
    simp [sortedAbove] at h
    have hk : k ≠ i := by intro hk; simp [look?, hk] at hn
    have hn' : look? m i = none := by simpa [look?, hk] using hn
    by_cases hlt : i < k
    · simp [insertAt, hlt, sortedAbove, hi]; exact h.2
    · simp [insertAt, hlt, sortedAbove, h.1]; exact ih _ _ h.2 (by omega) hn'

omit [DecidableEq α] in
theorem all_erase (p : Nat × α → Bool) (m : List (Nat × α)) (i : Nat) (h : m.all p = true) : (erase m i).all p = true := by
  induction m with
  | nil => simp [erase]
  | cons e m ih =>
    obtain ⟨k, v⟩ := e
    simp at h
    by_cases hk : k = i <;> simp [erase, hk] <;> simp at ih
    · exact ih h.2
    · exact ⟨h.1, ih h.2⟩

omit [DecidableEq α] in
theorem all_insertAt (p : Nat × α → Bool) (m : List (Nat × α)) (i : Nat) (x : α) (h : m.all p = true) (hx : p (i, x) = true) :
    (insertAt m i x).all p = true := by
  induction m with
  | nil => simp [insertAt, hx]
  | cons e m ih =>
    obtain ⟨k, v⟩ := e
    simp at h
    by_cases hk : i < k <;> simp [insertAt, hk, hx] <;> simp at ih
    · exact h
    · exact ⟨h.1, ih h.2⟩

/-- A write keeps the canonical form. -/
theorem mapWf_put (d : α) (m : List (Nat × α)) (i : Nat) (x : α) (h : mapWf d m = true) : mapWf d (put d m i x) = true := by
  simp only [mapWf, Bool.and_eq_true] at h ⊢
  by_cases hx : x = d
  · simp only [put, hx, if_true, put?]
    exact ⟨sortedAbove_erase _ _ _ h.1, all_erase _ _ _ h.2⟩
  · simp only [put, hx, if_false, put?]
    refine ⟨sortedAbove_insertAt _ _ _ _ (sortedAbove_erase _ _ _ h.1) (Nat.zero_le _) (by simp [look?_erase]), ?_⟩
    exact all_insertAt _ _ _ _ (all_erase _ _ _ h.2) (by simp [hx])

end Sys2Proof.Machine
end

