-- ==== Sys2Proof/Laws/State.lean ====
section
/-!
SUPPORT. What each update of the state leaves of each field: one lemma for every field and update.
-/

namespace Sys2Proof.Machine

variable (s : State)

@[simp] theorem State.setDie_cur (d : Nat) (x : Die) : (s.setDie d x).cur = s.cur := rfl
@[simp] theorem State.setDie_gangs (d : Nat) (x : Die) : (s.setDie d x).gangs = s.gangs := rfl
@[simp] theorem State.setDie_agenda (d : Nat) (x : Die) : (s.setDie d x).agenda = s.agenda := rfl
@[simp] theorem State.setDie_time (d : Nat) (x : Die) : (s.setDie d x).time = s.time := rfl
@[simp] theorem State.setDie_free (d : Nat) (x : Die) : (s.setDie d x).free = s.free := rfl
@[simp] theorem State.setDie_nextId (d : Nat) (x : Die) : (s.setDie d x).nextId = s.nextId := rfl
@[simp] theorem State.setDie_mem (d : Nat) (x : Die) : (s.setDie d x).mem = s.mem := rfl
@[simp] theorem State.setDie_poison (d : Nat) (x : Die) : (s.setDie d x).poison = s.poison := rfl
@[simp] theorem State.setDie_pkg (d : Nat) (x : Die) : (s.setDie d x).pkg = s.pkg := rfl
@[simp] theorem State.setDie_dies (d : Nat) (x : Die) : (s.setDie d x).dies = put? s.dies d (some x) := rfl
@[simp] theorem State.setDie_drain (d : Nat) (x : Die) : (s.setDie d x).drain = s.drain := rfl
@[simp] theorem State.setDie_msgs (d : Nat) (x : Die) : (s.setDie d x).msgs = s.msgs := rfl
@[simp] theorem State.setDie_olds (d : Nat) (x : Die) : (s.setDie d x).olds = s.olds := rfl
@[simp] theorem State.setDie_owners (d : Nat) (x : Die) : (s.setDie d x).owners = s.owners := rfl

@[simp] theorem State.onDie_cur (d : Nat) (f : Die → Die) : (s.onDie d f).cur = s.cur := rfl
@[simp] theorem State.onDie_gangs (d : Nat) (f : Die → Die) : (s.onDie d f).gangs = s.gangs := rfl
@[simp] theorem State.onDie_agenda (d : Nat) (f : Die → Die) : (s.onDie d f).agenda = s.agenda := rfl
@[simp] theorem State.onDie_time (d : Nat) (f : Die → Die) : (s.onDie d f).time = s.time := rfl
@[simp] theorem State.onDie_free (d : Nat) (f : Die → Die) : (s.onDie d f).free = s.free := rfl
@[simp] theorem State.onDie_nextId (d : Nat) (f : Die → Die) : (s.onDie d f).nextId = s.nextId := rfl
@[simp] theorem State.onDie_mem (d : Nat) (f : Die → Die) : (s.onDie d f).mem = s.mem := rfl
@[simp] theorem State.onDie_poison (d : Nat) (f : Die → Die) : (s.onDie d f).poison = s.poison := rfl
@[simp] theorem State.onDie_pkg (d : Nat) (f : Die → Die) : (s.onDie d f).pkg = s.pkg := rfl
@[simp] theorem State.onDie_dies (d : Nat) (f : Die → Die) : (s.onDie d f).dies = put? s.dies d (some (f (s.die d))) := rfl
@[simp] theorem State.onDie_drain (d : Nat) (f : Die → Die) : (s.onDie d f).drain = s.drain := rfl
@[simp] theorem State.onDie_msgs (d : Nat) (f : Die → Die) : (s.onDie d f).msgs = s.msgs := rfl
@[simp] theorem State.onDie_olds (d : Nat) (f : Die → Die) : (s.onDie d f).olds = s.olds := rfl
@[simp] theorem State.onDie_owners (d : Nat) (f : Die → Die) : (s.onDie d f).owners = s.owners := rfl

@[simp] theorem State.onCore_cur (d c : Nat) (f : Core → Core) : (s.onCore d c f).cur = s.cur := rfl
@[simp] theorem State.onCore_gangs (d c : Nat) (f : Core → Core) : (s.onCore d c f).gangs = s.gangs := rfl
@[simp] theorem State.onCore_agenda (d c : Nat) (f : Core → Core) : (s.onCore d c f).agenda = s.agenda := rfl
@[simp] theorem State.onCore_time (d c : Nat) (f : Core → Core) : (s.onCore d c f).time = s.time := rfl
@[simp] theorem State.onCore_free (d c : Nat) (f : Core → Core) : (s.onCore d c f).free = s.free := rfl
@[simp] theorem State.onCore_nextId (d c : Nat) (f : Core → Core) : (s.onCore d c f).nextId = s.nextId := rfl
@[simp] theorem State.onCore_mem (d c : Nat) (f : Core → Core) : (s.onCore d c f).mem = s.mem := rfl
@[simp] theorem State.onCore_poison (d c : Nat) (f : Core → Core) : (s.onCore d c f).poison = s.poison := rfl
@[simp] theorem State.onCore_pkg (d c : Nat) (f : Core → Core) : (s.onCore d c f).pkg = s.pkg := rfl
@[simp] theorem State.onCore_dies (d c : Nat) (f : Core → Core) : (s.onCore d c f).dies = put? s.dies d (some ((s.die d).onCore c f)) := rfl
@[simp] theorem State.onCore_drain (d c : Nat) (f : Core → Core) : (s.onCore d c f).drain = s.drain := rfl
@[simp] theorem State.onCore_msgs (d c : Nat) (f : Core → Core) : (s.onCore d c f).msgs = s.msgs := rfl
@[simp] theorem State.onCore_olds (d c : Nat) (f : Core → Core) : (s.onCore d c f).olds = s.olds := rfl
@[simp] theorem State.onCore_owners (d c : Nat) (f : Core → Core) : (s.onCore d c f).owners = s.owners := rfl

@[simp] theorem State.onInst_cur (d i : Nat) (f : Inst → Inst) : (s.onInst d i f).cur = s.cur := rfl
@[simp] theorem State.onInst_gangs (d i : Nat) (f : Inst → Inst) : (s.onInst d i f).gangs = s.gangs := rfl
@[simp] theorem State.onInst_agenda (d i : Nat) (f : Inst → Inst) : (s.onInst d i f).agenda = s.agenda := rfl
@[simp] theorem State.onInst_time (d i : Nat) (f : Inst → Inst) : (s.onInst d i f).time = s.time := rfl
@[simp] theorem State.onInst_free (d i : Nat) (f : Inst → Inst) : (s.onInst d i f).free = s.free := rfl
@[simp] theorem State.onInst_nextId (d i : Nat) (f : Inst → Inst) : (s.onInst d i f).nextId = s.nextId := rfl
@[simp] theorem State.onInst_mem (d i : Nat) (f : Inst → Inst) : (s.onInst d i f).mem = s.mem := rfl
@[simp] theorem State.onInst_poison (d i : Nat) (f : Inst → Inst) : (s.onInst d i f).poison = s.poison := rfl
@[simp] theorem State.onInst_pkg (d i : Nat) (f : Inst → Inst) : (s.onInst d i f).pkg = s.pkg := rfl
@[simp] theorem State.onInst_dies (d i : Nat) (f : Inst → Inst) : (s.onInst d i f).dies = put? s.dies (homeInst d i).1 (some { s.die (homeInst d i).1 with insts := alter? (s.die (homeInst d i).1).insts (homeInst d i).2 f }) := rfl
@[simp] theorem State.onInst_drain (d i : Nat) (f : Inst → Inst) : (s.onInst d i f).drain = s.drain := rfl
@[simp] theorem State.onInst_msgs (d i : Nat) (f : Inst → Inst) : (s.onInst d i f).msgs = s.msgs := rfl
@[simp] theorem State.onInst_olds (d i : Nat) (f : Inst → Inst) : (s.onInst d i f).olds = s.olds := rfl
@[simp] theorem State.onInst_owners (d i : Nat) (f : Inst → Inst) : (s.onInst d i f).owners = s.owners := rfl

@[simp] theorem State.onCtx_cur (c : Nat) (f : Ctx → Ctx) : (s.onCtx c f).cur = s.cur := rfl
@[simp] theorem State.onCtx_gangs (c : Nat) (f : Ctx → Ctx) : (s.onCtx c f).gangs = s.gangs := rfl
@[simp] theorem State.onCtx_agenda (c : Nat) (f : Ctx → Ctx) : (s.onCtx c f).agenda = s.agenda := rfl
@[simp] theorem State.onCtx_time (c : Nat) (f : Ctx → Ctx) : (s.onCtx c f).time = s.time := rfl
@[simp] theorem State.onCtx_free (c : Nat) (f : Ctx → Ctx) : (s.onCtx c f).free = s.free := rfl
@[simp] theorem State.onCtx_nextId (c : Nat) (f : Ctx → Ctx) : (s.onCtx c f).nextId = s.nextId := rfl
@[simp] theorem State.onCtx_mem (c : Nat) (f : Ctx → Ctx) : (s.onCtx c f).mem = s.mem := rfl
@[simp] theorem State.onCtx_poison (c : Nat) (f : Ctx → Ctx) : (s.onCtx c f).poison = s.poison := rfl
@[simp] theorem State.onCtx_pkg (c : Nat) (f : Ctx → Ctx) : (s.onCtx c f).pkg = { s.pkg with ctxs := put Ctx.idle s.pkg.ctxs c (f (s.ctx c)) } := rfl
@[simp] theorem State.onCtx_dies (c : Nat) (f : Ctx → Ctx) : (s.onCtx c f).dies = s.dies := rfl
@[simp] theorem State.onCtx_drain (c : Nat) (f : Ctx → Ctx) : (s.onCtx c f).drain = s.drain := rfl
@[simp] theorem State.onCtx_msgs (c : Nat) (f : Ctx → Ctx) : (s.onCtx c f).msgs = s.msgs := rfl
@[simp] theorem State.onCtx_olds (c : Nat) (f : Ctx → Ctx) : (s.onCtx c f).olds = s.olds := rfl
@[simp] theorem State.onCtx_owners (c : Nat) (f : Ctx → Ctx) : (s.onCtx c f).owners = s.owners := rfl

@[simp] theorem State.onGang_cur (gid : Nat) (f : Gang → Gang) : (s.onGang gid f).cur = s.cur := rfl
@[simp] theorem State.onGang_gangs (gid : Nat) (f : Gang → Gang) : (s.onGang gid f).gangs = s.gangs.map (fun g => if g.gid = gid then f g else g) := rfl
@[simp] theorem State.onGang_agenda (gid : Nat) (f : Gang → Gang) : (s.onGang gid f).agenda = s.agenda := rfl
@[simp] theorem State.onGang_time (gid : Nat) (f : Gang → Gang) : (s.onGang gid f).time = s.time := rfl
@[simp] theorem State.onGang_free (gid : Nat) (f : Gang → Gang) : (s.onGang gid f).free = s.free := rfl
@[simp] theorem State.onGang_nextId (gid : Nat) (f : Gang → Gang) : (s.onGang gid f).nextId = s.nextId := rfl
@[simp] theorem State.onGang_mem (gid : Nat) (f : Gang → Gang) : (s.onGang gid f).mem = s.mem := rfl
@[simp] theorem State.onGang_poison (gid : Nat) (f : Gang → Gang) : (s.onGang gid f).poison = s.poison := rfl
@[simp] theorem State.onGang_pkg (gid : Nat) (f : Gang → Gang) : (s.onGang gid f).pkg = s.pkg := rfl
@[simp] theorem State.onGang_dies (gid : Nat) (f : Gang → Gang) : (s.onGang gid f).dies = s.dies := rfl
@[simp] theorem State.onGang_drain (gid : Nat) (f : Gang → Gang) : (s.onGang gid f).drain = s.drain := rfl
@[simp] theorem State.onGang_msgs (gid : Nat) (f : Gang → Gang) : (s.onGang gid f).msgs = s.msgs := rfl
@[simp] theorem State.onGang_olds (gid : Nat) (f : Gang → Gang) : (s.onGang gid f).olds = s.olds := rfl
@[simp] theorem State.onGang_owners (gid : Nat) (f : Gang → Gang) : (s.onGang gid f).owners = s.owners := rfl

@[simp] theorem State.dropGang_cur (gid : Nat) : (s.dropGang gid).cur = s.cur := rfl
@[simp] theorem State.dropGang_gangs (gid : Nat) : (s.dropGang gid).gangs = s.gangs.filter (fun g => g.gid != gid) := rfl
@[simp] theorem State.dropGang_agenda (gid : Nat) : (s.dropGang gid).agenda = s.agenda := rfl
@[simp] theorem State.dropGang_time (gid : Nat) : (s.dropGang gid).time = s.time := rfl
@[simp] theorem State.dropGang_free (gid : Nat) : (s.dropGang gid).free = s.free := rfl
@[simp] theorem State.dropGang_nextId (gid : Nat) : (s.dropGang gid).nextId = s.nextId := rfl
@[simp] theorem State.dropGang_mem (gid : Nat) : (s.dropGang gid).mem = s.mem := rfl
@[simp] theorem State.dropGang_poison (gid : Nat) : (s.dropGang gid).poison = s.poison := rfl
@[simp] theorem State.dropGang_pkg (gid : Nat) : (s.dropGang gid).pkg = s.pkg := rfl
@[simp] theorem State.dropGang_dies (gid : Nat) : (s.dropGang gid).dies = s.dies := rfl
@[simp] theorem State.dropGang_drain (gid : Nat) : (s.dropGang gid).drain = s.drain := rfl
@[simp] theorem State.dropGang_msgs (gid : Nat) : (s.dropGang gid).msgs = s.msgs := rfl
@[simp] theorem State.dropGang_olds (gid : Nat) : (s.dropGang gid).olds = s.olds := rfl
@[simp] theorem State.dropGang_owners (gid : Nat) : (s.dropGang gid).owners = s.owners := rfl

@[simp] theorem State.setByte_cur (pa : Nat) (b : Byte) : (s.setByte pa b).cur = s.cur := rfl
@[simp] theorem State.setByte_gangs (pa : Nat) (b : Byte) : (s.setByte pa b).gangs = s.gangs := rfl
@[simp] theorem State.setByte_agenda (pa : Nat) (b : Byte) : (s.setByte pa b).agenda = s.agenda := rfl
@[simp] theorem State.setByte_time (pa : Nat) (b : Byte) : (s.setByte pa b).time = s.time := rfl
@[simp] theorem State.setByte_free (pa : Nat) (b : Byte) : (s.setByte pa b).free = s.free := rfl
@[simp] theorem State.setByte_nextId (pa : Nat) (b : Byte) : (s.setByte pa b).nextId = s.nextId := rfl
@[simp] theorem State.setByte_mem (pa : Nat) (b : Byte) : (s.setByte pa b).mem = put unlisted s.mem pa b := rfl
@[simp] theorem State.setByte_poison (pa : Nat) (b : Byte) : (s.setByte pa b).poison = s.poison := rfl
@[simp] theorem State.setByte_pkg (pa : Nat) (b : Byte) : (s.setByte pa b).pkg = s.pkg := rfl
@[simp] theorem State.setByte_dies (pa : Nat) (b : Byte) : (s.setByte pa b).dies = s.dies := rfl
@[simp] theorem State.setByte_drain (pa : Nat) (b : Byte) : (s.setByte pa b).drain = s.drain := rfl
@[simp] theorem State.setByte_msgs (pa : Nat) (b : Byte) : (s.setByte pa b).msgs = s.msgs := rfl
@[simp] theorem State.setByte_olds (pa : Nat) (b : Byte) : (s.setByte pa b).olds = s.olds := rfl
@[simp] theorem State.setByte_owners (pa : Nat) (b : Byte) : (s.setByte pa b).owners = s.owners := rfl

@[simp] theorem State.setPoison_cur (pa : Nat) (b : Bool) : (s.setPoison pa b).cur = s.cur := rfl
@[simp] theorem State.setPoison_gangs (pa : Nat) (b : Bool) : (s.setPoison pa b).gangs = s.gangs := rfl
@[simp] theorem State.setPoison_agenda (pa : Nat) (b : Bool) : (s.setPoison pa b).agenda = s.agenda := rfl
@[simp] theorem State.setPoison_time (pa : Nat) (b : Bool) : (s.setPoison pa b).time = s.time := rfl
@[simp] theorem State.setPoison_free (pa : Nat) (b : Bool) : (s.setPoison pa b).free = s.free := rfl
@[simp] theorem State.setPoison_nextId (pa : Nat) (b : Bool) : (s.setPoison pa b).nextId = s.nextId := rfl
@[simp] theorem State.setPoison_mem (pa : Nat) (b : Bool) : (s.setPoison pa b).mem = s.mem := rfl
@[simp] theorem State.setPoison_poison (pa : Nat) (b : Bool) : (s.setPoison pa b).poison = put false s.poison (pa / 64) b := rfl
@[simp] theorem State.setPoison_pkg (pa : Nat) (b : Bool) : (s.setPoison pa b).pkg = s.pkg := rfl
@[simp] theorem State.setPoison_dies (pa : Nat) (b : Bool) : (s.setPoison pa b).dies = s.dies := rfl
@[simp] theorem State.setPoison_drain (pa : Nat) (b : Bool) : (s.setPoison pa b).drain = s.drain := rfl
@[simp] theorem State.setPoison_msgs (pa : Nat) (b : Bool) : (s.setPoison pa b).msgs = s.msgs := rfl
@[simp] theorem State.setPoison_olds (pa : Nat) (b : Bool) : (s.setPoison pa b).olds = s.olds := rfl
@[simp] theorem State.setPoison_owners (pa : Nat) (b : Bool) : (s.setPoison pa b).owners = s.owners := rfl

@[simp] theorem State.setArch_cur (r : Running) (a : Arch) : (s.setArch r a).cur = some { r with gang := { r.gang with arch := a } } := rfl
@[simp] theorem State.setArch_gangs (r : Running) (a : Arch) : (s.setArch r a).gangs = s.gangs := rfl
@[simp] theorem State.setArch_agenda (r : Running) (a : Arch) : (s.setArch r a).agenda = s.agenda := rfl
@[simp] theorem State.setArch_time (r : Running) (a : Arch) : (s.setArch r a).time = s.time := rfl
@[simp] theorem State.setArch_free (r : Running) (a : Arch) : (s.setArch r a).free = s.free := rfl
@[simp] theorem State.setArch_nextId (r : Running) (a : Arch) : (s.setArch r a).nextId = s.nextId := rfl
@[simp] theorem State.setArch_mem (r : Running) (a : Arch) : (s.setArch r a).mem = s.mem := rfl
@[simp] theorem State.setArch_poison (r : Running) (a : Arch) : (s.setArch r a).poison = s.poison := rfl
@[simp] theorem State.setArch_pkg (r : Running) (a : Arch) : (s.setArch r a).pkg = s.pkg := rfl
@[simp] theorem State.setArch_dies (r : Running) (a : Arch) : (s.setArch r a).dies = s.dies := rfl
@[simp] theorem State.setArch_drain (r : Running) (a : Arch) : (s.setArch r a).drain = s.drain := rfl
@[simp] theorem State.setArch_msgs (r : Running) (a : Arch) : (s.setArch r a).msgs = s.msgs := rfl
@[simp] theorem State.setArch_olds (r : Running) (a : Arch) : (s.setArch r a).olds = s.olds := rfl
@[simp] theorem State.setArch_owners (r : Running) (a : Arch) : (s.setArch r a).owners = s.owners := rfl

@[simp] theorem State.setRun_cur (r : Running) : (s.setRun r).cur = some r := rfl
@[simp] theorem State.setRun_gangs (r : Running) : (s.setRun r).gangs = s.gangs := rfl
@[simp] theorem State.setRun_agenda (r : Running) : (s.setRun r).agenda = s.agenda := rfl
@[simp] theorem State.setRun_time (r : Running) : (s.setRun r).time = s.time := rfl
@[simp] theorem State.setRun_free (r : Running) : (s.setRun r).free = s.free := rfl
@[simp] theorem State.setRun_nextId (r : Running) : (s.setRun r).nextId = s.nextId := rfl
@[simp] theorem State.setRun_mem (r : Running) : (s.setRun r).mem = s.mem := rfl
@[simp] theorem State.setRun_poison (r : Running) : (s.setRun r).poison = s.poison := rfl
@[simp] theorem State.setRun_pkg (r : Running) : (s.setRun r).pkg = s.pkg := rfl
@[simp] theorem State.setRun_dies (r : Running) : (s.setRun r).dies = s.dies := rfl
@[simp] theorem State.setRun_drain (r : Running) : (s.setRun r).drain = s.drain := rfl
@[simp] theorem State.setRun_msgs (r : Running) : (s.setRun r).msgs = s.msgs := rfl
@[simp] theorem State.setRun_olds (r : Running) : (s.setRun r).olds = s.olds := rfl
@[simp] theorem State.setRun_owners (r : Running) : (s.setRun r).owners = s.owners := rfl

@[simp] theorem State.yieldPort_cur (r : Running) : (s.yieldPort r).cur = none := rfl
@[simp] theorem State.yieldPort_gangs (r : Running) : (s.yieldPort r).gangs = s.gangs ++ [r.gang] := rfl
@[simp] theorem State.yieldPort_agenda (r : Running) : (s.yieldPort r).agenda = s.agenda := rfl
@[simp] theorem State.yieldPort_time (r : Running) : (s.yieldPort r).time = s.time := rfl
@[simp] theorem State.yieldPort_free (r : Running) : (s.yieldPort r).free = s.free := rfl
@[simp] theorem State.yieldPort_nextId (r : Running) : (s.yieldPort r).nextId = s.nextId := rfl
@[simp] theorem State.yieldPort_mem (r : Running) : (s.yieldPort r).mem = s.mem := rfl
@[simp] theorem State.yieldPort_poison (r : Running) : (s.yieldPort r).poison = s.poison := rfl
@[simp] theorem State.yieldPort_pkg (r : Running) : (s.yieldPort r).pkg = s.pkg := rfl
@[simp] theorem State.yieldPort_dies (r : Running) : (s.yieldPort r).dies = s.dies := rfl
@[simp] theorem State.yieldPort_drain (r : Running) : (s.yieldPort r).drain = s.drain := rfl
@[simp] theorem State.yieldPort_msgs (r : Running) : (s.yieldPort r).msgs = s.msgs := rfl
@[simp] theorem State.yieldPort_olds (r : Running) : (s.yieldPort r).olds = s.olds := rfl
@[simp] theorem State.yieldPort_owners (r : Running) : (s.yieldPort r).owners = s.owners := rfl

@[simp] theorem State.fresh_cur : (s.fresh.2).cur = s.cur := rfl
@[simp] theorem State.fresh_gangs : (s.fresh.2).gangs = s.gangs := rfl
@[simp] theorem State.fresh_agenda : (s.fresh.2).agenda = s.agenda := rfl
@[simp] theorem State.fresh_time : (s.fresh.2).time = s.time := rfl
@[simp] theorem State.fresh_free : (s.fresh.2).free = s.free := rfl
@[simp] theorem State.fresh_nextId : (s.fresh.2).nextId = s.nextId + 1 := rfl
@[simp] theorem State.fresh_mem : (s.fresh.2).mem = s.mem := rfl
@[simp] theorem State.fresh_poison : (s.fresh.2).poison = s.poison := rfl
@[simp] theorem State.fresh_pkg : (s.fresh.2).pkg = s.pkg := rfl
@[simp] theorem State.fresh_dies : (s.fresh.2).dies = s.dies := rfl
@[simp] theorem State.fresh_drain : (s.fresh.2).drain = s.drain := rfl
@[simp] theorem State.fresh_msgs : (s.fresh.2).msgs = s.msgs := rfl
@[simp] theorem State.fresh_olds : (s.fresh.2).olds = s.olds := rfl
@[simp] theorem State.fresh_owners : (s.fresh.2).owners = s.owners := rfl

@[simp] theorem State.holding_cur (r : Running) (n : Nat) (e : Eff) : (s.holding r n e).cur = some (r.hold s.nextId n e) := rfl
@[simp] theorem State.holding_gangs (r : Running) (n : Nat) (e : Eff) : (s.holding r n e).gangs = s.gangs := rfl
@[simp] theorem State.holding_agenda (r : Running) (n : Nat) (e : Eff) : (s.holding r n e).agenda = s.agenda := rfl
@[simp] theorem State.holding_time (r : Running) (n : Nat) (e : Eff) : (s.holding r n e).time = s.time := rfl
@[simp] theorem State.holding_free (r : Running) (n : Nat) (e : Eff) : (s.holding r n e).free = s.free := rfl
@[simp] theorem State.holding_nextId (r : Running) (n : Nat) (e : Eff) : (s.holding r n e).nextId = s.nextId + 1 := rfl
@[simp] theorem State.holding_mem (r : Running) (n : Nat) (e : Eff) : (s.holding r n e).mem = s.mem := rfl
@[simp] theorem State.holding_poison (r : Running) (n : Nat) (e : Eff) : (s.holding r n e).poison = s.poison := rfl
@[simp] theorem State.holding_pkg (r : Running) (n : Nat) (e : Eff) : (s.holding r n e).pkg = s.pkg := rfl
@[simp] theorem State.holding_dies (r : Running) (n : Nat) (e : Eff) : (s.holding r n e).dies = s.dies := rfl
@[simp] theorem State.holding_drain (r : Running) (n : Nat) (e : Eff) : (s.holding r n e).drain = s.drain := rfl
@[simp] theorem State.holding_msgs (r : Running) (n : Nat) (e : Eff) : (s.holding r n e).msgs = s.msgs := rfl
@[simp] theorem State.holding_olds (r : Running) (n : Nat) (e : Eff) : (s.holding r n e).olds = s.olds := rfl
@[simp] theorem State.holding_owners (r : Running) (n : Nat) (e : Eff) : (s.holding r n e).owners = s.owners := rfl

@[simp] theorem State.endBy_cur (r : Running) (k : Nat) (a b : DWord) : (s.endBy r k a b).cur = some { r with cl := { r.cl with ended := true }, gang := { r.gang with wakeKind := k, wakeOp := a, wakeOp2 := b } } := rfl
@[simp] theorem State.endBy_gangs (r : Running) (k : Nat) (a b : DWord) : (s.endBy r k a b).gangs = s.gangs := rfl
@[simp] theorem State.endBy_agenda (r : Running) (k : Nat) (a b : DWord) : (s.endBy r k a b).agenda = s.agenda := rfl
@[simp] theorem State.endBy_time (r : Running) (k : Nat) (a b : DWord) : (s.endBy r k a b).time = s.time := rfl
@[simp] theorem State.endBy_free (r : Running) (k : Nat) (a b : DWord) : (s.endBy r k a b).free = s.free := rfl
@[simp] theorem State.endBy_nextId (r : Running) (k : Nat) (a b : DWord) : (s.endBy r k a b).nextId = s.nextId := rfl
@[simp] theorem State.endBy_mem (r : Running) (k : Nat) (a b : DWord) : (s.endBy r k a b).mem = s.mem := rfl
@[simp] theorem State.endBy_poison (r : Running) (k : Nat) (a b : DWord) : (s.endBy r k a b).poison = s.poison := rfl
@[simp] theorem State.endBy_pkg (r : Running) (k : Nat) (a b : DWord) : (s.endBy r k a b).pkg = s.pkg := rfl
@[simp] theorem State.endBy_dies (r : Running) (k : Nat) (a b : DWord) : (s.endBy r k a b).dies = s.dies := rfl
@[simp] theorem State.endBy_drain (r : Running) (k : Nat) (a b : DWord) : (s.endBy r k a b).drain = s.drain := rfl
@[simp] theorem State.endBy_msgs (r : Running) (k : Nat) (a b : DWord) : (s.endBy r k a b).msgs = s.msgs := rfl
@[simp] theorem State.endBy_olds (r : Running) (k : Nat) (a b : DWord) : (s.endBy r k a b).olds = s.olds := rfl
@[simp] theorem State.endBy_owners (r : Running) (k : Nat) (a b : DWord) : (s.endBy r k a b).owners = s.owners := rfl

@[simp] theorem State.goTo_cur (r : Running) (f : Nat → DWord) : (s.goTo r f).cur = some { r with cl := { r.cl with next := r.gang.arch.slicesList.map fun k => (k, f k) } } := rfl
@[simp] theorem State.goTo_gangs (r : Running) (f : Nat → DWord) : (s.goTo r f).gangs = s.gangs := rfl
@[simp] theorem State.goTo_agenda (r : Running) (f : Nat → DWord) : (s.goTo r f).agenda = s.agenda := rfl
@[simp] theorem State.goTo_time (r : Running) (f : Nat → DWord) : (s.goTo r f).time = s.time := rfl
@[simp] theorem State.goTo_free (r : Running) (f : Nat → DWord) : (s.goTo r f).free = s.free := rfl
@[simp] theorem State.goTo_nextId (r : Running) (f : Nat → DWord) : (s.goTo r f).nextId = s.nextId := rfl
@[simp] theorem State.goTo_mem (r : Running) (f : Nat → DWord) : (s.goTo r f).mem = s.mem := rfl
@[simp] theorem State.goTo_poison (r : Running) (f : Nat → DWord) : (s.goTo r f).poison = s.poison := rfl
@[simp] theorem State.goTo_pkg (r : Running) (f : Nat → DWord) : (s.goTo r f).pkg = s.pkg := rfl
@[simp] theorem State.goTo_dies (r : Running) (f : Nat → DWord) : (s.goTo r f).dies = s.dies := rfl
@[simp] theorem State.goTo_drain (r : Running) (f : Nat → DWord) : (s.goTo r f).drain = s.drain := rfl
@[simp] theorem State.goTo_msgs (r : Running) (f : Nat → DWord) : (s.goTo r f).msgs = s.msgs := rfl
@[simp] theorem State.goTo_olds (r : Running) (f : Nat → DWord) : (s.goTo r f).olds = s.olds := rfl
@[simp] theorem State.goTo_owners (r : Running) (f : Nat → DWord) : (s.goTo r f).owners = s.owners := rfl

@[simp] theorem State.fresh_fst : s.fresh.1 = s.nextId := rfl

variable (a : Arch)

@[simp] theorem Arch.vset_slices (r l : Nat) (x : Word) : (a.vset r l x).slices = a.slices := rfl
@[simp] theorem Arch.vset_occ (r l : Nat) (x : Word) : (a.vset r l x).occ = a.occ := rfl
@[simp] theorem Arch.vset_exec (r l : Nat) (x : Word) : (a.vset r l x).exec = a.exec := rfl
@[simp] theorem Arch.vset_pc (r l : Nat) (x : Word) : (a.vset r l x).pc = a.pc := rfl
@[simp] theorem Arch.vset_p (r l : Nat) (x : Word) : (a.vset r l x).p = a.p := rfl
@[simp] theorem Arch.vset_s (r l : Nat) (x : Word) : (a.vset r l x).s = a.s := rfl
@[simp] theorem Arch.vset_n (r l : Nat) (x : Word) : (a.vset r l x).n = a.n := rfl
@[simp] theorem Arch.vset_depth (r l : Nat) (x : Word) : (a.vset r l x).depth = a.depth := rfl
@[simp] theorem Arch.vset_rstack (r l : Nat) (x : Word) : (a.vset r l x).rstack = a.rstack := rfl
@[simp] theorem Arch.vset_split (r l : Nat) (x : Word) : (a.vset r l x).split = a.split := rfl
@[simp] theorem Arch.vset_sigval (r l : Nat) (x : Word) : (a.vset r l x).sigval = a.sigval := rfl
@[simp] theorem Arch.vset_fpctl (r l : Nat) (x : Word) : (a.vset r l x).fpctl = a.fpctl := rfl
@[simp] theorem Arch.vset_fpstat (r l : Nat) (x : Word) : (a.vset r l x).fpstat = a.fpstat := rfl
@[simp] theorem Arch.vset_flightid (r l : Nat) (x : Word) : (a.vset r l x).flightid = a.flightid := rfl
@[simp] theorem Arch.vset_bracket (r l : Nat) (x : Word) : (a.vset r l x).bracket = a.bracket := rfl
@[simp] theorem Arch.vset_slive (r l : Nat) (x : Word) : (a.vset r l x).slive = a.slive := rfl
@[simp] theorem Arch.vset_plive (r l : Nat) (x : Word) : (a.vset r l x).plive = a.plive := rfl
@[simp] theorem Arch.vset_nlive (r l : Nat) (x : Word) : (a.vset r l x).nlive = a.nlive := rfl

@[simp] theorem Arch.nset_slices (r x : Nat) : (a.nset r x).slices = a.slices := rfl
@[simp] theorem Arch.nset_occ (r x : Nat) : (a.nset r x).occ = a.occ := rfl
@[simp] theorem Arch.nset_exec (r x : Nat) : (a.nset r x).exec = a.exec := rfl
@[simp] theorem Arch.nset_pc (r x : Nat) : (a.nset r x).pc = a.pc := rfl
@[simp] theorem Arch.nset_v (r x : Nat) : (a.nset r x).v = a.v := rfl
@[simp] theorem Arch.nset_p (r x : Nat) : (a.nset r x).p = a.p := rfl
@[simp] theorem Arch.nset_s (r x : Nat) : (a.nset r x).s = a.s := rfl
@[simp] theorem Arch.nset_depth (r x : Nat) : (a.nset r x).depth = a.depth := rfl
@[simp] theorem Arch.nset_rstack (r x : Nat) : (a.nset r x).rstack = a.rstack := rfl
@[simp] theorem Arch.nset_split (r x : Nat) : (a.nset r x).split = a.split := rfl
@[simp] theorem Arch.nset_sigval (r x : Nat) : (a.nset r x).sigval = a.sigval := rfl
@[simp] theorem Arch.nset_fpctl (r x : Nat) : (a.nset r x).fpctl = a.fpctl := rfl
@[simp] theorem Arch.nset_fpstat (r x : Nat) : (a.nset r x).fpstat = a.fpstat := rfl
@[simp] theorem Arch.nset_flightid (r x : Nat) : (a.nset r x).flightid = a.flightid := rfl
@[simp] theorem Arch.nset_bracket (r x : Nat) : (a.nset r x).bracket = a.bracket := rfl
@[simp] theorem Arch.nset_vlive (r x : Nat) : (a.nset r x).vlive = a.vlive := rfl
@[simp] theorem Arch.nset_slive (r x : Nat) : (a.nset r x).slive = a.slive := rfl
@[simp] theorem Arch.nset_plive (r x : Nat) : (a.nset r x).plive = a.plive := rfl
@[simp] theorem Arch.nset_poison (r x : Nat) : (a.nset r x).poison = a.poison := rfl

@[simp] theorem Arch.raiseFlags_slices (k : Nat) (x : Flags) : (a.raiseFlags k x).slices = a.slices := rfl
@[simp] theorem Arch.raiseFlags_occ (k : Nat) (x : Flags) : (a.raiseFlags k x).occ = a.occ := rfl
@[simp] theorem Arch.raiseFlags_exec (k : Nat) (x : Flags) : (a.raiseFlags k x).exec = a.exec := rfl
@[simp] theorem Arch.raiseFlags_pc (k : Nat) (x : Flags) : (a.raiseFlags k x).pc = a.pc := rfl
@[simp] theorem Arch.raiseFlags_v (k : Nat) (x : Flags) : (a.raiseFlags k x).v = a.v := rfl
@[simp] theorem Arch.raiseFlags_p (k : Nat) (x : Flags) : (a.raiseFlags k x).p = a.p := rfl
@[simp] theorem Arch.raiseFlags_s (k : Nat) (x : Flags) : (a.raiseFlags k x).s = a.s := rfl
@[simp] theorem Arch.raiseFlags_n (k : Nat) (x : Flags) : (a.raiseFlags k x).n = a.n := rfl
@[simp] theorem Arch.raiseFlags_depth (k : Nat) (x : Flags) : (a.raiseFlags k x).depth = a.depth := rfl
@[simp] theorem Arch.raiseFlags_rstack (k : Nat) (x : Flags) : (a.raiseFlags k x).rstack = a.rstack := rfl
@[simp] theorem Arch.raiseFlags_split (k : Nat) (x : Flags) : (a.raiseFlags k x).split = a.split := rfl
@[simp] theorem Arch.raiseFlags_sigval (k : Nat) (x : Flags) : (a.raiseFlags k x).sigval = a.sigval := rfl
@[simp] theorem Arch.raiseFlags_fpctl (k : Nat) (x : Flags) : (a.raiseFlags k x).fpctl = a.fpctl := rfl
@[simp] theorem Arch.raiseFlags_flightid (k : Nat) (x : Flags) : (a.raiseFlags k x).flightid = a.flightid := rfl
@[simp] theorem Arch.raiseFlags_bracket (k : Nat) (x : Flags) : (a.raiseFlags k x).bracket = a.bracket := rfl
@[simp] theorem Arch.raiseFlags_vlive (k : Nat) (x : Flags) : (a.raiseFlags k x).vlive = a.vlive := rfl
@[simp] theorem Arch.raiseFlags_slive (k : Nat) (x : Flags) : (a.raiseFlags k x).slive = a.slive := rfl
@[simp] theorem Arch.raiseFlags_plive (k : Nat) (x : Flags) : (a.raiseFlags k x).plive = a.plive := rfl
@[simp] theorem Arch.raiseFlags_nlive (k : Nat) (x : Flags) : (a.raiseFlags k x).nlive = a.nlive := rfl
@[simp] theorem Arch.raiseFlags_poison (k : Nat) (x : Flags) : (a.raiseFlags k x).poison = a.poison := rfl

@[simp] theorem Arch.sset_slices (k r : Nat) (x : DWord) : (a.sset k r x).slices = a.slices := by unfold Arch.sset; split <;> rfl
@[simp] theorem Arch.sset_occ (k r : Nat) (x : DWord) : (a.sset k r x).occ = a.occ := by unfold Arch.sset; split <;> rfl
@[simp] theorem Arch.sset_exec (k r : Nat) (x : DWord) : (a.sset k r x).exec = a.exec := by unfold Arch.sset; split <;> rfl
@[simp] theorem Arch.sset_pc (k r : Nat) (x : DWord) : (a.sset k r x).pc = a.pc := by unfold Arch.sset; split <;> rfl
@[simp] theorem Arch.sset_v (k r : Nat) (x : DWord) : (a.sset k r x).v = a.v := by unfold Arch.sset; split <;> rfl
@[simp] theorem Arch.sset_p (k r : Nat) (x : DWord) : (a.sset k r x).p = a.p := by unfold Arch.sset; split <;> rfl
@[simp] theorem Arch.sset_n (k r : Nat) (x : DWord) : (a.sset k r x).n = a.n := by unfold Arch.sset; split <;> rfl
@[simp] theorem Arch.sset_depth (k r : Nat) (x : DWord) : (a.sset k r x).depth = a.depth := by unfold Arch.sset; split <;> rfl
@[simp] theorem Arch.sset_rstack (k r : Nat) (x : DWord) : (a.sset k r x).rstack = a.rstack := by unfold Arch.sset; split <;> rfl
@[simp] theorem Arch.sset_split (k r : Nat) (x : DWord) : (a.sset k r x).split = a.split := by unfold Arch.sset; split <;> rfl
@[simp] theorem Arch.sset_sigval (k r : Nat) (x : DWord) : (a.sset k r x).sigval = a.sigval := by unfold Arch.sset; split <;> rfl
@[simp] theorem Arch.sset_fpctl (k r : Nat) (x : DWord) : (a.sset k r x).fpctl = a.fpctl := by unfold Arch.sset; split <;> rfl
@[simp] theorem Arch.sset_fpstat (k r : Nat) (x : DWord) : (a.sset k r x).fpstat = a.fpstat := by unfold Arch.sset; split <;> rfl
@[simp] theorem Arch.sset_flightid (k r : Nat) (x : DWord) : (a.sset k r x).flightid = a.flightid := by unfold Arch.sset; split <;> rfl
@[simp] theorem Arch.sset_bracket (k r : Nat) (x : DWord) : (a.sset k r x).bracket = a.bracket := by unfold Arch.sset; split <;> rfl
@[simp] theorem Arch.sset_vlive (k r : Nat) (x : DWord) : (a.sset k r x).vlive = a.vlive := by unfold Arch.sset; split <;> rfl
@[simp] theorem Arch.sset_plive (k r : Nat) (x : DWord) : (a.sset k r x).plive = a.plive := by unfold Arch.sset; split <;> rfl
@[simp] theorem Arch.sset_nlive (k r : Nat) (x : DWord) : (a.sset k r x).nlive = a.nlive := by unfold Arch.sset; split <;> rfl

@[simp] theorem Arch.pset_slices (k : Nat) (m x : Word) : (a.pset k m x).slices = a.slices := by unfold Arch.pset; split <;> rfl
@[simp] theorem Arch.pset_occ (k : Nat) (m x : Word) : (a.pset k m x).occ = a.occ := by unfold Arch.pset; split <;> rfl
@[simp] theorem Arch.pset_exec (k : Nat) (m x : Word) : (a.pset k m x).exec = a.exec := by unfold Arch.pset; split <;> rfl
@[simp] theorem Arch.pset_pc (k : Nat) (m x : Word) : (a.pset k m x).pc = a.pc := by unfold Arch.pset; split <;> rfl
@[simp] theorem Arch.pset_v (k : Nat) (m x : Word) : (a.pset k m x).v = a.v := by unfold Arch.pset; split <;> rfl
@[simp] theorem Arch.pset_s (k : Nat) (m x : Word) : (a.pset k m x).s = a.s := by unfold Arch.pset; split <;> rfl
@[simp] theorem Arch.pset_n (k : Nat) (m x : Word) : (a.pset k m x).n = a.n := by unfold Arch.pset; split <;> rfl
@[simp] theorem Arch.pset_depth (k : Nat) (m x : Word) : (a.pset k m x).depth = a.depth := by unfold Arch.pset; split <;> rfl
@[simp] theorem Arch.pset_rstack (k : Nat) (m x : Word) : (a.pset k m x).rstack = a.rstack := by unfold Arch.pset; split <;> rfl
@[simp] theorem Arch.pset_split (k : Nat) (m x : Word) : (a.pset k m x).split = a.split := by unfold Arch.pset; split <;> rfl
@[simp] theorem Arch.pset_sigval (k : Nat) (m x : Word) : (a.pset k m x).sigval = a.sigval := by unfold Arch.pset; split <;> rfl
@[simp] theorem Arch.pset_fpctl (k : Nat) (m x : Word) : (a.pset k m x).fpctl = a.fpctl := by unfold Arch.pset; split <;> rfl
@[simp] theorem Arch.pset_fpstat (k : Nat) (m x : Word) : (a.pset k m x).fpstat = a.fpstat := by unfold Arch.pset; split <;> rfl
@[simp] theorem Arch.pset_flightid (k : Nat) (m x : Word) : (a.pset k m x).flightid = a.flightid := by unfold Arch.pset; split <;> rfl
@[simp] theorem Arch.pset_bracket (k : Nat) (m x : Word) : (a.pset k m x).bracket = a.bracket := by unfold Arch.pset; split <;> rfl
@[simp] theorem Arch.pset_vlive (k : Nat) (m x : Word) : (a.pset k m x).vlive = a.vlive := by unfold Arch.pset; split <;> rfl
@[simp] theorem Arch.pset_slive (k : Nat) (m x : Word) : (a.pset k m x).slive = a.slive := by unfold Arch.pset; split <;> rfl
@[simp] theorem Arch.pset_nlive (k : Nat) (m x : Word) : (a.pset k m x).nlive = a.nlive := by unfold Arch.pset; split <;> rfl
@[simp] theorem Arch.pset_poison (k : Nat) (m x : Word) : (a.pset k m x).poison = a.poison := by unfold Arch.pset; split <;> rfl

end Sys2Proof.Machine
end

