-- ==== Sys2Proof/Laws/Ops.lean ====
section
/-!
SUPPORT. What the shared operations do: memory keeps its canonical form, and the register operations change
exactly the registers that they name.
-/

namespace Sys2Proof.Machine

/-! ## Memory -/

/-- Read after write of a byte of memory. -/
theorem byte_setByte (s : State) (p q : Nat) (b : Byte) : (s.setByte p b).byte q = if p = q then b else s.byte q := by
  simp [State.byte, look_put]

/-- Writing a byte keeps the canonical form of memory. -/
theorem setByte_wf (s : State) (p : Nat) (b : Byte) (h : Memory.wf s.mem) : Memory.wf (s.setByte p b).mem := mapWf_put _ _ _ _ h

/-- Writing bytes keeps the canonical form of memory. -/
theorem setBytes_wf (bs : List Byte) : ∀ (s : State) (p : Nat), Memory.wf s.mem → Memory.wf (s.setBytes p bs).mem := by
  induction bs with
  | nil => intro s p h; simpa [State.setBytes] using h
  | cons b bs ih => intro s p h; exact ih _ _ (setByte_wf s p b h)

/-- Writing bytes leaves every byte outside them. -/
theorem byte_setBytes_other (bs : List Byte) : ∀ (s : State) (p q : Nat), q < p ∨ p + bs.length ≤ q → (s.setBytes p bs).byte q = s.byte q := by
  induction bs with
  | nil => intro s p q _; rfl
  | cons b bs ih =>
    intro s p q h
    simp only [List.length_cons] at h
    rw [State.setBytes, ih _ _ _ (by omega), byte_setByte, if_neg (by omega)]

/-- Writing a byte of a place keeps the canonical form of memory. -/
theorem write_wf (s : State) (d i : Nat) (l : Loc) (b : Byte) (h : Memory.wf s.mem) : Memory.wf (s.write d i l b).mem := by
  cases l <;> simp only [State.write, State.onInst_mem] <;> first | exact setByte_wf _ _ _ h | exact h

theorem writeN_wf (bs : List Byte) : ∀ (s : State) (d i : Nat) (l : Loc), Memory.wf s.mem → Memory.wf (s.writeN d i l bs).mem := by
  induction bs with
  | nil => intro s d i l h; simpa [State.writeN] using h
  | cons b bs ih => intro s d i l h; exact ih _ _ _ _ (write_wf s d i l b h)

/-- A causal message carries its writes; it performs none. -/
@[simp] theorem announce_mem (s : State) (d : Nat) (vec : List Nat) (sends : Nat → List (Nat × Cargo)) : (s.announce d vec sends).mem = s.mem := by
  unfold State.announce
  generalize ((s.die d).sent + 1) % 2 ^ 32 = c
  have h : ∀ (es : List Nat) (t : State), (es.foldl (fun (s : State) e =>
      if s.pkg.deadLinks.contains (d * 4 + e) then s.onDie e fun x => { x with applied := x.applied.set d c }
      else { s with msgs := alter [] s.msgs (d * 4 + e) (· ++ [⟨vec.set d c, sends e⟩]) }) t).mem = t.mem := by
    intro es; induction es with
    | nil => intro t; rfl
    | cons e es ih => intro t; rw [List.foldl_cons, ih]; split <;> rfl
  exact (h _ _).trans rfl

/-- The replicas that follow a write are no memory. -/
@[simp] theorem refresh_mem (s : State) (p : Nat) (bs : List Byte) : (s.refresh p bs).mem = s.mem := by
  have h : ∀ (f : State → Nat → State), (∀ t e, (f t e).mem = t.mem) → ∀ (es : List Nat) (t : State), (es.foldl f t).mem = t.mem := by
    intro f hf es; induction es with
    | nil => intro t; rfl
    | cons e es ih => intro t; rw [List.foldl_cons, ih, hf]
  unfold State.refresh
  refine (h _ ?_ _ _).trans rfl
  intro t e
  dsimp only
  split
  · rfl
  · exact announce_mem _ _ _ _

/-- Writing as the device does writes memory as the bytes do: its replicas follow, no other byte. -/
theorem device_mem (s : State) (p : Nat) (bs : List Byte) : (s.device p bs).mem = (s.setBytes p bs).mem := refresh_mem _ _ _

theorem writeVa_wf (bs : List Byte) (s : State) (d c va : Nat) (h : Memory.wf s.mem) : Memory.wf (s.writeVa d c va bs).mem := by
  have hf : ∀ (cs : List (Nat × List Byte)) (t : State), Memory.wf t.mem → Memory.wf (cs.foldl (fun (s : State) e => match s.walk d c e.1 with
      | .ok l => (match l.place e.1 with
          | .phys pa => s.device pa e.2
          | _ => s)
      | _ => s) t).mem := by
    intro cs; induction cs with
    | nil => intro t h; exact h
    | cons e cs ih =>
      intro t h
      rw [List.foldl_cons]
      apply ih
      split
      · split
        · exact device_mem t _ _ ▸ setBytes_wf _ t _ h
        · exact h
      · exact h
  exact hf _ _ h

/-! ## The checks of registers -/

theorem poisonRead_none (a : Arch) (u : Uses) (h1 : ∀ v ∈ u.vr, ∀ l ∈ u.lanes, look? a.poison (v * 32 + l) = none)
    (h2 : ∀ v ∈ u.sr, ∀ k ∈ u.slices, look? a.poison (2048 + k * 32 + v) = none) : a.poisonRead u = none := by
  have e1 : (u.lanes.flatMap (fun l => u.vr.filterMap (fun r => (look? a.poison (r * 32 + l)).map (fun x => (l, x))))) = [] := by
    simp only [List.flatMap_eq_nil_iff, List.filterMap_eq_nil_iff]
    intro l hl v hv; simp [h1 v hv l hl]
  have e2 : (u.slices.flatMap (fun k => u.sr.filterMap (fun r => (look? a.poison (2048 + k * 32 + r)).map (fun x => (4 * k, x))))) = [] := by
    simp only [List.flatMap_eq_nil_iff, List.filterMap_eq_nil_iff]
    intro k hk v hv; simp [h2 v hv k hk]
  simp [Arch.poisonRead, e1, e2]

/-- An instruction whose registers can be used goes on. -/
theorem checked_usable {s : State} {r : Running} {u : Uses} (h : Usable s r u) (k : Res) : s.checked r u k = k := by
  have h1 : ((u.vr ++ u.vw).any fun v => decide (s.regLimit r.gang ≤ v)) = false := by
    simp only [List.any_eq_false, decide_eq_true_eq]
    intro v hv; have := (h.vector v hv).1; omega
  have h2 : (u.vr ++ u.vw).filter (r.gang.pending 0) = [] := by
    simp only [List.filter_eq_nil_iff]
    intro v hv; simp [(h.vector v hv).2]
  have h3 : (u.sr ++ u.sw).filter (fun v => v != 0 && r.gang.pending 1 v) = [] := by
    simp only [List.filter_eq_nil_iff]
    intro v hv
    by_cases hz : v = 0
    · simp [hz]
    · simp [h.scalar v hv hz]
  simp only [State.checked, h1, h2, h3]
  simp [poisonRead_none _ _ h.clean h.cleanScalar]

/-! ## Registers -/

theorem sget_sset (a : Arch) (k r k' j : Nat) (x : DWord) (hr : r < 32) (hj : j < 32) :
    (a.sset k r x).sget k' j = if k' = k ∧ j = r ∧ r ≠ 0 then x else a.sget k' j := by
  by_cases hz : r = 0
  · simp [Arch.sset, hz]
  · by_cases hj0 : j = 0
    · simp [Arch.sget, hj0]; omega
    · simp only [Arch.sget, Arch.sset, hz, hj0, if_false, look_put, ne_eq, not_false_eq_true, and_true]
      congr 1
      exact propext ⟨fun h => by omega, fun h => by omega⟩

theorem vget_vset (a : Arch) (r l j l' : Nat) (x : Word) (hl : l < 32) (hl' : l' < 32) :
    (a.vset r l x).vget j l' = if l' = l ∧ j = r then x else a.vget j l' := by
  simp only [Arch.vget, Arch.vset, look_put]
  congr 1
  exact propext ⟨fun h => by omega, fun h => by omega⟩

/-- Writing a scalar in some slices writes exactly that. -/
theorem mapSlices_written (ks : List Nat) (d : Nat) (f : Nat → DWord) (hd : d < 32) :
    ∀ x : Arch, ScalarsWritten x (ks.foldl (fun b k => b.sset k d (f k)) x) d ks f := by
  induction ks with
  | nil => intro x; exact ⟨by simp, by simp, by simp, by simp⟩
  | cons k ks ih =>
    intro x
    have h := ih (x.sset k d (f k))
    refine ⟨?_, ?_, ?_, ?_⟩
    · intro k' j hj
      rw [List.foldl_cons, h.read k' j hj, sget_sset _ _ _ _ _ _ hd hj]
      by_cases h1 : k' ∈ ks <;> by_cases h2 : k' = k <;> by_cases h3 : j = d <;> by_cases h4 : d = 0 <;> simp [h1, h2, h3, h4]
    · rw [List.foldl_cons, h.saved]
      by_cases h4 : d = 0
      · simp [h4, Arch.sset]
      · by_cases h5 : ks = [] <;> simp [h4, h5, Arch.sset, BitVec.or_assoc]
    · intro i
      rw [List.foldl_cons, h.marks]
      by_cases h4 : d = 0
      · simp [h4, Arch.sset]
      · simp only [ne_eq, h4, not_false_eq_true, true_and, Arch.sset, if_false, look?_erase, List.mem_cons, exists_eq_or_imp]
        by_cases h5 : ∃ k ∈ ks, i = 2048 + k * 32 + d <;> by_cases h6 : i = 2048 + k * 32 + d <;> simp [h5, h6, eq_comm]
    · have e : ({ x.sset k d (f k) with s := x.s, slive := x.slive, poison := x.poison } : Arch) = x := by
        unfold Arch.sset; split <;> rfl
      exact (congrArg (fun z : Arch => { z with s := x.s, slive := x.slive, poison := x.poison }) h.rest).trans e

/-- Writing a vector register in some lanes writes exactly that. -/
theorem mapLanes_written (ls : List Nat) (d : Nat) (f : Nat → Word) : ∀ x : Arch, (∀ l ∈ ls, l < 32) →
    VectorWritten x (x.mapLanes ls d f) d ls f := by
  induction ls with
  | nil => intro x _; exact ⟨by simp [Arch.mapLanes], by simp [Arch.mapLanes], by simp [Arch.mapLanes], by simp [Arch.mapLanes]⟩
  | cons l ls ih =>
    intro x hl
    have h := ih (x.vset d l (f l)) fun l' h' => hl l' (List.mem_cons_of_mem _ h')
    have hl0 := hl l List.mem_cons_self
    have e : x.mapLanes (l :: ls) d f = (x.vset d l (f l)).mapLanes ls d f := rfl
    rw [e]
    refine ⟨?_, ?_, ?_, ?_⟩
    · intro j l' hl'
      rw [h.read j l' hl', vget_vset _ _ _ _ _ _ hl0 hl']
      by_cases h1 : l' ∈ ls <;> by_cases h2 : l' = l <;> by_cases h3 : j = d <;> simp [h1, h2, h3]
    · rw [h.saved]
      by_cases h5 : ls = [] <;> simp [h5, Arch.vset, BitVec.or_assoc]
    · intro i
      rw [h.marks]
      simp only [Arch.vset, look?_erase, List.mem_cons, exists_eq_or_imp]
      by_cases h5 : ∃ l ∈ ls, i = d * 32 + l <;> by_cases h6 : i = d * 32 + l <;> simp [h5, h6, eq_comm]
    · exact congrArg (fun z : Arch => { z with v := x.v, vlive := x.vlive, poison := x.poison }) h.rest

theorem active_lt (a : Arch) (g : BitVec 3) (n : BitVec 1) : ∀ l ∈ a.active g n, l < 32 := by
  intro l hl
  simp [Arch.active, bitsOf] at hl
  exact hl.1

/-- The scalar forms (R40): what they write. -/
theorem scalarOp_next {s : State} {r : Running} (hr : s.cur = some r) (d : Nat) (hd : d < 32) (srcs : List Nat) (f : Arch → Nat → DWord)
    (h : Usable s r { sr := srcs, sw := [d], slices := r.gang.arch.slicesList }) :
    ∃ y, s.scalarOp d srcs f = .next (s.setArch r y) ∧ ScalarsWritten r.gang.arch y d r.gang.arch.slicesList (f r.gang.arch) := by
  refine ⟨_, ?_, mapSlices_written _ d _ hd _⟩
  simp only [State.scalarOp, State.issue, hr, checked_usable h]
  rfl

/-- The vector forms (R33): what they write. -/
theorem vectorOp_next {s : State} {r : Running} (hr : s.cur = some r) (d : Nat) (g : BitVec 3) (gn : BitVec 1) (vr sr : List Nat)
    (f : Arch → Nat → Word)
    (h : Usable s r { vr := vr, vw := [d], sr := sr, lanes := r.gang.arch.active g gn, slices := slicesOf (r.gang.arch.active g gn) }) :
    ∃ y, s.vectorOp d g gn vr sr f = .next (s.setArch r y) ∧
      VectorWritten r.gang.arch y d (r.gang.arch.active g gn) (f r.gang.arch) := by
  refine ⟨_, ?_, mapLanes_written _ d _ _ (active_lt _ g gn)⟩
  simp only [State.vectorOp, State.issue, hr, checked_usable h]

/-- Raising flags of a list of lanes, one after another, in a slice's FPSTAT. -/
theorem stat_raiseFlags (a : Arch) (k k' : Nat) (f : Flags) : (a.raiseFlags k f).stat k' = if k' = k then a.stat k' ||| f else a.stat k' := by
  simp only [Arch.stat, Arch.raiseFlags, look_put]
  by_cases h : k = k'
  · simp [h]
  · simp [h, Ne.symm h]

/-- Writing a vector register with flags in some lanes writes exactly that. -/
theorem mapFloat_written (ls : List Nat) (d : Nat) (f : Nat → Word × Flags) : ∀ x : Arch, (∀ l ∈ ls, l < 32) →
    FloatWritten x (x.mapFloat ls d f) d ls f := by
  induction ls with
  | nil => intro x _; exact ⟨by simp [Arch.mapFloat], by simp [Arch.mapFloat], by simp [Arch.mapFloat], by simp [Arch.mapFloat], by simp [Arch.mapFloat]⟩
  | cons l ls ih =>
    intro x hl
    have h := ih ((x.vset d l (f l).1).raiseFlags (l / 4) (f l).2) fun l' h' => hl l' (List.mem_cons_of_mem _ h')
    have hl0 := hl l List.mem_cons_self
    have e : x.mapFloat (l :: ls) d f = ((x.vset d l (f l).1).raiseFlags (l / 4) (f l).2).mapFloat ls d f := rfl
    rw [e]
    refine ⟨?_, ?_, ?_, ?_, ?_⟩
    · intro j l' hl'
      have e2 : (((x.vset d l (f l).1).raiseFlags (l / 4) (f l).2)).vget j l' = (x.vset d l (f l).1).vget j l' := rfl
      rw [h.read j l' hl', e2, vget_vset _ _ _ _ _ _ hl0 hl']
      by_cases h1 : l' ∈ ls <;> by_cases h2 : l' = l <;> by_cases h3 : j = d <;> simp [h1, h2, h3]
    · intro k
      rw [h.stat, stat_raiseFlags]
      by_cases h2 : l / 4 = k
      · simp [h2, Arch.stat]
      · simp [h2, Ne.symm h2, Arch.stat]
    · rw [h.saved]
      by_cases h5 : ls = [] <;> simp [h5, Arch.vset, BitVec.or_assoc]
    · intro i
      rw [h.marks]
      simp only [Arch.vset, Arch.raiseFlags_poison, look?_erase, List.mem_cons, exists_eq_or_imp]
      by_cases h5 : ∃ l ∈ ls, i = d * 32 + l <;> by_cases h6 : i = d * 32 + l <;> simp [h5, h6, eq_comm]
    · exact congrArg (fun z : Arch => { z with v := x.v, vlive := x.vlive, poison := x.poison, fpstat := x.fpstat }) h.rest

/-- The floating-point forms (R90): what they write. -/
theorem floatOp_next {s : State} {r : Running} (hr : s.cur = some r) (d : Nat) (g : BitVec 3) (gn : BitVec 1) (vr : List Nat)
    (f : Arch → Nat → Word × Flags) (h : Usable s r { vr := vr, vw := [d], lanes := r.gang.arch.active g gn }) :
    ∃ y, s.floatOp d g gn vr f = .next (s.setArch r y) ∧ FloatWritten r.gang.arch y d (r.gang.arch.active g gn) (f r.gang.arch) := by
  refine ⟨_, ?_, mapFloat_written _ d _ _ (active_lt _ g gn)⟩
  simp only [State.floatOp, State.issue, hr, checked_usable h]

/-- Writing a pair of vector registers with flags in some lanes writes exactly that. -/
theorem mapDouble_written (ls : List Nat) (d : Nat) (f : Nat → DWord × Flags) : ∀ x : Arch, (∀ l ∈ ls, l < 32) →
    PairWritten x (x.mapDouble ls d f) d ls f := by
  induction ls with
  | nil => intro x _; exact ⟨by simp [Arch.mapDouble], by simp [Arch.mapDouble], by simp [Arch.mapDouble], by simp [Arch.mapDouble], by simp [Arch.mapDouble]⟩
  | cons l ls ih =>
    intro x hl
    have h := ih ((x.dset d l (f l).1).raiseFlags (l / 4) (f l).2) fun l' h' => hl l' (List.mem_cons_of_mem _ h')
    have hl0 := hl l List.mem_cons_self
    have e : x.mapDouble (l :: ls) d f = ((x.dset d l (f l).1).raiseFlags (l / 4) (f l).2).mapDouble ls d f := rfl
    rw [e]
    refine ⟨?_, ?_, ?_, ?_, ?_⟩
    · intro j l' hl'
      have e2 : (((x.dset d l (f l).1).raiseFlags (l / 4) (f l).2)).vget j l' = (x.dset d l (f l).1).vget j l' := rfl
      rw [h.read j l' hl', e2, Arch.dset, vget_vset _ _ _ _ _ _ hl0 hl', vget_vset _ _ _ _ _ _ hl0 hl']
      by_cases h1 : l' ∈ ls <;> by_cases h2 : l' = l <;> by_cases h3 : j = d <;> by_cases h4 : j = d + 1 <;> simp_all
    · intro k
      rw [h.stat, stat_raiseFlags]
      by_cases h2 : l / 4 = k
      · simp [h2, Arch.stat, Arch.dset]
      · simp [h2, Ne.symm h2, Arch.stat, Arch.dset]
    · rw [h.saved]
      by_cases h5 : ls = []
      · simp [h5, Arch.dset, Arch.vset]
      · simp only [h5, if_false, reduceCtorEq, Arch.dset, Arch.vset, Arch.raiseFlags_vlive]
        apply BitVec.eq_of_getLsbD_eq; intro i _
        simp only [BitVec.getLsbD_or]
        generalize x.vlive.getLsbD i = p; generalize (1#64 <<< d).getLsbD i = q; generalize (1#64 <<< (d + 1)).getLsbD i = r
        cases p <;> cases q <;> cases r <;> rfl
    · intro i
      rw [h.marks]
      simp only [Arch.dset, Arch.vset, Arch.raiseFlags_poison, look?_erase, List.mem_cons, exists_eq_or_imp]
      by_cases h5 : ∃ l ∈ ls, i = d * 32 + l ∨ i = (d + 1) * 32 + l <;> by_cases h6 : i = d * 32 + l <;>
        by_cases h7 : i = (d + 1) * 32 + l <;> simp [h5, h6, h7, eq_comm]
    · exact congrArg (fun z : Arch => { z with v := x.v, vlive := x.vlive, poison := x.poison, fpstat := x.fpstat }) h.rest

/-- The FP64 forms (R96): what they write. -/
theorem doubleOp_next {s : State} {r : Running} (hr : s.cur = some r) (d : Nat) (g : BitVec 3) (gn : BitVec 1) (vr : List Nat)
    (f : Arch → Nat → DWord × Flags) (h : Usable s r { vr := vr, vw := [d, d + 1], lanes := r.gang.arch.active g gn }) :
    ∃ y, s.doubleOp d g gn vr f = .next (s.setArch r y) ∧ PairWritten r.gang.arch y d (r.gang.arch.active g gn) (f r.gang.arch) := by
  refine ⟨_, ?_, mapDouble_written _ d _ _ (active_lt _ g gn)⟩
  simp only [State.doubleOp, State.issue, hr, checked_usable h]

/-- The bits of a word made from a function. -/
theorem getLsbD_maskOf (f : Nat → Bool) (i : Nat) : (maskOf f).getLsbD i = (decide (i < 32) && f i) := by
  have h : ∀ n ≤ 32, ((List.range n).foldl (fun m i => if f i then m ||| (1#32 <<< i) else m) 0#32).getLsbD i = (decide (i < n) && f i) := by
    intro n
    induction n with
    | zero => intro _; simp
    | succ n ih =>
      intro hn
      rw [List.range_succ, List.foldl_append]
      simp only [List.foldl_cons, List.foldl_nil]
      have h0 := ih (by omega)
      have hi : i < 32 ∨ 32 ≤ i := by omega
      cases hf : f n
      · rw [if_neg (by simp), h0]
        by_cases h2 : i = n
        · subst h2; simp [hf]
        · rw [show decide (i < n + 1) = decide (i < n) by simp only [decide_eq_decide]; omega]
      · rw [if_pos rfl, BitVec.getLsbD_or, h0, BitVec.getLsbD_shiftLeft, BitVec.getLsbD_one]
        by_cases h2 : i = n
        · subst h2; simp [hf]; omega
        · by_cases h1 : i < n
          · simp [h1, show i < n + 1 by omega]
          · simp [h1, show ¬ i < n + 1 by omega, show i - n ≠ 0 by omega]
  exact h 32 (Nat.le_refl _)

theorem mem_bitsOf {n : Nat} (x : BitVec n) (i : Nat) : i ∈ bitsOf x ↔ x.getLsbD i = true := by
  simp only [bitsOf, List.mem_filter, List.mem_range]
  exact ⟨fun h => h.2, fun h => ⟨BitVec.lt_of_getLsbD h, h⟩⟩

theorem mem_active_all (a : Arch) (l : Nat) : l ∈ a.active 0#3 0#1 ↔ a.exec.getLsbD l = true := by
  simp [Arch.active, mem_bitsOf]

/-- Writing a predicate in the lanes of the exec mask writes exactly that. -/
theorem pset_written (x : Arch) (p : Nat) (f : Nat → Bool) :
    PredicateWritten x (x.pset p x.exec (maskOf fun l => (x.active 0#3 0#1).contains l && f l)) p (x.active 0#3 0#1) f := by
  have hempty : x.active 0#3 0#1 = [] ↔ x.exec = 0#32 := by
    constructor
    · intro h
      apply BitVec.eq_of_getLsbD_eq
      intro i hi
      have : ¬ i ∈ x.active 0#3 0#1 := by rw [h]; exact List.not_mem_nil
      rw [mem_active_all] at this
      simpa using this
    · intro h
      apply List.eq_nil_iff_forall_not_mem.mpr
      intro l hl
      rw [mem_active_all, h] at hl
      simp at hl
  refine ⟨?_, ?_, ?_⟩
  · intro j l hl
    by_cases hz : x.exec = 0#32
    · simp [Arch.pset, hz, hempty.mpr hz]
    · simp only [Arch.pset, hz, if_false, Arch.pget, Arch.pmask, look_put]
      by_cases hj : p = j
      · subst hj
        simp only [if_true, BitVec.getLsbD_or, BitVec.getLsbD_and, BitVec.getLsbD_not, getLsbD_maskOf, hl, decide_true, Bool.true_and]
        by_cases ha : x.exec.getLsbD l = true
        · have hm := (mem_active_all x l).mpr ha
          simp [ha, hm]
        · have hm : ¬ l ∈ x.active 0#3 0#1 := fun h => ha ((mem_active_all x l).mp h)
          simp [ha, hm]
      · simp [hj, Ne.symm hj]
  · by_cases hz : x.exec = 0#32
    · simp [Arch.pset, hz, hempty.mpr hz]
    · have : ¬ x.active 0#3 0#1 = [] := fun h => hz (hempty.mp h)
      simp [Arch.pset, hz, this]
  · unfold Arch.pset; split <;> rfl

/-- The compare and logic forms into a predicate (R87, R89): what they write. -/
theorem predOp_next {s : State} {r : Running} (hr : s.cur = some r) (p : Nat) (vr sr : List Nat) (f : Arch → Nat → Bool)
    (h : Usable s r { vr := vr, sr := sr, lanes := r.gang.arch.active 0#3 0#1, slices := slicesOf (r.gang.arch.active 0#3 0#1) }) :
    ∃ y, s.predOp p vr sr f = .next (s.setArch r y) ∧
      PredicateWritten r.gang.arch y p (r.gang.arch.active 0#3 0#1) (f r.gang.arch) := by
  refine ⟨_, ?_, pset_written _ p _⟩
  simp only [State.predOp, State.issue, hr, checked_usable h]

/-! ## Owners of lines (R318) -/

/-- Where no line was written under a key, a read gives the bytes that are there. -/
theorem seal_unowned {s : State} (h : s.owners = []) (d c ctx va : Nat) (l : Loc) (bs : List Byte) : s.seal d c ctx va l bs = bs := by
  cases l <;> simp [State.seal, h]

/-- Firmware reads what is there. -/
theorem seal_firmware (s : State) (d c va : Nat) (l : Loc) (bs : List Byte) : s.seal d c firmware va l bs = bs := by
  cases l <;> simp [State.seal]

/-- A write under no key leaves the owners as they are. -/
@[simp] theorem tagLine_zero (s : State) (pa : Nat) : s.tagLine pa 0 = s := by simp [State.tagLine]

/-! ## Lanes on a port (R118) -/

/-- Every virtual lane of the present slices has one place, in increasing order. -/
theorem lanePlaces_lanes (sl : Byte) (good : Word) : (lanePlaces sl good).map (·.1) = bitsOf (laneMask sl) := by
  simp only [lanePlaces, List.map_map]
  rw [show ((fun x : Nat × Nat × Nat => x.1) ∘ fun e : Nat × Nat => (e.1, e.2 / (bitsOf good).length, (bitsOf good).getD (e.2 % (bitsOf good).length) 0)) = Prod.fst from rfl]
  exact List.map_fst_zip (by simp)

/-- A virtual lane lies on a good physical lane. -/
theorem lanePlaces_good (sl : Byte) (good : Word) (h : bitsOf good ≠ []) : ∀ e ∈ lanePlaces sl good, good.getLsbD e.2.2 = true := by
  intro e he
  simp only [lanePlaces, List.mem_map] at he
  obtain ⟨q, -, rfl⟩ := he
  have hn : q.2 % (bitsOf good).length < (bitsOf good).length := Nat.mod_lt _ (List.length_pos_iff.2 h)
  rw [← mem_bitsOf]
  simp only [List.getD_eq_getElem?_getD, List.getElem?_eq_getElem hn, Option.getD_some]
  exact List.getElem_mem hn

end Sys2Proof.Machine
end

