-- ==== Sys2Proof/Laws/Words.lean ====
section
/-!
SUPPORT. What the encoder writes, the opcode map reads: for every instruction, the selectors and fields of
its word are its own. One lemma for each constructor; events have no word.
-/

set_option linter.unusedSimpArgs false
set_option Elab.async false

namespace Sys2Proof.Laws

/-! ## Fields of words -/

/-- A field above the low part of a word. -/
theorem field_high {n m : Nat} (x : BitVec n) (y : BitVec m) (k l : Nat) (h : m ≤ k) :
    BitVec.extractLsb' k l (x ++ y) = x.extractLsb' (k - m) l := by
  apply BitVec.eq_of_getLsbD_eq
  intro i hi
  simp [BitVec.getLsbD_append, hi, show ¬ k + i < m by omega, show k + i - m = k - m + i by omega]

/-- A field within the low part of a word. -/
theorem field_low {n m : Nat} (x : BitVec n) (y : BitVec m) (k l : Nat) (h : k + l ≤ m) :
    BitVec.extractLsb' k l (x ++ y) = y.extractLsb' k l := by
  apply BitVec.eq_of_getLsbD_eq
  intro i hi
  simp [BitVec.getLsbD_append, hi, show k + i < m by omega]

theorem rr_0_3 (maj : BitVec 6) (d : BitVec 6) (a : BitVec 6) (b : BitVec 6) (g : BitVec 3) (gn : BitVec 1) (min : BitVec 4) :
    (packRR maj d a b g gn min).extractLsb' 0 3 = min.extractLsb' 0 3 := by
  simp only [packRR, field_high, field_low, Nat.reduceLeDiff, Nat.reduceSub, BitVec.extractLsb'_eq_self]
theorem rr_0_4 (maj : BitVec 6) (d : BitVec 6) (a : BitVec 6) (b : BitVec 6) (g : BitVec 3) (gn : BitVec 1) (min : BitVec 4) :
    (packRR maj d a b g gn min).extractLsb' 0 4 = min := by
  simp only [packRR, field_high, field_low, Nat.reduceLeDiff, Nat.reduceSub, BitVec.extractLsb'_eq_self]
theorem rr_3_1 (maj : BitVec 6) (d : BitVec 6) (a : BitVec 6) (b : BitVec 6) (g : BitVec 3) (gn : BitVec 1) (min : BitVec 4) :
    (packRR maj d a b g gn min).extractLsb' 3 1 = min.extractLsb' 3 1 := by
  simp only [packRR, field_high, field_low, Nat.reduceLeDiff, Nat.reduceSub, BitVec.extractLsb'_eq_self]
theorem rr_4_1 (maj : BitVec 6) (d : BitVec 6) (a : BitVec 6) (b : BitVec 6) (g : BitVec 3) (gn : BitVec 1) (min : BitVec 4) :
    (packRR maj d a b g gn min).extractLsb' 4 1 = gn := by
  simp only [packRR, field_high, field_low, Nat.reduceLeDiff, Nat.reduceSub, BitVec.extractLsb'_eq_self]
theorem rr_5_3 (maj : BitVec 6) (d : BitVec 6) (a : BitVec 6) (b : BitVec 6) (g : BitVec 3) (gn : BitVec 1) (min : BitVec 4) :
    (packRR maj d a b g gn min).extractLsb' 5 3 = g := by
  simp only [packRR, field_high, field_low, Nat.reduceLeDiff, Nat.reduceSub, BitVec.extractLsb'_eq_self]
theorem rr_8_5 (maj : BitVec 6) (d : BitVec 6) (a : BitVec 6) (b : BitVec 6) (g : BitVec 3) (gn : BitVec 1) (min : BitVec 4) :
    (packRR maj d a b g gn min).extractLsb' 8 5 = b.extractLsb' 0 5 := by
  simp only [packRR, field_high, field_low, Nat.reduceLeDiff, Nat.reduceSub, BitVec.extractLsb'_eq_self]
theorem rr_8_6 (maj : BitVec 6) (d : BitVec 6) (a : BitVec 6) (b : BitVec 6) (g : BitVec 3) (gn : BitVec 1) (min : BitVec 4) :
    (packRR maj d a b g gn min).extractLsb' 8 6 = b := by
  simp only [packRR, field_high, field_low, Nat.reduceLeDiff, Nat.reduceSub, BitVec.extractLsb'_eq_self]
theorem rr_9_5 (maj : BitVec 6) (d : BitVec 6) (a : BitVec 6) (b : BitVec 6) (g : BitVec 3) (gn : BitVec 1) (min : BitVec 4) :
    (packRR maj d a b g gn min).extractLsb' 9 5 = b.extractLsb' 1 5 := by
  simp only [packRR, field_high, field_low, Nat.reduceLeDiff, Nat.reduceSub, BitVec.extractLsb'_eq_self]
theorem rr_14_5 (maj : BitVec 6) (d : BitVec 6) (a : BitVec 6) (b : BitVec 6) (g : BitVec 3) (gn : BitVec 1) (min : BitVec 4) :
    (packRR maj d a b g gn min).extractLsb' 14 5 = a.extractLsb' 0 5 := by
  simp only [packRR, field_high, field_low, Nat.reduceLeDiff, Nat.reduceSub, BitVec.extractLsb'_eq_self]
theorem rr_14_6 (maj : BitVec 6) (d : BitVec 6) (a : BitVec 6) (b : BitVec 6) (g : BitVec 3) (gn : BitVec 1) (min : BitVec 4) :
    (packRR maj d a b g gn min).extractLsb' 14 6 = a := by
  simp only [packRR, field_high, field_low, Nat.reduceLeDiff, Nat.reduceSub, BitVec.extractLsb'_eq_self]
theorem rr_15_5 (maj : BitVec 6) (d : BitVec 6) (a : BitVec 6) (b : BitVec 6) (g : BitVec 3) (gn : BitVec 1) (min : BitVec 4) :
    (packRR maj d a b g gn min).extractLsb' 15 5 = a.extractLsb' 1 5 := by
  simp only [packRR, field_high, field_low, Nat.reduceLeDiff, Nat.reduceSub, BitVec.extractLsb'_eq_self]
theorem rr_20_5 (maj : BitVec 6) (d : BitVec 6) (a : BitVec 6) (b : BitVec 6) (g : BitVec 3) (gn : BitVec 1) (min : BitVec 4) :
    (packRR maj d a b g gn min).extractLsb' 20 5 = d.extractLsb' 0 5 := by
  simp only [packRR, field_high, field_low, Nat.reduceLeDiff, Nat.reduceSub, BitVec.extractLsb'_eq_self]
theorem rr_20_6 (maj : BitVec 6) (d : BitVec 6) (a : BitVec 6) (b : BitVec 6) (g : BitVec 3) (gn : BitVec 1) (min : BitVec 4) :
    (packRR maj d a b g gn min).extractLsb' 20 6 = d := by
  simp only [packRR, field_high, field_low, Nat.reduceLeDiff, Nat.reduceSub, BitVec.extractLsb'_eq_self]
theorem rr_21_5 (maj : BitVec 6) (d : BitVec 6) (a : BitVec 6) (b : BitVec 6) (g : BitVec 3) (gn : BitVec 1) (min : BitVec 4) :
    (packRR maj d a b g gn min).extractLsb' 21 5 = d.extractLsb' 1 5 := by
  simp only [packRR, field_high, field_low, Nat.reduceLeDiff, Nat.reduceSub, BitVec.extractLsb'_eq_self]
theorem rr_26_6 (maj : BitVec 6) (d : BitVec 6) (a : BitVec 6) (b : BitVec 6) (g : BitVec 3) (gn : BitVec 1) (min : BitVec 4) :
    (packRR maj d a b g gn min).extractLsb' 26 6 = maj := by
  simp only [packRR, field_high, field_low, Nat.reduceLeDiff, Nat.reduceSub, BitVec.extractLsb'_eq_self]

theorem ri_0_4 (maj : BitVec 6) (d : BitVec 6) (a : BitVec 6) (imm10 : BitVec 10) (min : BitVec 4) :
    (packRI maj d a imm10 min).extractLsb' 0 4 = min := by
  simp only [packRI, field_high, field_low, Nat.reduceLeDiff, Nat.reduceSub, BitVec.extractLsb'_eq_self]
theorem ri_4_3 (maj : BitVec 6) (d : BitVec 6) (a : BitVec 6) (imm10 : BitVec 10) (min : BitVec 4) :
    (packRI maj d a imm10 min).extractLsb' 4 3 = imm10.extractLsb' 0 3 := by
  simp only [packRI, field_high, field_low, Nat.reduceLeDiff, Nat.reduceSub, BitVec.extractLsb'_eq_self]
theorem ri_4_5 (maj : BitVec 6) (d : BitVec 6) (a : BitVec 6) (imm10 : BitVec 10) (min : BitVec 4) :
    (packRI maj d a imm10 min).extractLsb' 4 5 = imm10.extractLsb' 0 5 := by
  simp only [packRI, field_high, field_low, Nat.reduceLeDiff, Nat.reduceSub, BitVec.extractLsb'_eq_self]
theorem ri_4_6 (maj : BitVec 6) (d : BitVec 6) (a : BitVec 6) (imm10 : BitVec 10) (min : BitVec 4) :
    (packRI maj d a imm10 min).extractLsb' 4 6 = imm10.extractLsb' 0 6 := by
  simp only [packRI, field_high, field_low, Nat.reduceLeDiff, Nat.reduceSub, BitVec.extractLsb'_eq_self]
theorem ri_4_10 (maj : BitVec 6) (d : BitVec 6) (a : BitVec 6) (imm10 : BitVec 10) (min : BitVec 4) :
    (packRI maj d a imm10 min).extractLsb' 4 10 = imm10 := by
  simp only [packRI, field_high, field_low, Nat.reduceLeDiff, Nat.reduceSub, BitVec.extractLsb'_eq_self]
theorem ri_14_5 (maj : BitVec 6) (d : BitVec 6) (a : BitVec 6) (imm10 : BitVec 10) (min : BitVec 4) :
    (packRI maj d a imm10 min).extractLsb' 14 5 = a.extractLsb' 0 5 := by
  simp only [packRI, field_high, field_low, Nat.reduceLeDiff, Nat.reduceSub, BitVec.extractLsb'_eq_self]
theorem ri_14_6 (maj : BitVec 6) (d : BitVec 6) (a : BitVec 6) (imm10 : BitVec 10) (min : BitVec 4) :
    (packRI maj d a imm10 min).extractLsb' 14 6 = a := by
  simp only [packRI, field_high, field_low, Nat.reduceLeDiff, Nat.reduceSub, BitVec.extractLsb'_eq_self]
theorem ri_20_5 (maj : BitVec 6) (d : BitVec 6) (a : BitVec 6) (imm10 : BitVec 10) (min : BitVec 4) :
    (packRI maj d a imm10 min).extractLsb' 20 5 = d.extractLsb' 0 5 := by
  simp only [packRI, field_high, field_low, Nat.reduceLeDiff, Nat.reduceSub, BitVec.extractLsb'_eq_self]
theorem ri_20_6 (maj : BitVec 6) (d : BitVec 6) (a : BitVec 6) (imm10 : BitVec 10) (min : BitVec 4) :
    (packRI maj d a imm10 min).extractLsb' 20 6 = d := by
  simp only [packRI, field_high, field_low, Nat.reduceLeDiff, Nat.reduceSub, BitVec.extractLsb'_eq_self]
theorem ri_26_6 (maj : BitVec 6) (d : BitVec 6) (a : BitVec 6) (imm10 : BitVec 10) (min : BitVec 4) :
    (packRI maj d a imm10 min).extractLsb' 26 6 = maj := by
  simp only [packRI, field_high, field_low, Nat.reduceLeDiff, Nat.reduceSub, BitVec.extractLsb'_eq_self]

theorem rl_0_20 (maj : BitVec 6) (d : BitVec 6) (imm20 : BitVec 20) :
    (packRL maj d imm20).extractLsb' 0 20 = imm20 := by
  simp only [packRL, field_high, field_low, Nat.reduceLeDiff, Nat.reduceSub, BitVec.extractLsb'_eq_self]
theorem rl_20_5 (maj : BitVec 6) (d : BitVec 6) (imm20 : BitVec 20) :
    (packRL maj d imm20).extractLsb' 20 5 = d.extractLsb' 0 5 := by
  simp only [packRL, field_high, field_low, Nat.reduceLeDiff, Nat.reduceSub, BitVec.extractLsb'_eq_self]
theorem rl_20_6 (maj : BitVec 6) (d : BitVec 6) (imm20 : BitVec 20) :
    (packRL maj d imm20).extractLsb' 20 6 = d := by
  simp only [packRL, field_high, field_low, Nat.reduceLeDiff, Nat.reduceSub, BitVec.extractLsb'_eq_self]
theorem rl_26_6 (maj : BitVec 6) (d : BitVec 6) (imm20 : BitVec 20) :
    (packRL maj d imm20).extractLsb' 26 6 = maj := by
  simp only [packRL, field_high, field_low, Nat.reduceLeDiff, Nat.reduceSub, BitVec.extractLsb'_eq_self]

theorem pc_0_4 (maj : BitVec 6) (pd : BitVec 7) (a : BitVec 6) (b : BitVec 6) (cc : BitVec 3) (min : BitVec 4) :
    (packPC maj pd a b cc min).extractLsb' 0 4 = min := by
  simp only [packPC, field_high, field_low, Nat.reduceLeDiff, Nat.reduceSub, BitVec.extractLsb'_eq_self]
theorem pc_4_3 (maj : BitVec 6) (pd : BitVec 7) (a : BitVec 6) (b : BitVec 6) (cc : BitVec 3) (min : BitVec 4) :
    (packPC maj pd a b cc min).extractLsb' 4 3 = cc := by
  simp only [packPC, field_high, field_low, Nat.reduceLeDiff, Nat.reduceSub, BitVec.extractLsb'_eq_self]
theorem pc_7_5 (maj : BitVec 6) (pd : BitVec 7) (a : BitVec 6) (b : BitVec 6) (cc : BitVec 3) (min : BitVec 4) :
    (packPC maj pd a b cc min).extractLsb' 7 5 = b.extractLsb' 0 5 := by
  simp only [packPC, field_high, field_low, Nat.reduceLeDiff, Nat.reduceSub, BitVec.extractLsb'_eq_self]
theorem pc_7_6 (maj : BitVec 6) (pd : BitVec 7) (a : BitVec 6) (b : BitVec 6) (cc : BitVec 3) (min : BitVec 4) :
    (packPC maj pd a b cc min).extractLsb' 7 6 = b := by
  simp only [packPC, field_high, field_low, Nat.reduceLeDiff, Nat.reduceSub, BitVec.extractLsb'_eq_self]
theorem pc_8_5 (maj : BitVec 6) (pd : BitVec 7) (a : BitVec 6) (b : BitVec 6) (cc : BitVec 3) (min : BitVec 4) :
    (packPC maj pd a b cc min).extractLsb' 8 5 = b.extractLsb' 1 5 := by
  simp only [packPC, field_high, field_low, Nat.reduceLeDiff, Nat.reduceSub, BitVec.extractLsb'_eq_self]
theorem pc_13_6 (maj : BitVec 6) (pd : BitVec 7) (a : BitVec 6) (b : BitVec 6) (cc : BitVec 3) (min : BitVec 4) :
    (packPC maj pd a b cc min).extractLsb' 13 6 = a := by
  simp only [packPC, field_high, field_low, Nat.reduceLeDiff, Nat.reduceSub, BitVec.extractLsb'_eq_self]
theorem pc_14_5 (maj : BitVec 6) (pd : BitVec 7) (a : BitVec 6) (b : BitVec 6) (cc : BitVec 3) (min : BitVec 4) :
    (packPC maj pd a b cc min).extractLsb' 14 5 = a.extractLsb' 1 5 := by
  simp only [packPC, field_high, field_low, Nat.reduceLeDiff, Nat.reduceSub, BitVec.extractLsb'_eq_self]
theorem pc_19_7 (maj : BitVec 6) (pd : BitVec 7) (a : BitVec 6) (b : BitVec 6) (cc : BitVec 3) (min : BitVec 4) :
    (packPC maj pd a b cc min).extractLsb' 19 7 = pd := by
  simp only [packPC, field_high, field_low, Nat.reduceLeDiff, Nat.reduceSub, BitVec.extractLsb'_eq_self]
theorem pc_26_6 (maj : BitVec 6) (pd : BitVec 7) (a : BitVec 6) (b : BitVec 6) (cc : BitVec 3) (min : BitVec 4) :
    (packPC maj pd a b cc min).extractLsb' 26 6 = maj := by
  simp only [packPC, field_high, field_low, Nat.reduceLeDiff, Nat.reduceSub, BitVec.extractLsb'_eq_self]

theorem pl_0_5 (maj : BitVec 6) (pd : BitVec 7) (pa : BitVec 7) (pb : BitVec 7) (op : BitVec 5) :
    (packPL maj pd pa pb op).extractLsb' 0 5 = op := by
  simp only [packPL, field_high, field_low, Nat.reduceLeDiff, Nat.reduceSub, BitVec.extractLsb'_eq_self]
theorem pl_5_7 (maj : BitVec 6) (pd : BitVec 7) (pa : BitVec 7) (pb : BitVec 7) (op : BitVec 5) :
    (packPL maj pd pa pb op).extractLsb' 5 7 = pb := by
  simp only [packPL, field_high, field_low, Nat.reduceLeDiff, Nat.reduceSub, BitVec.extractLsb'_eq_self]
theorem pl_12_7 (maj : BitVec 6) (pd : BitVec 7) (pa : BitVec 7) (pb : BitVec 7) (op : BitVec 5) :
    (packPL maj pd pa pb op).extractLsb' 12 7 = pa := by
  simp only [packPL, field_high, field_low, Nat.reduceLeDiff, Nat.reduceSub, BitVec.extractLsb'_eq_self]
theorem pl_19_7 (maj : BitVec 6) (pd : BitVec 7) (pa : BitVec 7) (pb : BitVec 7) (op : BitVec 5) :
    (packPL maj pd pa pb op).extractLsb' 19 7 = pd := by
  simp only [packPL, field_high, field_low, Nat.reduceLeDiff, Nat.reduceSub, BitVec.extractLsb'_eq_self]
theorem pl_26_6 (maj : BitVec 6) (pd : BitVec 7) (pa : BitVec 7) (pb : BitVec 7) (op : BitVec 5) :
    (packPL maj pd pa pb op).extractLsb' 26 6 = maj := by
  simp only [packPL, field_high, field_low, Nat.reduceLeDiff, Nat.reduceSub, BitVec.extractLsb'_eq_self]

theorem vt_0_4 (maj : BitVec 6) (sd : BitVec 5) (pa : BitVec 7) (z : BitVec 10) (min : BitVec 4) :
    (packVT maj sd pa z min).extractLsb' 0 4 = min := by
  simp only [packVT, field_high, field_low, Nat.reduceLeDiff, Nat.reduceSub, BitVec.extractLsb'_eq_self]
theorem vt_14_7 (maj : BitVec 6) (sd : BitVec 5) (pa : BitVec 7) (z : BitVec 10) (min : BitVec 4) :
    (packVT maj sd pa z min).extractLsb' 14 7 = pa := by
  simp only [packVT, field_high, field_low, Nat.reduceLeDiff, Nat.reduceSub, BitVec.extractLsb'_eq_self]
theorem vt_21_5 (maj : BitVec 6) (sd : BitVec 5) (pa : BitVec 7) (z : BitVec 10) (min : BitVec 4) :
    (packVT maj sd pa z min).extractLsb' 21 5 = sd := by
  simp only [packVT, field_high, field_low, Nat.reduceLeDiff, Nat.reduceSub, BitVec.extractLsb'_eq_self]
theorem vt_26_6 (maj : BitVec 6) (sd : BitVec 5) (pa : BitVec 7) (z : BitVec 10) (min : BitVec 4) :
    (packVT maj sd pa z min).extractLsb' 26 6 = maj := by
  simp only [packVT, field_high, field_low, Nat.reduceLeDiff, Nat.reduceSub, BitVec.extractLsb'_eq_self]

theorem br_0_18 (maj : BitVec 6) (bk : BitVec 3) (s : BitVec 5) (off18 : BitVec 18) :
    (packBR maj bk s off18).extractLsb' 0 18 = off18 := by
  simp only [packBR, field_high, field_low, Nat.reduceLeDiff, Nat.reduceSub, BitVec.extractLsb'_eq_self]
theorem br_18_5 (maj : BitVec 6) (bk : BitVec 3) (s : BitVec 5) (off18 : BitVec 18) :
    (packBR maj bk s off18).extractLsb' 18 5 = s := by
  simp only [packBR, field_high, field_low, Nat.reduceLeDiff, Nat.reduceSub, BitVec.extractLsb'_eq_self]
theorem br_23_3 (maj : BitVec 6) (bk : BitVec 3) (s : BitVec 5) (off18 : BitVec 18) :
    (packBR maj bk s off18).extractLsb' 23 3 = bk := by
  simp only [packBR, field_high, field_low, Nat.reduceLeDiff, Nat.reduceSub, BitVec.extractLsb'_eq_self]
theorem br_26_6 (maj : BitVec 6) (bk : BitVec 3) (s : BitVec 5) (off18 : BitVec 18) :
    (packBR maj bk s off18).extractLsb' 26 6 = maj := by
  simp only [packBR, field_high, field_low, Nat.reduceLeDiff, Nat.reduceSub, BitVec.extractLsb'_eq_self]

theorem mm_0_4 (maj : BitVec 6) (d : BitVec 6) (s : BitVec 5) (xe : BitVec 1) (x : BitVec 5) (off5 : BitVec 5) (min : BitVec 4) :
    (packMM maj d s xe x off5 min).extractLsb' 0 4 = min := by
  simp only [packMM, field_high, field_low, Nat.reduceLeDiff, Nat.reduceSub, BitVec.extractLsb'_eq_self]
theorem mm_4_3 (maj : BitVec 6) (d : BitVec 6) (s : BitVec 5) (xe : BitVec 1) (x : BitVec 5) (off5 : BitVec 5) (min : BitVec 4) :
    (packMM maj d s xe x off5 min).extractLsb' 4 3 = off5.extractLsb' 0 3 := by
  simp only [packMM, field_high, field_low, Nat.reduceLeDiff, Nat.reduceSub, BitVec.extractLsb'_eq_self]
theorem mm_4_5 (maj : BitVec 6) (d : BitVec 6) (s : BitVec 5) (xe : BitVec 1) (x : BitVec 5) (off5 : BitVec 5) (min : BitVec 4) :
    (packMM maj d s xe x off5 min).extractLsb' 4 5 = off5 := by
  simp only [packMM, field_high, field_low, Nat.reduceLeDiff, Nat.reduceSub, BitVec.extractLsb'_eq_self]
theorem mm_7_2 (maj : BitVec 6) (d : BitVec 6) (s : BitVec 5) (xe : BitVec 1) (x : BitVec 5) (off5 : BitVec 5) (min : BitVec 4) :
    (packMM maj d s xe x off5 min).extractLsb' 7 2 = off5.extractLsb' 3 2 := by
  simp only [packMM, field_high, field_low, Nat.reduceLeDiff, Nat.reduceSub, BitVec.extractLsb'_eq_self]
theorem mm_9_5 (maj : BitVec 6) (d : BitVec 6) (s : BitVec 5) (xe : BitVec 1) (x : BitVec 5) (off5 : BitVec 5) (min : BitVec 4) :
    (packMM maj d s xe x off5 min).extractLsb' 9 5 = x := by
  simp only [packMM, field_high, field_low, Nat.reduceLeDiff, Nat.reduceSub, BitVec.extractLsb'_eq_self]
theorem mm_14_1 (maj : BitVec 6) (d : BitVec 6) (s : BitVec 5) (xe : BitVec 1) (x : BitVec 5) (off5 : BitVec 5) (min : BitVec 4) :
    (packMM maj d s xe x off5 min).extractLsb' 14 1 = xe := by
  simp only [packMM, field_high, field_low, Nat.reduceLeDiff, Nat.reduceSub, BitVec.extractLsb'_eq_self]
theorem mm_15_5 (maj : BitVec 6) (d : BitVec 6) (s : BitVec 5) (xe : BitVec 1) (x : BitVec 5) (off5 : BitVec 5) (min : BitVec 4) :
    (packMM maj d s xe x off5 min).extractLsb' 15 5 = s := by
  simp only [packMM, field_high, field_low, Nat.reduceLeDiff, Nat.reduceSub, BitVec.extractLsb'_eq_self]
theorem mm_20_5 (maj : BitVec 6) (d : BitVec 6) (s : BitVec 5) (xe : BitVec 1) (x : BitVec 5) (off5 : BitVec 5) (min : BitVec 4) :
    (packMM maj d s xe x off5 min).extractLsb' 20 5 = d.extractLsb' 0 5 := by
  simp only [packMM, field_high, field_low, Nat.reduceLeDiff, Nat.reduceSub, BitVec.extractLsb'_eq_self]
theorem mm_20_6 (maj : BitVec 6) (d : BitVec 6) (s : BitVec 5) (xe : BitVec 1) (x : BitVec 5) (off5 : BitVec 5) (min : BitVec 4) :
    (packMM maj d s xe x off5 min).extractLsb' 20 6 = d := by
  simp only [packMM, field_high, field_low, Nat.reduceLeDiff, Nat.reduceSub, BitVec.extractLsb'_eq_self]
theorem mm_21_5 (maj : BitVec 6) (d : BitVec 6) (s : BitVec 5) (xe : BitVec 1) (x : BitVec 5) (off5 : BitVec 5) (min : BitVec 4) :
    (packMM maj d s xe x off5 min).extractLsb' 21 5 = d.extractLsb' 1 5 := by
  simp only [packMM, field_high, field_low, Nat.reduceLeDiff, Nat.reduceSub, BitVec.extractLsb'_eq_self]
theorem mm_25_1 (maj : BitVec 6) (d : BitVec 6) (s : BitVec 5) (xe : BitVec 1) (x : BitVec 5) (off5 : BitVec 5) (min : BitVec 4) :
    (packMM maj d s xe x off5 min).extractLsb' 25 1 = d.extractLsb' 5 1 := by
  simp only [packMM, field_high, field_low, Nat.reduceLeDiff, Nat.reduceSub, BitVec.extractLsb'_eq_self]
theorem mm_26_6 (maj : BitVec 6) (d : BitVec 6) (s : BitVec 5) (xe : BitVec 1) (x : BitVec 5) (off5 : BitVec 5) (min : BitVec 4) :
    (packMM maj d s xe x off5 min).extractLsb' 26 6 = maj := by
  simp only [packMM, field_high, field_low, Nat.reduceLeDiff, Nat.reduceSub, BitVec.extractLsb'_eq_self]

theorem sy_0_4 (maj : BitVec 6) (sd : BitVec 5) (sa : BitVec 5) (imm12 : BitVec 12) (min : BitVec 4) :
    (packSY maj sd sa imm12 min).extractLsb' 0 4 = min := by
  simp only [packSY, field_high, field_low, Nat.reduceLeDiff, Nat.reduceSub, BitVec.extractLsb'_eq_self]
theorem sy_4_2 (maj : BitVec 6) (sd : BitVec 5) (sa : BitVec 5) (imm12 : BitVec 12) (min : BitVec 4) :
    (packSY maj sd sa imm12 min).extractLsb' 4 2 = imm12.extractLsb' 0 2 := by
  simp only [packSY, field_high, field_low, Nat.reduceLeDiff, Nat.reduceSub, BitVec.extractLsb'_eq_self]
theorem sy_4_3 (maj : BitVec 6) (sd : BitVec 5) (sa : BitVec 5) (imm12 : BitVec 12) (min : BitVec 4) :
    (packSY maj sd sa imm12 min).extractLsb' 4 3 = imm12.extractLsb' 0 3 := by
  simp only [packSY, field_high, field_low, Nat.reduceLeDiff, Nat.reduceSub, BitVec.extractLsb'_eq_self]
theorem sy_4_4 (maj : BitVec 6) (sd : BitVec 5) (sa : BitVec 5) (imm12 : BitVec 12) (min : BitVec 4) :
    (packSY maj sd sa imm12 min).extractLsb' 4 4 = imm12.extractLsb' 0 4 := by
  simp only [packSY, field_high, field_low, Nat.reduceLeDiff, Nat.reduceSub, BitVec.extractLsb'_eq_self]
theorem sy_4_5 (maj : BitVec 6) (sd : BitVec 5) (sa : BitVec 5) (imm12 : BitVec 12) (min : BitVec 4) :
    (packSY maj sd sa imm12 min).extractLsb' 4 5 = imm12.extractLsb' 0 5 := by
  simp only [packSY, field_high, field_low, Nat.reduceLeDiff, Nat.reduceSub, BitVec.extractLsb'_eq_self]
theorem sy_4_7 (maj : BitVec 6) (sd : BitVec 5) (sa : BitVec 5) (imm12 : BitVec 12) (min : BitVec 4) :
    (packSY maj sd sa imm12 min).extractLsb' 4 7 = imm12.extractLsb' 0 7 := by
  simp only [packSY, field_high, field_low, Nat.reduceLeDiff, Nat.reduceSub, BitVec.extractLsb'_eq_self]
theorem sy_4_8 (maj : BitVec 6) (sd : BitVec 5) (sa : BitVec 5) (imm12 : BitVec 12) (min : BitVec 4) :
    (packSY maj sd sa imm12 min).extractLsb' 4 8 = imm12.extractLsb' 0 8 := by
  simp only [packSY, field_high, field_low, Nat.reduceLeDiff, Nat.reduceSub, BitVec.extractLsb'_eq_self]
theorem sy_4_12 (maj : BitVec 6) (sd : BitVec 5) (sa : BitVec 5) (imm12 : BitVec 12) (min : BitVec 4) :
    (packSY maj sd sa imm12 min).extractLsb' 4 12 = imm12 := by
  simp only [packSY, field_high, field_low, Nat.reduceLeDiff, Nat.reduceSub, BitVec.extractLsb'_eq_self]
theorem sy_6_3 (maj : BitVec 6) (sd : BitVec 5) (sa : BitVec 5) (imm12 : BitVec 12) (min : BitVec 4) :
    (packSY maj sd sa imm12 min).extractLsb' 6 3 = imm12.extractLsb' 2 3 := by
  simp only [packSY, field_high, field_low, Nat.reduceLeDiff, Nat.reduceSub, BitVec.extractLsb'_eq_self]
theorem sy_8_4 (maj : BitVec 6) (sd : BitVec 5) (sa : BitVec 5) (imm12 : BitVec 12) (min : BitVec 4) :
    (packSY maj sd sa imm12 min).extractLsb' 8 4 = imm12.extractLsb' 4 4 := by
  simp only [packSY, field_high, field_low, Nat.reduceLeDiff, Nat.reduceSub, BitVec.extractLsb'_eq_self]
theorem sy_16_5 (maj : BitVec 6) (sd : BitVec 5) (sa : BitVec 5) (imm12 : BitVec 12) (min : BitVec 4) :
    (packSY maj sd sa imm12 min).extractLsb' 16 5 = sa := by
  simp only [packSY, field_high, field_low, Nat.reduceLeDiff, Nat.reduceSub, BitVec.extractLsb'_eq_self]
theorem sy_21_5 (maj : BitVec 6) (sd : BitVec 5) (sa : BitVec 5) (imm12 : BitVec 12) (min : BitVec 4) :
    (packSY maj sd sa imm12 min).extractLsb' 21 5 = sd := by
  simp only [packSY, field_high, field_low, Nat.reduceLeDiff, Nat.reduceSub, BitVec.extractLsb'_eq_self]
theorem sy_26_6 (maj : BitVec 6) (sd : BitVec 5) (sa : BitVec 5) (imm12 : BitVec 12) (min : BitVec 4) :
    (packSY maj sd sa imm12 min).extractLsb' 26 6 = maj := by
  simp only [packSY, field_high, field_low, Nat.reduceLeDiff, Nat.reduceSub, BitVec.extractLsb'_eq_self]

theorem gr_0_4 (maj : BitVec 6) (nd : BitVec 4) (na : BitVec 4) (nb : BitVec 4) (attr10 : BitVec 10) (min : BitVec 4) :
    (packGR maj nd na nb attr10 min).extractLsb' 0 4 = min := by
  simp only [packGR, field_high, field_low, Nat.reduceLeDiff, Nat.reduceSub, BitVec.extractLsb'_eq_self]
theorem gr_4_2 (maj : BitVec 6) (nd : BitVec 4) (na : BitVec 4) (nb : BitVec 4) (attr10 : BitVec 10) (min : BitVec 4) :
    (packGR maj nd na nb attr10 min).extractLsb' 4 2 = attr10.extractLsb' 0 2 := by
  simp only [packGR, field_high, field_low, Nat.reduceLeDiff, Nat.reduceSub, BitVec.extractLsb'_eq_self]
theorem gr_4_4 (maj : BitVec 6) (nd : BitVec 4) (na : BitVec 4) (nb : BitVec 4) (attr10 : BitVec 10) (min : BitVec 4) :
    (packGR maj nd na nb attr10 min).extractLsb' 4 4 = attr10.extractLsb' 0 4 := by
  simp only [packGR, field_high, field_low, Nat.reduceLeDiff, Nat.reduceSub, BitVec.extractLsb'_eq_self]
theorem gr_4_6 (maj : BitVec 6) (nd : BitVec 4) (na : BitVec 4) (nb : BitVec 4) (attr10 : BitVec 10) (min : BitVec 4) :
    (packGR maj nd na nb attr10 min).extractLsb' 4 6 = attr10.extractLsb' 0 6 := by
  simp only [packGR, field_high, field_low, Nat.reduceLeDiff, Nat.reduceSub, BitVec.extractLsb'_eq_self]
theorem gr_6_1 (maj : BitVec 6) (nd : BitVec 4) (na : BitVec 4) (nb : BitVec 4) (attr10 : BitVec 10) (min : BitVec 4) :
    (packGR maj nd na nb attr10 min).extractLsb' 6 1 = attr10.extractLsb' 2 1 := by
  simp only [packGR, field_high, field_low, Nat.reduceLeDiff, Nat.reduceSub, BitVec.extractLsb'_eq_self]
theorem gr_7_1 (maj : BitVec 6) (nd : BitVec 4) (na : BitVec 4) (nb : BitVec 4) (attr10 : BitVec 10) (min : BitVec 4) :
    (packGR maj nd na nb attr10 min).extractLsb' 7 1 = attr10.extractLsb' 3 1 := by
  simp only [packGR, field_high, field_low, Nat.reduceLeDiff, Nat.reduceSub, BitVec.extractLsb'_eq_self]
theorem gr_8_1 (maj : BitVec 6) (nd : BitVec 4) (na : BitVec 4) (nb : BitVec 4) (attr10 : BitVec 10) (min : BitVec 4) :
    (packGR maj nd na nb attr10 min).extractLsb' 8 1 = attr10.extractLsb' 4 1 := by
  simp only [packGR, field_high, field_low, Nat.reduceLeDiff, Nat.reduceSub, BitVec.extractLsb'_eq_self]
theorem gr_10_3 (maj : BitVec 6) (nd : BitVec 4) (na : BitVec 4) (nb : BitVec 4) (attr10 : BitVec 10) (min : BitVec 4) :
    (packGR maj nd na nb attr10 min).extractLsb' 10 3 = attr10.extractLsb' 6 3 := by
  simp only [packGR, field_high, field_low, Nat.reduceLeDiff, Nat.reduceSub, BitVec.extractLsb'_eq_self]
theorem gr_13_1 (maj : BitVec 6) (nd : BitVec 4) (na : BitVec 4) (nb : BitVec 4) (attr10 : BitVec 10) (min : BitVec 4) :
    (packGR maj nd na nb attr10 min).extractLsb' 13 1 = attr10.extractLsb' 9 1 := by
  simp only [packGR, field_high, field_low, Nat.reduceLeDiff, Nat.reduceSub, BitVec.extractLsb'_eq_self]
theorem gr_14_4 (maj : BitVec 6) (nd : BitVec 4) (na : BitVec 4) (nb : BitVec 4) (attr10 : BitVec 10) (min : BitVec 4) :
    (packGR maj nd na nb attr10 min).extractLsb' 14 4 = nb := by
  simp only [packGR, field_high, field_low, Nat.reduceLeDiff, Nat.reduceSub, BitVec.extractLsb'_eq_self]
theorem gr_18_4 (maj : BitVec 6) (nd : BitVec 4) (na : BitVec 4) (nb : BitVec 4) (attr10 : BitVec 10) (min : BitVec 4) :
    (packGR maj nd na nb attr10 min).extractLsb' 18 4 = na := by
  simp only [packGR, field_high, field_low, Nat.reduceLeDiff, Nat.reduceSub, BitVec.extractLsb'_eq_self]
theorem gr_22_4 (maj : BitVec 6) (nd : BitVec 4) (na : BitVec 4) (nb : BitVec 4) (attr10 : BitVec 10) (min : BitVec 4) :
    (packGR maj nd na nb attr10 min).extractLsb' 22 4 = nd := by
  simp only [packGR, field_high, field_low, Nat.reduceLeDiff, Nat.reduceSub, BitVec.extractLsb'_eq_self]
theorem gr_26_6 (maj : BitVec 6) (nd : BitVec 4) (na : BitVec 4) (nb : BitVec 4) (attr10 : BitVec 10) (min : BitVec 4) :
    (packGR maj nd na nb attr10 min).extractLsb' 26 6 = maj := by
  simp only [packGR, field_high, field_low, Nat.reduceLeDiff, Nat.reduceSub, BitVec.extractLsb'_eq_self]

theorem gs_0_4 (maj : BitVec 6) (nd : BitVec 4) (na : BitVec 4) (s : BitVec 5) (imm8 : BitVec 8) (f : BitVec 1) (min : BitVec 4) :
    (packGS maj nd na s imm8 f min).extractLsb' 0 4 = min := by
  simp only [packGS, field_high, field_low, Nat.reduceLeDiff, Nat.reduceSub, BitVec.extractLsb'_eq_self]
theorem gs_4_1 (maj : BitVec 6) (nd : BitVec 4) (na : BitVec 4) (s : BitVec 5) (imm8 : BitVec 8) (f : BitVec 1) (min : BitVec 4) :
    (packGS maj nd na s imm8 f min).extractLsb' 4 1 = f := by
  simp only [packGS, field_high, field_low, Nat.reduceLeDiff, Nat.reduceSub, BitVec.extractLsb'_eq_self]
theorem gs_5_2 (maj : BitVec 6) (nd : BitVec 4) (na : BitVec 4) (s : BitVec 5) (imm8 : BitVec 8) (f : BitVec 1) (min : BitVec 4) :
    (packGS maj nd na s imm8 f min).extractLsb' 5 2 = imm8.extractLsb' 0 2 := by
  simp only [packGS, field_high, field_low, Nat.reduceLeDiff, Nat.reduceSub, BitVec.extractLsb'_eq_self]
theorem gs_5_8 (maj : BitVec 6) (nd : BitVec 4) (na : BitVec 4) (s : BitVec 5) (imm8 : BitVec 8) (f : BitVec 1) (min : BitVec 4) :
    (packGS maj nd na s imm8 f min).extractLsb' 5 8 = imm8 := by
  simp only [packGS, field_high, field_low, Nat.reduceLeDiff, Nat.reduceSub, BitVec.extractLsb'_eq_self]
theorem gs_7_1 (maj : BitVec 6) (nd : BitVec 4) (na : BitVec 4) (s : BitVec 5) (imm8 : BitVec 8) (f : BitVec 1) (min : BitVec 4) :
    (packGS maj nd na s imm8 f min).extractLsb' 7 1 = imm8.extractLsb' 2 1 := by
  simp only [packGS, field_high, field_low, Nat.reduceLeDiff, Nat.reduceSub, BitVec.extractLsb'_eq_self]
theorem gs_13_5 (maj : BitVec 6) (nd : BitVec 4) (na : BitVec 4) (s : BitVec 5) (imm8 : BitVec 8) (f : BitVec 1) (min : BitVec 4) :
    (packGS maj nd na s imm8 f min).extractLsb' 13 5 = s := by
  simp only [packGS, field_high, field_low, Nat.reduceLeDiff, Nat.reduceSub, BitVec.extractLsb'_eq_self]
theorem gs_18_4 (maj : BitVec 6) (nd : BitVec 4) (na : BitVec 4) (s : BitVec 5) (imm8 : BitVec 8) (f : BitVec 1) (min : BitVec 4) :
    (packGS maj nd na s imm8 f min).extractLsb' 18 4 = na := by
  simp only [packGS, field_high, field_low, Nat.reduceLeDiff, Nat.reduceSub, BitVec.extractLsb'_eq_self]
theorem gs_22_4 (maj : BitVec 6) (nd : BitVec 4) (na : BitVec 4) (s : BitVec 5) (imm8 : BitVec 8) (f : BitVec 1) (min : BitVec 4) :
    (packGS maj nd na s imm8 f min).extractLsb' 22 4 = nd := by
  simp only [packGS, field_high, field_low, Nat.reduceLeDiff, Nat.reduceSub, BitVec.extractLsb'_eq_self]
theorem gs_26_6 (maj : BitVec 6) (nd : BitVec 4) (na : BitVec 4) (s : BitVec 5) (imm8 : BitVec 8) (f : BitVec 1) (min : BitVec 4) :
    (packGS maj nd na s imm8 f min).extractLsb' 26 6 = maj := by
  simp only [packGS, field_high, field_low, Nat.reduceLeDiff, Nat.reduceSub, BitVec.extractLsb'_eq_self]

theorem gv_0_4 (maj : BitVec 6) (vd : BitVec 6) (n : BitVec 4) (s : BitVec 5) (z : BitVec 7) (min : BitVec 4) :
    (packGV maj vd n s z min).extractLsb' 0 4 = min := by
  simp only [packGV, field_high, field_low, Nat.reduceLeDiff, Nat.reduceSub, BitVec.extractLsb'_eq_self]
theorem gv_11_5 (maj : BitVec 6) (vd : BitVec 6) (n : BitVec 4) (s : BitVec 5) (z : BitVec 7) (min : BitVec 4) :
    (packGV maj vd n s z min).extractLsb' 11 5 = s := by
  simp only [packGV, field_high, field_low, Nat.reduceLeDiff, Nat.reduceSub, BitVec.extractLsb'_eq_self]
theorem gv_16_4 (maj : BitVec 6) (vd : BitVec 6) (n : BitVec 4) (s : BitVec 5) (z : BitVec 7) (min : BitVec 4) :
    (packGV maj vd n s z min).extractLsb' 16 4 = n := by
  simp only [packGV, field_high, field_low, Nat.reduceLeDiff, Nat.reduceSub, BitVec.extractLsb'_eq_self]
theorem gv_20_6 (maj : BitVec 6) (vd : BitVec 6) (n : BitVec 4) (s : BitVec 5) (z : BitVec 7) (min : BitVec 4) :
    (packGV maj vd n s z min).extractLsb' 20 6 = vd := by
  simp only [packGV, field_high, field_low, Nat.reduceLeDiff, Nat.reduceSub, BitVec.extractLsb'_eq_self]
theorem gv_26_6 (maj : BitVec 6) (vd : BitVec 6) (n : BitVec 4) (s : BitVec 5) (z : BitVec 7) (min : BitVec 4) :
    (packGV maj vd n s z min).extractLsb' 26 6 = maj := by
  simp only [packGV, field_high, field_low, Nat.reduceLeDiff, Nat.reduceSub, BitVec.extractLsb'_eq_self]

theorem gn_0_4 (maj : BitVec 6) (n : BitVec 4) (sd : BitVec 5) (z : BitVec 13) (min : BitVec 4) :
    (packGN maj n sd z min).extractLsb' 0 4 = min := by
  simp only [packGN, field_high, field_low, Nat.reduceLeDiff, Nat.reduceSub, BitVec.extractLsb'_eq_self]
theorem gn_17_5 (maj : BitVec 6) (n : BitVec 4) (sd : BitVec 5) (z : BitVec 13) (min : BitVec 4) :
    (packGN maj n sd z min).extractLsb' 17 5 = sd := by
  simp only [packGN, field_high, field_low, Nat.reduceLeDiff, Nat.reduceSub, BitVec.extractLsb'_eq_self]
theorem gn_22_4 (maj : BitVec 6) (n : BitVec 4) (sd : BitVec 5) (z : BitVec 13) (min : BitVec 4) :
    (packGN maj n sd z min).extractLsb' 22 4 = n := by
  simp only [packGN, field_high, field_low, Nat.reduceLeDiff, Nat.reduceSub, BitVec.extractLsb'_eq_self]
theorem gn_26_6 (maj : BitVec 6) (n : BitVec 4) (sd : BitVec 5) (z : BitVec 13) (min : BitVec 4) :
    (packGN maj n sd z min).extractLsb' 26 6 = maj := by
  simp only [packGN, field_high, field_low, Nat.reduceLeDiff, Nat.reduceSub, BitVec.extractLsb'_eq_self]

theorem gt_0_4 (maj : BitVec 6) (n : BitVec 4) (tn : BitVec 8) (s : BitVec 5) (flags : BitVec 5) (min : BitVec 4) :
    (packGT maj n tn s flags min).extractLsb' 0 4 = min := by
  simp only [packGT, field_high, field_low, Nat.reduceLeDiff, Nat.reduceSub, BitVec.extractLsb'_eq_self]
theorem gt_4_1 (maj : BitVec 6) (n : BitVec 4) (tn : BitVec 8) (s : BitVec 5) (flags : BitVec 5) (min : BitVec 4) :
    (packGT maj n tn s flags min).extractLsb' 4 1 = flags.extractLsb' 0 1 := by
  simp only [packGT, field_high, field_low, Nat.reduceLeDiff, Nat.reduceSub, BitVec.extractLsb'_eq_self]
theorem gt_9_5 (maj : BitVec 6) (n : BitVec 4) (tn : BitVec 8) (s : BitVec 5) (flags : BitVec 5) (min : BitVec 4) :
    (packGT maj n tn s flags min).extractLsb' 9 5 = s := by
  simp only [packGT, field_high, field_low, Nat.reduceLeDiff, Nat.reduceSub, BitVec.extractLsb'_eq_self]
theorem gt_14_8 (maj : BitVec 6) (n : BitVec 4) (tn : BitVec 8) (s : BitVec 5) (flags : BitVec 5) (min : BitVec 4) :
    (packGT maj n tn s flags min).extractLsb' 14 8 = tn := by
  simp only [packGT, field_high, field_low, Nat.reduceLeDiff, Nat.reduceSub, BitVec.extractLsb'_eq_self]
theorem gt_22_4 (maj : BitVec 6) (n : BitVec 4) (tn : BitVec 8) (s : BitVec 5) (flags : BitVec 5) (min : BitVec 4) :
    (packGT maj n tn s flags min).extractLsb' 22 4 = n := by
  simp only [packGT, field_high, field_low, Nat.reduceLeDiff, Nat.reduceSub, BitVec.extractLsb'_eq_self]
theorem gt_26_6 (maj : BitVec 6) (n : BitVec 4) (tn : BitVec 8) (s : BitVec 5) (flags : BitVec 5) (min : BitVec 4) :
    (packGT maj n tn s flags min).extractLsb' 26 6 = maj := by
  simp only [packGT, field_high, field_low, Nat.reduceLeDiff, Nat.reduceSub, BitVec.extractLsb'_eq_self]

theorem ga_0_4 (maj : BitVec 6) (n : BitVec 4) (slot : BitVec 6) (s : BitVec 5) (flags : BitVec 7) (min : BitVec 4) :
    (packGA maj n slot s flags min).extractLsb' 0 4 = min := by
  simp only [packGA, field_high, field_low, Nat.reduceLeDiff, Nat.reduceSub, BitVec.extractLsb'_eq_self]
theorem ga_4_1 (maj : BitVec 6) (n : BitVec 4) (slot : BitVec 6) (s : BitVec 5) (flags : BitVec 7) (min : BitVec 4) :
    (packGA maj n slot s flags min).extractLsb' 4 1 = flags.extractLsb' 0 1 := by
  simp only [packGA, field_high, field_low, Nat.reduceLeDiff, Nat.reduceSub, BitVec.extractLsb'_eq_self]
theorem ga_5_1 (maj : BitVec 6) (n : BitVec 4) (slot : BitVec 6) (s : BitVec 5) (flags : BitVec 7) (min : BitVec 4) :
    (packGA maj n slot s flags min).extractLsb' 5 1 = flags.extractLsb' 1 1 := by
  simp only [packGA, field_high, field_low, Nat.reduceLeDiff, Nat.reduceSub, BitVec.extractLsb'_eq_self]
theorem ga_11_5 (maj : BitVec 6) (n : BitVec 4) (slot : BitVec 6) (s : BitVec 5) (flags : BitVec 7) (min : BitVec 4) :
    (packGA maj n slot s flags min).extractLsb' 11 5 = s := by
  simp only [packGA, field_high, field_low, Nat.reduceLeDiff, Nat.reduceSub, BitVec.extractLsb'_eq_self]
theorem ga_16_6 (maj : BitVec 6) (n : BitVec 4) (slot : BitVec 6) (s : BitVec 5) (flags : BitVec 7) (min : BitVec 4) :
    (packGA maj n slot s flags min).extractLsb' 16 6 = slot := by
  simp only [packGA, field_high, field_low, Nat.reduceLeDiff, Nat.reduceSub, BitVec.extractLsb'_eq_self]
theorem ga_22_4 (maj : BitVec 6) (n : BitVec 4) (slot : BitVec 6) (s : BitVec 5) (flags : BitVec 7) (min : BitVec 4) :
    (packGA maj n slot s flags min).extractLsb' 22 4 = n := by
  simp only [packGA, field_high, field_low, Nat.reduceLeDiff, Nat.reduceSub, BitVec.extractLsb'_eq_self]
theorem ga_26_6 (maj : BitVec 6) (n : BitVec 4) (slot : BitVec 6) (s : BitVec 5) (flags : BitVec 7) (min : BitVec 4) :
    (packGA maj n slot s flags min).extractLsb' 26 6 = maj := by
  simp only [packGA, field_high, field_low, Nat.reduceLeDiff, Nat.reduceSub, BitVec.extractLsb'_eq_self]

/-! ## The opcode map by its major -/

theorem raw_salu (w : Word) (h : w.extractLsb' 26 6 = 1#6) : rawDecode w = rawSalu w := by simp only [rawDecode, h, BitVec.reduceToNat]
theorem raw_salu2 (w : Word) (h : w.extractLsb' 26 6 = 2#6) : rawDecode w = rawSalu2 w := by simp only [rawDecode, h, BitVec.reduceToNat]
theorem raw_salui (w : Word) (h : w.extractLsb' 26 6 = 3#6) : rawDecode w = rawSalui w := by simp only [rawDecode, h, BitVec.reduceToNat]
theorem raw_slui (w : Word) (h : w.extractLsb' 26 6 = 4#6) : rawDecode w = rawSlui w := by simp only [rawDecode, h, BitVec.reduceToNat]
theorem raw_sadr (w : Word) (h : w.extractLsb' 26 6 = 5#6) : rawDecode w = rawSadr w := by simp only [rawDecode, h, BitVec.reduceToNat]
theorem raw_branch (w : Word) (h : w.extractLsb' 26 6 = 6#6) : rawDecode w = rawBranch w := by simp only [rawDecode, h, BitVec.reduceToNat]
theorem raw_ctl (w : Word) (h : w.extractLsb' 26 6 = 7#6) : rawDecode w = rawCtl w := by simp only [rawDecode, h, BitVec.reduceToNat]
theorem raw_vialu (w : Word) (h : w.extractLsb' 26 6 = 8#6) : rawDecode w = rawVialu w := by simp only [rawDecode, h, BitVec.reduceToNat]
theorem raw_vialu2 (w : Word) (h : w.extractLsb' 26 6 = 9#6) : rawDecode w = rawVialu2 w := by simp only [rawDecode, h, BitVec.reduceToNat]
theorem raw_vialui (w : Word) (h : w.extractLsb' 26 6 = 10#6) : rawDecode w = rawVialui w := by simp only [rawDecode, h, BitVec.reduceToNat]
theorem raw_vlui (w : Word) (h : w.extractLsb' 26 6 = 11#6) : rawDecode w = rawVlui w := by simp only [rawDecode, h, BitVec.reduceToNat]
theorem raw_cmp (w : Word) (h : w.extractLsb' 26 6 = 12#6) : rawDecode w = rawCmp w := by simp only [rawDecode, h, BitVec.reduceToNat]
theorem raw_plog (w : Word) (h : w.extractLsb' 26 6 = 13#6) : rawDecode w = rawPlog w := by simp only [rawDecode, h, BitVec.reduceToNat]
theorem raw_falu (w : Word) (h : w.extractLsb' 26 6 = 16#6) : rawDecode w = rawFalu w := by simp only [rawDecode, h, BitVec.reduceToNat]
theorem raw_fcvt (w : Word) (h : w.extractLsb' 26 6 = 17#6) : rawDecode w = rawFcvt w := by simp only [rawDecode, h, BitVec.reduceToNat]
theorem raw_halu (w : Word) (h : w.extractLsb' 26 6 = 18#6) : rawDecode w = rawHalu w := by simp only [rawDecode, h, BitVec.reduceToNat]
theorem raw_dalu (w : Word) (h : w.extractLsb' 26 6 = 19#6) : rawDecode w = rawDalu w := by simp only [rawDecode, h, BitVec.reduceToNat]
theorem raw_sfu (w : Word) (h : w.extractLsb' 26 6 = 20#6) : rawDecode w = rawSfu w := by simp only [rawDecode, h, BitVec.reduceToNat]
theorem raw_xlane (w : Word) (h : w.extractLsb' 26 6 = 24#6) : rawDecode w = rawXlane w := by simp only [rawDecode, h, BitVec.reduceToNat]
theorem raw_vote (w : Word) (h : w.extractLsb' 26 6 = 25#6) : rawDecode w = rawVote w := by simp only [rawDecode, h, BitVec.reduceToNat]
theorem raw_red (w : Word) (h : w.extractLsb' 26 6 = 26#6) : rawDecode w = rawRed w := by simp only [rawDecode, h, BitVec.reduceToNat]
theorem raw_scan (w : Word) (h : w.extractLsb' 26 6 = 27#6) : rawDecode w = rawScan w := by simp only [rawDecode, h, BitVec.reduceToNat]
theorem raw_ksel (w : Word) (h : w.extractLsb' 26 6 = 28#6) : rawDecode w = rawKsel w := by simp only [rawDecode, h, BitVec.reduceToNat]
theorem raw_rng (w : Word) (h : w.extractLsb' 26 6 = 29#6) : rawDecode w = rawRng w := by simp only [rawDecode, h, BitVec.reduceToNat]
theorem raw_sld (w : Word) (h : w.extractLsb' 26 6 = 32#6) : rawDecode w = rawSld w := by simp only [rawDecode, h, BitVec.reduceToNat]
theorem raw_sst (w : Word) (h : w.extractLsb' 26 6 = 33#6) : rawDecode w = rawSst w := by simp only [rawDecode, h, BitVec.reduceToNat]
theorem raw_vld (w : Word) (h : w.extractLsb' 26 6 = 34#6) : rawDecode w = rawVld w := by simp only [rawDecode, h, BitVec.reduceToNat]
theorem raw_vst (w : Word) (h : w.extractLsb' 26 6 = 35#6) : rawDecode w = rawVst w := by simp only [rawDecode, h, BitVec.reduceToNat]
theorem raw_tile (w : Word) (h : w.extractLsb' 26 6 = 36#6) : rawDecode w = rawTile w := by simp only [rawDecode, h, BitVec.reduceToNat]
theorem raw_amo (w : Word) (h : w.extractLsb' 26 6 = 37#6) : rawDecode w = rawAmo w := by simp only [rawDecode, h, BitVec.reduceToNat]
theorem raw_sync (w : Word) (h : w.extractLsb' 26 6 = 38#6) : rawDecode w = rawSync w := by simp only [rawDecode, h, BitVec.reduceToNat]
theorem raw_eng (w : Word) (h : w.extractLsb' 26 6 = 39#6) : rawDecode w = rawEng w := by simp only [rawDecode, h, BitVec.reduceToNat]
theorem raw_tnt (w : Word) (h : w.extractLsb' 26 6 = 40#6) : rawDecode w = rawTnt w := by simp only [rawDecode, h, BitVec.reduceToNat]
theorem raw_gsrc (w : Word) (h : w.extractLsb' 26 6 = 41#6) : rawDecode w = rawGsrc w := by simp only [rawDecode, h, BitVec.reduceToNat]
theorem raw_gop (w : Word) (h : w.extractLsb' 26 6 = 42#6) : rawDecode w = rawGop w := by simp only [rawDecode, h, BitVec.reduceToNat]
theorem raw_gfrc (w : Word) (h : w.extractLsb' 26 6 = 43#6) : rawDecode w = rawGfrc w := by simp only [rawDecode, h, BitVec.reduceToNat]
theorem raw_task (w : Word) (h : w.extractLsb' 26 6 = 48#6) : rawDecode w = rawTask w := by simp only [rawDecode, h, BitVec.reduceToNat]
theorem raw_dep (w : Word) (h : w.extractLsb' 26 6 = 49#6) : rawDecode w = rawDep w := by simp only [rawDecode, h, BitVec.reduceToNat]
theorem raw_grp (w : Word) (h : w.extractLsb' 26 6 = 50#6) : rawDecode w = rawGrp w := by simp only [rawDecode, h, BitVec.reduceToNat]
theorem raw_sys (w : Word) (h : w.extractLsb' 26 6 = 51#6) : rawDecode w = rawSys w := by simp only [rawDecode, h, BitVec.reduceToNat]
theorem raw_cctl (w : Word) (h : w.extractLsb' 26 6 = 52#6) : rawDecode w = rawCctl w := by simp only [rawDecode, h, BitVec.reduceToNat]

end Sys2Proof.Laws
end

