-- ==== Sys2Proof/Laws/PerInstr.lean ====
section
/-!
SUPPORT. The family `Word`: decoding what an instruction's own word holds gives the instruction. One lemma
for each constructor; an event has no word.
-/

set_option linter.unusedSimpArgs false
set_option Elab.async false

namespace Sys2Proof.Laws.Word

/-- The opcode map reads from an instruction's word the instruction. -/
def Statement (i : Instr) : Prop := ∀ w, encode i = some w → rawDecode w = some i

theorem sadd (d : BitVec 5) (a : BitVec 5) (b : BitVec 5) : Statement (.sadd d a b) := by
  intro w h
  cases h
  rw [raw_salu _ (by simp only [rr_26_6])]
  simp only [rawSalu, rr_0_4, rr_8_5, rr_14_5, rr_20_5, field_high, field_low, Nat.reduceLeDiff, Nat.reduceSub, BitVec.extractLsb'_eq_self, BitVec.reduceToNat]
theorem ssub (d : BitVec 5) (a : BitVec 5) (b : BitVec 5) : Statement (.ssub d a b) := by
  intro w h
  cases h
  rw [raw_salu _ (by simp only [rr_26_6])]
  simp only [rawSalu, rr_0_4, rr_8_5, rr_14_5, rr_20_5, field_high, field_low, Nat.reduceLeDiff, Nat.reduceSub, BitVec.extractLsb'_eq_self, BitVec.reduceToNat]
theorem smul (d : BitVec 5) (a : BitVec 5) (b : BitVec 5) : Statement (.smul d a b) := by
  intro w h
  cases h
  rw [raw_salu _ (by simp only [rr_26_6])]
  simp only [rawSalu, rr_0_4, rr_8_5, rr_14_5, rr_20_5, field_high, field_low, Nat.reduceLeDiff, Nat.reduceSub, BitVec.extractLsb'_eq_self, BitVec.reduceToNat]
theorem smulh (d : BitVec 5) (a : BitVec 5) (b : BitVec 5) : Statement (.smulh d a b) := by
  intro w h
  cases h
  rw [raw_salu _ (by simp only [rr_26_6])]
  simp only [rawSalu, rr_0_4, rr_8_5, rr_14_5, rr_20_5, field_high, field_low, Nat.reduceLeDiff, Nat.reduceSub, BitVec.extractLsb'_eq_self, BitVec.reduceToNat]
theorem smulhu (d : BitVec 5) (a : BitVec 5) (b : BitVec 5) : Statement (.smulhu d a b) := by
  intro w h
  cases h
  rw [raw_salu _ (by simp only [rr_26_6])]
  simp only [rawSalu, rr_0_4, rr_8_5, rr_14_5, rr_20_5, field_high, field_low, Nat.reduceLeDiff, Nat.reduceSub, BitVec.extractLsb'_eq_self, BitVec.reduceToNat]
theorem sand (d : BitVec 5) (a : BitVec 5) (b : BitVec 5) : Statement (.sand d a b) := by
  intro w h
  cases h
  rw [raw_salu _ (by simp only [rr_26_6])]
  simp only [rawSalu, rr_0_4, rr_8_5, rr_14_5, rr_20_5, field_high, field_low, Nat.reduceLeDiff, Nat.reduceSub, BitVec.extractLsb'_eq_self, BitVec.reduceToNat]
theorem sor (d : BitVec 5) (a : BitVec 5) (b : BitVec 5) : Statement (.sor d a b) := by
  intro w h
  cases h
  rw [raw_salu _ (by simp only [rr_26_6])]
  simp only [rawSalu, rr_0_4, rr_8_5, rr_14_5, rr_20_5, field_high, field_low, Nat.reduceLeDiff, Nat.reduceSub, BitVec.extractLsb'_eq_self, BitVec.reduceToNat]
theorem sxor (d : BitVec 5) (a : BitVec 5) (b : BitVec 5) : Statement (.sxor d a b) := by
  intro w h
  cases h
  rw [raw_salu _ (by simp only [rr_26_6])]
  simp only [rawSalu, rr_0_4, rr_8_5, rr_14_5, rr_20_5, field_high, field_low, Nat.reduceLeDiff, Nat.reduceSub, BitVec.extractLsb'_eq_self, BitVec.reduceToNat]
theorem sshl (d : BitVec 5) (a : BitVec 5) (b : BitVec 5) : Statement (.sshl d a b) := by
  intro w h
  cases h
  rw [raw_salu _ (by simp only [rr_26_6])]
  simp only [rawSalu, rr_0_4, rr_8_5, rr_14_5, rr_20_5, field_high, field_low, Nat.reduceLeDiff, Nat.reduceSub, BitVec.extractLsb'_eq_self, BitVec.reduceToNat]
theorem sshr (d : BitVec 5) (a : BitVec 5) (b : BitVec 5) : Statement (.sshr d a b) := by
  intro w h
  cases h
  rw [raw_salu _ (by simp only [rr_26_6])]
  simp only [rawSalu, rr_0_4, rr_8_5, rr_14_5, rr_20_5, field_high, field_low, Nat.reduceLeDiff, Nat.reduceSub, BitVec.extractLsb'_eq_self, BitVec.reduceToNat]
theorem ssra (d : BitVec 5) (a : BitVec 5) (b : BitVec 5) : Statement (.ssra d a b) := by
  intro w h
  cases h
  rw [raw_salu _ (by simp only [rr_26_6])]
  simp only [rawSalu, rr_0_4, rr_8_5, rr_14_5, rr_20_5, field_high, field_low, Nat.reduceLeDiff, Nat.reduceSub, BitVec.extractLsb'_eq_self, BitVec.reduceToNat]
theorem smin (d : BitVec 5) (a : BitVec 5) (b : BitVec 5) : Statement (.smin d a b) := by
  intro w h
  cases h
  rw [raw_salu _ (by simp only [rr_26_6])]
  simp only [rawSalu, rr_0_4, rr_8_5, rr_14_5, rr_20_5, field_high, field_low, Nat.reduceLeDiff, Nat.reduceSub, BitVec.extractLsb'_eq_self, BitVec.reduceToNat]
theorem smax (d : BitVec 5) (a : BitVec 5) (b : BitVec 5) : Statement (.smax d a b) := by
  intro w h
  cases h
  rw [raw_salu _ (by simp only [rr_26_6])]
  simp only [rawSalu, rr_0_4, rr_8_5, rr_14_5, rr_20_5, field_high, field_low, Nat.reduceLeDiff, Nat.reduceSub, BitVec.extractLsb'_eq_self, BitVec.reduceToNat]
theorem sminu (d : BitVec 5) (a : BitVec 5) (b : BitVec 5) : Statement (.sminu d a b) := by
  intro w h
  cases h
  rw [raw_salu _ (by simp only [rr_26_6])]
  simp only [rawSalu, rr_0_4, rr_8_5, rr_14_5, rr_20_5, field_high, field_low, Nat.reduceLeDiff, Nat.reduceSub, BitVec.extractLsb'_eq_self, BitVec.reduceToNat]
theorem smaxu (d : BitVec 5) (a : BitVec 5) (b : BitVec 5) : Statement (.smaxu d a b) := by
  intro w h
  cases h
  rw [raw_salu _ (by simp only [rr_26_6])]
  simp only [rawSalu, rr_0_4, rr_8_5, rr_14_5, rr_20_5, field_high, field_low, Nat.reduceLeDiff, Nat.reduceSub, BitVec.extractLsb'_eq_self, BitVec.reduceToNat]
theorem sslt (d : BitVec 5) (a : BitVec 5) (b : BitVec 5) : Statement (.sslt d a b) := by
  intro w h
  cases h
  rw [raw_salu _ (by simp only [rr_26_6])]
  simp only [rawSalu, rr_0_4, rr_8_5, rr_14_5, rr_20_5, field_high, field_low, Nat.reduceLeDiff, Nat.reduceSub, BitVec.extractLsb'_eq_self, BitVec.reduceToNat]
theorem ssltu (d : BitVec 5) (a : BitVec 5) (b : BitVec 5) : Statement (.ssltu d a b) := by
  intro w h
  cases h
  rw [raw_salu2 _ (by simp only [rr_26_6])]
  simp only [rawSalu2, rr_0_4, rr_8_5, rr_14_5, rr_20_5, field_high, field_low, Nat.reduceLeDiff, Nat.reduceSub, BitVec.extractLsb'_eq_self, BitVec.reduceToNat]
theorem sdiv (d : BitVec 5) (a : BitVec 5) (b : BitVec 5) : Statement (.sdiv d a b) := by
  intro w h
  cases h
  rw [raw_salu2 _ (by simp only [rr_26_6])]
  simp only [rawSalu2, rr_0_4, rr_8_5, rr_14_5, rr_20_5, field_high, field_low, Nat.reduceLeDiff, Nat.reduceSub, BitVec.extractLsb'_eq_self, BitVec.reduceToNat]
theorem sdivu (d : BitVec 5) (a : BitVec 5) (b : BitVec 5) : Statement (.sdivu d a b) := by
  intro w h
  cases h
  rw [raw_salu2 _ (by simp only [rr_26_6])]
  simp only [rawSalu2, rr_0_4, rr_8_5, rr_14_5, rr_20_5, field_high, field_low, Nat.reduceLeDiff, Nat.reduceSub, BitVec.extractLsb'_eq_self, BitVec.reduceToNat]
theorem srem (d : BitVec 5) (a : BitVec 5) (b : BitVec 5) : Statement (.srem d a b) := by
  intro w h
  cases h
  rw [raw_salu2 _ (by simp only [rr_26_6])]
  simp only [rawSalu2, rr_0_4, rr_8_5, rr_14_5, rr_20_5, field_high, field_low, Nat.reduceLeDiff, Nat.reduceSub, BitVec.extractLsb'_eq_self, BitVec.reduceToNat]
theorem sremu (d : BitVec 5) (a : BitVec 5) (b : BitVec 5) : Statement (.sremu d a b) := by
  intro w h
  cases h
  rw [raw_salu2 _ (by simp only [rr_26_6])]
  simp only [rawSalu2, rr_0_4, rr_8_5, rr_14_5, rr_20_5, field_high, field_low, Nat.reduceLeDiff, Nat.reduceSub, BitVec.extractLsb'_eq_self, BitVec.reduceToNat]
theorem sclz (d : BitVec 5) (a : BitVec 5) : Statement (.sclz d a) := by
  intro w h
  cases h
  rw [raw_salu2 _ (by simp only [rr_26_6])]
  simp only [rawSalu2, rr_0_4, rr_14_5, rr_20_5, field_high, field_low, Nat.reduceLeDiff, Nat.reduceSub, BitVec.extractLsb'_eq_self, BitVec.reduceToNat]
theorem spop (d : BitVec 5) (a : BitVec 5) : Statement (.spop d a) := by
  intro w h
  cases h
  rw [raw_salu2 _ (by simp only [rr_26_6])]
  simp only [rawSalu2, rr_0_4, rr_14_5, rr_20_5, field_high, field_low, Nat.reduceLeDiff, Nat.reduceSub, BitVec.extractLsb'_eq_self, BitVec.reduceToNat]
theorem sseq (d : BitVec 5) (a : BitVec 5) (b : BitVec 5) : Statement (.sseq d a b) := by
  intro w h
  cases h
  rw [raw_salu2 _ (by simp only [rr_26_6])]
  simp only [rawSalu2, rr_0_4, rr_8_5, rr_14_5, rr_20_5, field_high, field_low, Nat.reduceLeDiff, Nat.reduceSub, BitVec.extractLsb'_eq_self, BitVec.reduceToNat]
theorem saddi (d : BitVec 5) (a : BitVec 5) (i : BitVec 10) : Statement (.saddi d a i) := by
  intro w h
  cases h
  rw [raw_salui _ (by simp only [ri_26_6])]
  simp only [rawSalui, ri_0_4, ri_4_10, ri_14_5, ri_20_5, field_high, field_low, Nat.reduceLeDiff, Nat.reduceSub, BitVec.extractLsb'_eq_self, BitVec.reduceToNat]
theorem sandi (d : BitVec 5) (a : BitVec 5) (i : BitVec 10) : Statement (.sandi d a i) := by
  intro w h
  cases h
  rw [raw_salui _ (by simp only [ri_26_6])]
  simp only [rawSalui, ri_0_4, ri_4_10, ri_14_5, ri_20_5, field_high, field_low, Nat.reduceLeDiff, Nat.reduceSub, BitVec.extractLsb'_eq_self, BitVec.reduceToNat]
theorem sori (d : BitVec 5) (a : BitVec 5) (i : BitVec 10) : Statement (.sori d a i) := by
  intro w h
  cases h
  rw [raw_salui _ (by simp only [ri_26_6])]
  simp only [rawSalui, ri_0_4, ri_4_10, ri_14_5, ri_20_5, field_high, field_low, Nat.reduceLeDiff, Nat.reduceSub, BitVec.extractLsb'_eq_self, BitVec.reduceToNat]
theorem sxori (d : BitVec 5) (a : BitVec 5) (i : BitVec 10) : Statement (.sxori d a i) := by
  intro w h
  cases h
  rw [raw_salui _ (by simp only [ri_26_6])]
  simp only [rawSalui, ri_0_4, ri_4_10, ri_14_5, ri_20_5, field_high, field_low, Nat.reduceLeDiff, Nat.reduceSub, BitVec.extractLsb'_eq_self, BitVec.reduceToNat]
theorem sshli (d : BitVec 5) (a : BitVec 5) (i : BitVec 6) : Statement (.sshli d a i) := by
  intro w h
  cases h
  rw [raw_salui _ (by simp only [ri_26_6])]
  simp only [rawSalui, ri_0_4, ri_4_6, ri_14_5, ri_20_5, field_high, field_low, Nat.reduceLeDiff, Nat.reduceSub, BitVec.extractLsb'_eq_self, BitVec.reduceToNat]
theorem sshri (d : BitVec 5) (a : BitVec 5) (i : BitVec 6) : Statement (.sshri d a i) := by
  intro w h
  cases h
  rw [raw_salui _ (by simp only [ri_26_6])]
  simp only [rawSalui, ri_0_4, ri_4_6, ri_14_5, ri_20_5, field_high, field_low, Nat.reduceLeDiff, Nat.reduceSub, BitVec.extractLsb'_eq_self, BitVec.reduceToNat]
theorem ssrai (d : BitVec 5) (a : BitVec 5) (i : BitVec 6) : Statement (.ssrai d a i) := by
  intro w h
  cases h
  rw [raw_salui _ (by simp only [ri_26_6])]
  simp only [rawSalui, ri_0_4, ri_4_6, ri_14_5, ri_20_5, field_high, field_low, Nat.reduceLeDiff, Nat.reduceSub, BitVec.extractLsb'_eq_self, BitVec.reduceToNat]
theorem sslti (d : BitVec 5) (a : BitVec 5) (i : BitVec 10) : Statement (.sslti d a i) := by
  intro w h
  cases h
  rw [raw_salui _ (by simp only [ri_26_6])]
  simp only [rawSalui, ri_0_4, ri_4_10, ri_14_5, ri_20_5, field_high, field_low, Nat.reduceLeDiff, Nat.reduceSub, BitVec.extractLsb'_eq_self, BitVec.reduceToNat]
theorem ssltiu (d : BitVec 5) (a : BitVec 5) (i : BitVec 10) : Statement (.ssltiu d a i) := by
  intro w h
  cases h
  rw [raw_salui _ (by simp only [ri_26_6])]
  simp only [rawSalui, ri_0_4, ri_4_10, ri_14_5, ri_20_5, field_high, field_low, Nat.reduceLeDiff, Nat.reduceSub, BitVec.extractLsb'_eq_self, BitVec.reduceToNat]
theorem slui (d : BitVec 5) (i : BitVec 20) : Statement (.slui d i) := by
  intro w h
  cases h
  rw [raw_slui _ (by simp only [rl_26_6])]
  simp only [rawSlui, rl_0_20, rl_20_5, field_high, field_low, Nat.reduceLeDiff, Nat.reduceSub, BitVec.extractLsb'_eq_self, BitVec.reduceToNat]
theorem sadr (d : BitVec 5) (i : BitVec 20) : Statement (.sadr d i) := by
  intro w h
  cases h
  rw [raw_sadr _ (by simp only [rl_26_6])]
  simp only [rawSadr, rl_0_20, rl_20_5, field_high, field_low, Nat.reduceLeDiff, Nat.reduceSub, BitVec.extractLsb'_eq_self, BitVec.reduceToNat]
theorem bra (o : BitVec 18) : Statement (.bra o) := by
  intro w h
  cases h
  rw [raw_branch _ (by simp only [br_26_6])]
  simp only [rawBranch, br_0_18, br_23_3, field_high, field_low, Nat.reduceLeDiff, Nat.reduceSub, BitVec.extractLsb'_eq_self, BitVec.reduceToNat]
theorem bz (x_s : BitVec 5) (o : BitVec 18) : Statement (.bz x_s o) := by
  intro w h
  cases h
  rw [raw_branch _ (by simp only [br_26_6])]
  simp only [rawBranch, br_0_18, br_18_5, br_23_3, field_high, field_low, Nat.reduceLeDiff, Nat.reduceSub, BitVec.extractLsb'_eq_self, BitVec.reduceToNat]
theorem bnz (x_s : BitVec 5) (o : BitVec 18) : Statement (.bnz x_s o) := by
  intro w h
  cases h
  rw [raw_branch _ (by simp only [br_26_6])]
  simp only [rawBranch, br_0_18, br_18_5, br_23_3, field_high, field_low, Nat.reduceLeDiff, Nat.reduceSub, BitVec.extractLsb'_eq_self, BitVec.reduceToNat]
theorem bmz (o : BitVec 18) : Statement (.bmz o) := by
  intro w h
  cases h
  rw [raw_branch _ (by simp only [br_26_6])]
  simp only [rawBranch, br_0_18, br_23_3, field_high, field_low, Nat.reduceLeDiff, Nat.reduceSub, BitVec.extractLsb'_eq_self, BitVec.reduceToNat]
theorem bmnz (o : BitVec 18) : Statement (.bmnz o) := by
  intro w h
  cases h
  rw [raw_branch _ (by simp only [br_26_6])]
  simp only [rawBranch, br_0_18, br_23_3, field_high, field_low, Nat.reduceLeDiff, Nat.reduceSub, BitVec.extractLsb'_eq_self, BitVec.reduceToNat]
theorem blt (x_s : BitVec 5) (o : BitVec 18) : Statement (.blt x_s o) := by
  intro w h
  cases h
  rw [raw_branch _ (by simp only [br_26_6])]
  simp only [rawBranch, br_0_18, br_18_5, br_23_3, field_high, field_low, Nat.reduceLeDiff, Nat.reduceSub, BitVec.extractLsb'_eq_self, BitVec.reduceToNat]
theorem call (o : BitVec 18) : Statement (.call o) := by
  intro w h
  cases h
  rw [raw_branch _ (by simp only [br_26_6])]
  simp only [rawBranch, br_0_18, br_23_3, field_high, field_low, Nat.reduceLeDiff, Nat.reduceSub, BitVec.extractLsb'_eq_self, BitVec.reduceToNat]
theorem jmp (a : BitVec 5) : Statement (.jmp a) := by
  intro w h
  cases h
  rw [raw_ctl _ (by simp only [sy_26_6])]
  simp only [rawCtl, sy_0_4, sy_16_5, field_high, field_low, Nat.reduceLeDiff, Nat.reduceSub, BitVec.extractLsb'_eq_self, BitVec.reduceToNat]
theorem callr (a : BitVec 5) : Statement (.callr a) := by
  intro w h
  cases h
  rw [raw_ctl _ (by simp only [sy_26_6])]
  simp only [rawCtl, sy_0_4, sy_16_5, field_high, field_low, Nat.reduceLeDiff, Nat.reduceSub, BitVec.extractLsb'_eq_self, BitVec.reduceToNat]
theorem ret : Statement (.ret) := by
  intro w h
  cases h
  rw [raw_ctl _ (by simp only [sy_26_6])]
  simp only [rawCtl, sy_0_4, field_high, field_low, Nat.reduceLeDiff, Nat.reduceSub, BitVec.extractLsb'_eq_self, BitVec.reduceToNat]
theorem regang (t : BitVec 12) : Statement (.regang t) := by
  intro w h
  cases h
  rw [raw_ctl _ (by simp only [sy_26_6])]
  simp only [rawCtl, sy_0_4, sy_4_12, field_high, field_low, Nat.reduceLeDiff, Nat.reduceSub, BitVec.extractLsb'_eq_self, BitVec.reduceToNat]
theorem mpush (d : BitVec 5) (k : BitVec 7) : Statement (.mpush d k) := by
  intro w h
  cases h
  rw [raw_ctl _ (by simp only [sy_26_6])]
  simp only [rawCtl, sy_0_4, sy_4_7, sy_21_5, field_high, field_low, Nat.reduceLeDiff, Nat.reduceSub, BitVec.extractLsb'_eq_self, BitVec.reduceToNat]
theorem mpop (a : BitVec 5) : Statement (.mpop a) := by
  intro w h
  cases h
  rw [raw_ctl _ (by simp only [sy_26_6])]
  simp only [rawCtl, sy_0_4, sy_16_5, field_high, field_low, Nat.reduceLeDiff, Nat.reduceSub, BitVec.extractLsb'_eq_self, BitVec.reduceToNat]
theorem melse (a : BitVec 5) : Statement (.melse a) := by
  intro w h
  cases h
  rw [raw_ctl _ (by simp only [sy_26_6])]
  simp only [rawCtl, sy_0_4, sy_16_5, field_high, field_low, Nat.reduceLeDiff, Nat.reduceSub, BitVec.extractLsb'_eq_self, BitVec.reduceToNat]
theorem allon (d : BitVec 5) : Statement (.allon d) := by
  intro w h
  cases h
  rw [raw_ctl _ (by simp only [sy_26_6])]
  simp only [rawCtl, sy_0_4, sy_21_5, field_high, field_low, Nat.reduceLeDiff, Nat.reduceSub, BitVec.extractLsb'_eq_self, BitVec.reduceToNat]
theorem alloff (a : BitVec 5) : Statement (.alloff a) := by
  intro w h
  cases h
  rw [raw_ctl _ (by simp only [sy_26_6])]
  simp only [rawCtl, sy_0_4, sy_16_5, field_high, field_low, Nat.reduceLeDiff, Nat.reduceSub, BitVec.extractLsb'_eq_self, BitVec.reduceToNat]
theorem mget (d : BitVec 5) : Statement (.mget d) := by
  intro w h
  cases h
  rw [raw_ctl _ (by simp only [sy_26_6])]
  simp only [rawCtl, sy_0_4, sy_21_5, field_high, field_low, Nat.reduceLeDiff, Nat.reduceSub, BitVec.extractLsb'_eq_self, BitVec.reduceToNat]
theorem mset (a : BitVec 5) : Statement (.mset a) := by
  intro w h
  cases h
  rw [raw_ctl _ (by simp only [sy_26_6])]
  simp only [rawCtl, sy_0_4, sy_16_5, field_high, field_low, Nat.reduceLeDiff, Nat.reduceSub, BitVec.extractLsb'_eq_self, BitVec.reduceToNat]
theorem vadd (d : BitVec 6) (a : BitVec 6) (b : BitVec 6) (g : BitVec 3) (n : BitVec 1) : Statement (.vadd d a b g n) := by
  intro w h
  cases h
  rw [raw_vialu _ (by simp only [rr_26_6])]
  simp only [rawVialu, rr_0_4, rr_4_1, rr_5_3, rr_8_6, rr_14_6, rr_20_6, field_high, field_low, Nat.reduceLeDiff, Nat.reduceSub, BitVec.extractLsb'_eq_self, BitVec.reduceToNat]
theorem vsub (d : BitVec 6) (a : BitVec 6) (b : BitVec 6) (g : BitVec 3) (n : BitVec 1) : Statement (.vsub d a b g n) := by
  intro w h
  cases h
  rw [raw_vialu _ (by simp only [rr_26_6])]
  simp only [rawVialu, rr_0_4, rr_4_1, rr_5_3, rr_8_6, rr_14_6, rr_20_6, field_high, field_low, Nat.reduceLeDiff, Nat.reduceSub, BitVec.extractLsb'_eq_self, BitVec.reduceToNat]
theorem vmul (d : BitVec 6) (a : BitVec 6) (b : BitVec 6) (g : BitVec 3) (n : BitVec 1) : Statement (.vmul d a b g n) := by
  intro w h
  cases h
  rw [raw_vialu _ (by simp only [rr_26_6])]
  simp only [rawVialu, rr_0_4, rr_4_1, rr_5_3, rr_8_6, rr_14_6, rr_20_6, field_high, field_low, Nat.reduceLeDiff, Nat.reduceSub, BitVec.extractLsb'_eq_self, BitVec.reduceToNat]
theorem vmulh (d : BitVec 6) (a : BitVec 6) (b : BitVec 6) (g : BitVec 3) (n : BitVec 1) : Statement (.vmulh d a b g n) := by
  intro w h
  cases h
  rw [raw_vialu _ (by simp only [rr_26_6])]
  simp only [rawVialu, rr_0_4, rr_4_1, rr_5_3, rr_8_6, rr_14_6, rr_20_6, field_high, field_low, Nat.reduceLeDiff, Nat.reduceSub, BitVec.extractLsb'_eq_self, BitVec.reduceToNat]
theorem vmulhu (d : BitVec 6) (a : BitVec 6) (b : BitVec 6) (g : BitVec 3) (n : BitVec 1) : Statement (.vmulhu d a b g n) := by
  intro w h
  cases h
  rw [raw_vialu _ (by simp only [rr_26_6])]
  simp only [rawVialu, rr_0_4, rr_4_1, rr_5_3, rr_8_6, rr_14_6, rr_20_6, field_high, field_low, Nat.reduceLeDiff, Nat.reduceSub, BitVec.extractLsb'_eq_self, BitVec.reduceToNat]
theorem vmad (d : BitVec 6) (a : BitVec 6) (b : BitVec 6) (g : BitVec 3) (n : BitVec 1) : Statement (.vmad d a b g n) := by
  intro w h
  cases h
  rw [raw_vialu _ (by simp only [rr_26_6])]
  simp only [rawVialu, rr_0_4, rr_4_1, rr_5_3, rr_8_6, rr_14_6, rr_20_6, field_high, field_low, Nat.reduceLeDiff, Nat.reduceSub, BitVec.extractLsb'_eq_self, BitVec.reduceToNat]
theorem vand (d : BitVec 6) (a : BitVec 6) (b : BitVec 6) (g : BitVec 3) (n : BitVec 1) : Statement (.vand d a b g n) := by
  intro w h
  cases h
  rw [raw_vialu _ (by simp only [rr_26_6])]
  simp only [rawVialu, rr_0_4, rr_4_1, rr_5_3, rr_8_6, rr_14_6, rr_20_6, field_high, field_low, Nat.reduceLeDiff, Nat.reduceSub, BitVec.extractLsb'_eq_self, BitVec.reduceToNat]
theorem vor (d : BitVec 6) (a : BitVec 6) (b : BitVec 6) (g : BitVec 3) (n : BitVec 1) : Statement (.vor d a b g n) := by
  intro w h
  cases h
  rw [raw_vialu _ (by simp only [rr_26_6])]
  simp only [rawVialu, rr_0_4, rr_4_1, rr_5_3, rr_8_6, rr_14_6, rr_20_6, field_high, field_low, Nat.reduceLeDiff, Nat.reduceSub, BitVec.extractLsb'_eq_self, BitVec.reduceToNat]
theorem vxor (d : BitVec 6) (a : BitVec 6) (b : BitVec 6) (g : BitVec 3) (n : BitVec 1) : Statement (.vxor d a b g n) := by
  intro w h
  cases h
  rw [raw_vialu _ (by simp only [rr_26_6])]
  simp only [rawVialu, rr_0_4, rr_4_1, rr_5_3, rr_8_6, rr_14_6, rr_20_6, field_high, field_low, Nat.reduceLeDiff, Nat.reduceSub, BitVec.extractLsb'_eq_self, BitVec.reduceToNat]
theorem vshl (d : BitVec 6) (a : BitVec 6) (b : BitVec 6) (g : BitVec 3) (n : BitVec 1) : Statement (.vshl d a b g n) := by
  intro w h
  cases h
  rw [raw_vialu _ (by simp only [rr_26_6])]
  simp only [rawVialu, rr_0_4, rr_4_1, rr_5_3, rr_8_6, rr_14_6, rr_20_6, field_high, field_low, Nat.reduceLeDiff, Nat.reduceSub, BitVec.extractLsb'_eq_self, BitVec.reduceToNat]
theorem vshr (d : BitVec 6) (a : BitVec 6) (b : BitVec 6) (g : BitVec 3) (n : BitVec 1) : Statement (.vshr d a b g n) := by
  intro w h
  cases h
  rw [raw_vialu _ (by simp only [rr_26_6])]
  simp only [rawVialu, rr_0_4, rr_4_1, rr_5_3, rr_8_6, rr_14_6, rr_20_6, field_high, field_low, Nat.reduceLeDiff, Nat.reduceSub, BitVec.extractLsb'_eq_self, BitVec.reduceToNat]
theorem vsra (d : BitVec 6) (a : BitVec 6) (b : BitVec 6) (g : BitVec 3) (n : BitVec 1) : Statement (.vsra d a b g n) := by
  intro w h
  cases h
  rw [raw_vialu _ (by simp only [rr_26_6])]
  simp only [rawVialu, rr_0_4, rr_4_1, rr_5_3, rr_8_6, rr_14_6, rr_20_6, field_high, field_low, Nat.reduceLeDiff, Nat.reduceSub, BitVec.extractLsb'_eq_self, BitVec.reduceToNat]
theorem vmin (d : BitVec 6) (a : BitVec 6) (b : BitVec 6) (g : BitVec 3) (n : BitVec 1) : Statement (.vmin d a b g n) := by
  intro w h
  cases h
  rw [raw_vialu _ (by simp only [rr_26_6])]
  simp only [rawVialu, rr_0_4, rr_4_1, rr_5_3, rr_8_6, rr_14_6, rr_20_6, field_high, field_low, Nat.reduceLeDiff, Nat.reduceSub, BitVec.extractLsb'_eq_self, BitVec.reduceToNat]
theorem vmax (d : BitVec 6) (a : BitVec 6) (b : BitVec 6) (g : BitVec 3) (n : BitVec 1) : Statement (.vmax d a b g n) := by
  intro w h
  cases h
  rw [raw_vialu _ (by simp only [rr_26_6])]
  simp only [rawVialu, rr_0_4, rr_4_1, rr_5_3, rr_8_6, rr_14_6, rr_20_6, field_high, field_low, Nat.reduceLeDiff, Nat.reduceSub, BitVec.extractLsb'_eq_self, BitVec.reduceToNat]
theorem vminu (d : BitVec 6) (a : BitVec 6) (b : BitVec 6) (g : BitVec 3) (n : BitVec 1) : Statement (.vminu d a b g n) := by
  intro w h
  cases h
  rw [raw_vialu _ (by simp only [rr_26_6])]
  simp only [rawVialu, rr_0_4, rr_4_1, rr_5_3, rr_8_6, rr_14_6, rr_20_6, field_high, field_low, Nat.reduceLeDiff, Nat.reduceSub, BitVec.extractLsb'_eq_self, BitVec.reduceToNat]
theorem vmaxu (d : BitVec 6) (a : BitVec 6) (b : BitVec 6) (g : BitVec 3) (n : BitVec 1) : Statement (.vmaxu d a b g n) := by
  intro w h
  cases h
  rw [raw_vialu _ (by simp only [rr_26_6])]
  simp only [rawVialu, rr_0_4, rr_4_1, rr_5_3, rr_8_6, rr_14_6, rr_20_6, field_high, field_low, Nat.reduceLeDiff, Nat.reduceSub, BitVec.extractLsb'_eq_self, BitVec.reduceToNat]
theorem vpop (d : BitVec 6) (a : BitVec 6) (g : BitVec 3) (n : BitVec 1) : Statement (.vpop d a g n) := by
  intro w h
  cases h
  rw [raw_vialu2 _ (by simp only [rr_26_6])]
  simp only [rawVialu2, rr_0_4, rr_4_1, rr_5_3, rr_14_6, rr_20_6, field_high, field_low, Nat.reduceLeDiff, Nat.reduceSub, BitVec.extractLsb'_eq_self, BitVec.reduceToNat]
theorem vclz (d : BitVec 6) (a : BitVec 6) (g : BitVec 3) (n : BitVec 1) : Statement (.vclz d a g n) := by
  intro w h
  cases h
  rw [raw_vialu2 _ (by simp only [rr_26_6])]
  simp only [rawVialu2, rr_0_4, rr_4_1, rr_5_3, rr_14_6, rr_20_6, field_high, field_low, Nat.reduceLeDiff, Nat.reduceSub, BitVec.extractLsb'_eq_self, BitVec.reduceToNat]
theorem vbrev (d : BitVec 6) (a : BitVec 6) (g : BitVec 3) (n : BitVec 1) : Statement (.vbrev d a g n) := by
  intro w h
  cases h
  rw [raw_vialu2 _ (by simp only [rr_26_6])]
  simp only [rawVialu2, rr_0_4, rr_4_1, rr_5_3, rr_14_6, rr_20_6, field_high, field_low, Nat.reduceLeDiff, Nat.reduceSub, BitVec.extractLsb'_eq_self, BitVec.reduceToNat]
theorem vabsd (d : BitVec 6) (a : BitVec 6) (b : BitVec 6) (g : BitVec 3) (n : BitVec 1) : Statement (.vabsd d a b g n) := by
  intro w h
  cases h
  rw [raw_vialu2 _ (by simp only [rr_26_6])]
  simp only [rawVialu2, rr_0_4, rr_4_1, rr_5_3, rr_8_6, rr_14_6, rr_20_6, field_high, field_low, Nat.reduceLeDiff, Nat.reduceSub, BitVec.extractLsb'_eq_self, BitVec.reduceToNat]
theorem vsel (d : BitVec 6) (a : BitVec 6) (b : BitVec 6) (g : BitVec 3) (n : BitVec 1) : Statement (.vsel d a b g n) := by
  intro w h
  cases h
  rw [raw_vialu2 _ (by simp only [rr_26_6])]
  simp only [rawVialu2, rr_0_4, rr_4_1, rr_5_3, rr_8_6, rr_14_6, rr_20_6, field_high, field_low, Nat.reduceLeDiff, Nat.reduceSub, BitVec.extractLsb'_eq_self, BitVec.reduceToNat]
theorem vmov (d : BitVec 6) (a : BitVec 6) (g : BitVec 3) (n : BitVec 1) : Statement (.vmov d a g n) := by
  intro w h
  cases h
  rw [raw_vialu2 _ (by simp only [rr_26_6])]
  simp only [rawVialu2, rr_0_4, rr_4_1, rr_5_3, rr_14_6, rr_20_6, field_high, field_low, Nat.reduceLeDiff, Nat.reduceSub, BitVec.extractLsb'_eq_self, BitVec.reduceToNat]
theorem vdot4 (d : BitVec 6) (a : BitVec 6) (b : BitVec 6) (g : BitVec 3) (n : BitVec 1) : Statement (.vdot4 d a b g n) := by
  intro w h
  cases h
  rw [raw_vialu2 _ (by simp only [rr_26_6])]
  simp only [rawVialu2, rr_0_4, rr_4_1, rr_5_3, rr_8_6, rr_14_6, rr_20_6, field_high, field_low, Nat.reduceLeDiff, Nat.reduceSub, BitVec.extractLsb'_eq_self, BitVec.reduceToNat]
theorem vdot4u (d : BitVec 6) (a : BitVec 6) (b : BitVec 6) (g : BitVec 3) (n : BitVec 1) : Statement (.vdot4u d a b g n) := by
  intro w h
  cases h
  rw [raw_vialu2 _ (by simp only [rr_26_6])]
  simp only [rawVialu2, rr_0_4, rr_4_1, rr_5_3, rr_8_6, rr_14_6, rr_20_6, field_high, field_low, Nat.reduceLeDiff, Nat.reduceSub, BitVec.extractLsb'_eq_self, BitVec.reduceToNat]
theorem vreq8 (d : BitVec 6) (a : BitVec 6) (b : BitVec 5) (g : BitVec 3) (n : BitVec 1) : Statement (.vreq8 d a b g n) := by
  intro w h
  cases h
  rw [raw_vialu2 _ (by simp only [rr_26_6])]
  simp only [rawVialu2, rr_0_4, rr_4_1, rr_5_3, rr_8_5, rr_14_6, rr_20_6, field_high, field_low, Nat.reduceLeDiff, Nat.reduceSub, BitVec.extractLsb'_eq_self, BitVec.reduceToNat]
theorem vreq4 (d : BitVec 6) (a : BitVec 6) (b : BitVec 5) (g : BitVec 3) (n : BitVec 1) : Statement (.vreq4 d a b g n) := by
  intro w h
  cases h
  rw [raw_vialu2 _ (by simp only [rr_26_6])]
  simp only [rawVialu2, rr_0_4, rr_4_1, rr_5_3, rr_8_5, rr_14_6, rr_20_6, field_high, field_low, Nat.reduceLeDiff, Nat.reduceSub, BitVec.extractLsb'_eq_self, BitVec.reduceToNat]
theorem vlane (d : BitVec 6) (g : BitVec 3) (n : BitVec 1) : Statement (.vlane d g n) := by
  intro w h
  cases h
  rw [raw_vialu2 _ (by simp only [rr_26_6])]
  simp only [rawVialu2, rr_0_4, rr_4_1, rr_5_3, rr_20_6, field_high, field_low, Nat.reduceLeDiff, Nat.reduceSub, BitVec.extractLsb'_eq_self, BitVec.reduceToNat]
theorem vtask (d : BitVec 6) (g : BitVec 3) (n : BitVec 1) : Statement (.vtask d g n) := by
  intro w h
  cases h
  rw [raw_vialu2 _ (by simp only [rr_26_6])]
  simp only [rawVialu2, rr_0_4, rr_4_1, rr_5_3, rr_20_6, field_high, field_low, Nat.reduceLeDiff, Nat.reduceSub, BitVec.extractLsb'_eq_self, BitVec.reduceToNat]
theorem vbcs (d : BitVec 6) (a : BitVec 5) (g : BitVec 3) (n : BitVec 1) : Statement (.vbcs d a g n) := by
  intro w h
  cases h
  rw [raw_vialu2 _ (by simp only [rr_26_6])]
  simp only [rawVialu2, rr_0_4, rr_4_1, rr_5_3, rr_14_5, rr_20_6, field_high, field_low, Nat.reduceLeDiff, Nat.reduceSub, BitVec.extractLsb'_eq_self, BitVec.reduceToNat]
theorem vaddi (d : BitVec 6) (a : BitVec 6) (i : BitVec 10) : Statement (.vaddi d a i) := by
  intro w h
  cases h
  rw [raw_vialui _ (by simp only [ri_26_6])]
  simp only [rawVialui, ri_0_4, ri_4_10, ri_14_6, ri_20_6, field_high, field_low, Nat.reduceLeDiff, Nat.reduceSub, BitVec.extractLsb'_eq_self, BitVec.reduceToNat]
theorem vandi (d : BitVec 6) (a : BitVec 6) (i : BitVec 10) : Statement (.vandi d a i) := by
  intro w h
  cases h
  rw [raw_vialui _ (by simp only [ri_26_6])]
  simp only [rawVialui, ri_0_4, ri_4_10, ri_14_6, ri_20_6, field_high, field_low, Nat.reduceLeDiff, Nat.reduceSub, BitVec.extractLsb'_eq_self, BitVec.reduceToNat]
theorem vori (d : BitVec 6) (a : BitVec 6) (i : BitVec 10) : Statement (.vori d a i) := by
  intro w h
  cases h
  rw [raw_vialui _ (by simp only [ri_26_6])]
  simp only [rawVialui, ri_0_4, ri_4_10, ri_14_6, ri_20_6, field_high, field_low, Nat.reduceLeDiff, Nat.reduceSub, BitVec.extractLsb'_eq_self, BitVec.reduceToNat]
theorem vxori (d : BitVec 6) (a : BitVec 6) (i : BitVec 10) : Statement (.vxori d a i) := by
  intro w h
  cases h
  rw [raw_vialui _ (by simp only [ri_26_6])]
  simp only [rawVialui, ri_0_4, ri_4_10, ri_14_6, ri_20_6, field_high, field_low, Nat.reduceLeDiff, Nat.reduceSub, BitVec.extractLsb'_eq_self, BitVec.reduceToNat]
theorem vshli (d : BitVec 6) (a : BitVec 6) (i : BitVec 5) : Statement (.vshli d a i) := by
  intro w h
  cases h
  rw [raw_vialui _ (by simp only [ri_26_6])]
  simp only [rawVialui, ri_0_4, ri_4_5, ri_14_6, ri_20_6, field_high, field_low, Nat.reduceLeDiff, Nat.reduceSub, BitVec.extractLsb'_eq_self, BitVec.reduceToNat]
theorem vshri (d : BitVec 6) (a : BitVec 6) (i : BitVec 5) : Statement (.vshri d a i) := by
  intro w h
  cases h
  rw [raw_vialui _ (by simp only [ri_26_6])]
  simp only [rawVialui, ri_0_4, ri_4_5, ri_14_6, ri_20_6, field_high, field_low, Nat.reduceLeDiff, Nat.reduceSub, BitVec.extractLsb'_eq_self, BitVec.reduceToNat]
theorem vsrai (d : BitVec 6) (a : BitVec 6) (i : BitVec 5) : Statement (.vsrai d a i) := by
  intro w h
  cases h
  rw [raw_vialui _ (by simp only [ri_26_6])]
  simp only [rawVialui, ri_0_4, ri_4_5, ri_14_6, ri_20_6, field_high, field_low, Nat.reduceLeDiff, Nat.reduceSub, BitVec.extractLsb'_eq_self, BitVec.reduceToNat]
theorem vmini (d : BitVec 6) (a : BitVec 6) (i : BitVec 10) : Statement (.vmini d a i) := by
  intro w h
  cases h
  rw [raw_vialui _ (by simp only [ri_26_6])]
  simp only [rawVialui, ri_0_4, ri_4_10, ri_14_6, ri_20_6, field_high, field_low, Nat.reduceLeDiff, Nat.reduceSub, BitVec.extractLsb'_eq_self, BitVec.reduceToNat]
theorem vmaxi (d : BitVec 6) (a : BitVec 6) (i : BitVec 10) : Statement (.vmaxi d a i) := by
  intro w h
  cases h
  rw [raw_vialui _ (by simp only [ri_26_6])]
  simp only [rawVialui, ri_0_4, ri_4_10, ri_14_6, ri_20_6, field_high, field_low, Nat.reduceLeDiff, Nat.reduceSub, BitVec.extractLsb'_eq_self, BitVec.reduceToNat]
theorem vmovi (d : BitVec 6) (i : BitVec 10) : Statement (.vmovi d i) := by
  intro w h
  cases h
  rw [raw_vialui _ (by simp only [ri_26_6])]
  simp only [rawVialui, ri_0_4, ri_4_10, ri_20_6, field_high, field_low, Nat.reduceLeDiff, Nat.reduceSub, BitVec.extractLsb'_eq_self, BitVec.reduceToNat]
theorem vunpk (d : BitVec 6) (a : BitVec 6) (n : BitVec 3) : Statement (.vunpk d a n) := by
  intro w h
  cases h
  rw [raw_vialui _ (by simp only [ri_26_6])]
  simp only [rawVialui, ri_0_4, ri_4_3, ri_14_6, ri_20_6, field_high, field_low, Nat.reduceLeDiff, Nat.reduceSub, BitVec.extractLsb'_eq_self, BitVec.reduceToNat]
theorem vlui (d : BitVec 6) (i : BitVec 20) : Statement (.vlui d i) := by
  intro w h
  cases h
  rw [raw_vlui _ (by simp only [rl_26_6])]
  simp only [rawVlui, rl_0_20, rl_20_6, field_high, field_low, Nat.reduceLeDiff, Nat.reduceSub, BitVec.extractLsb'_eq_self, BitVec.reduceToNat]
theorem vcmp (p : BitVec 7) (a : BitVec 6) (b : BitVec 6) (c : BitVec 3) : Statement (.vcmp p a b c) := by
  intro w h
  cases h
  rw [raw_cmp _ (by simp only [pc_26_6])]
  simp only [rawCmp, pc_0_4, pc_4_3, pc_7_6, pc_13_6, pc_19_7, field_high, field_low, Nat.reduceLeDiff, Nat.reduceSub, BitVec.extractLsb'_eq_self, BitVec.reduceToNat]
theorem vcmps (p : BitVec 7) (a : BitVec 6) (b : BitVec 5) (c : BitVec 3) : Statement (.vcmps p a b c) := by
  intro w h
  cases h
  rw [raw_cmp _ (by simp only [pc_26_6])]
  simp only [rawCmp, pc_0_4, pc_4_3, pc_7_5, pc_13_6, pc_19_7, field_high, field_low, Nat.reduceLeDiff, Nat.reduceSub, BitVec.extractLsb'_eq_self, BitVec.reduceToNat]
theorem fcmp (p : BitVec 7) (a : BitVec 6) (b : BitVec 6) (c : BitVec 3) : Statement (.fcmp p a b c) := by
  intro w h
  cases h
  rw [raw_cmp _ (by simp only [pc_26_6])]
  simp only [rawCmp, pc_0_4, pc_4_3, pc_7_6, pc_13_6, pc_19_7, field_high, field_low, Nat.reduceLeDiff, Nat.reduceSub, BitVec.extractLsb'_eq_self, BitVec.reduceToNat]
theorem fcmps (p : BitVec 7) (a : BitVec 6) (b : BitVec 5) (c : BitVec 3) : Statement (.fcmps p a b c) := by
  intro w h
  cases h
  rw [raw_cmp _ (by simp only [pc_26_6])]
  simp only [rawCmp, pc_0_4, pc_4_3, pc_7_5, pc_13_6, pc_19_7, field_high, field_low, Nat.reduceLeDiff, Nat.reduceSub, BitVec.extractLsb'_eq_self, BitVec.reduceToNat]
theorem dcmp (p : BitVec 7) (a : BitVec 5) (b : BitVec 5) (c : BitVec 3) : Statement (.dcmp p a b c) := by
  intro w h
  cases h
  rw [raw_cmp _ (by simp only [pc_26_6])]
  simp only [rawCmp, pc_0_4, pc_4_3, pc_8_5, pc_14_5, pc_19_7, field_high, field_low, Nat.reduceLeDiff, Nat.reduceSub, BitVec.extractLsb'_eq_self, BitVec.reduceToNat]
theorem pand (d : BitVec 7) (a : BitVec 7) (b : BitVec 7) : Statement (.pand d a b) := by
  intro w h
  cases h
  rw [raw_plog _ (by simp only [pl_26_6])]
  simp only [rawPlog, pl_0_5, pl_5_7, pl_12_7, pl_19_7, field_high, field_low, Nat.reduceLeDiff, Nat.reduceSub, BitVec.extractLsb'_eq_self, BitVec.reduceToNat]
theorem por (d : BitVec 7) (a : BitVec 7) (b : BitVec 7) : Statement (.por d a b) := by
  intro w h
  cases h
  rw [raw_plog _ (by simp only [pl_26_6])]
  simp only [rawPlog, pl_0_5, pl_5_7, pl_12_7, pl_19_7, field_high, field_low, Nat.reduceLeDiff, Nat.reduceSub, BitVec.extractLsb'_eq_self, BitVec.reduceToNat]
theorem pxor (d : BitVec 7) (a : BitVec 7) (b : BitVec 7) : Statement (.pxor d a b) := by
  intro w h
  cases h
  rw [raw_plog _ (by simp only [pl_26_6])]
  simp only [rawPlog, pl_0_5, pl_5_7, pl_12_7, pl_19_7, field_high, field_low, Nat.reduceLeDiff, Nat.reduceSub, BitVec.extractLsb'_eq_self, BitVec.reduceToNat]
theorem pandn (d : BitVec 7) (a : BitVec 7) (b : BitVec 7) : Statement (.pandn d a b) := by
  intro w h
  cases h
  rw [raw_plog _ (by simp only [pl_26_6])]
  simp only [rawPlog, pl_0_5, pl_5_7, pl_12_7, pl_19_7, field_high, field_low, Nat.reduceLeDiff, Nat.reduceSub, BitVec.extractLsb'_eq_self, BitVec.reduceToNat]
theorem pnot (d : BitVec 7) (a : BitVec 7) : Statement (.pnot d a) := by
  intro w h
  cases h
  rw [raw_plog _ (by simp only [pl_26_6])]
  simp only [rawPlog, pl_0_5, pl_12_7, pl_19_7, field_high, field_low, Nat.reduceLeDiff, Nat.reduceSub, BitVec.extractLsb'_eq_self, BitVec.reduceToNat]
theorem pmov (d : BitVec 7) (a : BitVec 7) : Statement (.pmov d a) := by
  intro w h
  cases h
  rw [raw_plog _ (by simp only [pl_26_6])]
  simp only [rawPlog, pl_0_5, pl_12_7, pl_19_7, field_high, field_low, Nat.reduceLeDiff, Nat.reduceSub, BitVec.extractLsb'_eq_self, BitVec.reduceToNat]
theorem pset (d : BitVec 7) : Statement (.pset d) := by
  intro w h
  cases h
  rw [raw_plog _ (by simp only [pl_26_6])]
  simp only [rawPlog, pl_0_5, pl_19_7, field_high, field_low, Nat.reduceLeDiff, Nat.reduceSub, BitVec.extractLsb'_eq_self, BitVec.reduceToNat]
theorem pclr (d : BitVec 7) : Statement (.pclr d) := by
  intro w h
  cases h
  rw [raw_plog _ (by simp only [pl_26_6])]
  simp only [rawPlog, pl_0_5, pl_19_7, field_high, field_low, Nat.reduceLeDiff, Nat.reduceSub, BitVec.extractLsb'_eq_self, BitVec.reduceToNat]
theorem fadd (d : BitVec 6) (a : BitVec 6) (b : BitVec 6) (g : BitVec 3) (n : BitVec 1) : Statement (.fadd d a b g n) := by
  intro w h
  cases h
  rw [raw_falu _ (by simp only [rr_26_6])]
  simp only [rawFalu, rr_0_4, rr_4_1, rr_5_3, rr_8_6, rr_14_6, rr_20_6, field_high, field_low, Nat.reduceLeDiff, Nat.reduceSub, BitVec.extractLsb'_eq_self, BitVec.reduceToNat]
theorem fsub (d : BitVec 6) (a : BitVec 6) (b : BitVec 6) (g : BitVec 3) (n : BitVec 1) : Statement (.fsub d a b g n) := by
  intro w h
  cases h
  rw [raw_falu _ (by simp only [rr_26_6])]
  simp only [rawFalu, rr_0_4, rr_4_1, rr_5_3, rr_8_6, rr_14_6, rr_20_6, field_high, field_low, Nat.reduceLeDiff, Nat.reduceSub, BitVec.extractLsb'_eq_self, BitVec.reduceToNat]
theorem fmul (d : BitVec 6) (a : BitVec 6) (b : BitVec 6) (g : BitVec 3) (n : BitVec 1) : Statement (.fmul d a b g n) := by
  intro w h
  cases h
  rw [raw_falu _ (by simp only [rr_26_6])]
  simp only [rawFalu, rr_0_4, rr_4_1, rr_5_3, rr_8_6, rr_14_6, rr_20_6, field_high, field_low, Nat.reduceLeDiff, Nat.reduceSub, BitVec.extractLsb'_eq_self, BitVec.reduceToNat]
theorem ffma (d : BitVec 6) (a : BitVec 6) (b : BitVec 6) (g : BitVec 3) (n : BitVec 1) : Statement (.ffma d a b g n) := by
  intro w h
  cases h
  rw [raw_falu _ (by simp only [rr_26_6])]
  simp only [rawFalu, rr_0_4, rr_4_1, rr_5_3, rr_8_6, rr_14_6, rr_20_6, field_high, field_low, Nat.reduceLeDiff, Nat.reduceSub, BitVec.extractLsb'_eq_self, BitVec.reduceToNat]
theorem ffms (d : BitVec 6) (a : BitVec 6) (b : BitVec 6) (g : BitVec 3) (n : BitVec 1) : Statement (.ffms d a b g n) := by
  intro w h
  cases h
  rw [raw_falu _ (by simp only [rr_26_6])]
  simp only [rawFalu, rr_0_4, rr_4_1, rr_5_3, rr_8_6, rr_14_6, rr_20_6, field_high, field_low, Nat.reduceLeDiff, Nat.reduceSub, BitVec.extractLsb'_eq_self, BitVec.reduceToNat]
theorem fmin (d : BitVec 6) (a : BitVec 6) (b : BitVec 6) (g : BitVec 3) (n : BitVec 1) : Statement (.fmin d a b g n) := by
  intro w h
  cases h
  rw [raw_falu _ (by simp only [rr_26_6])]
  simp only [rawFalu, rr_0_4, rr_4_1, rr_5_3, rr_8_6, rr_14_6, rr_20_6, field_high, field_low, Nat.reduceLeDiff, Nat.reduceSub, BitVec.extractLsb'_eq_self, BitVec.reduceToNat]
theorem fmax (d : BitVec 6) (a : BitVec 6) (b : BitVec 6) (g : BitVec 3) (n : BitVec 1) : Statement (.fmax d a b g n) := by
  intro w h
  cases h
  rw [raw_falu _ (by simp only [rr_26_6])]
  simp only [rawFalu, rr_0_4, rr_4_1, rr_5_3, rr_8_6, rr_14_6, rr_20_6, field_high, field_low, Nat.reduceLeDiff, Nat.reduceSub, BitVec.extractLsb'_eq_self, BitVec.reduceToNat]
theorem fminn (d : BitVec 6) (a : BitVec 6) (b : BitVec 6) (g : BitVec 3) (n : BitVec 1) : Statement (.fminn d a b g n) := by
  intro w h
  cases h
  rw [raw_falu _ (by simp only [rr_26_6])]
  simp only [rawFalu, rr_0_4, rr_4_1, rr_5_3, rr_8_6, rr_14_6, rr_20_6, field_high, field_low, Nat.reduceLeDiff, Nat.reduceSub, BitVec.extractLsb'_eq_self, BitVec.reduceToNat]
theorem fmaxn (d : BitVec 6) (a : BitVec 6) (b : BitVec 6) (g : BitVec 3) (n : BitVec 1) : Statement (.fmaxn d a b g n) := by
  intro w h
  cases h
  rw [raw_falu _ (by simp only [rr_26_6])]
  simp only [rawFalu, rr_0_4, rr_4_1, rr_5_3, rr_8_6, rr_14_6, rr_20_6, field_high, field_low, Nat.reduceLeDiff, Nat.reduceSub, BitVec.extractLsb'_eq_self, BitVec.reduceToNat]
theorem fabs (d : BitVec 6) (a : BitVec 6) (g : BitVec 3) (n : BitVec 1) : Statement (.fabs d a g n) := by
  intro w h
  cases h
  rw [raw_falu _ (by simp only [rr_26_6])]
  simp only [rawFalu, rr_0_4, rr_4_1, rr_5_3, rr_14_6, rr_20_6, field_high, field_low, Nat.reduceLeDiff, Nat.reduceSub, BitVec.extractLsb'_eq_self, BitVec.reduceToNat]
theorem fneg (d : BitVec 6) (a : BitVec 6) (g : BitVec 3) (n : BitVec 1) : Statement (.fneg d a g n) := by
  intro w h
  cases h
  rw [raw_falu _ (by simp only [rr_26_6])]
  simp only [rawFalu, rr_0_4, rr_4_1, rr_5_3, rr_14_6, rr_20_6, field_high, field_low, Nat.reduceLeDiff, Nat.reduceSub, BitVec.extractLsb'_eq_self, BitVec.reduceToNat]
theorem fcpys (d : BitVec 6) (a : BitVec 6) (b : BitVec 6) (g : BitVec 3) (n : BitVec 1) : Statement (.fcpys d a b g n) := by
  intro w h
  cases h
  rw [raw_falu _ (by simp only [rr_26_6])]
  simp only [rawFalu, rr_0_4, rr_4_1, rr_5_3, rr_8_6, rr_14_6, rr_20_6, field_high, field_low, Nat.reduceLeDiff, Nat.reduceSub, BitVec.extractLsb'_eq_self, BitVec.reduceToNat]
theorem fscl (d : BitVec 6) (a : BitVec 6) (b : BitVec 6) (g : BitVec 3) (n : BitVec 1) : Statement (.fscl d a b g n) := by
  intro w h
  cases h
  rw [raw_falu _ (by simp only [rr_26_6])]
  simp only [rawFalu, rr_0_4, rr_4_1, rr_5_3, rr_8_6, rr_14_6, rr_20_6, field_high, field_low, Nat.reduceLeDiff, Nat.reduceSub, BitVec.extractLsb'_eq_self, BitVec.reduceToNat]
theorem fcls (d : BitVec 6) (a : BitVec 6) (g : BitVec 3) (n : BitVec 1) : Statement (.fcls d a g n) := by
  intro w h
  cases h
  rw [raw_falu _ (by simp only [rr_26_6])]
  simp only [rawFalu, rr_0_4, rr_4_1, rr_5_3, rr_14_6, rr_20_6, field_high, field_low, Nat.reduceLeDiff, Nat.reduceSub, BitVec.extractLsb'_eq_self, BitVec.reduceToNat]
theorem frnd (d : BitVec 6) (a : BitVec 6) (g : BitVec 3) (n : BitVec 1) : Statement (.frnd d a g n) := by
  intro w h
  cases h
  rw [raw_falu _ (by simp only [rr_26_6])]
  simp only [rawFalu, rr_0_4, rr_4_1, rr_5_3, rr_14_6, rr_20_6, field_high, field_low, Nat.reduceLeDiff, Nat.reduceSub, BitVec.extractLsb'_eq_self, BitVec.reduceToNat]
theorem fcvt (d : BitVec 6) (a : BitVec 6) (c : BitVec 6) (g : BitVec 3) (n : BitVec 1) (x_s : BitVec 1) (r : BitVec 3) : Statement (.fcvt d a c g n x_s r) := by
  intro w h
  cases h
  rw [raw_fcvt _ (by simp only [rr_26_6])]
  simp only [rawFcvt, rr_0_3, rr_3_1, rr_4_1, rr_5_3, rr_8_6, rr_14_6, rr_20_6, field_high, field_low, Nat.reduceLeDiff, Nat.reduceSub, BitVec.extractLsb'_eq_self, BitVec.reduceToNat]
theorem hadd2 (d : BitVec 6) (a : BitVec 6) (b : BitVec 6) (g : BitVec 3) (n : BitVec 1) : Statement (.hadd2 d a b g n) := by
  intro w h
  cases h
  rw [raw_halu _ (by simp only [rr_26_6])]
  simp only [rawHalu, rr_0_4, rr_4_1, rr_5_3, rr_8_6, rr_14_6, rr_20_6, field_high, field_low, Nat.reduceLeDiff, Nat.reduceSub, BitVec.extractLsb'_eq_self, BitVec.reduceToNat]
theorem hsub2 (d : BitVec 6) (a : BitVec 6) (b : BitVec 6) (g : BitVec 3) (n : BitVec 1) : Statement (.hsub2 d a b g n) := by
  intro w h
  cases h
  rw [raw_halu _ (by simp only [rr_26_6])]
  simp only [rawHalu, rr_0_4, rr_4_1, rr_5_3, rr_8_6, rr_14_6, rr_20_6, field_high, field_low, Nat.reduceLeDiff, Nat.reduceSub, BitVec.extractLsb'_eq_self, BitVec.reduceToNat]
theorem hmul2 (d : BitVec 6) (a : BitVec 6) (b : BitVec 6) (g : BitVec 3) (n : BitVec 1) : Statement (.hmul2 d a b g n) := by
  intro w h
  cases h
  rw [raw_halu _ (by simp only [rr_26_6])]
  simp only [rawHalu, rr_0_4, rr_4_1, rr_5_3, rr_8_6, rr_14_6, rr_20_6, field_high, field_low, Nat.reduceLeDiff, Nat.reduceSub, BitVec.extractLsb'_eq_self, BitVec.reduceToNat]
theorem hfma2 (d : BitVec 6) (a : BitVec 6) (b : BitVec 6) (g : BitVec 3) (n : BitVec 1) : Statement (.hfma2 d a b g n) := by
  intro w h
  cases h
  rw [raw_halu _ (by simp only [rr_26_6])]
  simp only [rawHalu, rr_0_4, rr_4_1, rr_5_3, rr_8_6, rr_14_6, rr_20_6, field_high, field_low, Nat.reduceLeDiff, Nat.reduceSub, BitVec.extractLsb'_eq_self, BitVec.reduceToNat]
theorem hmin2 (d : BitVec 6) (a : BitVec 6) (b : BitVec 6) (g : BitVec 3) (n : BitVec 1) : Statement (.hmin2 d a b g n) := by
  intro w h
  cases h
  rw [raw_halu _ (by simp only [rr_26_6])]
  simp only [rawHalu, rr_0_4, rr_4_1, rr_5_3, rr_8_6, rr_14_6, rr_20_6, field_high, field_low, Nat.reduceLeDiff, Nat.reduceSub, BitVec.extractLsb'_eq_self, BitVec.reduceToNat]
theorem hmax2 (d : BitVec 6) (a : BitVec 6) (b : BitVec 6) (g : BitVec 3) (n : BitVec 1) : Statement (.hmax2 d a b g n) := by
  intro w h
  cases h
  rw [raw_halu _ (by simp only [rr_26_6])]
  simp only [rawHalu, rr_0_4, rr_4_1, rr_5_3, rr_8_6, rr_14_6, rr_20_6, field_high, field_low, Nat.reduceLeDiff, Nat.reduceSub, BitVec.extractLsb'_eq_self, BitVec.reduceToNat]
theorem badd2 (d : BitVec 6) (a : BitVec 6) (b : BitVec 6) (g : BitVec 3) (n : BitVec 1) : Statement (.badd2 d a b g n) := by
  intro w h
  cases h
  rw [raw_halu _ (by simp only [rr_26_6])]
  simp only [rawHalu, rr_0_4, rr_4_1, rr_5_3, rr_8_6, rr_14_6, rr_20_6, field_high, field_low, Nat.reduceLeDiff, Nat.reduceSub, BitVec.extractLsb'_eq_self, BitVec.reduceToNat]
theorem bsub2 (d : BitVec 6) (a : BitVec 6) (b : BitVec 6) (g : BitVec 3) (n : BitVec 1) : Statement (.bsub2 d a b g n) := by
  intro w h
  cases h
  rw [raw_halu _ (by simp only [rr_26_6])]
  simp only [rawHalu, rr_0_4, rr_4_1, rr_5_3, rr_8_6, rr_14_6, rr_20_6, field_high, field_low, Nat.reduceLeDiff, Nat.reduceSub, BitVec.extractLsb'_eq_self, BitVec.reduceToNat]
theorem bmul2 (d : BitVec 6) (a : BitVec 6) (b : BitVec 6) (g : BitVec 3) (n : BitVec 1) : Statement (.bmul2 d a b g n) := by
  intro w h
  cases h
  rw [raw_halu _ (by simp only [rr_26_6])]
  simp only [rawHalu, rr_0_4, rr_4_1, rr_5_3, rr_8_6, rr_14_6, rr_20_6, field_high, field_low, Nat.reduceLeDiff, Nat.reduceSub, BitVec.extractLsb'_eq_self, BitVec.reduceToNat]
theorem bfma2 (d : BitVec 6) (a : BitVec 6) (b : BitVec 6) (g : BitVec 3) (n : BitVec 1) : Statement (.bfma2 d a b g n) := by
  intro w h
  cases h
  rw [raw_halu _ (by simp only [rr_26_6])]
  simp only [rawHalu, rr_0_4, rr_4_1, rr_5_3, rr_8_6, rr_14_6, rr_20_6, field_high, field_low, Nat.reduceLeDiff, Nat.reduceSub, BitVec.extractLsb'_eq_self, BitVec.reduceToNat]
theorem dadd (d : BitVec 5) (a : BitVec 5) (b : BitVec 5) (g : BitVec 3) (n : BitVec 1) : Statement (.dadd d a b g n) := by
  intro w h
  cases h
  rw [raw_dalu _ (by simp only [rr_26_6])]
  simp only [rawDalu, rr_0_4, rr_4_1, rr_5_3, rr_9_5, rr_15_5, rr_21_5, field_high, field_low, Nat.reduceLeDiff, Nat.reduceSub, BitVec.extractLsb'_eq_self, BitVec.reduceToNat]
theorem dsub (d : BitVec 5) (a : BitVec 5) (b : BitVec 5) (g : BitVec 3) (n : BitVec 1) : Statement (.dsub d a b g n) := by
  intro w h
  cases h
  rw [raw_dalu _ (by simp only [rr_26_6])]
  simp only [rawDalu, rr_0_4, rr_4_1, rr_5_3, rr_9_5, rr_15_5, rr_21_5, field_high, field_low, Nat.reduceLeDiff, Nat.reduceSub, BitVec.extractLsb'_eq_self, BitVec.reduceToNat]
theorem dmul (d : BitVec 5) (a : BitVec 5) (b : BitVec 5) (g : BitVec 3) (n : BitVec 1) : Statement (.dmul d a b g n) := by
  intro w h
  cases h
  rw [raw_dalu _ (by simp only [rr_26_6])]
  simp only [rawDalu, rr_0_4, rr_4_1, rr_5_3, rr_9_5, rr_15_5, rr_21_5, field_high, field_low, Nat.reduceLeDiff, Nat.reduceSub, BitVec.extractLsb'_eq_self, BitVec.reduceToNat]
theorem dfma (d : BitVec 5) (a : BitVec 5) (b : BitVec 5) (g : BitVec 3) (n : BitVec 1) : Statement (.dfma d a b g n) := by
  intro w h
  cases h
  rw [raw_dalu _ (by simp only [rr_26_6])]
  simp only [rawDalu, rr_0_4, rr_4_1, rr_5_3, rr_9_5, rr_15_5, rr_21_5, field_high, field_low, Nat.reduceLeDiff, Nat.reduceSub, BitVec.extractLsb'_eq_self, BitVec.reduceToNat]
theorem dmin (d : BitVec 5) (a : BitVec 5) (b : BitVec 5) (g : BitVec 3) (n : BitVec 1) : Statement (.dmin d a b g n) := by
  intro w h
  cases h
  rw [raw_dalu _ (by simp only [rr_26_6])]
  simp only [rawDalu, rr_0_4, rr_4_1, rr_5_3, rr_9_5, rr_15_5, rr_21_5, field_high, field_low, Nat.reduceLeDiff, Nat.reduceSub, BitVec.extractLsb'_eq_self, BitVec.reduceToNat]
theorem dmax (d : BitVec 5) (a : BitVec 5) (b : BitVec 5) (g : BitVec 3) (n : BitVec 1) : Statement (.dmax d a b g n) := by
  intro w h
  cases h
  rw [raw_dalu _ (by simp only [rr_26_6])]
  simp only [rawDalu, rr_0_4, rr_4_1, rr_5_3, rr_9_5, rr_15_5, rr_21_5, field_high, field_low, Nat.reduceLeDiff, Nat.reduceSub, BitVec.extractLsb'_eq_self, BitVec.reduceToNat]
theorem exp2 (d : BitVec 6) (a : BitVec 6) (g : BitVec 3) (n : BitVec 1) : Statement (.exp2 d a g n) := by
  intro w h
  cases h
  rw [raw_sfu _ (by simp only [rr_26_6])]
  simp only [rawSfu, rr_0_4, rr_4_1, rr_5_3, rr_14_6, rr_20_6, field_high, field_low, Nat.reduceLeDiff, Nat.reduceSub, BitVec.extractLsb'_eq_self, BitVec.reduceToNat]
theorem log2 (d : BitVec 6) (a : BitVec 6) (g : BitVec 3) (n : BitVec 1) : Statement (.log2 d a g n) := by
  intro w h
  cases h
  rw [raw_sfu _ (by simp only [rr_26_6])]
  simp only [rawSfu, rr_0_4, rr_4_1, rr_5_3, rr_14_6, rr_20_6, field_high, field_low, Nat.reduceLeDiff, Nat.reduceSub, BitVec.extractLsb'_eq_self, BitVec.reduceToNat]
theorem rcp (d : BitVec 6) (a : BitVec 6) (g : BitVec 3) (n : BitVec 1) : Statement (.rcp d a g n) := by
  intro w h
  cases h
  rw [raw_sfu _ (by simp only [rr_26_6])]
  simp only [rawSfu, rr_0_4, rr_4_1, rr_5_3, rr_14_6, rr_20_6, field_high, field_low, Nat.reduceLeDiff, Nat.reduceSub, BitVec.extractLsb'_eq_self, BitVec.reduceToNat]
theorem rsq (d : BitVec 6) (a : BitVec 6) (g : BitVec 3) (n : BitVec 1) : Statement (.rsq d a g n) := by
  intro w h
  cases h
  rw [raw_sfu _ (by simp only [rr_26_6])]
  simp only [rawSfu, rr_0_4, rr_4_1, rr_5_3, rr_14_6, rr_20_6, field_high, field_low, Nat.reduceLeDiff, Nat.reduceSub, BitVec.extractLsb'_eq_self, BitVec.reduceToNat]
theorem sqrt (d : BitVec 6) (a : BitVec 6) (g : BitVec 3) (n : BitVec 1) : Statement (.sqrt d a g n) := by
  intro w h
  cases h
  rw [raw_sfu _ (by simp only [rr_26_6])]
  simp only [rawSfu, rr_0_4, rr_4_1, rr_5_3, rr_14_6, rr_20_6, field_high, field_low, Nat.reduceLeDiff, Nat.reduceSub, BitVec.extractLsb'_eq_self, BitVec.reduceToNat]
theorem sinpi (d : BitVec 6) (a : BitVec 6) (g : BitVec 3) (n : BitVec 1) : Statement (.sinpi d a g n) := by
  intro w h
  cases h
  rw [raw_sfu _ (by simp only [rr_26_6])]
  simp only [rawSfu, rr_0_4, rr_4_1, rr_5_3, rr_14_6, rr_20_6, field_high, field_low, Nat.reduceLeDiff, Nat.reduceSub, BitVec.extractLsb'_eq_self, BitVec.reduceToNat]
theorem cospi (d : BitVec 6) (a : BitVec 6) (g : BitVec 3) (n : BitVec 1) : Statement (.cospi d a g n) := by
  intro w h
  cases h
  rw [raw_sfu _ (by simp only [rr_26_6])]
  simp only [rawSfu, rr_0_4, rr_4_1, rr_5_3, rr_14_6, rr_20_6, field_high, field_low, Nat.reduceLeDiff, Nat.reduceSub, BitVec.extractLsb'_eq_self, BitVec.reduceToNat]
theorem tanh (d : BitVec 6) (a : BitVec 6) (g : BitVec 3) (n : BitVec 1) : Statement (.tanh d a g n) := by
  intro w h
  cases h
  rw [raw_sfu _ (by simp only [rr_26_6])]
  simp only [rawSfu, rr_0_4, rr_4_1, rr_5_3, rr_14_6, rr_20_6, field_high, field_low, Nat.reduceLeDiff, Nat.reduceSub, BitVec.extractLsb'_eq_self, BitVec.reduceToNat]
theorem shfl (d : BitVec 6) (a : BitVec 6) (b : BitVec 6) (g : BitVec 3) (n : BitVec 1) : Statement (.shfl d a b g n) := by
  intro w h
  cases h
  rw [raw_xlane _ (by simp only [rr_26_6])]
  simp only [rawXlane, rr_0_4, rr_4_1, rr_5_3, rr_8_6, rr_14_6, rr_20_6, field_high, field_low, Nat.reduceLeDiff, Nat.reduceSub, BitVec.extractLsb'_eq_self, BitVec.reduceToNat]
theorem shflx (d : BitVec 6) (a : BitVec 6) (k : BitVec 5) (g : BitVec 3) (n : BitVec 1) : Statement (.shflx d a k g n) := by
  intro w h
  cases h
  rw [raw_xlane _ (by simp only [rr_26_6])]
  simp only [rawXlane, rr_0_4, rr_4_1, rr_5_3, rr_8_5, rr_14_6, rr_20_6, field_high, field_low, Nat.reduceLeDiff, Nat.reduceSub, BitVec.extractLsb'_eq_self, BitVec.reduceToNat]
theorem shflup (d : BitVec 6) (a : BitVec 6) (k : BitVec 5) (g : BitVec 3) (n : BitVec 1) : Statement (.shflup d a k g n) := by
  intro w h
  cases h
  rw [raw_xlane _ (by simp only [rr_26_6])]
  simp only [rawXlane, rr_0_4, rr_4_1, rr_5_3, rr_8_5, rr_14_6, rr_20_6, field_high, field_low, Nat.reduceLeDiff, Nat.reduceSub, BitVec.extractLsb'_eq_self, BitVec.reduceToNat]
theorem shfldn (d : BitVec 6) (a : BitVec 6) (k : BitVec 5) (g : BitVec 3) (n : BitVec 1) : Statement (.shfldn d a k g n) := by
  intro w h
  cases h
  rw [raw_xlane _ (by simp only [rr_26_6])]
  simp only [rawXlane, rr_0_4, rr_4_1, rr_5_3, rr_8_5, rr_14_6, rr_20_6, field_high, field_low, Nat.reduceLeDiff, Nat.reduceSub, BitVec.extractLsb'_eq_self, BitVec.reduceToNat]
theorem bcast (d : BitVec 6) (a : BitVec 6) (k : BitVec 5) (g : BitVec 3) (n : BitVec 1) : Statement (.bcast d a k g n) := by
  intro w h
  cases h
  rw [raw_xlane _ (by simp only [rr_26_6])]
  simp only [rawXlane, rr_0_4, rr_4_1, rr_5_3, rr_8_5, rr_14_6, rr_20_6, field_high, field_low, Nat.reduceLeDiff, Nat.reduceSub, BitVec.extractLsb'_eq_self, BitVec.reduceToNat]
theorem vbal (d : BitVec 5) (p : BitVec 7) : Statement (.vbal d p) := by
  intro w h
  cases h
  rw [raw_vote _ (by simp only [vt_26_6])]
  simp only [rawVote, vt_0_4, vt_14_7, vt_21_5, field_high, field_low, Nat.reduceLeDiff, Nat.reduceSub, BitVec.extractLsb'_eq_self, BitVec.reduceToNat]
theorem vany (d : BitVec 5) (p : BitVec 7) : Statement (.vany d p) := by
  intro w h
  cases h
  rw [raw_vote _ (by simp only [vt_26_6])]
  simp only [rawVote, vt_0_4, vt_14_7, vt_21_5, field_high, field_low, Nat.reduceLeDiff, Nat.reduceSub, BitVec.extractLsb'_eq_self, BitVec.reduceToNat]
theorem vall (d : BitVec 5) (p : BitVec 7) : Statement (.vall d p) := by
  intro w h
  cases h
  rw [raw_vote _ (by simp only [vt_26_6])]
  simp only [rawVote, vt_0_4, vt_14_7, vt_21_5, field_high, field_low, Nat.reduceLeDiff, Nat.reduceSub, BitVec.extractLsb'_eq_self, BitVec.reduceToNat]
theorem vcnt (d : BitVec 5) (p : BitVec 7) : Statement (.vcnt d p) := by
  intro w h
  cases h
  rw [raw_vote _ (by simp only [vt_26_6])]
  simp only [rawVote, vt_0_4, vt_14_7, vt_21_5, field_high, field_low, Nat.reduceLeDiff, Nat.reduceSub, BitVec.extractLsb'_eq_self, BitVec.reduceToNat]
theorem redAdd (d : BitVec 6) (a : BitVec 6) (g : BitVec 3) (n : BitVec 1) : Statement (.redAdd d a g n) := by
  intro w h
  cases h
  rw [raw_red _ (by simp only [rr_26_6])]
  simp only [rawRed, rr_0_4, rr_4_1, rr_5_3, rr_14_6, rr_20_6, field_high, field_low, Nat.reduceLeDiff, Nat.reduceSub, BitVec.extractLsb'_eq_self, BitVec.reduceToNat]
theorem redFadd (d : BitVec 6) (a : BitVec 6) (g : BitVec 3) (n : BitVec 1) : Statement (.redFadd d a g n) := by
  intro w h
  cases h
  rw [raw_red _ (by simp only [rr_26_6])]
  simp only [rawRed, rr_0_4, rr_4_1, rr_5_3, rr_14_6, rr_20_6, field_high, field_low, Nat.reduceLeDiff, Nat.reduceSub, BitVec.extractLsb'_eq_self, BitVec.reduceToNat]
theorem redMax (d : BitVec 6) (a : BitVec 6) (g : BitVec 3) (n : BitVec 1) : Statement (.redMax d a g n) := by
  intro w h
  cases h
  rw [raw_red _ (by simp only [rr_26_6])]
  simp only [rawRed, rr_0_4, rr_4_1, rr_5_3, rr_14_6, rr_20_6, field_high, field_low, Nat.reduceLeDiff, Nat.reduceSub, BitVec.extractLsb'_eq_self, BitVec.reduceToNat]
theorem redMin (d : BitVec 6) (a : BitVec 6) (g : BitVec 3) (n : BitVec 1) : Statement (.redMin d a g n) := by
  intro w h
  cases h
  rw [raw_red _ (by simp only [rr_26_6])]
  simp only [rawRed, rr_0_4, rr_4_1, rr_5_3, rr_14_6, rr_20_6, field_high, field_low, Nat.reduceLeDiff, Nat.reduceSub, BitVec.extractLsb'_eq_self, BitVec.reduceToNat]
theorem redMaxu (d : BitVec 6) (a : BitVec 6) (g : BitVec 3) (n : BitVec 1) : Statement (.redMaxu d a g n) := by
  intro w h
  cases h
  rw [raw_red _ (by simp only [rr_26_6])]
  simp only [rawRed, rr_0_4, rr_4_1, rr_5_3, rr_14_6, rr_20_6, field_high, field_low, Nat.reduceLeDiff, Nat.reduceSub, BitVec.extractLsb'_eq_self, BitVec.reduceToNat]
theorem redMinu (d : BitVec 6) (a : BitVec 6) (g : BitVec 3) (n : BitVec 1) : Statement (.redMinu d a g n) := by
  intro w h
  cases h
  rw [raw_red _ (by simp only [rr_26_6])]
  simp only [rawRed, rr_0_4, rr_4_1, rr_5_3, rr_14_6, rr_20_6, field_high, field_low, Nat.reduceLeDiff, Nat.reduceSub, BitVec.extractLsb'_eq_self, BitVec.reduceToNat]
theorem redFmax (d : BitVec 6) (a : BitVec 6) (g : BitVec 3) (n : BitVec 1) : Statement (.redFmax d a g n) := by
  intro w h
  cases h
  rw [raw_red _ (by simp only [rr_26_6])]
  simp only [rawRed, rr_0_4, rr_4_1, rr_5_3, rr_14_6, rr_20_6, field_high, field_low, Nat.reduceLeDiff, Nat.reduceSub, BitVec.extractLsb'_eq_self, BitVec.reduceToNat]
theorem redFmin (d : BitVec 6) (a : BitVec 6) (g : BitVec 3) (n : BitVec 1) : Statement (.redFmin d a g n) := by
  intro w h
  cases h
  rw [raw_red _ (by simp only [rr_26_6])]
  simp only [rawRed, rr_0_4, rr_4_1, rr_5_3, rr_14_6, rr_20_6, field_high, field_low, Nat.reduceLeDiff, Nat.reduceSub, BitVec.extractLsb'_eq_self, BitVec.reduceToNat]
theorem redAnd (d : BitVec 6) (a : BitVec 6) (g : BitVec 3) (n : BitVec 1) : Statement (.redAnd d a g n) := by
  intro w h
  cases h
  rw [raw_red _ (by simp only [rr_26_6])]
  simp only [rawRed, rr_0_4, rr_4_1, rr_5_3, rr_14_6, rr_20_6, field_high, field_low, Nat.reduceLeDiff, Nat.reduceSub, BitVec.extractLsb'_eq_self, BitVec.reduceToNat]
theorem redOr (d : BitVec 6) (a : BitVec 6) (g : BitVec 3) (n : BitVec 1) : Statement (.redOr d a g n) := by
  intro w h
  cases h
  rw [raw_red _ (by simp only [rr_26_6])]
  simp only [rawRed, rr_0_4, rr_4_1, rr_5_3, rr_14_6, rr_20_6, field_high, field_low, Nat.reduceLeDiff, Nat.reduceSub, BitVec.extractLsb'_eq_self, BitVec.reduceToNat]
theorem redXor (d : BitVec 6) (a : BitVec 6) (g : BitVec 3) (n : BitVec 1) : Statement (.redXor d a g n) := by
  intro w h
  cases h
  rw [raw_red _ (by simp only [rr_26_6])]
  simp only [rawRed, rr_0_4, rr_4_1, rr_5_3, rr_14_6, rr_20_6, field_high, field_low, Nat.reduceLeDiff, Nat.reduceSub, BitVec.extractLsb'_eq_self, BitVec.reduceToNat]
theorem redMaxi (d : BitVec 6) (a : BitVec 6) (b : BitVec 6) (g : BitVec 3) (n : BitVec 1) : Statement (.redMaxi d a b g n) := by
  intro w h
  cases h
  rw [raw_red _ (by simp only [rr_26_6])]
  simp only [rawRed, rr_0_4, rr_4_1, rr_5_3, rr_8_6, rr_14_6, rr_20_6, field_high, field_low, Nat.reduceLeDiff, Nat.reduceSub, BitVec.extractLsb'_eq_self, BitVec.reduceToNat]
theorem redMini (d : BitVec 6) (a : BitVec 6) (b : BitVec 6) (g : BitVec 3) (n : BitVec 1) : Statement (.redMini d a b g n) := by
  intro w h
  cases h
  rw [raw_red _ (by simp only [rr_26_6])]
  simp only [rawRed, rr_0_4, rr_4_1, rr_5_3, rr_8_6, rr_14_6, rr_20_6, field_high, field_low, Nat.reduceLeDiff, Nat.reduceSub, BitVec.extractLsb'_eq_self, BitVec.reduceToNat]
theorem redFmaxi (d : BitVec 6) (a : BitVec 6) (b : BitVec 6) (g : BitVec 3) (n : BitVec 1) : Statement (.redFmaxi d a b g n) := by
  intro w h
  cases h
  rw [raw_red _ (by simp only [rr_26_6])]
  simp only [rawRed, rr_0_4, rr_4_1, rr_5_3, rr_8_6, rr_14_6, rr_20_6, field_high, field_low, Nat.reduceLeDiff, Nat.reduceSub, BitVec.extractLsb'_eq_self, BitVec.reduceToNat]
theorem redFmini (d : BitVec 6) (a : BitVec 6) (b : BitVec 6) (g : BitVec 3) (n : BitVec 1) : Statement (.redFmini d a b g n) := by
  intro w h
  cases h
  rw [raw_red _ (by simp only [rr_26_6])]
  simp only [rawRed, rr_0_4, rr_4_1, rr_5_3, rr_8_6, rr_14_6, rr_20_6, field_high, field_low, Nat.reduceLeDiff, Nat.reduceSub, BitVec.extractLsb'_eq_self, BitVec.reduceToNat]
theorem scanAdd (d : BitVec 6) (a : BitVec 6) (g : BitVec 3) (n : BitVec 1) : Statement (.scanAdd d a g n) := by
  intro w h
  cases h
  rw [raw_scan _ (by simp only [rr_26_6])]
  simp only [rawScan, rr_0_4, rr_4_1, rr_5_3, rr_14_6, rr_20_6, field_high, field_low, Nat.reduceLeDiff, Nat.reduceSub, BitVec.extractLsb'_eq_self, BitVec.reduceToNat]
theorem scanxAdd (d : BitVec 6) (a : BitVec 6) (g : BitVec 3) (n : BitVec 1) : Statement (.scanxAdd d a g n) := by
  intro w h
  cases h
  rw [raw_scan _ (by simp only [rr_26_6])]
  simp only [rawScan, rr_0_4, rr_4_1, rr_5_3, rr_14_6, rr_20_6, field_high, field_low, Nat.reduceLeDiff, Nat.reduceSub, BitVec.extractLsb'_eq_self, BitVec.reduceToNat]
theorem scanFadd (d : BitVec 6) (a : BitVec 6) (g : BitVec 3) (n : BitVec 1) : Statement (.scanFadd d a g n) := by
  intro w h
  cases h
  rw [raw_scan _ (by simp only [rr_26_6])]
  simp only [rawScan, rr_0_4, rr_4_1, rr_5_3, rr_14_6, rr_20_6, field_high, field_low, Nat.reduceLeDiff, Nat.reduceSub, BitVec.extractLsb'_eq_self, BitVec.reduceToNat]
theorem scanxFadd (d : BitVec 6) (a : BitVec 6) (g : BitVec 3) (n : BitVec 1) : Statement (.scanxFadd d a g n) := by
  intro w h
  cases h
  rw [raw_scan _ (by simp only [rr_26_6])]
  simp only [rawScan, rr_0_4, rr_4_1, rr_5_3, rr_14_6, rr_20_6, field_high, field_low, Nat.reduceLeDiff, Nat.reduceSub, BitVec.extractLsb'_eq_self, BitVec.reduceToNat]
theorem scanMax (d : BitVec 6) (a : BitVec 6) (g : BitVec 3) (n : BitVec 1) : Statement (.scanMax d a g n) := by
  intro w h
  cases h
  rw [raw_scan _ (by simp only [rr_26_6])]
  simp only [rawScan, rr_0_4, rr_4_1, rr_5_3, rr_14_6, rr_20_6, field_high, field_low, Nat.reduceLeDiff, Nat.reduceSub, BitVec.extractLsb'_eq_self, BitVec.reduceToNat]
theorem scanMin (d : BitVec 6) (a : BitVec 6) (g : BitVec 3) (n : BitVec 1) : Statement (.scanMin d a g n) := by
  intro w h
  cases h
  rw [raw_scan _ (by simp only [rr_26_6])]
  simp only [rawScan, rr_0_4, rr_4_1, rr_5_3, rr_14_6, rr_20_6, field_high, field_low, Nat.reduceLeDiff, Nat.reduceSub, BitVec.extractLsb'_eq_self, BitVec.reduceToNat]
theorem scanOr (d : BitVec 6) (a : BitVec 6) (g : BitVec 3) (n : BitVec 1) : Statement (.scanOr d a g n) := by
  intro w h
  cases h
  rw [raw_scan _ (by simp only [rr_26_6])]
  simp only [rawScan, rr_0_4, rr_4_1, rr_5_3, rr_14_6, rr_20_6, field_high, field_low, Nat.reduceLeDiff, Nat.reduceSub, BitVec.extractLsb'_eq_self, BitVec.reduceToNat]
theorem ksort (d : BitVec 6) (a : BitVec 6) (b : BitVec 6) (g : BitVec 3) (n : BitVec 1) : Statement (.ksort d a b g n) := by
  intro w h
  cases h
  rw [raw_ksel _ (by simp only [rr_26_6])]
  simp only [rawKsel, rr_0_4, rr_4_1, rr_5_3, rr_8_6, rr_14_6, rr_20_6, field_high, field_low, Nat.reduceLeDiff, Nat.reduceSub, BitVec.extractLsb'_eq_self, BitVec.reduceToNat]
theorem kmerge (d : BitVec 6) (a : BitVec 6) (b : BitVec 6) (g : BitVec 3) (n : BitVec 1) : Statement (.kmerge d a b g n) := by
  intro w h
  cases h
  rw [raw_ksel _ (by simp only [rr_26_6])]
  simp only [rawKsel, rr_0_4, rr_4_1, rr_5_3, rr_8_6, rr_14_6, rr_20_6, field_high, field_low, Nat.reduceLeDiff, Nat.reduceSub, BitVec.extractLsb'_eq_self, BitVec.reduceToNat]
theorem rng (d : BitVec 6) (a : BitVec 6) (b : BitVec 5) (g : BitVec 3) (n : BitVec 1) : Statement (.rng d a b g n) := by
  intro w h
  cases h
  rw [raw_rng _ (by simp only [rr_26_6])]
  simp only [rawRng, rr_0_4, rr_4_1, rr_5_3, rr_8_5, rr_14_6, rr_20_6, field_high, field_low, Nat.reduceLeDiff, Nat.reduceSub, BitVec.extractLsb'_eq_self, BitVec.reduceToNat]
theorem rngf (d : BitVec 6) (a : BitVec 6) (b : BitVec 5) (g : BitVec 3) (n : BitVec 1) : Statement (.rngf d a b g n) := by
  intro w h
  cases h
  rw [raw_rng _ (by simp only [rr_26_6])]
  simp only [rawRng, rr_0_4, rr_4_1, rr_5_3, rr_8_5, rr_14_6, rr_20_6, field_high, field_low, Nat.reduceLeDiff, Nat.reduceSub, BitVec.extractLsb'_eq_self, BitVec.reduceToNat]
theorem sldB (d : BitVec 5) (x_s : BitVec 5) (o : BitVec 5) : Statement (.sldB d x_s o) := by
  intro w h
  cases h
  rw [raw_sld _ (by simp only [mm_26_6])]
  simp only [rawSld, mm_0_4, mm_4_5, mm_15_5, mm_20_5, field_high, field_low, Nat.reduceLeDiff, Nat.reduceSub, BitVec.extractLsb'_eq_self, BitVec.reduceToNat]
theorem sldBu (d : BitVec 5) (x_s : BitVec 5) (o : BitVec 5) : Statement (.sldBu d x_s o) := by
  intro w h
  cases h
  rw [raw_sld _ (by simp only [mm_26_6])]
  simp only [rawSld, mm_0_4, mm_4_5, mm_15_5, mm_20_5, field_high, field_low, Nat.reduceLeDiff, Nat.reduceSub, BitVec.extractLsb'_eq_self, BitVec.reduceToNat]
theorem sldH (d : BitVec 5) (x_s : BitVec 5) (o : BitVec 5) : Statement (.sldH d x_s o) := by
  intro w h
  cases h
  rw [raw_sld _ (by simp only [mm_26_6])]
  simp only [rawSld, mm_0_4, mm_4_5, mm_15_5, mm_20_5, field_high, field_low, Nat.reduceLeDiff, Nat.reduceSub, BitVec.extractLsb'_eq_self, BitVec.reduceToNat]
theorem sldHu (d : BitVec 5) (x_s : BitVec 5) (o : BitVec 5) : Statement (.sldHu d x_s o) := by
  intro w h
  cases h
  rw [raw_sld _ (by simp only [mm_26_6])]
  simp only [rawSld, mm_0_4, mm_4_5, mm_15_5, mm_20_5, field_high, field_low, Nat.reduceLeDiff, Nat.reduceSub, BitVec.extractLsb'_eq_self, BitVec.reduceToNat]
theorem sldW (d : BitVec 5) (x_s : BitVec 5) (o : BitVec 5) : Statement (.sldW d x_s o) := by
  intro w h
  cases h
  rw [raw_sld _ (by simp only [mm_26_6])]
  simp only [rawSld, mm_0_4, mm_4_5, mm_15_5, mm_20_5, field_high, field_low, Nat.reduceLeDiff, Nat.reduceSub, BitVec.extractLsb'_eq_self, BitVec.reduceToNat]
theorem sldWu (d : BitVec 5) (x_s : BitVec 5) (o : BitVec 5) : Statement (.sldWu d x_s o) := by
  intro w h
  cases h
  rw [raw_sld _ (by simp only [mm_26_6])]
  simp only [rawSld, mm_0_4, mm_4_5, mm_15_5, mm_20_5, field_high, field_low, Nat.reduceLeDiff, Nat.reduceSub, BitVec.extractLsb'_eq_self, BitVec.reduceToNat]
theorem sldD (d : BitVec 5) (x_s : BitVec 5) (o : BitVec 5) : Statement (.sldD d x_s o) := by
  intro w h
  cases h
  rw [raw_sld _ (by simp only [mm_26_6])]
  simp only [rawSld, mm_0_4, mm_4_5, mm_15_5, mm_20_5, field_high, field_low, Nat.reduceLeDiff, Nat.reduceSub, BitVec.extractLsb'_eq_self, BitVec.reduceToNat]
theorem sstB (d : BitVec 5) (x_s : BitVec 5) (o : BitVec 5) : Statement (.sstB d x_s o) := by
  intro w h
  cases h
  rw [raw_sst _ (by simp only [mm_26_6])]
  simp only [rawSst, mm_0_4, mm_4_5, mm_15_5, mm_20_5, field_high, field_low, Nat.reduceLeDiff, Nat.reduceSub, BitVec.extractLsb'_eq_self, BitVec.reduceToNat]
theorem sstH (d : BitVec 5) (x_s : BitVec 5) (o : BitVec 5) : Statement (.sstH d x_s o) := by
  intro w h
  cases h
  rw [raw_sst _ (by simp only [mm_26_6])]
  simp only [rawSst, mm_0_4, mm_4_5, mm_15_5, mm_20_5, field_high, field_low, Nat.reduceLeDiff, Nat.reduceSub, BitVec.extractLsb'_eq_self, BitVec.reduceToNat]
theorem sstW (d : BitVec 5) (x_s : BitVec 5) (o : BitVec 5) : Statement (.sstW d x_s o) := by
  intro w h
  cases h
  rw [raw_sst _ (by simp only [mm_26_6])]
  simp only [rawSst, mm_0_4, mm_4_5, mm_15_5, mm_20_5, field_high, field_low, Nat.reduceLeDiff, Nat.reduceSub, BitVec.extractLsb'_eq_self, BitVec.reduceToNat]
theorem sstD (d : BitVec 5) (x_s : BitVec 5) (o : BitVec 5) : Statement (.sstD d x_s o) := by
  intro w h
  cases h
  rw [raw_sst _ (by simp only [mm_26_6])]
  simp only [rawSst, mm_0_4, mm_4_5, mm_15_5, mm_20_5, field_high, field_low, Nat.reduceLeDiff, Nat.reduceSub, BitVec.extractLsb'_eq_self, BitVec.reduceToNat]
theorem vldB (d : BitVec 6) (x_s : BitVec 5) (e : BitVec 1) (x : BitVec 5) (o : BitVec 5) : Statement (.vldB d x_s e x o) := by
  intro w h
  cases h
  rw [raw_vld _ (by simp only [mm_26_6])]
  simp only [rawVld, mm_0_4, mm_4_5, mm_9_5, mm_14_1, mm_15_5, mm_20_6, field_high, field_low, Nat.reduceLeDiff, Nat.reduceSub, BitVec.extractLsb'_eq_self, BitVec.reduceToNat]
theorem vldBu (d : BitVec 6) (x_s : BitVec 5) (e : BitVec 1) (x : BitVec 5) (o : BitVec 5) : Statement (.vldBu d x_s e x o) := by
  intro w h
  cases h
  rw [raw_vld _ (by simp only [mm_26_6])]
  simp only [rawVld, mm_0_4, mm_4_5, mm_9_5, mm_14_1, mm_15_5, mm_20_6, field_high, field_low, Nat.reduceLeDiff, Nat.reduceSub, BitVec.extractLsb'_eq_self, BitVec.reduceToNat]
theorem vldH (d : BitVec 6) (x_s : BitVec 5) (e : BitVec 1) (x : BitVec 5) (o : BitVec 5) : Statement (.vldH d x_s e x o) := by
  intro w h
  cases h
  rw [raw_vld _ (by simp only [mm_26_6])]
  simp only [rawVld, mm_0_4, mm_4_5, mm_9_5, mm_14_1, mm_15_5, mm_20_6, field_high, field_low, Nat.reduceLeDiff, Nat.reduceSub, BitVec.extractLsb'_eq_self, BitVec.reduceToNat]
theorem vldHu (d : BitVec 6) (x_s : BitVec 5) (e : BitVec 1) (x : BitVec 5) (o : BitVec 5) : Statement (.vldHu d x_s e x o) := by
  intro w h
  cases h
  rw [raw_vld _ (by simp only [mm_26_6])]
  simp only [rawVld, mm_0_4, mm_4_5, mm_9_5, mm_14_1, mm_15_5, mm_20_6, field_high, field_low, Nat.reduceLeDiff, Nat.reduceSub, BitVec.extractLsb'_eq_self, BitVec.reduceToNat]
theorem vldW (d : BitVec 6) (x_s : BitVec 5) (e : BitVec 1) (x : BitVec 5) (o : BitVec 5) : Statement (.vldW d x_s e x o) := by
  intro w h
  cases h
  rw [raw_vld _ (by simp only [mm_26_6])]
  simp only [rawVld, mm_0_4, mm_4_5, mm_9_5, mm_14_1, mm_15_5, mm_20_6, field_high, field_low, Nat.reduceLeDiff, Nat.reduceSub, BitVec.extractLsb'_eq_self, BitVec.reduceToNat]
theorem vldD (d : BitVec 5) (x_s : BitVec 5) (e : BitVec 1) (x : BitVec 5) (o : BitVec 5) : Statement (.vldD d x_s e x o) := by
  intro w h
  cases h
  rw [raw_vld _ (by simp only [mm_26_6])]
  simp only [rawVld, mm_0_4, mm_4_5, mm_9_5, mm_14_1, mm_15_5, mm_21_5, field_high, field_low, Nat.reduceLeDiff, Nat.reduceSub, BitVec.extractLsb'_eq_self, BitVec.reduceToNat]
theorem vldsW (d : BitVec 6) (x_s : BitVec 5) (x : BitVec 5) (o : BitVec 5) : Statement (.vldsW d x_s x o) := by
  intro w h
  cases h
  rw [raw_vld _ (by simp only [mm_26_6])]
  simp only [rawVld, mm_0_4, mm_4_5, mm_9_5, mm_15_5, mm_20_6, field_high, field_low, Nat.reduceLeDiff, Nat.reduceSub, BitVec.extractLsb'_eq_self, BitVec.reduceToNat]
theorem vldbW (d : BitVec 6) (x_s : BitVec 5) (o : BitVec 5) : Statement (.vldbW d x_s o) := by
  intro w h
  cases h
  rw [raw_vld _ (by simp only [mm_26_6])]
  simp only [rawVld, mm_0_4, mm_4_5, mm_15_5, mm_20_6, field_high, field_low, Nat.reduceLeDiff, Nat.reduceSub, BitVec.extractLsb'_eq_self, BitVec.reduceToNat]
theorem vstB (d : BitVec 6) (x_s : BitVec 5) (e : BitVec 1) (x : BitVec 5) (o : BitVec 5) : Statement (.vstB d x_s e x o) := by
  intro w h
  cases h
  rw [raw_vst _ (by simp only [mm_26_6])]
  simp only [rawVst, mm_0_4, mm_4_5, mm_9_5, mm_14_1, mm_15_5, mm_20_6, field_high, field_low, Nat.reduceLeDiff, Nat.reduceSub, BitVec.extractLsb'_eq_self, BitVec.reduceToNat]
theorem vstH (d : BitVec 6) (x_s : BitVec 5) (e : BitVec 1) (x : BitVec 5) (o : BitVec 5) : Statement (.vstH d x_s e x o) := by
  intro w h
  cases h
  rw [raw_vst _ (by simp only [mm_26_6])]
  simp only [rawVst, mm_0_4, mm_4_5, mm_9_5, mm_14_1, mm_15_5, mm_20_6, field_high, field_low, Nat.reduceLeDiff, Nat.reduceSub, BitVec.extractLsb'_eq_self, BitVec.reduceToNat]
theorem vstW (d : BitVec 6) (x_s : BitVec 5) (e : BitVec 1) (x : BitVec 5) (o : BitVec 5) : Statement (.vstW d x_s e x o) := by
  intro w h
  cases h
  rw [raw_vst _ (by simp only [mm_26_6])]
  simp only [rawVst, mm_0_4, mm_4_5, mm_9_5, mm_14_1, mm_15_5, mm_20_6, field_high, field_low, Nat.reduceLeDiff, Nat.reduceSub, BitVec.extractLsb'_eq_self, BitVec.reduceToNat]
theorem vstD (d : BitVec 5) (x_s : BitVec 5) (e : BitVec 1) (x : BitVec 5) (o : BitVec 5) : Statement (.vstD d x_s e x o) := by
  intro w h
  cases h
  rw [raw_vst _ (by simp only [mm_26_6])]
  simp only [rawVst, mm_0_4, mm_4_5, mm_9_5, mm_14_1, mm_15_5, mm_21_5, field_high, field_low, Nat.reduceLeDiff, Nat.reduceSub, BitVec.extractLsb'_eq_self, BitVec.reduceToNat]
theorem vstsW (d : BitVec 6) (x_s : BitVec 5) (x : BitVec 5) (o : BitVec 5) : Statement (.vstsW d x_s x o) := by
  intro w h
  cases h
  rw [raw_vst _ (by simp only [mm_26_6])]
  simp only [rawVst, mm_0_4, mm_4_5, mm_9_5, mm_15_5, mm_20_6, field_high, field_low, Nat.reduceLeDiff, Nat.reduceSub, BitVec.extractLsb'_eq_self, BitVec.reduceToNat]
theorem tld (d : BitVec 1) (x_s : BitVec 5) (x : BitVec 5) (o : BitVec 5) : Statement (.tld d x_s x o) := by
  intro w h
  cases h
  rw [raw_tile _ (by simp only [mm_26_6])]
  simp only [rawTile, mm_0_4, mm_4_5, mm_9_5, mm_15_5, mm_25_1, field_high, field_low, Nat.reduceLeDiff, Nat.reduceSub, BitVec.extractLsb'_eq_self, BitVec.reduceToNat]
theorem tldt (d : BitVec 1) (x_s : BitVec 5) (x : BitVec 5) (o : BitVec 5) : Statement (.tldt d x_s x o) := by
  intro w h
  cases h
  rw [raw_tile _ (by simp only [mm_26_6])]
  simp only [rawTile, mm_0_4, mm_4_5, mm_9_5, mm_15_5, mm_25_1, field_high, field_low, Nat.reduceLeDiff, Nat.reduceSub, BitVec.extractLsb'_eq_self, BitVec.reduceToNat]
theorem tst (d : BitVec 1) (x_s : BitVec 5) (x : BitVec 5) (o : BitVec 5) : Statement (.tst d x_s x o) := by
  intro w h
  cases h
  rw [raw_tile _ (by simp only [mm_26_6])]
  simp only [rawTile, mm_0_4, mm_4_5, mm_9_5, mm_15_5, mm_25_1, field_high, field_low, Nat.reduceLeDiff, Nat.reduceSub, BitVec.extractLsb'_eq_self, BitVec.reduceToNat]
theorem tstt (d : BitVec 1) (x_s : BitVec 5) (x : BitVec 5) (o : BitVec 5) : Statement (.tstt d x_s x o) := by
  intro w h
  cases h
  rw [raw_tile _ (by simp only [mm_26_6])]
  simp only [rawTile, mm_0_4, mm_4_5, mm_9_5, mm_15_5, mm_25_1, field_high, field_low, Nat.reduceLeDiff, Nat.reduceSub, BitVec.extractLsb'_eq_self, BitVec.reduceToNat]
theorem aadd (d : BitVec 6) (x_s : BitVec 5) (e : BitVec 1) (x : BitVec 5) (o : BitVec 2) (c : BitVec 3) : Statement (.aadd d x_s e x o c) := by
  intro w h
  cases h
  rw [raw_amo _ (by simp only [mm_26_6])]
  simp only [rawAmo, mm_0_4, mm_4_3, mm_7_2, mm_9_5, mm_14_1, mm_15_5, mm_20_6, field_high, field_low, Nat.reduceLeDiff, Nat.reduceSub, BitVec.extractLsb'_eq_self, BitVec.reduceToNat]
theorem amin (d : BitVec 6) (x_s : BitVec 5) (e : BitVec 1) (x : BitVec 5) (o : BitVec 2) (c : BitVec 3) : Statement (.amin d x_s e x o c) := by
  intro w h
  cases h
  rw [raw_amo _ (by simp only [mm_26_6])]
  simp only [rawAmo, mm_0_4, mm_4_3, mm_7_2, mm_9_5, mm_14_1, mm_15_5, mm_20_6, field_high, field_low, Nat.reduceLeDiff, Nat.reduceSub, BitVec.extractLsb'_eq_self, BitVec.reduceToNat]
theorem amax (d : BitVec 6) (x_s : BitVec 5) (e : BitVec 1) (x : BitVec 5) (o : BitVec 2) (c : BitVec 3) : Statement (.amax d x_s e x o c) := by
  intro w h
  cases h
  rw [raw_amo _ (by simp only [mm_26_6])]
  simp only [rawAmo, mm_0_4, mm_4_3, mm_7_2, mm_9_5, mm_14_1, mm_15_5, mm_20_6, field_high, field_low, Nat.reduceLeDiff, Nat.reduceSub, BitVec.extractLsb'_eq_self, BitVec.reduceToNat]
theorem aminu (d : BitVec 6) (x_s : BitVec 5) (e : BitVec 1) (x : BitVec 5) (o : BitVec 2) (c : BitVec 3) : Statement (.aminu d x_s e x o c) := by
  intro w h
  cases h
  rw [raw_amo _ (by simp only [mm_26_6])]
  simp only [rawAmo, mm_0_4, mm_4_3, mm_7_2, mm_9_5, mm_14_1, mm_15_5, mm_20_6, field_high, field_low, Nat.reduceLeDiff, Nat.reduceSub, BitVec.extractLsb'_eq_self, BitVec.reduceToNat]
theorem amaxu (d : BitVec 6) (x_s : BitVec 5) (e : BitVec 1) (x : BitVec 5) (o : BitVec 2) (c : BitVec 3) : Statement (.amaxu d x_s e x o c) := by
  intro w h
  cases h
  rw [raw_amo _ (by simp only [mm_26_6])]
  simp only [rawAmo, mm_0_4, mm_4_3, mm_7_2, mm_9_5, mm_14_1, mm_15_5, mm_20_6, field_high, field_low, Nat.reduceLeDiff, Nat.reduceSub, BitVec.extractLsb'_eq_self, BitVec.reduceToNat]
theorem aand (d : BitVec 6) (x_s : BitVec 5) (e : BitVec 1) (x : BitVec 5) (o : BitVec 2) (c : BitVec 3) : Statement (.aand d x_s e x o c) := by
  intro w h
  cases h
  rw [raw_amo _ (by simp only [mm_26_6])]
  simp only [rawAmo, mm_0_4, mm_4_3, mm_7_2, mm_9_5, mm_14_1, mm_15_5, mm_20_6, field_high, field_low, Nat.reduceLeDiff, Nat.reduceSub, BitVec.extractLsb'_eq_self, BitVec.reduceToNat]
theorem aor (d : BitVec 6) (x_s : BitVec 5) (e : BitVec 1) (x : BitVec 5) (o : BitVec 2) (c : BitVec 3) : Statement (.aor d x_s e x o c) := by
  intro w h
  cases h
  rw [raw_amo _ (by simp only [mm_26_6])]
  simp only [rawAmo, mm_0_4, mm_4_3, mm_7_2, mm_9_5, mm_14_1, mm_15_5, mm_20_6, field_high, field_low, Nat.reduceLeDiff, Nat.reduceSub, BitVec.extractLsb'_eq_self, BitVec.reduceToNat]
theorem axor (d : BitVec 6) (x_s : BitVec 5) (e : BitVec 1) (x : BitVec 5) (o : BitVec 2) (c : BitVec 3) : Statement (.axor d x_s e x o c) := by
  intro w h
  cases h
  rw [raw_amo _ (by simp only [mm_26_6])]
  simp only [rawAmo, mm_0_4, mm_4_3, mm_7_2, mm_9_5, mm_14_1, mm_15_5, mm_20_6, field_high, field_low, Nat.reduceLeDiff, Nat.reduceSub, BitVec.extractLsb'_eq_self, BitVec.reduceToNat]
theorem axch (d : BitVec 6) (x_s : BitVec 5) (e : BitVec 1) (x : BitVec 5) (o : BitVec 2) (c : BitVec 3) : Statement (.axch d x_s e x o c) := by
  intro w h
  cases h
  rw [raw_amo _ (by simp only [mm_26_6])]
  simp only [rawAmo, mm_0_4, mm_4_3, mm_7_2, mm_9_5, mm_14_1, mm_15_5, mm_20_6, field_high, field_low, Nat.reduceLeDiff, Nat.reduceSub, BitVec.extractLsb'_eq_self, BitVec.reduceToNat]
theorem acas (d : BitVec 6) (x_s : BitVec 5) (e : BitVec 1) (x : BitVec 5) (o : BitVec 2) (c : BitVec 3) : Statement (.acas d x_s e x o c) := by
  intro w h
  cases h
  rw [raw_amo _ (by simp only [mm_26_6])]
  simp only [rawAmo, mm_0_4, mm_4_3, mm_7_2, mm_9_5, mm_14_1, mm_15_5, mm_20_6, field_high, field_low, Nat.reduceLeDiff, Nat.reduceSub, BitVec.extractLsb'_eq_self, BitVec.reduceToNat]
theorem afadd (d : BitVec 6) (x_s : BitVec 5) (e : BitVec 1) (x : BitVec 5) (o : BitVec 2) (c : BitVec 3) : Statement (.afadd d x_s e x o c) := by
  intro w h
  cases h
  rw [raw_amo _ (by simp only [mm_26_6])]
  simp only [rawAmo, mm_0_4, mm_4_3, mm_7_2, mm_9_5, mm_14_1, mm_15_5, mm_20_6, field_high, field_low, Nat.reduceLeDiff, Nat.reduceSub, BitVec.extractLsb'_eq_self, BitVec.reduceToNat]
theorem aaddD (d : BitVec 5) (x_s : BitVec 5) (e : BitVec 1) (x : BitVec 5) (o : BitVec 2) (c : BitVec 3) : Statement (.aaddD d x_s e x o c) := by
  intro w h
  cases h
  rw [raw_amo _ (by simp only [mm_26_6])]
  simp only [rawAmo, mm_0_4, mm_4_3, mm_7_2, mm_9_5, mm_14_1, mm_15_5, mm_21_5, field_high, field_low, Nat.reduceLeDiff, Nat.reduceSub, BitVec.extractLsb'_eq_self, BitVec.reduceToNat]
theorem amaxuD (d : BitVec 5) (x_s : BitVec 5) (e : BitVec 1) (x : BitVec 5) (o : BitVec 2) (c : BitVec 3) : Statement (.amaxuD d x_s e x o c) := by
  intro w h
  cases h
  rw [raw_amo _ (by simp only [mm_26_6])]
  simp only [rawAmo, mm_0_4, mm_4_3, mm_7_2, mm_9_5, mm_14_1, mm_15_5, mm_21_5, field_high, field_low, Nat.reduceLeDiff, Nat.reduceSub, BitVec.extractLsb'_eq_self, BitVec.reduceToNat]
theorem acasD (d : BitVec 5) (x_s : BitVec 5) (e : BitVec 1) (x : BitVec 5) (o : BitVec 2) (c : BitVec 3) : Statement (.acasD d x_s e x o c) := by
  intro w h
  cases h
  rw [raw_amo _ (by simp only [mm_26_6])]
  simp only [rawAmo, mm_0_4, mm_4_3, mm_7_2, mm_9_5, mm_14_1, mm_15_5, mm_21_5, field_high, field_low, Nat.reduceLeDiff, Nat.reduceSub, BitVec.extractLsb'_eq_self, BitVec.reduceToNat]
theorem fenceRel (c : BitVec 3) : Statement (.fenceRel c) := by
  intro w h
  cases h
  rw [raw_sync _ (by simp only [sy_26_6])]
  simp only [rawSync, sy_0_4, sy_4_2, sy_6_3, field_high, field_low, Nat.reduceLeDiff, Nat.reduceSub, BitVec.extractLsb'_eq_self, BitVec.reduceToNat]
theorem fenceAcq (c : BitVec 3) : Statement (.fenceAcq c) := by
  intro w h
  cases h
  rw [raw_sync _ (by simp only [sy_26_6])]
  simp only [rawSync, sy_0_4, sy_4_2, sy_6_3, field_high, field_low, Nat.reduceLeDiff, Nat.reduceSub, BitVec.extractLsb'_eq_self, BitVec.reduceToNat]
theorem fenceFull (c : BitVec 3) : Statement (.fenceFull c) := by
  intro w h
  cases h
  rw [raw_sync _ (by simp only [sy_26_6])]
  simp only [rawSync, sy_0_4, sy_4_2, sy_6_3, field_high, field_low, Nat.reduceLeDiff, Nat.reduceSub, BitVec.extractLsb'_eq_self, BitVec.reduceToNat]
theorem qfence (m : BitVec 5) : Statement (.qfence m) := by
  intro w h
  cases h
  rw [raw_sync _ (by simp only [sy_26_6])]
  simp only [rawSync, sy_0_4, sy_4_2, sy_4_5, field_high, field_low, Nat.reduceLeDiff, Nat.reduceSub, BitVec.extractLsb'_eq_self, BitVec.reduceToNat]
theorem waita (d : BitVec 5) (a : BitVec 5) : Statement (.waita d a) := by
  intro w h
  cases h
  rw [raw_sync _ (by simp only [sy_26_6])]
  simp only [rawSync, sy_0_4, sy_4_2, sy_16_5, sy_21_5, field_high, field_low, Nat.reduceLeDiff, Nat.reduceSub, BitVec.extractLsb'_eq_self, BitVec.reduceToNat]
theorem waitq (d : BitVec 5) (q : BitVec 3) : Statement (.waitq d q) := by
  intro w h
  cases h
  rw [raw_sync _ (by simp only [sy_26_6])]
  simp only [rawSync, sy_0_4, sy_4_2, sy_4_3, sy_21_5, field_high, field_low, Nat.reduceLeDiff, Nat.reduceSub, BitVec.extractLsb'_eq_self, BitVec.reduceToNat]
theorem cpy (d : BitVec 5) (a : BitVec 5) (q : BitVec 2) : Statement (.cpy d a q) := by
  intro w h
  cases h
  rw [raw_eng _ (by simp only [sy_26_6])]
  simp only [rawEng, sy_0_4, sy_4_2, sy_16_5, sy_21_5, field_high, field_low, Nat.reduceLeDiff, Nat.reduceSub, BitVec.extractLsb'_eq_self, BitVec.reduceToNat]
theorem qseq (d : BitVec 5) (q : BitVec 3) : Statement (.qseq d q) := by
  intro w h
  cases h
  rw [raw_eng _ (by simp only [sy_26_6])]
  simp only [rawEng, sy_0_4, sy_4_3, sy_21_5, field_high, field_low, Nat.reduceLeDiff, Nat.reduceSub, BitVec.extractLsb'_eq_self, BitVec.reduceToNat]
theorem tndef (a : BitVec 5) (t : BitVec 8) : Statement (.tndef a t) := by
  intro w h
  cases h
  rw [raw_tnt _ (by simp only [sy_26_6])]
  simp only [rawTnt, sy_0_4, sy_4_8, sy_16_5, field_high, field_low, Nat.reduceLeDiff, Nat.reduceSub, BitVec.extractLsb'_eq_self, BitVec.reduceToNat]
theorem tnrel (t : BitVec 8) : Statement (.tnrel t) := by
  intro w h
  cases h
  rw [raw_tnt _ (by simp only [sy_26_6])]
  simp only [rawTnt, sy_0_4, sy_4_8, field_high, field_low, Nat.reduceLeDiff, Nat.reduceSub, BitVec.extractLsb'_eq_self, BitVec.reduceToNat]
theorem tnget (d : BitVec 5) (t : BitVec 8) : Statement (.tnget d t) := by
  intro w h
  cases h
  rw [raw_tnt _ (by simp only [sy_26_6])]
  simp only [rawTnt, sy_0_4, sy_4_8, sy_21_5, field_high, field_low, Nat.reduceLeDiff, Nat.reduceSub, BitVec.extractLsb'_eq_self, BitVec.reduceToNat]
theorem mleaf (d : BitVec 4) (x_s : BitVec 5) (k : BitVec 8) (t : BitVec 1) : Statement (.mleaf d x_s k t) := by
  intro w h
  cases h
  rw [raw_gsrc _ (by simp only [gs_26_6])]
  simp only [rawGsrc, gs_0_4, gs_4_1, gs_5_8, gs_13_5, gs_22_4, field_high, field_low, Nat.reduceLeDiff, Nat.reduceSub, BitVec.extractLsb'_eq_self, BitVec.reduceToNat]
theorem mconst (d : BitVec 4) (x_s : BitVec 5) (y : BitVec 1) (k : BitVec 2) : Statement (.mconst d x_s y k) := by
  intro w h
  cases h
  rw [raw_gsrc _ (by simp only [gs_26_6])]
  simp only [rawGsrc, gs_0_4, gs_5_2, gs_7_1, gs_13_5, gs_22_4, field_high, field_low, Nat.reduceLeDiff, Nat.reduceSub, BitVec.extractLsb'_eq_self, BitVec.reduceToNat]
theorem mtri (d : BitVec 4) (a : BitVec 4) (x_s : BitVec 5) : Statement (.mtri d a x_s) := by
  intro w h
  cases h
  rw [raw_gsrc _ (by simp only [gs_26_6])]
  simp only [rawGsrc, gs_0_4, gs_13_5, gs_18_4, gs_22_4, field_high, field_low, Nat.reduceLeDiff, Nat.reduceSub, BitVec.extractLsb'_eq_self, BitVec.reduceToNat]
theorem mscl (d : BitVec 4) (a : BitVec 4) (x_s : BitVec 5) : Statement (.mscl d a x_s) := by
  intro w h
  cases h
  rw [raw_gsrc _ (by simp only [gs_26_6])]
  simp only [rawGsrc, gs_0_4, gs_13_5, gs_18_4, gs_22_4, field_high, field_low, Nat.reduceLeDiff, Nat.reduceSub, BitVec.extractLsb'_eq_self, BitVec.reduceToNat]
theorem mmul (d : BitVec 4) (a : BitVec 4) (b : BitVec 4) (t : BitVec 1) (k : BitVec 1) (x_s : BitVec 1) (q : BitVec 2) : Statement (.mmul d a b t k x_s q) := by
  intro w h
  cases h
  rw [raw_gop _ (by simp only [gr_26_6])]
  simp only [rawGop, gr_0_4, gr_4_2, gr_6_1, gr_7_1, gr_8_1, gr_14_4, gr_18_4, gr_22_4, field_high, field_low, Nat.reduceLeDiff, Nat.reduceSub, BitVec.extractLsb'_eq_self, BitVec.reduceToNat]
theorem meadd (d : BitVec 4) (a : BitVec 4) (b : BitVec 4) (x_s : BitVec 1) : Statement (.meadd d a b x_s) := by
  intro w h
  cases h
  rw [raw_gop _ (by simp only [gr_26_6])]
  simp only [rawGop, gr_0_4, gr_6_1, gr_14_4, gr_18_4, gr_22_4, field_high, field_low, Nat.reduceLeDiff, Nat.reduceSub, BitVec.extractLsb'_eq_self, BitVec.reduceToNat]
theorem mesub (d : BitVec 4) (a : BitVec 4) (b : BitVec 4) (x_s : BitVec 1) : Statement (.mesub d a b x_s) := by
  intro w h
  cases h
  rw [raw_gop _ (by simp only [gr_26_6])]
  simp only [rawGop, gr_0_4, gr_6_1, gr_14_4, gr_18_4, gr_22_4, field_high, field_low, Nat.reduceLeDiff, Nat.reduceSub, BitVec.extractLsb'_eq_self, BitVec.reduceToNat]
theorem memul (d : BitVec 4) (a : BitVec 4) (b : BitVec 4) (x_s : BitVec 1) : Statement (.memul d a b x_s) := by
  intro w h
  cases h
  rw [raw_gop _ (by simp only [gr_26_6])]
  simp only [rawGop, gr_0_4, gr_6_1, gr_14_4, gr_18_4, gr_22_4, field_high, field_low, Nat.reduceLeDiff, Nat.reduceSub, BitVec.extractLsb'_eq_self, BitVec.reduceToNat]
theorem mtrn (d : BitVec 4) (a : BitVec 4) : Statement (.mtrn d a) := by
  intro w h
  cases h
  rw [raw_gop _ (by simp only [gr_26_6])]
  simp only [rawGop, gr_0_4, gr_18_4, gr_22_4, field_high, field_low, Nat.reduceLeDiff, Nat.reduceSub, BitVec.extractLsb'_eq_self, BitVec.reduceToNat]
theorem mcvt (d : BitVec 4) (a : BitVec 4) (t : BitVec 1) (r : BitVec 3) (f : BitVec 6) : Statement (.mcvt d a t r f) := by
  intro w h
  cases h
  rw [raw_gop _ (by simp only [gr_26_6])]
  simp only [rawGop, gr_0_4, gr_4_6, gr_10_3, gr_13_1, gr_18_4, gr_22_4, field_high, field_low, Nat.reduceLeDiff, Nat.reduceSub, BitVec.extractLsb'_eq_self, BitVec.reduceToNat]
theorem mact (d : BitVec 4) (a : BitVec 4) (k : BitVec 4) : Statement (.mact d a k) := by
  intro w h
  cases h
  rw [raw_gop _ (by simp only [gr_26_6])]
  simp only [rawGop, gr_0_4, gr_4_4, gr_18_4, gr_22_4, field_high, field_low, Nat.reduceLeDiff, Nat.reduceSub, BitVec.extractLsb'_eq_self, BitVec.reduceToNat]
theorem force (n : BitVec 4) : Statement (.force n) := by
  intro w h
  cases h
  rw [raw_gfrc _ (by simp only [gn_26_6])]
  simp only [rawGfrc, gn_0_4, gn_22_4, field_high, field_low, Nat.reduceLeDiff, Nat.reduceSub, BitVec.extractLsb'_eq_self, BitVec.reduceToNat]
theorem mdrop (n : BitVec 4) : Statement (.mdrop n) := by
  intro w h
  cases h
  rw [raw_gfrc _ (by simp only [gn_26_6])]
  simp only [rawGfrc, gn_0_4, gn_22_4, field_high, field_low, Nat.reduceLeDiff, Nat.reduceSub, BitVec.extractLsb'_eq_self, BitVec.reduceToNat]
theorem mrd (d : BitVec 6) (n : BitVec 4) (x_s : BitVec 5) : Statement (.mrd d n x_s) := by
  intro w h
  cases h
  rw [raw_gfrc _ (by simp only [gv_26_6])]
  simp only [rawGfrc, gv_0_4, gv_11_5, gv_16_4, gv_20_6, field_high, field_low, Nat.reduceLeDiff, Nat.reduceSub, BitVec.extractLsb'_eq_self, BitVec.reduceToNat]
theorem mst (n : BitVec 4) (t : BitVec 8) (x_s : BitVec 5) (f : BitVec 1) : Statement (.mst n t x_s f) := by
  intro w h
  cases h
  rw [raw_gfrc _ (by simp only [gt_26_6])]
  simp only [rawGfrc, gt_0_4, gt_4_1, gt_9_5, gt_14_8, gt_22_4, field_high, field_low, Nat.reduceLeDiff, Nat.reduceSub, BitVec.extractLsb'_eq_self, BitVec.reduceToNat]
theorem macc (n : BitVec 4) (k : BitVec 6) (x_s : BitVec 5) (t : BitVec 1) (i : BitVec 1) : Statement (.macc n k x_s t i) := by
  intro w h
  cases h
  rw [raw_gfrc _ (by simp only [ga_26_6])]
  simp only [rawGfrc, ga_0_4, ga_4_1, ga_5_1, ga_11_5, ga_16_6, ga_22_4, field_high, field_low, Nat.reduceLeDiff, Nat.reduceSub, BitVec.extractLsb'_eq_self, BitVec.reduceToNat]
theorem mstat (n : BitVec 4) (d : BitVec 5) : Statement (.mstat n d) := by
  intro w h
  cases h
  rw [raw_gfrc _ (by simp only [gn_26_6])]
  simp only [rawGfrc, gn_0_4, gn_17_5, gn_22_4, field_high, field_low, Nat.reduceLeDiff, Nat.reduceSub, BitVec.extractLsb'_eq_self, BitVec.reduceToNat]
theorem tend : Statement (.tend) := by
  intro w h
  cases h
  rw [raw_task _ (by simp only [sy_26_6])]
  simp only [rawTask, sy_0_4, field_high, field_low, Nat.reduceLeDiff, Nat.reduceSub, BitVec.extractLsb'_eq_self, BitVec.reduceToNat]
theorem tinst (d : BitVec 5) : Statement (.tinst d) := by
  intro w h
  cases h
  rw [raw_task _ (by simp only [sy_26_6])]
  simp only [rawTask, sy_0_4, sy_21_5, field_high, field_low, Nat.reduceLeDiff, Nat.reduceSub, BitVec.extractLsb'_eq_self, BitVec.reduceToNat]
theorem tstg (d : BitVec 5) : Statement (.tstg d) := by
  intro w h
  cases h
  rw [raw_task _ (by simp only [sy_26_6])]
  simp only [rawTask, sy_0_4, sy_21_5, field_high, field_low, Nat.reduceLeDiff, Nat.reduceSub, BitVec.extractLsb'_eq_self, BitVec.reduceToNat]
theorem tbud (d : BitVec 5) (k : BitVec 12) : Statement (.tbud d k) := by
  intro w h
  cases h
  rw [raw_task _ (by simp only [sy_26_6])]
  simp only [rawTask, sy_0_4, sy_4_12, sy_21_5, field_high, field_low, Nat.reduceLeDiff, Nat.reduceSub, BitVec.extractLsb'_eq_self, BitVec.reduceToNat]
theorem tslk (d : BitVec 5) : Statement (.tslk d) := by
  intro w h
  cases h
  rw [raw_task _ (by simp only [sy_26_6])]
  simp only [rawTask, sy_0_4, sy_21_5, field_high, field_low, Nat.reduceLeDiff, Nat.reduceSub, BitVec.extractLsb'_eq_self, BitVec.reduceToNat]
theorem enq (a : BitVec 5) (n : BitVec 4) (g : BitVec 4) : Statement (.enq a n g) := by
  intro w h
  cases h
  rw [raw_task _ (by simp only [sy_26_6])]
  simp only [rawTask, sy_0_4, sy_4_4, sy_8_4, sy_16_5, field_high, field_low, Nat.reduceLeDiff, Nat.reduceSub, BitVec.extractLsb'_eq_self, BitVec.reduceToNat]
theorem enqv (f : BitVec 5) (n : BitVec 4) (g : BitVec 4) : Statement (.enqv f n g) := by
  intro w h
  cases h
  rw [raw_task _ (by simp only [sy_26_6])]
  simp only [rawTask, sy_0_4, sy_4_4, sy_8_4, sy_21_5, field_high, field_low, Nat.reduceLeDiff, Nat.reduceSub, BitVec.extractLsb'_eq_self, BitVec.reduceToNat]
theorem launch (d : BitVec 5) (a : BitVec 5) (t : BitVec 3) : Statement (.launch d a t) := by
  intro w h
  cases h
  rw [raw_task _ (by simp only [sy_26_6])]
  simp only [rawTask, sy_0_4, sy_4_3, sy_16_5, sy_21_5, field_high, field_low, Nat.reduceLeDiff, Nat.reduceSub, BitVec.extractLsb'_eq_self, BitVec.reduceToNat]
theorem depnew (d : BitVec 5) (a : BitVec 5) : Statement (.depnew d a) := by
  intro w h
  cases h
  rw [raw_dep _ (by simp only [sy_26_6])]
  simp only [rawDep, sy_0_4, sy_16_5, sy_21_5, field_high, field_low, Nat.reduceLeDiff, Nat.reduceSub, BitVec.extractLsb'_eq_self, BitVec.reduceToNat]
theorem depsig (a : BitVec 5) (m : BitVec 12) : Statement (.depsig a m) := by
  intro w h
  cases h
  rw [raw_dep _ (by simp only [sy_26_6])]
  simp only [rawDep, sy_0_4, sy_4_12, sy_16_5, field_high, field_low, Nat.reduceLeDiff, Nat.reduceSub, BitVec.extractLsb'_eq_self, BitVec.reduceToNat]
theorem depwait (a : BitVec 5) : Statement (.depwait a) := by
  intro w h
  cases h
  rw [raw_dep _ (by simp only [sy_26_6])]
  simp only [rawDep, sy_0_4, sy_16_5, field_high, field_low, Nat.reduceLeDiff, Nat.reduceSub, BitVec.extractLsb'_eq_self, BitVec.reduceToNat]
theorem deparm (d : BitVec 5) (a : BitVec 5) (n : BitVec 4) (g : BitVec 4) : Statement (.deparm d a n g) := by
  intro w h
  cases h
  rw [raw_dep _ (by simp only [sy_26_6])]
  simp only [rawDep, sy_0_4, sy_4_4, sy_8_4, sy_16_5, sy_21_5, field_high, field_low, Nat.reduceLeDiff, Nat.reduceSub, BitVec.extractLsb'_eq_self, BitVec.reduceToNat]
theorem gnew (d : BitVec 5) : Statement (.gnew d) := by
  intro w h
  cases h
  rw [raw_grp _ (by simp only [sy_26_6])]
  simp only [rawGrp, sy_0_4, sy_21_5, field_high, field_low, Nat.reduceLeDiff, Nat.reduceSub, BitVec.extractLsb'_eq_self, BitVec.reduceToNat]
theorem gjoin (a : BitVec 5) : Statement (.gjoin a) := by
  intro w h
  cases h
  rw [raw_grp _ (by simp only [sy_26_6])]
  simp only [rawGrp, sy_0_4, sy_16_5, field_high, field_low, Nat.reduceLeDiff, Nat.reduceSub, BitVec.extractLsb'_eq_self, BitVec.reduceToNat]
theorem gleave (a : BitVec 5) : Statement (.gleave a) := by
  intro w h
  cases h
  rw [raw_grp _ (by simp only [sy_26_6])]
  simp only [rawGrp, sy_0_4, sy_16_5, field_high, field_low, Nat.reduceLeDiff, Nat.reduceSub, BitVec.extractLsb'_eq_self, BitVec.reduceToNat]
theorem gbar (a : BitVec 5) : Statement (.gbar a) := by
  intro w h
  cases h
  rw [raw_grp _ (by simp only [sy_26_6])]
  simp only [rawGrp, sy_0_4, sy_16_5, field_high, field_low, Nat.reduceLeDiff, Nat.reduceSub, BitVec.extractLsb'_eq_self, BitVec.reduceToNat]
theorem gsize (d : BitVec 5) (a : BitVec 5) : Statement (.gsize d a) := by
  intro w h
  cases h
  rw [raw_grp _ (by simp only [sy_26_6])]
  simp only [rawGrp, sy_0_4, sy_16_5, sy_21_5, field_high, field_low, Nat.reduceLeDiff, Nat.reduceSub, BitVec.extractLsb'_eq_self, BitVec.reduceToNat]
theorem sysr (d : BitVec 5) (n : BitVec 12) : Statement (.sysr d n) := by
  intro w h
  cases h
  rw [raw_sys _ (by simp only [sy_26_6])]
  simp only [rawSys, sy_0_4, sy_4_12, sy_21_5, field_high, field_low, Nat.reduceLeDiff, Nat.reduceSub, BitVec.extractLsb'_eq_self, BitVec.reduceToNat]
theorem sysw (a : BitVec 5) (n : BitVec 12) : Statement (.sysw a n) := by
  intro w h
  cases h
  rw [raw_sys _ (by simp only [sy_26_6])]
  simp only [rawSys, sy_0_4, sy_4_12, sy_16_5, field_high, field_low, Nat.reduceLeDiff, Nat.reduceSub, BitVec.extractLsb'_eq_self, BitVec.reduceToNat]
theorem trap (c : BitVec 12) : Statement (.trap c) := by
  intro w h
  cases h
  rw [raw_sys _ (by simp only [sy_26_6])]
  simp only [rawSys, sy_0_4, sy_4_12, field_high, field_low, Nat.reduceLeDiff, Nat.reduceSub, BitVec.extractLsb'_eq_self, BitVec.reduceToNat]
theorem nop : Statement (.nop) := by
  intro w h
  cases h
  rw [raw_sys _ (by simp only [sy_26_6])]
  simp only [rawSys, sy_0_4, field_high, field_low, Nat.reduceLeDiff, Nat.reduceSub, BitVec.extractLsb'_eq_self, BitVec.reduceToNat]
theorem cdrain (d : BitVec 5) (a : BitVec 5) : Statement (.cdrain d a) := by
  intro w h
  cases h
  rw [raw_cctl _ (by simp only [sy_26_6])]
  simp only [rawCctl, sy_0_4, sy_16_5, sy_21_5, field_high, field_low, Nat.reduceLeDiff, Nat.reduceSub, BitVec.extractLsb'_eq_self, BitVec.reduceToNat]
theorem cscan (d : BitVec 5) (a : BitVec 5) : Statement (.cscan d a) := by
  intro w h
  cases h
  rw [raw_cctl _ (by simp only [sy_26_6])]
  simp only [rawCctl, sy_0_4, sy_16_5, sy_21_5, field_high, field_low, Nat.reduceLeDiff, Nat.reduceSub, BitVec.extractLsb'_eq_self, BitVec.reduceToNat]
theorem csig (d : BitVec 5) (a : BitVec 5) : Statement (.csig d a) := by
  intro w h
  cases h
  rw [raw_cctl _ (by simp only [sy_26_6])]
  simp only [rawCctl, sy_0_4, sy_16_5, sy_21_5, field_high, field_low, Nat.reduceLeDiff, Nat.reduceSub, BitVec.extractLsb'_eq_self, BitVec.reduceToNat]
theorem cmaprm (a : BitVec 5) : Statement (.cmaprm a) := by
  intro w h
  cases h
  rw [raw_cctl _ (by simp only [sy_26_6])]
  simp only [rawCctl, sy_0_4, sy_16_5, field_high, field_low, Nat.reduceLeDiff, Nat.reduceSub, BitVec.extractLsb'_eq_self, BitVec.reduceToNat]
theorem cmapad (a : BitVec 5) : Statement (.cmapad a) := by
  intro w h
  cases h
  rw [raw_cctl _ (by simp only [sy_26_6])]
  simp only [rawCctl, sy_0_4, sy_16_5, field_high, field_low, Nat.reduceLeDiff, Nat.reduceSub, BitVec.extractLsb'_eq_self, BitVec.reduceToNat]
theorem creset (a : BitVec 5) : Statement (.creset a) := by
  intro w h
  cases h
  rw [raw_cctl _ (by simp only [sy_26_6])]
  simp only [rawCctl, sy_0_4, sy_16_5, field_high, field_low, Nat.reduceLeDiff, Nat.reduceSub, BitVec.extractLsb'_eq_self, BitVec.reduceToNat]
theorem eret : Statement (.eret) := by
  intro w h
  cases h
  rw [raw_cctl _ (by simp only [sy_26_6])]
  simp only [rawCctl, sy_0_4, field_high, field_low, Nat.reduceLeDiff, Nat.reduceSub, BitVec.extractLsb'_eq_self, BitVec.reduceToNat]
theorem clauseIssue (die : Nat) (core : Nat) (port : Nat) (flips : List (Nat × Word)) : Statement (.clauseIssue die core port flips) := by
  intro w h
  cases h
theorem flightCommit (gid : Nat) (upset : Upset) : Statement (.flightCommit gid upset) := by
  intro w h
  cases h
theorem resultArrival (gid : Nat) (req : Nat) (ext : List Byte) : Statement (.resultArrival gid req ext) := by
  intro w h
  cases h
theorem pageWalk (gid : Nat) (vpn : Nat) : Statement (.pageWalk gid vpn) := by
  intro w h
  cases h
theorem scratchRefill (die : Nat) (core : Nat) (slot : Nat) (page : Nat) : Statement (.scratchRefill die core slot page) := by
  intro w h
  cases h
theorem relaunch (gid : Nat) (port : Nat) : Statement (.relaunch gid port) := by
  intro w h
  cases h
theorem preemptGang (gid : Nat) : Statement (.preemptGang gid) := by
  intro w h
  cases h
theorem recordMove (gid : Nat) (die : Nat) (core : Nat) : Statement (.recordMove gid die core) := by
  intro w h
  cases h
theorem gatherTimeout (gather : Nat) : Statement (.gatherTimeout gather) := by
  intro w h
  cases h
theorem dispatch (die : Nat) : Statement (.dispatch die) := by
  intro w h
  cases h
theorem admission (die : Nat) : Statement (.admission die) := by
  intro w h
  cases h
theorem enqueueOffer (win : Nat) : Statement (.enqueueOffer win) := by
  intro w h
  cases h
theorem enqueueBackoff (win : Nat) : Statement (.enqueueBackoff win) := by
  intro w h
  cases h
theorem counterDecrement (id : Nat) : Statement (.counterDecrement id) := by
  intro w h
  cases h
theorem gbarArrival (gid : Nat) : Statement (.gbarArrival gid) := by
  intro w h
  cases h
theorem watchChange (gid : Nat) : Statement (.watchChange gid) := by
  intro w h
  cases h
theorem homeStore (id : Nat) : Statement (.homeStore id) := by
  intro w h
  cases h
theorem homeAtomic (id : Nat) : Statement (.homeAtomic id) := by
  intro w h
  cases h
theorem remoteScratchAccess (op : RemoteOp) : Statement (.remoteScratchAccess op) := by
  intro w h
  cases h
theorem clusterPathFail (die : Nat) (src : Nat) (dst : Nat) : Statement (.clusterPathFail die src dst) := by
  intro w h
  cases h
theorem copyBeat (die : Nat) (core : Nat) (q : Nat) (ext : List Byte) : Statement (.copyBeat die core q ext) := by
  intro w h
  cases h
theorem copyNotify (die : Nat) (core : Nat) (q : Nat) : Statement (.copyNotify die core q) := by
  intro w h
  cases h
theorem arrayOperandStep (die : Nat) (core : Nat) : Statement (.arrayOperandStep die core) := by
  intro w h
  cases h
theorem emulatedStepDone (die : Nat) (core : Nat) (host : List Num) : Statement (.emulatedStepDone die core host) := by
  intro w h
  cases h
theorem deadmiss (die : Nat) (slot : Nat) : Statement (.deadmiss die slot) := by
  intro w h
  cases h
theorem preemptTimeout (ctx : Nat) : Statement (.preemptTimeout ctx) := by
  intro w h
  cases h
theorem contextDrainDone (ctx : Nat) : Statement (.contextDrainDone ctx) := by
  intro w h
  cases h
theorem waitforBuild (die : Nat) : Statement (.waitforBuild die) := by
  intro w h
  cases h
theorem sampleWindow (die : Nat) (data : SampleData) : Statement (.sampleWindow die data) := by
  intro w h
  cases h
theorem tlbinv (die : Nat) (v : DWord) : Statement (.tlbinv die v) := by
  intro w h
  cases h
theorem shootdownComplete (die : Nat) : Statement (.shootdownComplete die) := by
  intro w h
  cases h
theorem evdone (die : Nat) (tag : DWord) : Statement (.evdone die tag) := by
  intro w h
  cases h
theorem dbgresume (die : Nat) (tag : DWord) : Statement (.dbgresume die tag) := by
  intro w h
  cases h
theorem sampctl (die : Nat) (v : DWord) : Statement (.sampctl die v) := by
  intro w h
  cases h
theorem contain (die : Nat) (v : DWord) : Statement (.contain die v) := by
  intro w h
  cases h
theorem cdrainDone (die : Nat) (core : Nat) : Statement (.cdrainDone die core) := by
  intro w h
  cases h
theorem cscanDone (die : Nat) (core : Nat) (sig : DWord) : Statement (.cscanDone die core sig) := by
  intro w h
  cases h
theorem causalMessage (src : Nat) (dst : Nat) : Statement (.causalMessage src dst) := by
  intro w h
  cases h
theorem replicaFill (die : Nat) (line : Nat) : Statement (.replicaFill die line) := by
  intro w h
  cases h
theorem d2dLinkFail (src : Nat) (dst : Nat) : Statement (.d2dLinkFail src dst) := by
  intro w h
  cases h
theorem fabricRequest (req : FabReq) : Statement (.fabricRequest req) := by
  intro w h
  cases h
theorem fabricAck (id : Nat) (data : List Byte) : Statement (.fabricAck id data) := by
  intro w h
  cases h
theorem fabricLinkFail (link : Nat) : Statement (.fabricLinkFail link) := by
  intro w h
  cases h
theorem fabricTimeout (id : Nat) : Statement (.fabricTimeout id) := by
  intro w h
  cases h
theorem patrolScrub (line : Nat) (found : ScrubFind) : Statement (.patrolScrub line found) := by
  intro w h
  cases h
theorem powerThrottle (die : Nat) (permits : Nat) (mhz : Nat) : Statement (.powerThrottle die permits mhz) := by
  intro w h
  cases h
theorem bringUp (fuses : Fuses) : Statement (.bringUp fuses) := by
  intro w h
  cases h
theorem attestationRequest (nonce : BitVec 256) : Statement (.attestationRequest nonce) := by
  intro w h
  cases h
theorem tail (c : Nat) (v : DWord) : Statement (.tail c v) := by
  intro w h
  cases h
theorem chainRecord (c : Nat) : Statement (.chainRecord c) := by
  intro w h
  cases h
theorem frcons (c : Nat) (v : DWord) : Statement (.frcons c v) := by
  intro w h
  cases h
theorem ctxctlStart (c : Nat) : Statement (.ctxctlStart c) := by
  intro w h
  cases h
theorem ctxctlSwitchOut (c : Nat) : Statement (.ctxctlSwitchOut c) := by
  intro w h
  cases h
theorem ctxctlResume (c : Nat) : Statement (.ctxctlResume c) := by
  intro w h
  cases h
theorem ctxctlEnd (c : Nat) : Statement (.ctxctlEnd c) := by
  intro w h
  cases h
theorem ctxbase (v : DWord) : Statement (.ctxbase v) := by
  intro w h
  cases h
theorem fabid (v : DWord) : Statement (.fabid v) := by
  intro w h
  cases h
theorem registerWrite (off : BitVec 16) (v : DWord) : Statement (.registerWrite off v) := by
  intro w h
  cases h
theorem classifierWindow (die : Nat) : Statement (.classifierWindow die) := by
  intro w h
  cases h
theorem replicaDrop (die : Nat) (line : Nat) : Statement (.replicaDrop die line) := by
  intro w h
  cases h
theorem hostAdmissionAnswer (die : Nat) (status : Nat) : Statement (.hostAdmissionAnswer die status) := by
  intro w h
  cases h

end Sys2Proof.Laws.Word
end

