-- ==== Sys2Proof/Tests/Slice0.lean ====
section
/-!
SUPPORT. Tests: ill-formed terms, words composed from the spec's encodings, single steps on a small state, and
for each statement a state that meets its hypotheses. Expected values come from the spec's tables and examples.
-/

namespace Sys2Proof.Tests

open Machine

set_option Elab.async false

/-! ## Ill-formed terms -/

theorem test_wf_float_condition : ¬ (Instr.fcmp 1#7 2#6 3#6 6#3).WellFormed := by decide
theorem test_wf_pair_condition : ¬ (Instr.dcmp 1#7 1#5 2#5 7#3).WellFormed := by decide
theorem test_wf_conversion_code : ¬ (Instr.fcvt 1#6 2#6 0x08#6 0#3 0#1 0#1 0#3).WellFormed := by decide
theorem test_wf_conversion_rounding : ¬ (Instr.fcvt 1#6 2#6 0x01#6 0#3 0#1 0#1 5#3).WellFormed := by decide
theorem test_wf_conversion_to_8 : ¬ (Instr.fcvt 1#6 2#6 0x03#6 0#3 0#1 0#1 1#3).WellFormed := by decide
theorem test_wf_atomic_scope : ¬ (Instr.aadd 1#6 2#5 0#1 0#5 0#2 6#3).WellFormed := by decide
theorem test_wf_fence_scope : ¬ (Instr.fenceRel 7#3).WellFormed := by decide
theorem test_wf_constant_kind : ¬ (Instr.mconst 1#4 2#5 0#1 3#2).WellFormed := by decide
theorem test_wf_accumulator : ¬ (Instr.mmul 1#4 2#4 3#4 0#1 0#1 0#1 2#2).WellFormed := by decide
theorem test_wf_node_format : ¬ (Instr.mcvt 1#4 2#4 0#1 0#3 0x0B#6).WellFormed := by decide
theorem test_wf_activation : ¬ (Instr.mact 1#4 2#4 3#4).WellFormed := by decide
theorem test_wf_budget_kind : ¬ (Instr.tbud 1#5 3#12).WellFormed := by decide
theorem test_wf_launch_die : ¬ (Instr.launch 1#5 2#5 5#3).WellFormed := by decide
theorem test_wf_guard : ¬ (Instr.vadd 1#6 2#6 3#6 0#3 1#1).WellFormed := by decide
theorem test_wf_vsel_guard : ¬ (Instr.vsel 1#6 2#6 3#6 0#3 0#1).WellFormed := by decide
theorem test_wf_index : ¬ (Instr.vldW 1#6 2#5 0#1 3#5 0#5).WellFormed := by decide
theorem test_wf_queue_mask : ¬ (Instr.qfence 0#5).WellFormed := by decide
theorem test_wf_queue : ¬ (Instr.waitq 1#5 5#3).WellFormed := by decide
theorem test_wf_signal : ¬ (Instr.depsig 1#5 0#12).WellFormed := by decide
theorem test_wf_conversion_source_pair : ¬ (Instr.fcvt 1#6 3#6 0x2A#6 0#3 0#1 0#1 0#3).WellFormed := by decide
theorem test_wf_conversion_dest_pair : ¬ (Instr.fcvt 1#6 2#6 0x0A#6 0#3 0#1 0#1 0#3).WellFormed := by decide
theorem test_wf_index_pair : ¬ (Instr.redMaxi 63#6 1#6 2#6 0#3 0#1).WellFormed := by decide
theorem test_wf_kmerge : ¬ (Instr.kmerge 1#6 63#6 2#6 0#3 0#1).WellFormed := by decide
theorem test_wf_rng : ¬ (Instr.rng 1#6 63#6 2#5 0#3 0#1).WellFormed := by decide
theorem test_wf_acas : ¬ (Instr.acas 63#6 2#5 0#1 0#5 0#2 0#3).WellFormed := by decide
theorem test_wf_acas_pair : ¬ (Instr.acasD 31#5 2#5 0#1 0#5 0#2 0#3).WellFormed := by decide

/-! ## Words, field by field (R31) and from the spec's examples -/

def rr (maj d a b g gn min : Nat) : Word := BitVec.ofNat 32 (maj * 2 ^ 26 + d * 2 ^ 20 + a * 2 ^ 14 + b * 2 ^ 8 + g * 2 ^ 5 + gn * 2 ^ 4 + min)
def ri (maj d a imm min : Nat) : Word := BitVec.ofNat 32 (maj * 2 ^ 26 + d * 2 ^ 20 + a * 2 ^ 14 + imm * 2 ^ 4 + min)
def rl (maj d imm : Nat) : Word := BitVec.ofNat 32 (maj * 2 ^ 26 + d * 2 ^ 20 + imm)
def pc (maj pd a b cc min : Nat) : Word := BitVec.ofNat 32 (maj * 2 ^ 26 + pd * 2 ^ 19 + a * 2 ^ 13 + b * 2 ^ 7 + cc * 2 ^ 4 + min)
def pl (maj pd pa pb op : Nat) : Word := BitVec.ofNat 32 (maj * 2 ^ 26 + pd * 2 ^ 19 + pa * 2 ^ 12 + pb * 2 ^ 5 + op)
def vt (maj sd pa min : Nat) : Word := BitVec.ofNat 32 (maj * 2 ^ 26 + sd * 2 ^ 21 + pa * 2 ^ 14 + min)
def br (maj bk s off : Nat) : Word := BitVec.ofNat 32 (maj * 2 ^ 26 + bk * 2 ^ 23 + s * 2 ^ 18 + off)
def mm (maj d s xe x off min : Nat) : Word := BitVec.ofNat 32 (maj * 2 ^ 26 + d * 2 ^ 20 + s * 2 ^ 15 + xe * 2 ^ 14 + x * 2 ^ 9 + off * 2 ^ 4 + min)
def sy (maj sd sa imm min : Nat) : Word := BitVec.ofNat 32 (maj * 2 ^ 26 + sd * 2 ^ 21 + sa * 2 ^ 16 + imm * 2 ^ 4 + min)
def gr (maj nd na nb attr min : Nat) : Word := BitVec.ofNat 32 (maj * 2 ^ 26 + nd * 2 ^ 22 + na * 2 ^ 18 + nb * 2 ^ 14 + attr * 2 ^ 4 + min)
def gs (maj nd na s imm f min : Nat) : Word := BitVec.ofNat 32 (maj * 2 ^ 26 + nd * 2 ^ 22 + na * 2 ^ 18 + s * 2 ^ 13 + imm * 2 ^ 5 + f * 2 ^ 4 + min)
def gn (maj n sd min : Nat) : Word := BitVec.ofNat 32 (maj * 2 ^ 26 + n * 2 ^ 22 + sd * 2 ^ 17 + min)
def gt (maj n tn s flags min : Nat) : Word := BitVec.ofNat 32 (maj * 2 ^ 26 + n * 2 ^ 22 + tn * 2 ^ 14 + s * 2 ^ 9 + flags * 2 ^ 4 + min)

/-- A word decodes to an instruction. -/
abbrev Reads (w : Word) (i : Instr) : Prop := decode w = .ok i

theorem test_decode_salu : Reads (rr 0x01 7 5 6 0 0 0) (.sadd 7#5 5#5 6#5) := by decide
theorem test_decode_salu2 : Reads (rr 0x02 7 5 6 0 0 1) (.sdiv 7#5 5#5 6#5) := by decide
theorem test_decode_salui : Reads 0x0C900010#32 (.saddi 9#5 0#5 1#10) := by decide
theorem test_decode_saddi_negative : Reads (ri 0x03 1 2 0x3FF 0) (.saddi 1#5 2#5 0x3FF#10) := by decide
theorem test_decode_slui : Reads (rl 0x04 3 0xABCDE) (.slui 3#5 0xABCDE#20) := by decide
theorem test_decode_sadr : Reads (rl 0x05 3 0xFFFFF) (.sadr 3#5 0xFFFFF#20) := by decide
theorem test_decode_bra : Reads 0x18000005#32 (.bra 5#18) := by decide
theorem test_decode_bnz : Reads 0x191C0006#32 (.bnz 7#5 6#18) := by decide
theorem test_decode_blt : Reads (br 0x06 5 4 0x3FFFE) (.blt 4#5 0x3FFFE#18) := by decide
theorem test_decode_regang : Reads 0x1C000053#32 (.regang 5#12) := by decide
theorem test_decode_mpush : Reads 0x1CC00024#32 (.mpush 6#5 2#7) := by decide
theorem test_decode_vadd : Reads 0x20610500#32 (.vadd 6#6 4#6 5#6 0#3 0#1) := by decide
theorem test_decode_guarded : Reads (rr 0x08 6 4 5 3 1 0) (.vadd 6#6 4#6 5#6 3#3 1#1) := by decide
theorem test_decode_vmul : Reads 0x20820902#32 (.vmul 8#6 8#6 9#6 0#3 0#1) := by decide
theorem test_decode_vialu2 : Reads 0x24510608#32 (.vreq8 5#6 4#6 6#5 0#3 0#1) := by decide
theorem test_decode_vialui : Reads 0x28820010#32 (.vaddi 8#6 8#6 1#10) := by decide
theorem test_decode_vlui : Reads (rl 0x0B 63 0x80000) (.vlui 63#6 0x80000#20) := by decide
theorem test_decode_cmp : Reads 0x30106220#32 (.vcmp 2#7 3#6 4#6 2#3) := by decide
theorem test_decode_dcmp : Reads (pc 0x0C 127 2 4 1 4) (.dcmp 127#7 1#5 2#5 1#3) := by decide
theorem test_decode_plog : Reads 0x34202060#32 (.pand 4#7 2#7 3#7) := by decide
theorem test_decode_pnot : Reads (pl 0x0D 4 100 0 4) (.pnot 4#7 100#7) := by decide
theorem test_decode_falu : Reads 0x40708303#32 (.ffma 7#6 2#6 3#6 0#3 0#1) := by decide
theorem test_decode_fcvt : Reads 0x44A20100#32 (.fcvt 10#6 8#6 1#6 0#3 0#1 0#1 0#3) := by decide
theorem test_decode_fcvt_saturating : Reads 0x44920308#32 (.fcvt 9#6 8#6 3#6 0#3 0#1 1#1 0#3) := by decide
theorem test_decode_halu : Reads (rr 0x12 1 2 3 0 0 0) (.hadd2 1#6 2#6 3#6 0#3 0#1) := by decide
theorem test_decode_dalu : Reads (rr 0x13 2 4 6 0 0 0) (.dadd 1#5 2#5 3#5 0#3 0#1) := by decide
theorem test_decode_sfu : Reads 0x50308000#32 (.exp2 3#6 2#6 0#3 0#1) := by decide
theorem test_decode_xlane : Reads 0x60718101#32 (.shflx 7#6 6#6 1#5 0#3 0#1) := by decide
theorem test_decode_vote : Reads 0x64A0C000#32 (.vbal 5#5 3#7) := by decide
theorem test_decode_vall : Reads (vt 0x19 5 127 2) (.vall 5#5 127#7) := by decide
theorem test_decode_red : Reads 0x68908000#32 (.redAdd 9#6 2#6 0#3 0#1) := by decide
theorem test_decode_red_indexed : Reads 0x68A1050B#32 (.redMaxi 10#6 4#6 5#6 0#3 0#1) := by decide
theorem test_decode_scan : Reads (rr 0x1B 1 2 0 0 0 0) (.scanAdd 1#6 2#6 0#3 0#1) := by decide
theorem test_decode_ksel : Reads (rr 0x1C 10 2 4 0 0 0) (.ksort 10#6 2#6 4#6 0#3 0#1) := by decide
theorem test_decode_rng : Reads 0x74C28401#32 (.rngf 12#6 10#6 4#5 0#3 0#1) := by decide
theorem test_decode_sld : Reads 0x80208006#32 (.sldD 2#5 1#5 0#5) := by decide
theorem test_decode_sld_offset : Reads 0x80308024#32 (.sldW 3#5 1#5 2#5) := by decide
theorem test_decode_sst : Reads (mm 0x21 3 1 0 0 31 2) (.sstW 3#5 1#5 31#5) := by decide
theorem test_decode_vld : Reads 0x88414204#32 (.vldW 4#6 2#5 1#1 1#5 0#5) := by decide
theorem test_decode_tile : Reads 0x92020A01#32 (.tldt 1#1 4#5 5#5 0#5) := by decide
theorem test_decode_amo : Reads 0x946281B0#32 (.aadd 6#6 5#5 0#1 0#5 3#2 3#3) := by decide
theorem test_decode_fence : Reads 0x980000E0#32 (.fenceRel 3#3) := by decide
theorem test_decode_waita : Reads 0x99250002#32 (.waita 9#5 5#5) := by decide
theorem test_decode_qfence : Reads 0x98000031#32 (.qfence 3#5) := by decide
theorem test_decode_eng : Reads 0x9D280000#32 (.cpy 9#5 8#5 0#2) := by decide
theorem test_decode_tnt : Reads 0xA0070030#32 (.tndef 7#5 3#8) := by decide
theorem test_decode_gsrc : Reads 0xA4400060#32 (.mleaf 1#4 0#5 3#8 0#1) := by decide
theorem test_decode_gop : Reads 0xA8C48040#32 (.mmul 3#4 1#4 2#4 0#1 0#1 1#1 0#2) := by decide
theorem test_decode_mcvt : Reads 0xA90C0025#32 (.mcvt 4#4 3#4 0#1 0#3 2#6) := by decide
theorem test_decode_mtrn : Reads (gr 0x2A 4 3 0 0 4) (.mtrn 4#4 3#4) := by decide
theorem test_decode_gfrc : Reads 0xACC00000#32 (.force 3#4) := by decide
theorem test_decode_mrd : Reads 0xAC833002#32 (.mrd 8#6 3#4 6#5) := by decide
theorem test_decode_macc : Reads 0xACC54804#32 (.macc 3#4 5#6 9#5 0#1 0#1) := by decide
theorem test_decode_mstat : Reads 0xACCA0005#32 (.mstat 3#4 5#5) := by decide
theorem test_decode_mst : Reads (gt 0x2B 3 200 6 1 3) (.mst 3#4 200#8 6#5 1#1) := by decide
theorem test_decode_task : Reads 0xC0050335#32 (.enq 5#5 3#4 3#4) := by decide
theorem test_decode_launch : Reads 0xC1480047#32 (.launch 10#5 8#5 4#3) := by decide
theorem test_decode_dep : Reads 0xC4060011#32 (.depsig 6#5 1#12) := by decide
theorem test_decode_deparm : Reads 0xC4C80023#32 (.deparm 6#5 8#5 0#4 2#4) := by decide
theorem test_decode_grp : Reads 0xC8E60004#32 (.gsize 7#5 6#5) := by decide
theorem test_decode_sys : Reads 0xCCA00010#32 (.sysr 5#5 1#12) := by decide
theorem test_decode_cctl : Reads 0xD0E60002#32 (.csig 7#5 6#5) := by decide
theorem test_decode_reserved_major : decode 0xFFFFFFFF#32 = .error (decodeErrors 0xFFFFFFFF#32) := by decide
theorem test_decode_zero_is_none : decode 0#32 = .error (decodeErrors 0#32) := by decide


/-! ## A small state

One instance with one stage on die 0, one gang of one slice with one task on port 0 of core 0. The context's
page 0 is mapped to physical page 0, and is in the core's TLB. -/

def stage0 : Stage :=
  { entry := 0#64, args := 4, regs := 64, record := 11264, depth := 4, pages := 0, slots := 0, nodes := 0, sarrays := 0, flags := 0#8,
    backoff := 100, backcap := 1000, tissue := 0, tarray := 0, tcopy := 0, initcount := 0 }

def inst0 : Inst :=
  { ctx := 0, order := 0, nstages := 1, handler := 0xFF, policy := 0, arrays := 1, param := 0#64, key := 0#64, sppages := 128, accslots := 64,
    itiles := 64, gnodes := 1024, landbytes := 0, gspill := 0, stages := [stage0], deadline := none, issue := 1000, array := 1000, copy := 1000,
    accounts := true, overruns := 0#4, trap := none, queues := [], inflight := [(0, 1)], nextTask := [(0, 1)], retained := [], errFlags := [],
    cls := 0, compute := 0, memory := 0, whole := false, launchAddr := none, cfgmis := false, scratch := [], acc := [], pinned := [], tried := [] }

def leaf0 : Leaf := ⟨0, 12, 0, 0, false, false, false, true, true, true⟩

def node0 : Node := ⟨.mat, 2, 2, 0, 0#64, 1, 0, 0, [], 0#7, 0, false, none, 0#7⟩

def core0 : Core := { Core.idle with tlb := [⟨0, 0, leaf0⟩], nodes := [(1, node0), (2, node0)] }

def die0 : Die := { Die.reset with coremap := [(0, 0), (1, 1)], insts := [(0, inst0)], cores := [(0, core0)], admitted := 1 }

/-- A tensor of 2 by 2 in FP32 at 0x400. -/
def desc0 : TDesc := ⟨0x400#64, 2, 2, 8, 0, false, 0, 0, false, false, 0#64⟩

def ctx0 : Ctx := { Ctx.idle with run := 1, root := 0x10000#64, chainNext := 0x300#64, keymask := 1#64, lspill := 0x100000#64, lsize := 0x10000, maxinst := 16, maxarrays := 128, diemask := 1#8, tensors := [(5, desc0)] }

/-- A clause of one VADD at 0, a command block of one row of 64 bytes at 0x100, a tensor descriptor of 2 by 2 FP32 at 0x200, a launch
record at 0x300, an instance descriptor of one stage at 0x800, the entry of context 1 at 0x1080, and page tables that map the first GiB to itself (R27, R164, R173, R257, R258, R316, R314, R285). -/
def mem0 : List Host.Cell :=
  [(3, 0x12#8), (5, 0x05#8), (6, 0x61#8), (7, 0x20#8), (0x110, 64#8), (0x114, 1#8), (0x201, 4#8), (0x208, 2#8), (0x20C, 2#8), (0x210, 8#8),
   (0x308, 1#8), (0x311, 8#8), (0x800, 1#8), (0x802, 1#8), (0x803, 0xFF#8), (0x80A, 0x10#8), (0x810, 1#8), (0x831, 1#8), (0x908, 1#8), (0x909, 1#8),
   (0x90B, 1#8), (0x90C, 1#8), (0x914, 1#8), (0x918, 1#8), (0x10A8, 16#8), (0x10D4, 1#8), (0x10000, 1#8), (0x10001, 0x10#8), (0x10002, 1#8), (0x11000, 1#8), (0x11001, 0x20#8), (0x11002, 1#8),
   (0x12000, 0x1F#8)]

def rig : State :=
  { State.reset with mem := mem0, nextId := 100, dies := [(0, die0), (1, Die.reset), (2, Die.reset), (3, Die.reset)],
                     pkg := { Package.reset with ready := true, ctxbase := 0x1000#64, tails := [(0, 1#64)], ctxs := [(0, ctx0)] } }

def gang0 : Gang := fetchGang 0#32

def arch0 : Arch := gang0.arch

/-- The gang with registers of its own, at a clause of one word. -/
def running (a : Arch) (w : Word) : Running := ⟨{ gang0 with arch := a }, fetchClause w⟩

/-- The small state, its port issuing a word. -/
def issuing (a : Arch) (w : Word) : State := { rig with cur := some (running a w) }

theorem usable (a : Arch) (w : Word) (u : Uses) (hp : a.poison = []) (h : ∀ v ∈ u.vr ++ u.vw, v < 64) : Usable (issuing a w) (running a w) u :=
  ⟨fun v hv => ⟨h v hv, rfl⟩, fun _ _ _ => rfl, fun _ _ _ _ => by simp [running, hp], fun _ _ _ _ => by simp [running, hp]⟩

/-- The hypotheses that a port issues and that the registers named can be used. -/
abbrev Meets (a : Arch) (u : Uses) : Prop := (issuing a 0#32).cur = some (running a 0#32) ∧ Usable (issuing a 0#32) (running a 0#32) u

theorem meets (a : Arch) (u : Uses) (hp : a.poison = []) (h : ∀ v ∈ u.vr ++ u.vw, v < 64) : Meets a u := ⟨rfl, usable a _ u hp h⟩

/-- Scalar `r` of slice 0 set. -/
def scalar (r : Nat) (x : DWord) : Arch := { arch0 with s := [(r, x)] }

/-! ## States that meet the statements' hypotheses -/

theorem test_witness_DecodeInvertsEncode : (Instr.saddi 9#5 0#5 1#10).WellFormed ∧ encode (.saddi 9#5 0#5 1#10) = some 0x0C900010#32 := by decide

theorem test_witness_StepRunsDecodedWord : (issuing arch0 0xCC000003#32).cur = some (running arch0 0xCC000003#32) ∧
    0xCC000003#32 = (running arch0 0xCC000003#32).cl.words.getD ((running arch0 0xCC000003#32).cl.idx - 1) 0#32 ∧ decode 0xCC000003#32 = .ok .nop ∧
    ((running arch0 0xCC000003#32).cl.idx < (running arch0 0xCC000003#32).cl.count →
      mustBeLast 0xCC000003#32 ((running arch0 0xCC000003#32).gang.ctx == firmware) = false) := ⟨rfl, rfl, by decide, by decide⟩

theorem test_witness_BadWordRaisesIllins_word : (issuing arch0 0xFFFFFFFF#32).cur = some (running arch0 0xFFFFFFFF#32) ∧
    0xFFFFFFFF#32 = (running arch0 0xFFFFFFFF#32).cl.words.getD ((running arch0 0xFFFFFFFF#32).cl.idx - 1) 0#32 ∧
    ∃ es, decode 0xFFFFFFFF#32 = .error es := ⟨rfl, rfl, _, test_decode_reserved_major⟩

/-- TEND as the first of two words. -/
def early : Running := { running arch0 0xC0000000#32 with cl := { fetchClause 0xC0000000#32 with count := 2, words := [0xC0000000#32, 0xC0000000#32] } }

theorem test_witness_BadWordRaisesIllins_place : ({ rig with cur := some early } : State).cur = some early ∧
    0xC0000000#32 = early.cl.words.getD (early.cl.idx - 1) 0#32 ∧
    ∃ i, decode 0xC0000000#32 = .ok i ∧ early.cl.idx < early.cl.count ∧ mustBeLast 0xC0000000#32 (early.gang.ctx == firmware) = true :=
  ⟨rfl, rfl, .tend, by decide, by decide, by decide⟩

theorem test_witness_StepBetweenClauses : ({ rig with agenda := [⟨0, .dbgresume 0 0#64⟩] } : State).agenda = [⟨0, .dbgresume 0 0#64⟩] ∧ rig.cur = none ∧
    (0 : Nat) ≤ rig.time ∧ ∀ d ∈ rig.agenda.head?, rig.time < d.time := by decide

theorem test_witness_PassesOfAGang : (running arch0 0#32).gang.place = .port 0 ∧
    24 ≤ ((issuing arch0 0#32).die 0).good 0 0 ∧ ((issuing arch0 0#32).die 0).good 0 0 ≤ 32 := by decide

theorem test_witness_ScalarTwoSources : Meets arch0 { sr := [2, 3], sw := [1], slices := arch0.slicesList } := meets _ _ rfl (by decide)
theorem test_witness_ScalarOthers : Meets arch0 { sr := [2], sw := [1], slices := arch0.slicesList } ∧ Meets arch0 { sw := [1], slices := arch0.slicesList } :=
  ⟨meets _ _ rfl (by decide), meets _ _ rfl (by decide)⟩

/-- Uses of vector registers in the active lanes under no guard. -/
abbrev laned (vr vw : List Nat) : Uses := { vr := vr, vw := vw, lanes := arch0.active 0#3 0#1, slices := slicesOf (arch0.active 0#3 0#1) }

theorem test_witness_VectorTwoSources : Meets arch0 (laned [2, 3] [1]) := meets _ _ rfl (by decide)
theorem test_witness_VectorOneSource : Meets arch0 (laned [2] [1]) := meets _ _ rfl (by decide)
theorem test_witness_FclsClassifies : Meets arch0 (laned [2] [1]) := meets _ _ rfl (by decide)
theorem test_witness_VectorThreeSources : Meets arch0 (laned [2, 3, 1] [1]) := meets _ _ rfl (by decide)
theorem test_witness_VectorImmediates : Meets arch0 (laned [2] [63]) := meets _ _ rfl (by decide)
theorem test_witness_VectorOthers : Meets arch0 { laned [2, 3] [1] with sr := [4] } := meets _ _ rfl (by decide)
theorem test_witness_IntegerCompares : Meets arch0 (laned [2, 3] []) ∧ Meets arch0 { laned [2] [] with sr := [4] } :=
  ⟨meets _ _ rfl (by decide), meets _ _ rfl (by decide)⟩
theorem test_witness_PredicateLogic : (issuing arch0 0#32).cur = some (running arch0 0#32) := rfl
theorem test_witness_RoundingChooses : 4 ≤ 4 ∧ (0 : Int) < 1 := by decide
theorem test_witness_FloatTwoSources : Meets arch0 { vr := [2, 3], vw := [1], lanes := arch0.active 0#3 0#1 } := meets _ _ rfl (by decide)
theorem test_witness_FloatThreeSources : Meets arch0 { vr := [2, 3, 1], vw := [1], lanes := arch0.active 0#3 0#1 } := meets _ _ rfl (by decide)
theorem test_witness_FloatOneSource : Meets arch0 { vr := [2], vw := [1], lanes := arch0.active 0#3 0#1 } := meets _ _ rfl (by decide)
theorem test_witness_DoublePairs : Meets arch0 { vr := [2, 3, 4, 5, 0, 1], vw := [0, 1], lanes := arch0.active 0#3 0#1 } := meets _ _ rfl (by decide)
theorem test_witness_FcvtConverts : convFormats 0x0A#6 = (fFP32, fFP64) ∧ Meets arch0 { vr := [1], vw := [2, 3], lanes := arch0.active 0#3 0#1 } ∧
    (convFormats 0x01#6).2 ≠ fFP64 ∧ Meets arch0 { vr := [1], vw := [2], lanes := arch0.active 0#3 0#1 } :=
  ⟨by decide, meets _ _ rfl (by decide), by decide, meets _ _ rfl (by decide)⟩
theorem test_witness_FloatCompares : Meets arch0 { laned [2] [] with sr := [4] } ∧ 6 ≤ (6#3).toNat ∧
    rawDecode (pc 0x0C 2 3 4 6 2) = some (.fcmp 2#7 3#6 4#6 6#3) := ⟨meets _ _ rfl (by decide), by decide, by decide⟩
theorem test_witness_Shuffles : Meets arch0 { vr := [2, 3], vw := [1], lanes := arch0.active 0#3 0#1 } := meets _ _ rfl (by decide)
theorem test_witness_Reductions : Meets arch0 { vr := [2], vw := [1], lanes := arch0.active 0#3 0#1 } := meets _ _ rfl (by decide)
theorem test_witness_RedFaddSumsByTree : Meets arch0 { vr := [2], vw := [1], lanes := arch0.active 0#3 0#1 } := meets _ _ rfl (by decide)
theorem test_witness_IndexedReductions : Meets arch0 { vr := [2, 3], vw := [62, 63], lanes := arch0.active 0#3 0#1 } ∧ arch0.active 0#3 0#1 ≠ [] ∧
    Meets { arch0 with exec := 0#32 } { vr := [2, 3], vw := [1, 2], lanes := [] } ∧ ({ arch0 with exec := 0#32 } : Arch).active 0#3 0#1 = [] :=
  ⟨meets _ _ rfl (by decide), by decide, meets _ _ rfl (by decide), by decide⟩
theorem test_witness_Scans : Meets arch0 { vr := [2], vw := [1], lanes := arch0.active 0#3 0#1 } := meets _ _ rfl (by decide)
theorem test_witness_SortAndMerge : Meets arch0 { vr := [2, 3, 4, 5], vw := [1, 2], lanes := arch0.active 0#3 0#1 } := meets _ _ rfl (by decide)
theorem test_witness_Branches : Meets arch0 { sr := [1], slices := arch0.slicesList } := meets _ _ rfl (by decide)
theorem test_witness_CallsAndReturns : Meets (scalar 1 0x1000#64) { sr := [1], slices := arch0.slicesList } ∧ arch0.depth < 16 ∧
    (∀ k ∈ (scalar 1 0x1000#64).slicesList, ((scalar 1 0x1000#64).sget k 1).toNat % 4 = 0) ∧ 0 < ({ arch0 with depth := 1 } : Arch).depth :=
  ⟨meets _ _ rfl (by decide), by decide, by decide, by decide⟩
theorem test_witness_CallsRaise : Meets { arch0 with depth := 16 } { sr := [1], slices := arch0.slicesList } ∧ arch0.depth = 0 ∧
    Meets (scalar 1 2#64) { sr := [1], slices := arch0.slicesList } ∧ 0 ∈ (scalar 1 2#64).slicesList ∧ ((scalar 1 2#64).sget 0 1).toNat % 4 ≠ 0 ∧
    (∀ j ∈ (scalar 1 2#64).slicesList, j < 0 → ((scalar 1 2#64).sget j 1).toNat % 4 = 0) :=
  ⟨meets _ _ rfl (by decide), rfl, meets _ _ rfl (by decide), by decide, by decide, by decide⟩
theorem test_witness_MaskInstructions : Meets arch0 { sw := [1] } ∧ Meets arch0 { sr := [2], slices := arch0.slicesList } :=
  ⟨meets _ _ rfl (by decide), meets _ _ rfl (by decide)⟩
theorem test_witness_FlightEnds : Meets arch0 { sw := [1] } := meets _ _ rfl (by decide)

/-! ### Memory -/

theorem issuable (a : Arch) (need : Nat) (ps : List APart)
    (h : (ps.all fun p => p.va.toNat % p.size == 0 && match (issuing a 0#32).find 0 0 0 0 p.va need with
      | .bad _ _ => false
      | _ => true) = true) : Issuable (issuing a 0#32) (running a 0#32) need ps := by
  intro p hp
  have := List.all_eq_true.1 h p hp
  rw [Bool.and_eq_true, beq_iff_eq] at this
  refine ⟨this.1, fun c f hf => ?_⟩
  have h2 : (issuing a 0#32).find 0 0 0 0 p.va need = .bad c f := hf
  rw [h2] at this
  exact absurd this.2 (by simp)

theorem readsPlaced (a : Arch) (pa n : Nat) (reads : List DWord) (m : Nat) (as : List (Nat × DWord))
    (hr : (reads.all fun b => ((issuing a 0#32).reachWants 0 0 0 0 b n 0).isEmpty) = true)
    (h : (as.all fun e => (issuing a 0#32).find 0 0 0 0 e.2 0 == .at_ (.phys (pa + 4 * (e.1 % 16))) false &&
      !(issuing a 0#32).badN 0 0 (.phys (pa + 4 * (e.1 % 16))) m) = true) :
    ReadsPlaced (issuing a 0#32) (running a 0#32) (fun k => .phys (pa + 4 * (k % 16))) (fun _ => false) n reads m as := by
  refine ⟨fun _ h => absurd h (List.not_mem_nil), fun b hb => List.isEmpty_iff.1 (List.all_eq_true.1 hr b hb),
    fun _ _ => by split
                  · exact congrArg ([] ++ ·) (show (issuing a 0#32).readWaits (running a 0#32).gang _ = [] by simp only [State.readWaits]; split <;> [split <;> rfl; rfl])
                  · rfl, fun e he => ?_⟩
  have := List.all_eq_true.1 h e he
  rw [Bool.and_eq_true, beq_iff_eq, Bool.not_eq_true'] at this
  exact ⟨this.1, this.2, fun _ _ => nofun, rfl, fun _ _ => rfl⟩

theorem test_witness_ScalarLoadsAndStores : Meets arch0 { sr := [2], sw := [1], slices := [0] } ∧ Meets arch0 { sr := [2, 1], slices := [0] } ∧
    Issuable (issuing arch0 0#32) (running arch0 0#32) 0 [partAt 0 8#64 8] ∧ Issuable (issuing arch0 0#32) (running arch0 0#32) 1 [partAt 0 8#64 8] :=
  ⟨meets _ _ rfl (by decide), meets _ _ rfl (by decide), issuable _ _ _ (by decide), issuable _ _ _ (by decide)⟩
theorem test_witness_VectorLoads : Meets arch0 { vr := [3], vw := [4, 5], sr := [2], lanes := [0], slices := [0] } ∧
    Issuable (issuing arch0 0#32) (running arch0 0#32) 0 [partAt 0 16#64 8] := ⟨meets _ _ rfl (by decide), issuable _ _ _ (by decide)⟩
theorem test_witness_VectorStores : Meets arch0 { vr := [4, 5, 3], sr := [2], lanes := [0], slices := [0] } ∧
    Issuable (issuing arch0 0#32) (running arch0 0#32) 1 [partAt 0 16#64 8] := ⟨meets _ _ rfl (by decide), issuable _ _ _ (by decide)⟩

/-- The local scratchpad window in s2, a pitch of 128 in s3. -/
def tiled : Arch := { arch0 with s := [(2, 0xFFF0000000000000#64), (3, 128#64)] }

theorem test_witness_TileMoves : Meets tiled { vw := (List.range 32).map (32 + ·), sr := [2, 3], lanes := [0], slices := tiled.acting } ∧
    (∀ k ∈ List.range 32, (128#64).toNat % 4 = 0 ∧ inScratch (0xFFF0000000000000#64 + BitVec.ofNat 64 k * 128#64) = true) ∧
    Issuable (issuing tiled 0#32) (running tiled 0#32) 0 ((List.range 32).map fun k => partAt 0 (0xFFF0000000000000#64 + BitVec.ofNat 64 k * 128#64) 4) ∧
    Issuable (issuing tiled 0#32) (running tiled 0#32) 1 ((List.range 32).map fun k => partAt 0 (0xFFF0000000000000#64 + BitVec.ofNat 64 k * 128#64) 4) :=
  ⟨meets _ _ rfl (by decide), by decide, issuable _ _ _ (by decide), issuable _ _ _ (by decide)⟩
theorem test_witness_AtomicsAreHeld : Meets arch0 { vr := [60, 61, 62, 63, 3], vw := [60, 61], sr := [2], lanes := [0], slices := [0] } ∧
    Issuable (issuing arch0 0#32) (running arch0 0#32) 3 [partAt 0 16#64 8] := ⟨meets _ _ rfl (by decide), issuable _ _ _ (by decide)⟩
/-- An odd address in s2, pitches of 4 and of 2 in s3 and s4. -/
def odd : Arch := { arch0 with s := [(2, 1#64), (3, 4#64), (4, 2#64)] }
theorem test_witness_MisalignedAccessRaises : Meets odd { vr := 60 :: 61 :: 62 :: (List.range 32), vw := 60 :: 61 :: (List.range 32), sr := [2, 3, 4, 5], sw := [5], lanes := [0], slices := [0] } ∧
    bitsOf odd.exec = [0] ∧ (odd.slicesList.filter fun k => odd.exec.extractLsb' (4 * k) 4 != 0#4) = [0] ∧
    (∀ size ∈ [2, 4, 8, 64], [(0, odd.sget 0 2)].find? (fun a => decide (a.2.toNat % size ≠ 0)) = some (0, 1#64)) ∧
    (∀ p ∈ [3, 4], ∀ turn : Bool, ((List.range 32).map fun k => ((0 : Nat), odd.sget 0 2 + BitVec.ofNat 64 (if turn = true then 0 else k) * odd.sget 0 p +
      BitVec.ofNat 64 (4 * (if turn = true then k else 0)))).find? (fun a => decide ((odd.sget (a.1 / 4) p).toNat % 4 ≠ 0 ∨ a.2.toNat % 4 ≠ 0)) = some (0, 1#64)) :=
  ⟨meets _ _ rfl (by decide), by decide, by decide, by decide, by decide⟩
theorem test_witness_FencesAndWaits : Meets arch0 { sr := [2, 1], slices := [0] } ∧ arch0.acting.head? = some 0 ∧
    Issuable (issuing arch0 0#32) (running arch0 0#32) 0 [partAt 0 0#64 4] ∧
    Meets { arch0 with exec := 0#32 } { sr := [2, 1], slices := [] } ∧ ({ arch0 with exec := 0#32 } : Arch).acting.head? = none :=
  ⟨meets _ _ rfl (by decide), by decide, issuable _ _ _ (by decide), meets _ _ rfl (by decide), by decide⟩
theorem test_witness_CpyIssuesCommands : Meets (scalar 8 0x100#64) { sr := [8], sw := [9], slices := [0] } ∧
    ReadsPlaced (issuing (scalar 8 0x100#64) 0#32) (running (scalar 8 0x100#64) 0#32) (fun k => .phys (0x100 + 4 * (k % 16))) (fun _ => false)
      64 [0x100#64] 64 [(0, 0x100#64)] ∧
    (issuing (scalar 8 0x100#64) 0#32).blockFault (running (scalar 8 0x100#64) 0#32) 0
      (blockOf ((running (scalar 8 0x100#64) 0#32).gang.seen 100 (.phys 0x100) ((issuing (scalar 8 0x100#64) 0#32).readN 0 0 (.phys 0x100) 64))) = none :=
  ⟨meets _ _ rfl (by decide), readsPlaced _ _ _ _ _ _ (by decide) (by decide), by decide⟩

/-! ### Graphs, pipelines, identifiers and groups -/

/-- What makes the registers of an instruction usable, as a test. -/
def usableHere (s : State) (r : Running) (u : Uses) : Bool :=
  ((u.vr ++ u.vw).all fun v => decide (v < s.regLimit r.gang) && !r.gang.pending 0 v) && ((u.sr ++ u.sw).all fun v => !r.gang.pending 1 v) &&
    (u.vr.all fun v => u.lanes.all fun l => (look? r.gang.arch.poison (v * 32 + l)).isNone) &&
    (u.sr.all fun v => u.slices.all fun k => (look? r.gang.arch.poison (2048 + k * 32 + v)).isNone)

theorem usableOf (s : State) (r : Running) (u : Uses) (h : usableHere s r u = true) : Usable s r u := by
  simp only [usableHere, Bool.and_eq_true, List.all_eq_true, decide_eq_true_eq, Bool.not_eq_true', Option.isNone_iff_eq_none] at h
  exact ⟨h.1.1.1, fun v hv _ => h.1.1.2 v hv, h.1.2, h.2⟩

/-- A scalar with a descriptor's address in it, and two node registers. -/
def graphArch : Arch := { arch0 with s := [(2, 0x200#64), (3, 0x0002000200000000#64), (4, 0#64), (5, 0x100000000#64)], n := [(1, 1), (2, 2)] }

theorem test_witness_TensorIdentifiers : Meets graphArch { sr := [2], slices := [0] } ∧ Meets graphArch { sw := [1] } ∧
    (graphArch.slicesList.filter fun k => graphArch.exec.extractLsb' (4 * k) 4 != 0#4).head? = some 0 ∧
    (graphArch.sget 0 2).toNat % 32 = 0 ∧
    ReadsPlaced (issuing graphArch 0#32) (running graphArch 0#32) (fun k => .phys (0x200 + 4 * (k % 16))) (fun _ => false)
      32 [0x200#64] 32 [(0, 0x200#64)] ∧
    descErrors ((running graphArch 0#32).gang.seen 100 (.phys 0x200) ((issuing graphArch 0#32).readN 0 0 (.phys 0x200) 32)) = [] ∧
    (running graphArch 0#32).gang.binds = [] :=
  ⟨meets _ _ rfl (by decide), meets _ _ rfl (by decide), by decide, by decide, readsPlaced _ _ _ _ _ _ (by decide) (by decide), by decide, rfl⟩
theorem test_witness_TensorIdentifiers_none : Meets { arch0 with exec := 0#32 } { sr := [2] } ∧
    (({ arch0 with exec := 0#32 } : Arch).slicesList.filter fun k => ({ arch0 with exec := 0#32 } : Arch).exec.extractLsb' (4 * k) 4 != 0#4) = [] :=
  ⟨meets _ _ rfl (by decide), by decide⟩

/-- A tensor's descriptor, shapes that are its own or of 2 by 2, and two nodes of one shape and class. -/
theorem test_witness_GraphAppends : Meets graphArch { sr := [4], slices := [0] } ∧ (issuing graphArch 0#32).nodeRoom (running graphArch 0#32).gang = true ∧
    (issuing graphArch 0#32).bound (running graphArch 0#32).gang 5 = some desc0 ∧ (graphArch.sget 0 4).toNat = 0 ∧ 0 + desc0.rows ≤ desc0.rows ∧
    0 < (graphArch.sget 0 3).toNat / 2 ^ 32 % 2 ^ 16 ∧ 0 < (graphArch.sget 0 3).toNat / 2 ^ 48 % 2 ^ 16 ∧
    NodeIn (issuing graphArch 0#32) (running graphArch 0#32) 1#4 node0 ∧ NodeIn (issuing graphArch 0#32) (running graphArch 0#32) 2#4 node0 ∧
    classOf node0.fmt = 0 ∧ node0.cols = node0.rows ∧ node0.op = .mat ∧ isQ4 fFP32 = false ∧ isSparse fFP32 = false :=
  ⟨meets _ _ rfl (by decide), by decide, by decide, by decide, by decide, by decide, by decide, ⟨by decide, by decide⟩, ⟨by decide, by decide⟩, by decide,
    by decide, rfl, by decide, by decide⟩

theorem test_witness_ForcesAndReads : Meets graphArch { sr := [4], slices := [0] } ∧ Meets graphArch { vw := [63], sr := [4], slices := [0] } ∧
    NodeIn (issuing graphArch 0#32) (running graphArch 0#32) 1#4 node0 ∧ node0.fmt ≠ fFP64 ∧ (graphArch.sget 0 4).toNat = 0 ∧ 0 + 1 ≤ node0.cols ∧
    isQ4 desc0.fmt = false ∧ isSparse desc0.fmt = false ∧ desc0.scale = 0 ∧ 0 + node0.rows ≤ desc0.rows ∧ 0 + node0.cols ≤ desc0.cols ∧
    accumOff desc0.base = none ∧
    Issuable (issuing graphArch 0#32) (running graphArch 0#32) 1 ((mstPages desc0 0 0 2 2).map fun p => partAt 0 p 1) ∧
    63 < ((issuing graphArch 0#32).inst? 0 0 |>.map (·.accslots)).getD 0 ∧ node0.fmt = fFP32 ∧ 0 < node0.rows ∧ node0.rows ≤ 32 ∧ node0.cols ≤ 32 :=
  ⟨meets _ _ rfl (by decide), meets _ _ rfl (by decide), ⟨by decide, by decide⟩, by decide, by decide, by decide, by decide, by decide, by decide, by decide,
    by decide, by decide, issuable _ _ _ (by decide), by decide, by decide, by decide, by decide, by decide⟩

/-- The gang with empty node registers, and with no lane in its mask. -/
def emptyArch : Arch := { graphArch with n := [] }
def idleArch : Arch := { graphArch with exec := 0#32 }
theorem test_witness_ForcesAndReads_others : (graphArch.slicesList.filter fun k => graphArch.exec.extractLsb' (4 * k) 4 != 0#4).head? = some 0 ∧
    emptyArch.nget 1 = 0 ∧ look? ((issuing emptyArch 0#32).core 0 0).nodes 0 = none ∧
    Meets emptyArch { vw := [63], sr := [4], slices := [0] } ∧ Meets emptyArch { sw := [31] } ∧
    (idleArch.slicesList.filter fun k => idleArch.exec.extractLsb' (4 * k) 4 != 0#4) = [] ∧ Meets idleArch { sr := [4] } ∧ Meets idleArch { sw := [31] } ∧
    look? ((issuing idleArch 0#32).core 0 0).nodes (idleArch.nget 1) = some node0 ∧ Meets idleArch { vw := [63], sr := [4] } :=
  ⟨by decide, by decide, by decide, meets _ _ rfl (by decide), meets _ _ rfl (by decide), by decide, meets _ _ rfl (by decide), meets _ _ rfl (by decide), by decide,
    meets _ _ rfl (by decide)⟩

/-- A node register with a sparse leaf. -/
def sparseNode : Node := { node0 with op := .leaf { desc0 with fmt := 0x10 } 0 0 false }
def sparseState : State := { rig with cur := some (running graphArch 0#32), dies := [(0, { die0 with cores := [(0, { core0 with nodes := [(1, sparseNode), (2, node0)] })] })] }
theorem test_witness_GraphAppends_sparse : NodeIn sparseState (running graphArch 0#32) 2#4 node0 ∧ emptyArch.nget 2 = 0 ∧ NodeIn sparseState (running graphArch 0#32) 1#4 sparseNode ∧
    (∃ e r0 c0 tr, sparseNode.op = .leaf e r0 c0 tr ∧ isSparse e.fmt = true) ∧ sparseState.nodeRoom (running graphArch 0#32).gang = true ∧
    Usable sparseState (running graphArch 0#32) { sr := [4], slices := [0] } :=
  ⟨⟨by decide, by decide⟩, by decide, ⟨by decide, by decide⟩, ⟨_, 0, 0, false, rfl, by decide⟩, by decide, usableOf _ _ _ (by decide)⟩

/-- A counter in slot 7 and a group in slot 3, both of generation 1 on die 0 for context 0; a failed group in slot 4. -/
def counter0 : Counter := ⟨1, 0, true, 1, none, false, 0#32⟩
def group0 : Group := ⟨1, 0, 0, false, true, [⟨0, 0, 0⟩], [], 0, false, 0#32⟩
def tables : State := { rig with dies := [(0, { die0 with counters := [(7, counter0)], groups := [(3, group0), (4, { group0 with failed := true })] })] }

def counterId : DWord := 0x4007#64
def groupId : DWord := 0x1003#64

/-- A gang whose scalars hold: the counter, an argument's address, the group, and identifiers that do not pass. -/
def pipeArch : Arch := { arch0 with s := [(1, counterId), (2, 0x100#64), (3, groupId), (4, 0x1004#64), (5, 0x100001003#64), (6, 0x400001003#64)] }
def piping : State := { tables with cur := some (running pipeArch 0#32) }

theorem test_witness_EnqueuesAndSignals : (running pipeArch 0#32).gang.ctx ≠ firmware ∧
    (piping.inst? 0 0).bind (fun i => i.stages[(0#4).toNat]?) = some stage0 ∧ (3#4).toNat + 1 ≤ stage0.args ∧
    Usable piping (running pipeArch 0#32) { sr := [2], slices := [0] } ∧ Usable piping (running pipeArch 0#32) { vr := [2, 3, 4, 5], lanes := [0] } ∧
    Usable piping (running pipeArch 0#32) { sr := [2], sw := [31], slices := [0] } ∧ Usable piping (running pipeArch 0#32) { sr := [1, 2], slices := [0] } ∧
    (∀ k ∈ [0], (pipeArch.sget k 2).toNat % 4 = 0) ∧ idCtx counterId = 0 ∧ piping.counter? counterId = some counter0 ∧ counter0.armed = none ∧ counter0.fired = false :=
  ⟨by decide, by decide, by decide, usableOf _ _ _ (by decide), usableOf _ _ _ (by decide), usableOf _ _ _ (by decide), usableOf _ _ _ (by decide), by decide,
    by decide, by decide, rfl, rfl⟩
theorem test_witness_EnqueuesAndSignals_reads : (pipeArch.slicesList.filter fun k => pipeArch.exec.extractLsb' (4 * k) 4 != 0#4) = [0] ∧
    ReadsPlaced (issuing pipeArch 0#32) (running pipeArch 0#32) (fun k => .phys (0x100 + 4 * (k % 16))) (fun _ => false) 16 [0x100#64] 4
      ((List.range 4).map fun i => (16 * 0 + i, pipeArch.sget 0 2 + BitVec.ofNat 64 (4 * i))) :=
  ⟨by decide, readsPlaced _ _ _ _ _ _ (by decide) (by decide)⟩

theorem mapped {α : Type} (x : α) (n k : Nat) (h : k < n) (b : Nat) : look? ((List.range' b n).map fun k => (k, x)) (b + k) = some x := by
  induction n generalizing b k with
  | zero => omega
  | succ n ih =>
    rw [List.range'_succ, List.map_cons, look?]
    by_cases hk : k = 0
    · simp [hk]
    · have := ih (k - 1) (by omega) (b + 1)
      rw [show b + 1 + (k - 1) = b + k by omega] at this
      rw [if_neg (by omega), this]

/-- A die whose counters and groups are all in use. -/
def fullDie : Die := { die0 with counters := (List.range' 0 16384).map fun k => (k, counter0), groups := (List.range' 0 4096).map fun k => (k, group0) }

theorem test_witness_NewIdentifiers : Meets (scalar 2 1#64) { sr := [2], sw := [1], slices := [0] } ∧ Meets arch0 { sw := [1] } ∧
    ((scalar 2 1#64).sget 0 2).toNat % 2 ^ 32 ≠ 0 ∧ look? ((issuing (scalar 2 1#64) 0#32).die 0).counters 16383 = none ∧
    look? ((issuing (scalar 2 1#64) 0#32).die 0).groups 4095 = none :=
  ⟨meets _ _ rfl (by decide), meets _ _ rfl (by decide), by decide, by decide, by decide⟩
theorem test_witness_NewIdentifiers_full : (∀ k < 16384, ∃ c, look? fullDie.counters k = some c ∧ c.live = true) ∧
    ∀ k < 4096, ∃ c, look? fullDie.groups k = some c ∧ (c.live = true ∨ c.reserved = true) :=
  ⟨fun k h => ⟨counter0, Nat.zero_add k ▸ mapped counter0 16384 k h 0, rfl⟩, fun k h => ⟨group0, Nat.zero_add k ▸ mapped group0 4096 k h 0, .inl rfl⟩⟩

theorem test_witness_GroupInstructions : Usable piping (running pipeArch 0#32) { sr := [3], slices := slicesOf (bitsOf pipeArch.exec) } ∧
    Usable piping (running pipeArch 0#32) { sr := [3], sw := [1], slices := [0] } ∧
    (bitsOf pipeArch.exec).map (fun l => (l, pipeArch.sget (l / 4) 3)) = [] ++ (0, groupId) :: [] ∧
    idDie groupId = 0 ∧ idCtx groupId = 0 ∧ piping.group? groupId = some group0 ∧ group0.failed = false ∧ (piping.groupsOf (running pipeArch 0#32).gang 0).length < 4 ∧
    pipeArch.slicesList.find? (fun k => pipeArch.occ.extractLsb' (4 * k) 4 != 0#4) = some 0 ∧ piping.makings (running pipeArch 0#32).gang [groupId] = [] :=
  ⟨usableOf _ _ _ (by decide), usableOf _ _ _ (by decide), by decide, by decide, by decide, by decide, rfl, by decide, by decide, by decide⟩
/-- A gang whose task is in four other groups. -/
def joined : Running := { running pipeArch 0#32 with gang := { (running pipeArch 0#32).gang with lanes := [(0, ⟨0, 0, 0, 0, [1#64, 2#64, 4#64, 5#64], ⟨0, 0#64, 0#64⟩, none, false⟩)] } }
theorem test_witness_GroupInstructions_reports : idDie 0x100001003#64 ≠ 0 ∧ idDie 0x400001003#64 = 0 ∧ idCtx 0x400001003#64 ≠ 0 ∧
    piping.group? 0x2003#64 = none ∧ (piping.group? 0x1004#64).map (·.failed) = some true ∧
    ¬ (groupId ∈ piping.groupsOf joined.gang 0 ∨ (piping.groupsOf joined.gang 0).length < 4) := by decide

/-! ### System registers, the control core and exceptions -/

theorem test_witness_SystemRegisters : Meets arch0 { sw := [1], slices := arch0.slicesList } ∧ Meets arch0 { sr := [1], slices := arch0.slicesList } ∧
    (running arch0 0#32).gang.ctx ≠ firmware ∧ (running arch0 0#32).gang.core ≠ controlCore ∧
    (∀ k ∈ arch0.slicesList, ((scalar 1 4#64).sget k 1).toNat < 5) ∧ (∃ k ∈ arch0.slicesList, 5 ≤ ((scalar 1 5#64).sget k 1).toNat) ∧
    (∀ k ∈ arch0.slicesList, ((scalar 1 31#64).sget k 1).toNat < 32) ∧ (∃ k ∈ arch0.slicesList, 32 ≤ ((scalar 1 32#64).sget k 1).toNat) ∧
    0x100 ≤ (0x100#12).toNat ∧ (0x80#12).toNat < 0x100 ∧
    (0x80#12).toNat ∉ [0x0, 0x1, 0x2, 0x3, 0x10, 0x11, 0x12, 0x13, 0x14, 0x15, 0x16, 0x17, 0x20, 0x21, 0x30, 0x31, 0x32, 0x40] :=
  ⟨meets _ _ rfl (by decide), meets _ _ rfl (by decide), by decide, by decide, by decide, by decide, by decide, by decide, by decide, by decide, by decide⟩

/-- Firmware's gang on the control core, with the number of core 1, which is drained, in s1 and of core 5 and site 5 in s2. -/
def fwRun : Running :=
  let g := fetchGang 0xD0000006#32
  ⟨{ g with arch := { g.arch with s := [(1, 1#64), (2, 0x505#64)] } }, fetchClause 0xD0000006#32⟩
def fwRig : State := { rig with cur := some fwRun, dies := [(0, { die0 with cores := [(0, core0), (1, { Core.idle with scan := 2 })] })] }

theorem test_witness_ControlCoreInstructions : fwRig.cur = some fwRun ∧ fwRun.gang.ctx = firmware ∧
    Usable fwRig fwRun { sr := [1], sw := [3], slices := fwRun.gang.arch.slicesList } ∧ Usable fwRig fwRun { sr := [2], slices := fwRun.gang.arch.slicesList } ∧
    (fwRig.core 0 ((fwRun.gang.arch.sget 0 1).toNat % 2 ^ 7)).scan = 2 ∧ (fwRig.core 0 ((fwRun.gang.arch.sget 0 2).toNat % 2 ^ 7)).scan ≠ 2 ∧
    (fwRig.die 0).site? ((fwRun.gang.arch.sget 0 2).toNat % 2 ^ 7) = none ∧ (fwRig.die 0).coreAt? ((fwRun.gang.arch.sget 0 2).toNat / 2 ^ 8 % 2 ^ 8) = none ∧
    (fwRig.die 0).site? ((fwRun.gang.arch.sget 0 1).toNat % 2 ^ 7) ≠ none ∧ (running arch0 0#32).gang.ctx ≠ firmware :=
  ⟨rfl, by decide, usableOf _ _ _ (by decide), usableOf _ _ _ (by decide), by decide, by decide, by decide, by decide, by decide, by decide⟩

def fault0 : FaultInfo := ⟨0x0006, 5#64, 0x40#64⟩
def placed (g : Gang) : State := { rig with gangs := [g] }
theorem test_witness_ExceptionsTaken : (issuing arch0 0#32).cur = some (running arch0 0#32) ∧ (placed gang0).gang? gang0.gid = some gang0 ∧
    gang0.ctx ≠ firmware ∧ fault0.code ≠ 0x0010 ∧ fault0.code ≠ 0x0052 ∧ (∀ i ∈ (placed gang0).inst? gang0.die gang0.inst, i.handler = 0xFF) ∧
    (∃ i, (fwRig.inst? 0 0) = some i) ∧ (placed fwRun.gang).gang? fwRun.gang.gid = some fwRun.gang ∧ fwRun.gang.ctx = firmware ∧ fwRun.gang.handler = false ∧
    ∃ p, fwRun.gang.place = .port p :=
  ⟨rfl, by decide, by decide, by decide, by decide, by decide, ⟨inst0, by decide⟩, by decide, by decide, rfl, 0, rfl⟩
/-- The instance with its one stage as handler. -/
def handled : State := { placed gang0 with dies := [(0, { die0 with insts := [(0, { inst0 with handler := 0 })] })] }
theorem test_witness_ExceptionsTaken_handler : handled.gang? gang0.gid = some gang0 ∧ handled.inst? 0 0 = some { inst0 with handler := 0 } ∧ gang0.handler = false ∧
    (0 : Nat) ≠ 0xFF := by decide

/-! ### Events -/

/-- A gang off its port, parked. -/
def parked (kind : Nat) (op op2 : DWord) : Gang := { gang0 with phase := .parked, place := .landing, wakeKind := kind, wakeOp := op, wakeOp2 := op2 }

/-- No context started; a service request of a gang; a sample interval. -/
def quiet : State := { rig with pkg := { rig.pkg with ctxs := [] } }
/-- The third word of the clause at 0x40, issued on port 2 of core 5 in two passes at DTC 900, and what a record says of it. -/
def tagged0 : Tagged := ⟨0x40#64, 7#64, 2, 2, 5, 3, 1, 0, 900, 0, 5, some false⟩
def sample0 : SampleData := ⟨0x40#64, 7#64, 1#16, 2#16, 3#16, 4#16, 5#16, 2#8, 1#8, 2#2, 5#7, 3#4, false, 1#8, 0#6⟩
def served : State :=
  { placed (parked 9 1#64 6#64) with dies := [(0, { die0 with services := [(6, .gang gang0.gid)], sysregs := [(0x40, 0x101#64), (0x131, 0x1000#64)], tagged := [tagged0] })] }
theorem test_witness_RegisterEvents : (quiet.pkg.ready = true ∧ ∀ e ∈ quiet.pkg.ctxs, e.2.run = 0) ∧ ¬ (rig.pkg.ready = true ∧ ∀ e ∈ rig.pkg.ctxs, e.2.run = 0) ∧
    (0x3FFF : Nat) % 8 ≠ 0 ∧ (0x00FFFFFFFFFFFE3F#64).toNat / 2 ^ 56 = 0 ∧ (0x00FFFFFFFFFFFE3F#64).toNat / 2 ^ 6 % 8 = 0 ∧
    look? (served.die 0).services (6#64).toNat = some (.gang gang0.gid) ∧ served.gang? gang0.gid = some (parked 9 1#64 6#64) ∧
    (0xFFFFFFFF07#64).toNat / 2 ^ 40 = 0 ∧ (0xFFFFFFFF07#64).toNat / 2 ^ 3 % 2 ^ 5 = 0 ∧ (served.die 0).tagged = tagged0 :: [] ∧
    tagged0.describes sample0 (served.fate tagged0) = true ∧
    0 ≤ (rig.die 0).permits ∧ 1850 ≤ (rig.die 0).mhz ∧ ((rig.die 0).mhz - 1850) % 50 = 0 ∧ 0 / 16 = 15 / 16 ∧ (0 : Nat) ≠ 15 ∧ (rig.die 1).insts = [] := by decide

/-- The path from core 0 to core 5 has failed `n` times in a row; a TLB entry of 1 GiB beside one of 4 KiB. -/
def failing (n : Nat) : State := { rig with dies := [(0, { die0 with pathChecks := [(5, n)], cores := [(0, { core0 with tlb := [⟨0, 0, leaf0⟩, ⟨0, 0x40000000, { leaf0 with bits := 30 }⟩] })] })] }
theorem test_witness_RegisterEvents_dies : look 0 ((failing 14).die 0).pathChecks (0 * 128 + 5) + 1 < 16 ∧ 16 ≤ look 0 ((failing 15).die 0).pathChecks (0 * 128 + 5) + 1 ∧
    (served.die 0).sysreg 0x040 = 0x101#64 ∧ (served.die 0).sysreg 0x040 ≠ 0x100#64 ∧ rig.inst? 0 0 = some inst0 ∧
    (let q : Shoot := ⟨1, 0x40005000, 12, false, 0, []⟩; ⟨0, 0x40000000, { leaf0 with bits := 30 }⟩ ∈ ((failing 0).core 0 0).tlb ∧
      q.hits ⟨0, 0x40000000, { leaf0 with bits := 30 }⟩ = true ∧ q.bits < 30) := by decide
/-- A task at a barrier that another does not reach, as the last build found it too. -/
def stuck : State := { tables with gangs := [{ parked 5 groupId 0#64 with lanes := [(0, ⟨0, 0, 0, 0, [groupId], ⟨0, 0#64, 0#64⟩, none, false⟩)] }],
                                   dies := [(0, { die0 with groups := [(3, { group0 with members := [⟨0, 0, 0⟩, ⟨0, 0, 1⟩] })], lastGraph := [(0, [0, 5, groupId.toNat, 0, 0])] })] }
theorem test_witness_RegisterEvents_deadlock : (stuck.stalled 0).map (fun gs => look? (stuck.die 0).lastGraph 0 == some (stuck.graphOf gs)) = some true ∧
    stuck.hasTasks 0 0 = true ∧ inst0.handler = 0xFF ∧ (stuck.gangs.all fun g => g.isOf (0, 0) && g.phase == .parked && g.taskNums == [0]) = true := by decide

/-- Context 1, whose entry is in order, in a state of its own. -/
def inCtx (x : Ctx) : State := { rig with pkg := { rig.pkg with ctxs := [(1, x)] }, dies := [(0, Die.reset)] }
def draining : State := inCtx { ctx0 with run := 2, drainEnd := some 0 }
def outside : State := inCtx { ctx0 with run := 3, save := 0x2000#64 }
/-- Context 0's entry is not in order; with no table there is none to read. -/
def badEntry (n : Nat) : State := { rig with pkg := { rig.pkg with ctxs := [(0, { ctx0 with run := n })] } }
def noTable (n : Nat) : State := { rig with pkg := { rig.pkg with ctxbase := 0#64, ctxs := [(0, { ctx0 with run := n })] } }
theorem test_witness_ContextEvents : rig.pkg.ready = true ∧ (draining.ctx 1).run = 2 ∧ (rig.ctx 1).run = 0 ∧ rig.entryReadable 1 = true ∧
    rig.entryOk (rig.bytes 0x1080 128) = true ∧ rig.entryOk (rig.bytes 0x1000 128) = false ∧ (rig.ctx 0).run = 1 ∧ ((badEntry 0).ctx 0).run = 0 ∧
    (badEntry 0).entryReadable 0 = true ∧ (badEntry 0).entryOk ((badEntry 0).bytes 0x1000 128) = false ∧
    ((inCtx { ctx0 with run := 1 }).ctx 1).run = 1 ∧ (inCtx { ctx0 with run := 1 }).entryOk ((inCtx { ctx0 with run := 1 }).bytes 0x1080 128) = true ∧
    (inCtx { ctx0 with run := 1 }).entryReadable 1 = true ∧
    ((badEntry 3).ctx 0).run = 3 ∧ (badEntry 3).entryReadable 0 = true ∧ (badEntry 3).entryOk ((badEntry 3).bytes 0x1000 128) = false ∧
    ((noTable 0).ctx 0).run = 0 ∧ (noTable 0).entryReadable 0 = false ∧ ((noTable 1).ctx 0).run = 1 ∧ (noTable 1).entryReadable 0 = false ∧
    ((noTable 3).ctx 0).run = 3 ∧ (noTable 3).entryReadable 0 = false ∧
    (outside.ctx 1).run = 3 ∧ outside.entryReadable 1 = true ∧ outside.entryOk (outside.bytes 0x1080 128) = true ∧ outside.saveOk 1 = true ∧
    ({ outside with poison := [(0x80, true)] } : State).saveOk 1 = false ∧ (∀ e ∈ outside.dies, ∀ i ∈ e.2.insts, i.2.ctx ≠ 1) ∧
    (outside.ctx 1).saved = [] ∧ draining.drained 1 = true ∧ (draining.ctx 1).drainEnd = some 0 ∧ 0 ≤ draining.time := by decide

/-- A record of context 1 on core 0, which is mapped no more when the context is resumed: it is on core 1 then (R320). -/
theorem test_resume_on_other_core : (match exec (.ctxctlResume 1) { outside with dies := [(0, { Die.reset with coremap := [(1, 1)] })], gangs := [{ parked 0 0#64 0#64 with ctx := 1 }] } with
    | .next t => t.gangs.map fun g => (g.core, g.place, (t.ctx 1).run)
    | _ => []) = [(1, .landing, 1)] := by decide +kernel

/-- The fuses of a UB-DF8-S part: one core of each cluster disabled. -/
def fuses0 (signer : Nat) : Fuses :=
  ⟨1#8, 0#8, [0, 1, 2, 3].flatMap fun d => (List.range 8).map fun k => (d, k * 16 + 15), [], 0x1000#64, 9, signer, []⟩
/-- Who signed decides nothing about the part. -/
theorem fuses0_signer (x y : Nat) : ofPart (fuses0 x) = ofPart (fuses0 y) := by
  have h (f : Fuses) (n : Nat) : ofPart { f with signedBy := n } = ofPart f := by
    have hs (d i : Nat) : siteOn { f with signedBy := n } d i = siteOn f d i := rfl
    have hg (d : Nat) : goodLanes { f with signedBy := n } d = goodLanes f d := rfl
    simp only [ofPart, hs, hg]
  exact h (fuses0 y) x
theorem test_witness_ContextEvents_bringUp : State.reset.pkg.ready = false ∧ ofPart (fuses0 9) = true ∧ (fuses0 9).signedBy = (fuses0 9).vendorKey ∧
    ofPart (fuses0 8) = ofPart (fuses0 9) ∧ (fuses0 8).signedBy ≠ (fuses0 8).vendorKey :=
  ⟨by decide, by decide +kernel, rfl, fuses0_signer 8 9, by decide⟩
theorem test_witness_ContextEvents_chain : rig.cur = none ∧ rig.chainWants 0 = [] ∧ (rig.ctx 0).chainStop = false ∧ (rig.ctx 0).chainSeq < (look 0#64 rig.pkg.tails 0).toNat ∧
    (rig.ctx 0).chainSeq = 0 ∧ (rig.ctx 0).chainNext.toNat ≠ 0 ∧ (rig.ctx 0).chainNext.toNat % 64 = 0 ∧
    (∃ rec_, rig.readable? 0 0 (rig.ctx 0).chainNext.toNat 64 [] = some rec_ ∧ numAt rec_ 8 8 = 1 ∧ rig.chainDie 0 (numAt rec_ 24 1) = some 0) ∧
    State.reset.pkg.ready = false :=
  ⟨rfl, by decide, by decide, by decide, by decide, by decide, by decide, ⟨(rig.bytes 0x300 64), by decide, by decide, by decide⟩, by decide⟩

/-! ### Scheduling -/

theorem test_witness_SchedulingEvents_issue : (placed gang0).cur = none ∧ gang0.paused = none ∧ gang0.pathFault = none ∧
    (placed gang0).firstGang ((placed gang0).ready 0 0 0) = some (gang0, placed gang0) ∧
    (placed gang0).breakAt gang0 = false ∧
    (placed gang0).fetch gang0 0#64 = (.word 0x12000000#32, placed gang0) ∧
    headerReason 0x12000000#32 ((((placed gang0).stage? gang0).map fun st => st.flags.getLsbD 3).getD false) = none ∧
    (placed gang0).fetchWords gang0 4#64 1 [] = (.inl [0x20610500#32], placed gang0) ∧
    (0x20610500#32).toNat / 2 ^ 29 = (0x12000000#32).toNat / 2 ^ 25 % 2 ^ 3 := by decide

/-- A gang whose flight has ended, one that must go, and one parked for 10 us. -/
def ended : Gang := { gang0 with phase := .ending }
def going : Gang := { gang0 with preempt := true }
def waited : State := { placed { parked 0 0#64 0#64 with since := some 0 } with time := 10000 }
theorem test_witness_SchedulingEvents_gang : (placed ended).gang? 0 = some ended ∧ (placed ended).mayCommit ended = true ∧ ended.held = [] ∧
    (placed ended).lateFault ended = none ∧ (placed ended).checkRecord ended = none ∧ ended.place = .port 0 ∧ ended.parity.count 0 < 2 ∧ going.paused = none ∧ (parked 0 0#64 0#64).paused = none ∧
    (placed (parked 0 0#64 0#64)).eligible (parked 0 0#64 0#64) = true ∧ (placed (parked 0 0#64 0#64)).canTake (parked 0 0#64 0#64) 0 = true ∧
    (∀ h ∈ (placed (parked 0 0#64 0#64)).takeable 0 0 0, (placed (parked 0 0#64 0#64)).precedes h (parked 0 0#64 0#64) = false) ∧
    (placed (parked 9 0#64 0#64)).gang? 0 = some (parked 9 0#64 0#64) ∧ (placed going).preempts going = true ∧
    waited.gangs.all (·.movable) = true ∧ waited.openCore 0 1 0 = true ∧ (waited.gangs.all fun g => waited.eligible g) = true ∧
    (waited.gangs.all fun g => (waited.putGang { g with core := 1, place := .landing, since := none }).landingFits 0 1) = true := by decide
/-- A gang amid a clause, at an append that waits for its auto-force, while its context is switched out; and back on its core after that. -/
def amid : Gang := { gang0 with paused := some (running arch0 0#32).cl }
def forcing0 (run : Nat) (g : Gang) : State :=
  { placed g with dies := [(0, { die0 with cores := [(0, { core0 with evals := [⟨90, 0, g.who, 0#64, 1, 1, .auto, false, [], [], none, false, [], none, []⟩] })] })]
                  pkg := { rig.pkg with ctxs := [(0, { ctx0 with run := run })] } }
def amidOut : Gang := { amid with phase := .parked, place := .landing, wakeKind := 8 }
theorem test_witness_SchedulingEvents_amid : amid.paused.isSome = true ∧ (forcing0 2 amid).gang? 0 = some amid ∧ (forcing0 2 amid).preempts amid = true ∧
    amidOut.paused ≠ none ∧ (forcing0 1 amidOut).gang? 0 = some amidOut ∧ (forcing0 1 amidOut).eligible amidOut = true ∧ (forcing0 1 amidOut).canTake amidOut 0 = true ∧
    (∀ h ∈ (forcing0 1 amidOut).takeable 0 0 0, (forcing0 1 amidOut).precedes h amidOut = false) := by decide +kernel
/-- The same record, where die 1 has a core and the context may use it. -/
def crossing : State := { waited with dies := put? waited.dies 1 (some { Die.reset with coremap := [(0, 0)] }),
                                      pkg := { waited.pkg with ctxs := [(0, { ctx0 with diemask := 3#8 })] } }
theorem test_witness_SchedulingEvents_move_to_die : (crossing.ctx 0).diemask.getLsbD 1 = true ∧ (crossing.ctx 0).run = 1 ∧
    crossing.gangs.all (fun g => g.movable && crossing.mayCross g && crossing.eligible g && g.ctx == 0 && g.die == 0) = true ∧
    crossing.openCore 1 0 (instName 1 (homeInst 0 0)) = true ∧ (homeInst 0 0).2 < 256 ∧
    (crossing.gangs.all fun g => (crossing.putGang (crossing.moved g 1 0)).landingFits 1 0) = true := by decide
/-- A record moved to another die has 1,000 ns less of slack, and is of the same instance (R261). -/
theorem test_record_moves_to_die : (match exec (.recordMove 0 1 0) crossing with
    | .next t => t.gangs.map fun g => (g.die, g.core, homeInst g.die g.inst, t.inst? g.die g.inst == crossing.inst? 0 0, g.lost)
    | _ => []) = [(1, 0, (0, 0), true, 1000)] := by decide +kernel

/-- A gang with a load of the word at 0x100, of a page that the TLB lacks, or of a scratchpad byte of core `c`. -/
def loading (a : DWord) (loc : Option Loc) : Gang :=
  let p : APart := ⟨0, a, 4, loc, false⟩
  { gang0 with accs := [⟨50, 0#64, 1, .load 51 [⟨true, [32], false⟩], [p], loc.isSome, false⟩], pend := [⟨51, 0, 1, 1, [0], 0, []⟩],
               reqs := match loc with
                 | some l => [⟨52, 50, l.line, [(p, ⟨true, [32], false⟩)], []⟩]
                 | none => [] }
def pinnedRig (g : Gang) : State := { placed g with dies := [(0, { die0 with insts := [(0, { inst0 with pinned := [0, 128] })] })] }
theorem test_witness_SchedulingEvents_loads : ((placed (loading 0x5000#64 none)).missing (loading 0x5000#64 none)).isSome = true ∧
    (∃ l, (placed (loading 0x5000#64 none)).walk 0 0 0x5000 = .ok l) ∧
    (let s := placed (loading 0x5000#64 none); s.unread 0 (s.walked 0 0 0x5000).2.2 = []) ∧ (placed (loading 0x5000#64 none)).walk 0 0 0x200000000 = .page ∧
    (∃ q, (loading 0x100#64 (some (.phys 0x100))).reqs = [q] ∧ (placed (loading 0x100#64 (some (.phys 0x100)))).mayLoad q = true ∧
      q.line = .phys 0x100 ∧ (placed (loading 0x100#64 (some (.phys 0x100)))).readable 0 q.line = true) ∧
    (∃ q, (loading 0x100#64 (some (.scratch 0 0))).reqs = [q] ∧ q.line = .scratch 0 0 ∧
      (pinnedRig (loading 0x100#64 (some (.scratch 0 0)))).pinned 0 0 q.line = true ∧
      (pinnedRig (loading 0x100#64 (some (.scratch 0 0)))).halfDone 0 0 (loading 0x100#64 (some (.scratch 0 0))).root [0] = false ∧ inst0.pinned.contains 0 = false) ∧
    (∃ q, (loading 0x100#64 (some (.scratch 1 0))).reqs = [q] ∧ q.line = .scratch 1 0 ∧
      (pinnedRig (loading 0x100#64 (some (.scratch 1 0)))).pinned 0 0 q.line = true ∧ (0, 1) ∉ (rig.die 0).deadPaths) :=
  ⟨by decide, ⟨⟨0x5000 / 2 ^ 30 * 2 ^ 30, 30, 0, 0, false, false, false, true, true, true⟩, by decide⟩, by decide, by decide, ⟨_, rfl, by decide, by decide, by decide⟩,
    ⟨_, rfl, by decide, by decide, by decide, by decide⟩, ⟨_, rfl, by decide, by decide, by decide⟩⟩

def record0 : Rec := ⟨[1#32, 2#32], none, none, [0, 0, 0, 0], none, none, false⟩
def gather0 : Gather := ⟨60, 0, 0, 0, 0, 60, [(0, record0)], none⟩
def gathering : State := { rig with time := 34, dies := [(0, { die0 with cores := [(0, { core0 with gathers := [gather0] })] })] }
theorem test_witness_SchedulingEvents_gather : gathering.cur = none ∧ gathering.gather? 60 = some (0, 0, gather0) ∧ gather0.opened + 34 ≤ gathering.time ∧
    gathering.inst? 0 0 = some inst0 ∧ inst0.stages[0]? = some stage0 ∧ gather0.recs.length ≤ 32 ∧ gather0.recs ≠ [] ∧ 3 ≤ ((gathering.die 0).portsOf 0).length ∧
    (let s := gathering.onCore 0 0 fun c => { c with gathers := [] }
     gather0.recs.length ≤ s.closeCap 0 0 gather0 (s.paired 0 0 0)) ∧ gather0.port ∈ (gathering.die 0).portsOf 0 ∧
    stage0.flags.getLsbD 0 = false := by decide
/-- Every port full, and a gathering whose port is none of them. -/
def crowded : State := { gathering with gangs := (List.range 4).map fun k => { gang0 with gid := k, place := .port k, granted := 65536 }
                                        dies := [(0, { die0 with cores := [(0, { core0 with gathers := [{ gather0 with port := 9 }] })] })] }
theorem test_witness_SchedulingEvents_gather_landing : 
    (let s := crowded.onCore 0 0 fun c => { c with gathers := [] }
     s.closePorts 0 0 { gather0 with port := 9 } (stage0.regs * 1 * 16) false = none ∧ 1 ≤ s.closeCap 0 0 { gather0 with port := 9 } (s.paired 0 0 0)) := by decide

/-! ### Commits -/

/-- A gang at its flight's end, with effects held. -/
def holdingEffs (es : List (Nat × Eff)) : Gang := { ended with held := es.map fun e => ⟨e.1, 0#64, 1, 1, e.2⟩ }
/-- What the statement about commits asks of a flight. -/
def commits (s : State) (g : Gang) : Bool := s.cur.isNone && decide (s.gang? g.gid = some g) && s.mayCommit g && g.pathFault.isNone && g.resident &&
  ((s.putGang g).lateFault g).isNone && ((s.putGang g).checkRecord g).isNone && decide (s.gangs.map (·.gid)).Nodup && s.gangs.all fun h => h.gid < s.nextId
def giving : Gang := holdingEffs [(70, .enq 0 [1#32]), (71, .depsig [(counterId, 1)])]
theorem test_witness_SchedulingEvents_commit_hands : commits (placed giving) giving = true ∧ giving.wakeKind ≤ 1 ∧ ∀ h ∈ giving.held, Handed h.eff :=
  ⟨by decide, by decide, by simp [giving, holdingEffs, Handed]⟩
def writing : Gang := { holdingEffs [(70, .store 50 [[1#8, 2#8, 3#8, 4#8]])] with accs := [⟨50, 0#64, 1, .store, [⟨0, 0x400#64, 4, some (.phys 0x400), false⟩], true, false⟩] }
theorem test_witness_SchedulingEvents_commit_stores : commits (placed writing) writing = true ∧ (writing.acc? 50).map (fun a => a.parts.map (·.loc)) = some [some (.phys 0x400)] ∧
    isHost 0x400 = false ∧ homeDie 0x400 = writing.die ∧ 0x400 % 64 + 4 ≤ 64 ∧ ((placed writing).dies.all fun e => !e.2.replicates (0x400 / 64)) = true := by decide
/-- The values of a node of 2 by 2: 1, -3/2, 0 and minus infinity. -/
def values0 : List (Nat × List Sys2Proof.Num) := [(stripKey 0 0, [.fin false 1 0, .fin true 3 (-1)]), (stripKey 1 0, [.fin false 0 0, .inf true])]
def storingNode : Gang := holdingEffs [(70, .mst desc0 0 0 false 2 2 50 51 values0)]
theorem test_witness_SchedulingEvents_commit_node : commits (placed storingNode) storingNode = true ∧ desc0.colMajor = false ∧ desc0.fmt ≠ fINT4 ∧
    ((List.range 2).all fun i => (List.range 2).all fun j => (stripAt values0 i j).isSome) = true ∧
    (∀ i < 2, accumOff (desc0.addr (0 + i) 0) = none ∧ (placed storingNode).find 0 0 0 0 (desc0.addr (0 + i) 0) 1 = .at_ (.phys (0x400 + 8 * i)) false ∧
      isHost (0x400 + 8 * i) = false ∧ homeDie (0x400 + 8 * i) = 0 ∧ (0x400 + 8 * i) % 64 + 2 * (elemBits desc0.fmt / 8) ≤ 64 ∧
      (desc0.addr (0 + i) 0).toNat % 4096 + 2 * (elemBits desc0.fmt / 8) ≤ 4096) := by decide
/-- A gang of two slices whose flight ends at two addresses. -/
def parting : Gang := { ended with arch := { arch0 with slices := 3#8, occ := 0x11#32, exec := 0x11#32 }, nexts := [(0, 0x40#64), (1, 0x80#64)],
                                   lanes := [(0, ⟨0, 0, 0, 0, [], ⟨0, 0#64, 0#64⟩, none, false⟩), (4, ⟨1, 0, 0, 0, [], ⟨0, 0#64, 0#64⟩, none, false⟩)] }
theorem test_witness_SchedulingEvents_commit_splits : commits (placed parting) parting = true ∧ parting.held = [] ∧
    (∀ e ∈ parting.nexts, e.1 < 8 ∧ parting.arch.slices.getLsbD e.1 = true) ∧ 2 ≤ (groupByAddr parting.nexts).length := by decide
/-- Two sub-gangs of one slice each at one REGANG, the second parked there. -/
def sub (gid : Nat) (slices : Byte) (occ : Word) (j : Nat) : Gang :=
  { gang0 with gid := gid, arch := { arch0 with slices := slices, occ := occ, exec := occ, split := [(j, [3#8])] }, wakeKind := 3, wakeOp := 0x40#64, wakeOp2 := 5#64,
               phase := .ending, lanes := [(4 * j, ⟨j, 0, 0, 0, [], ⟨0, 0#64, 0#64⟩, none, false⟩)] }
def waitingSub : Gang := { sub 7 2#8 0x10#32 1 with phase := .parked, place := .landing }
def meeting0 : State := { rig with gangs := [sub 0 1#8 1#32 0, waitingSub] }
theorem test_witness_SchedulingEvents_commit_merges : commits meeting0 (sub 0 1#8 1#32 0) = true ∧ waitingSub ∈ meeting0.gangs ∧ waitingSub.root = (sub 0 1#8 1#32 0).root ∧
    waitingSub.woken = false ∧ (sub 0 1#8 1#32 0).arch.rendezvous = some 3#8 ∧ waitingSub.arch.rendezvous = some 3#8 ∧
    3#8 = (sub 0 1#8 1#32 0).arch.slices ||| waitingSub.arch.slices ∧ (sub 0 1#8 1#32 0).arch.slices &&& waitingSub.arch.slices = 0#8 ∧
    (∀ k ∈ meeting0.gangs, k.root = 0 → k.gid = 0 ∨ k.gid = 7) ∧ ((sub 0 1#8 1#32 0).pend ++ waitingSub.pend) = [] := by decide

def queued (n : Nat) : Inst := { inst0 with queues := [(0, List.replicate n record0)] }
def dispatching : State := { rig with dies := [(0, { die0 with insts := [(0, queued 1)] })] }
theorem test_witness_SchedulingEvents_dispatch : dispatching.cur = none ∧ dispatching.bestInst 0 = some (0, queued 1) ∧
    dispatching.bestStage 0 0 (queued 1) = some 0 ∧ (dispatching.placeFor 0 0 0 (queued 1)).isSome = true ∧ look [] (queued 1).queues 0 = record0 :: [] := by decide

/-- A request of firmware, whose addresses are physical, under the rights of context 0. -/
def head0 (desc : DWord) : LaunchReq := ⟨firmware, desc, 70, none, false, [0, 0, 0, 0], none, [], 0⟩
def asking (desc : DWord) (ccmode : DWord) (rights : Nat) : State :=
  { rig with pkg := { rig.pkg with ctxs := [(64, { ctx0 with maxinst := rights })] },
             dies := [(0, { die0 with insts := [], vestibule := [head0 desc], sysregs := [(srCcmode, ccmode)] })] }
/-- A descriptor at 0x800 that is read, the first answer of the checks. -/
def checked0 (s : State) : Option (Nat × Nat × Nat) := (s.readDesc 0 firmware 0x800#64 [0, 0, 0, 0]).map fun e =>
  (s.earlyCheck 0 (head0 0x800#64) e.1, s.utilCheck 0 [(e.1.issue : Int), (e.1.array : Int), (e.1.copy : Int)] ((head0 0x800#64).slack e.1) e.1.arrays none,
    s.storageCheck 0 firmware e.1.sppages (e.1.accslots + e.1.itiles) e.1.gnodes e.1.gspill e.1.landbytes)
theorem test_witness_SchedulingEvents_admission : (asking 1#64 1#64 1).request? 0 = some (head0 1#64) ∧
    (asking 1#64 1#64 1).readDesc 0 firmware 1#64 [0, 0, 0, 0] = none ∧ (asking 0x800#64 4#64 1).request? 0 = some (head0 0x800#64) ∧
    ((asking 0x800#64 4#64 1).die 0).assisted = true ∧ ((asking 0x800#64 1#64 1).die 0).assisted = false ∧ (head0 1#64).answer = none ∧
    (asking 0x800#64 1#64 1).freeInstSlots 0 ≠ [] := by decide +kernel
theorem test_witness_SchedulingEvents_admission_checks : checked0 (asking 0x800#64 1#64 1) = some (0, 0, 0) := by decide +kernel
theorem test_witness_SchedulingEvents_admission_refuses : (checked0 (asking 0x800#64 1#64 0)).map (·.1) = some 11 := by decide +kernel

/-! ### Effects, engines and other dies -/

def who0 : Who := ⟨0, 0, 0, 0, 0, 0, [0], [0], 5, false⟩
def out0 (c : Cargo) : Out := ⟨50, [50], [], who0, false, false, [0, 0, 0, 0], c, [], false, [], []⟩
def leaving (o : Out) : State := { tables with drain := [o] }
def storing : Out := out0 (.acts [.write ⟨.phys 0x400, 0x400#64, [1#8, 2#8, 3#8, 4#8], false⟩])
def adding : Out := out0 (.acts [.atom 0 ⟨0, .phys 0x400, 0x400#64, 1#64, 0#64⟩ 51])
def remote : Out := out0 (.acts [.write ⟨.scratch 1 0, 0#64, [1#8], false⟩])
def signalling : Out := { out0 (.eff (.depsig [(counterId, 1)])) with sent := true }
theorem test_witness_EffectEvents_homes : (leaving storing).maySendOut storing false false = true ∧ homeDie 0x400 = who0.die ∧ look 0 (leaving storing).owners (0x400 / 64) = 0 ∧ 0x400 % atomicSize 0 = 0 ∧
    (leaving adding).maySendOut adding true false = true ∧ (leaving remote).maySendOut remote false true = true ∧ (leaving remote).clusterDown 0 0 1 = false ∧ (leaving remote).inst? 0 0 = some inst0 ∧
    (leaving signalling).covers (Eff.target (.depsig [(counterId, 1)]) 0) [0, 0, 0, 0] = true ∧ (leaving signalling).counter? counterId = some counter0 ∧
    counter0.count ≠ 0 ∧ ((leaving storing).drain.find? fun q => q.id == 50) = some storing := by decide

/-- A window towards the stage's queue, with `n` refusals of its enqueue so far; the queue holds `len` of its 4 records. -/
def window0 (n wait : Nat) (due : Option Nat) : Window := ⟨80, .core 0 0, 0, 0, [⟨record0, n, 0, 0, [], false⟩], wait, due⟩
def offering (n wait : Nat) (due : Option Nat) (len : Nat) : State :=
  { rig with dies := [(0, { die0 with insts := [(0, queued len)], windows := [window0 n wait due] })] }
theorem test_witness_EffectEvents_windows : (offering 62 0 none 3).window? 80 = some (0, window0 62 0 none) ∧
    (offering 62 0 none 3).inst? 0 0 = some (queued 3) ∧ (queued 3).stages[0]? = some stage0 ∧ (offering 62 0 none 3).mayOffer 0 (window0 62 0 none) = true ∧
    (look [] (queued 3).queues 0).length < stage0.depth ∧ stage0.depth ≤ (look [] (queued 4).queues 0).length ∧
    (∀ q ∈ (window0 62 100 (some 0)).entries, q.refusals < 63) ∧ window0 62 100 (some 0) ∈ ((offering 62 100 (some 0) 4).die 0).windows ∧
    (∃ n ∈ (window0 62 100 (some 0)).due, n ≤ (offering 62 100 (some 0) 4).time) := by decide

/-- A gang at the barrier of the group in slot 3, and one that watches the word at 0x110, which is 64. -/
def arriving : Gang := { parked 5 groupId 0#64 with lanes := [(0, ⟨0, 0, 0, 0, [groupId], ⟨0, 0#64, 0#64⟩, none, false⟩)] }
def watching : Gang := { parked 2 0x110#64 64#64 with accs := [⟨50, 0#64, 1, .watch, [⟨0, 0x110#64, 4, some (.phys 0x110), false⟩], true, true⟩] }
theorem test_witness_EffectEvents_parked : arriving.phase = .parked ∧ arriving.hit = false ∧ arriving.woken = false ∧
    (({ tables with gangs := [arriving] } : State).gang? 0) = some arriving ∧ (({ tables with gangs := [arriving] } : State).behind arriving) = [] ∧
    (({ tables with gangs := [arriving] } : State).group? arriving.wakeOp) = some group0 ∧ group0.members ≠ [] ∧
    (group0.arrived ++ (({ tables with gangs := [arriving] } : State).arriving arriving groupId).filter fun m => !group0.arrived.contains m).length = group0.members.length ∧
    (placed arriving).group? arriving.wakeOp = none ∧ arriving.resident = false ∧ group0.failed = false ∧
    watching.watched = some (.phys 0x110) ∧ (placed watching).behind watching = [] ∧ (placed watching).readWaits watching (.phys 0x110) = [] ∧ watching.reqs = [] ∧
    BitVec.ofNat 32 (natOfBytes ((placed watching).seal 0 0 0 0x110 (.phys 0x110) ((placed watching).readN (watching.homeOf (.phys 0x110)) 0 (.phys 0x110) 4))) =
      watching.wakeOp2.setWidth 32 ∧ (Loc.fabric 7 0x110).elsewhere = true := by decide

def block0 : Block := ⟨0x100#64, 0x400#64, 64, 1, 0, 0, 0#64, 0#32, 0#32, 0#32, 0#32, 0#64⟩
/-- Core 0 with a copy at the head of queue 0, `row` rows done, and an evaluation in its matrix queue. -/
def eval0 (busy : Bool) : Eval := ⟨90, 0, { who0 with flight := 0 }, 0#64, 1, 1, .force, false, [], [], none, busy, [], none, []⟩
def engines (row : Nat) (busy : Bool) (errs : List Nat) : State :=
  { rig with dies := [(0, { die0 with
      insts := [(0, { inst0 with errFlags := errs })]
      cores := [(0, { core0 with queues := [(0, [.copy 1 block0 0 who0 1]), (4, [.eval 90])], copying := [(0, ⟨row, 0, none, []⟩)], evals := [eval0 busy] })] })] }
theorem test_witness_EffectEvents_engines : ((engines 0 false []).core 0 0).copyHead 0 = some (1, block0, 0, who0) ∧
    (((engines 0 false []).core 0 0).progress 0).wait = none ∧ ((engines 0 false []).ctx 0).run = 1 ∧ (engines 0 false []).errored 0 0 0 0 = false ∧
    (engines 0 false [errKey 0 0]).errored 0 0 0 0 = true ∧ (((engines 0 false []).core 0 0).progress 0).row < block0.rows ∧
    ((engines 0 false []).copyBeat 0 0 0 [] 1 block0 who0).isSome = true ∧ block0.rows ≤ (((engines 1 false []).core 0 0).progress 0).row ∧
    block0.notify = false ∧ block0.follow = 0 ∧ (engines 0 false []).copyTurn 0 0 0 = true ∧ (engines 1 false []).copyTurn 0 0 0 = true ∧
    (engines 0 false [errKey 0 0]).copyTurn 0 0 0 = true ∧ (engines 0 false [errKey 0 0]).copySent (((engines 0 false [errKey 0 0]).core 0 0).progress 0) = false ∧
    (engines 0 false []).askedCopy 0 0 0 (((engines 0 false []).core 0 0).progress 0) = none ∧ (((engines 0 true []).die 0).sysreg 0x100).getLsbD 1 = false ∧ (∀ n ∈ (((engines 1 false []).core 0 0).progress 0).outs, ∀ o ∈ (engines 1 false []).drain, o.id ≠ n) ∧
    (engines 0 false []).arrayReady 0 0 = [eval0 false] ∧ (((engines 0 true []).core 0 0).evals.find? fun v => v.busy && v.back.isNone) = some (eval0 true) := by decide

/-- The two lines of the copy are where a plain read and write find them. -/
theorem test_witness_EffectEvents_copy : (let s := engines 0 false []
    let p := (s.core 0 0).progress 0
    p.wait = none ∧ p.beat = 0 ∧ p.row < block0.rows ∧ (s.ctx 0).run = 1 ∧ block0.redop = 0 ∧ block0.mcast = false ∧ 0 < block0.rowBytes ∧
    0x100 % 64 + 64 ≤ 64 ∧ 0x400 % 64 + 64 ≤ 64 ∧ s.find 0 0 0 0 block0.src 0 = .at_ (.phys 0x100) false ∧
    s.find 0 0 0 0 block0.dst 1 = .at_ (.phys 0x400) false ∧ homeDie 0x100 = 0 ∧ homeDie 0x400 = 0 ∧ isHost 0x100 = false ∧ isHost 0x400 = false ∧
    (∀ i < 64, s.poisoned (0x100 + i) = false) ∧ s.poisoned 0x400 = false ∧ look 0 s.owners (0x100 / 64) = 0 ∧ look 0 s.owners (0x400 / 64) = 0) := by decide

/-- Pieces of a plan: two constants, 2 and 3, and one made of them; an evaluation that is at its first of two steps. -/
def pieceOf0 (op : POp) (vals : List (Nat × List Sys2Proof.Num)) : PNode := ⟨op, [], [], 2, 2, fFP32, false, false, 0, 0#64, 0, 0, [], vals, [], 0#7, 0#64, 0, 0, []⟩
def planned0 (op : POp) (k0 k1 : Nat) (vals : List (Nat × List Sys2Proof.Num)) (emul : Bool) : Eval :=
  { eval0 emul with planned := true
                    pnodes := [pieceOf0 (.const 1 false 0x40000000#32) [], pieceOf0 (.const 1 false 0x40400000#32) [], pieceOf0 op vals]
                    steps := [⟨2, [0, 1], 0, k0, k1, emul, 4⟩, ⟨2, [0, 1], 0, k1, k1, false, 4⟩] }
def atWork (v : Eval) : State :=
  { rig with dies := [(0, { die0 with insts := [(0, { inst0 with accounts := false })]
                                      cores := [(0, { core0 with queues := [(4, [.eval 90])], evals := [v] })] })] }
def product0 : POp := .mul 0 1 1 0 2 false false false none
/-- What the statement about arrays asks of a step of the array. -/
def worksOn (v : Eval) : Bool := decide ((atWork v).arrayReady 0 0 = [v]) && decide ((atWork v).sameReads 0 0 v = []) &&
  decide ((atWork v).spaceFor v (v.pnodes.getD 2 (pieceOf0 product0 [])) (v.steps.headD ⟨0, [], 0, 0, 0, false, 0⟩) = (atWork v, none)) &&
  [0, 1].all fun k => [0, 1].all fun a => [0, 1].all fun b => (atWork v).pieceAt who0 v.pnodes k a b == .val (floatOf fFP32 (if k = 0 then 0x40000000 else 0x40400000)) false false
theorem test_witness_EffectEvents_product : worksOn (planned0 product0 0 1 [] false) = true := by decide +kernel
theorem test_witness_EffectEvents_product_next : worksOn (planned0 product0 1 2 [(stripKey 0 0, [.fin false 6 0, .fin false 6 0])] false) = true := by decide +kernel
theorem test_witness_EffectEvents_elementwise : worksOn (planned0 (.had 0 1 false false) 0 0 [] false) = true := by decide +kernel
theorem test_witness_EffectEvents_sum : worksOn (planned0 (.sum [(false, 0), (true, 1)] false false) 0 0 [] false) = true := by decide +kernel
theorem test_witness_EffectEvents_emulated : (let v := planned0 product0 0 1 [] true
    let s := atWork v
    let u := s.onDie 0 (fun x => { x with services := x.services.filter fun e => e.2 != .step 0 v.id })
    ((s.core 0 0).evals.find? fun v => v.busy && v.back.isNone) = some v ∧ ((s.die 0).sysreg 0x100).getLsbD 1 = false ∧ (s.ctx v.who.ctx).run ≠ 2 ∧ (s.ctx v.who.ctx).run ≠ 3 ∧ u.stepOpen v = true ∧
      u.spaceFor v (v.pnodes.getD 2 (pieceOf0 product0 [])) (v.steps.headD ⟨0, [], 0, 0, 0, false, 0⟩) = (u, none)) := by decide +kernel
/-- The same in INT32: 2 and 3, the accumulator 0 or 6. -/
def planned1 (op : POp) (k0 k1 : Nat) (vals : List (Nat × List Sys2Proof.Num)) : Eval :=
  { planned0 op k0 k1 vals false with pnodes := [pieceOf0 (.const 1 true 2#32) [], pieceOf0 (.const 1 true 3#32) [], pieceOf0 op vals] }
def product1 : POp := .mul 0 1 1 0 2 true false false none
def worksOnInts (v : Eval) : Bool := decide ((atWork v).arrayReady 0 0 = [v]) && decide ((atWork v).sameReads 0 0 v = []) &&
  decide ((atWork v).spaceFor v (v.pnodes.getD 2 (pieceOf0 product1 [])) (v.steps.headD ⟨0, [], 0, 0, 0, false, 0⟩) = (atWork v, none)) &&
  [0, 1].all fun k => [0, 1].all fun a => [0, 1].all fun b => (atWork v).pieceAt who0 v.pnodes k a b == .val (numOfInt (if k = 0 then 2 else 3)) false false
theorem test_witness_EffectEvents_int : worksOnInts (planned1 product1 0 1 []) = true ∧ (atWork (planned1 product1 0 1 [])).startValue who0 none true 0 0 = numOfInt 0 ∧
    worksOnInts (planned1 product1 1 2 [(stripKey 0 0, [numOfInt 6, numOfInt 6])]) = true ∧ worksOnInts (planned1 (.had 0 1 true false) 0 0 []) = true ∧
    worksOnInts (planned1 (.sum [(false, 0), (true, 1)] true false) 0 0 []) = true := by decide +kernel
/-- A MACC of a node whose values are there, a product or none. -/
def macc0 : Eval := { eval0 false with planned := true, kind := .macc 9 3 false false none, pnodes := [pieceOf0 (.kept 1 false) values0] }
def macced (op : NodeOp) : State :=
  { rig with dies := [(0, { die0 with cores := [(0, { core0 with nodes := [(1, { node0 with op := op }), (2, node0)], queues := [(4, [.eval 90])], evals := [macc0] })] })] }
theorem test_witness_EffectEvents_macc : ∀ op ∈ [NodeOp.mat, .mul 2 2 false false false], (macced op).arrayReady 0 0 = [macc0] ∧ (macced op).sameReads 0 0 macc0 = [] ∧
    (macced op).discards macc0 = none ∧ ((macced op).maccBad macc0).isNone = true ∧ look? ((macced op).core 0 0).nodes 1 = some { node0 with op := op } ∧
    (macced op).inst? 0 0 = some inst0 := by decide +kernel
/-- A MACC of an INT32 node whose values are there. -/
def macc1 : Eval := { macc0 with kind := .macc 9 3 true true none, pnodes := [pieceOf0 (.kept 1 false) [(stripKey 0 0, [numOfInt 5, numOfInt (-7)]), (stripKey 1 0, [numOfInt 0, numOfInt 1])]] }
def macced1 : State := { macced .mat with dies := [(0, { die0 with cores := [(0, { core0 with nodes := [(1, { node0 with fmt := fINT32 })], queues := [(4, [.eval 90])], evals := [macc1] })] })] }
theorem test_witness_EffectEvents_macc_int : macced1.arrayReady 0 0 = [macc1] ∧ macced1.sameReads 0 0 macc1 = [] ∧ macced1.discards macc1 = none ∧
    (macced1.maccBad macc1).isNone = true ∧ macc1.result 0 1 = numOfInt (-7) ∧ macced1.inst? 0 0 = some inst0 := by decide +kernel

/-- An instance at its deadline, a shootdown, and a core that is drained or scanned. -/
def late : State := { placed gang0 with time := 1, dies := [(0, { die0 with insts := [(0, { inst0 with deadline := some 0 })] })] }
def shoot0 : Shoot := ⟨1, 0x5000, 12, false, 0, []⟩
def shooting : State := { rig with dies := [(0, { die0 with shoots := [shoot0] })] }
def scanning (k : Nat) (at_ : Option Nat) : State := { placed gang0 with time := 100000, dies := [(0, { die0 with cores := [(0, { core0 with scan := k, drainAt := at_ }), (1, { Core.idle with scan := k })] })] }
theorem test_witness_EffectEvents_dies : late.inst? 0 0 = some { inst0 with deadline := some 0 } ∧ 0 < late.time + (late.die 0).dtcBase ∧
    inst0.overruns.getLsbD 3 = false ∧ (late.ctx inst0.ctx).run ≠ 3 ∧ late.hasTasks 0 0 = true ∧ (shooting.die 0).shoots = shoot0 :: [] ∧
    shooting.shootBusy 0 shoot0 = false ∧ ((scanning 1 none).core 0 1).scan = 1 ∧ (scanning 1 none).coreHolds 0 1 = false ∧
    (scanning 1 (some 0)).coreHolds 0 0 = true ∧ ((scanning 1 (some 0)).core 0 0).drainAt = some 0 ∧ 0 + 100000 ≤ (scanning 1 (some 0)).time ∧
    ((scanning 3 none).core 0 1).scan = 3 := by decide

def msg0 : Msg := ⟨[0, 1, 0, 0], []⟩
def fab0 (c : FabClient) : FabOut := ⟨95, c, 0, 7, 0x100, 0⟩
/-- A message from die 1, a line of die 1 arriving and one held, a window for package 9 on the first pages, and a request to package 7. -/
def between : State :=
  { rig with time := 100000, drain := [storing], msgs := [(4, [msg0])]
             dies := [(0, { die0 with pendingFill := [(0x100, ⟨[1#8], false⟩, [0, 0, 0, 0])], replicas := [(0x101, ⟨[2#8], false⟩)] })]
             pkg := { rig.pkg with fabwin := [(0, 0x1000000000#64), (1, 0x903#64)], fabricOut := [fab0 (.out 50)] } }
theorem test_witness_PackageEvents : between.cur = none ∧ look [] between.msgs (1 * 4 + 0) = msg0 :: [] ∧ between.mayApply 1 0 msg0 = true ∧ msg0.writes = [] ∧
    ((between.die 0).pendingFill.find? fun e => e.1 == 0x100) = some (0x100, ⟨[1#8], false⟩, [0, 0, 0, 0]) ∧ (between.die 0).replicas.length < l2Lines ∧ between.covers 0 [0, 0, 0, 0] = true ∧
    (look? (between.die 0).replicas 0x101).isSome = true ∧ look [] rig.msgs (1 * 4 + 0) = [] ∧ between.admits 9 0xFC0 64 true = true ∧
    between.admits 8 0xFC0 64 true = false ∧ 0xFC0 % 64 + 64 ≤ 64 ∧ (between.pkg.fabricOut.find? fun q => q.id == 95) = some (fab0 (.out 50)) ∧
    (between.drain.find? fun q => q.id == 50) = some storing ∧ storing.acts.filter Act.isAtom = [] ∧ between.isFirst (fab0 (.out 50)) = true ∧ (rig.drain.find? fun q => q.id == 50) = none ∧
    (fab0 (.out 50)).sentAt + (if between.pkg.fabtimeout = 0#16 then 100 else between.pkg.fabtimeout.toNat) * 1000 ≤ between.time := by decide

/-- A message with a write of its home, or of a replica of the line at `2^36`, and one before which another request stands. -/
def carrying (writes : List (Nat × Cargo)) : State :=
  { between with msgs := [(4, [{ msg0 with writes := writes }])], dies := [(0, { between.die 0 with replicas := [(2 ^ 30, ⟨List.replicate 64 5#8, false⟩)] })] }
theorem test_witness_PackageEvents_writes : (∀ e ∈ [((50 : Nat), (0x400 : Nat)), (0, 2 ^ 36)], let ws := [(e.1, Cargo.acts [.write ⟨.phys e.2, 0#64, [1#8], false⟩])]
      (carrying ws).mayApply 1 0 { msg0 with writes := ws } = true) ∧ homeDie 0x400 = 0 ∧ homeDie (2 ^ 36) ≠ 0 ∧
    isHost 0x400 = false ∧ isHost (2 ^ 36) = false ∧ ((carrying []).drain.find? fun q => q.id == 50) = some storing ∧ look 0 (carrying []).owners (0x400 / 64) = 0 ∧
    (carrying []).dies.all (fun e => !e.2.replicates (0x400 / 64)) = true ∧ look? ((carrying []).die 0).replicas (2 ^ 36 / 64) = some ⟨List.replicate 64 5#8, false⟩ := by decide +kernel
theorem test_witness_PackageEvents_windows : between.admits 9 0x200 4 false = true ∧ between.admits 8 0x200 4 false = false ∧ look 0 between.owners (0x200 / 64) = 0 ∧
    between.badN 0 256 (.phys 0x200) 4 = false ∧
    ({ between with pkg := { between.pkg with fabricOut := [{ fab0 (.out 50) with id := 94 }, fab0 (.out 50)] } } : State).isFirst (fab0 (.out 50)) = false := by decide

theorem test_witness_StepKeepsMemoryCanonical : CanonicalMemory (issuing arch0 0xCC000003#32) ∧
    ∃ t, step (issuing arch0 0xCC000003#32) = .next t :=
  ⟨⟨by decide, by decide⟩, (((issuing arch0 0xCC000003#32).tagWord (running arch0 0xCC000003#32)).advance 0xCC000003#32).settled (issuing arch0 0xCC000003#32), rfl⟩

/-! ## Single steps

What an instruction leaves of the gang, from the rules named; registers that are not given hold 0. -/

/-- The registers and clause of the gang after an instruction. -/
noncomputable def after {α : Type} (i : Instr) (a : Arch) (f : Running → α) : Option α :=
  match exec i (issuing a 0#32) with
  | .next t => t.cur.map f
  | _ => none

/-- Two scalars, and lanes 0 and 1 of v2 and v3. -/
def regs2 (x y : DWord) : Arch := { arch0 with s := [(1, x), (2, y)] }
def lanes2 (a b c d : Word) : Arch := { arch0 with occ := 3#32, exec := 3#32, v := [(64, a), (65, b), (96, c), (97, d)] }
noncomputable def sres (i : Instr) (a : Arch) : Option DWord := after i a fun r => r.gang.arch.sget 0 3
noncomputable def vres (i : Instr) (a : Arch) : Option (Word × Word) := after i a fun r => (r.gang.arch.vget 4 0, r.gang.arch.vget 4 1)

-- R40: modulo 2^64; the high product is signed; division by zero gives -1, and the most negative number over -1 itself
theorem test_sadd_wraps : sres (.sadd 3 1 2) (regs2 0xFFFFFFFFFFFFFFFF#64 2#64) = some 1#64 := by decide +kernel
theorem test_smulh_signed : sres (.smulh 3 1 2) (regs2 0xFFFFFFFFFFFFFFFF#64 2#64) = some 0xFFFFFFFFFFFFFFFF#64 := by decide +kernel
theorem test_smulhu_unsigned : sres (.smulhu 3 1 2) (regs2 0xFFFFFFFFFFFFFFFF#64 2#64) = some 1#64 := by decide +kernel
theorem test_sdiv_zero : sres (.sdiv 3 1 2) (regs2 5#64 0#64) = some 0xFFFFFFFFFFFFFFFF#64 := by decide +kernel
theorem test_sdiv_overflow : sres (.sdiv 3 1 2) (regs2 0x8000000000000000#64 0xFFFFFFFFFFFFFFFF#64) = some 0x8000000000000000#64 := by decide +kernel
theorem test_srem_sign : sres (.srem 3 1 2) (regs2 0xFFFFFFFFFFFFFFF9#64 2#64) = some 0xFFFFFFFFFFFFFFFF#64 := by decide +kernel
theorem test_ssra_amount : sres (.ssra 3 1 2) (regs2 0x8000000000000000#64 65#64) = some 0xC000000000000000#64 := by decide +kernel
theorem test_sslt_signed : sres (.sslt 3 1 2) (regs2 0xFFFFFFFFFFFFFFFF#64 1#64) = some 1#64 := by decide +kernel
theorem test_sclz_zero : sres (.sclz 3 1) (regs2 0#64 0#64) = some 64#64 := by decide +kernel
-- R41, R42: immediates are sign-extended; s0 takes no value (R21)
theorem test_ssltiu_extends : sres (.ssltiu 3 1 0x3FF#10) (regs2 5#64 0#64) = some 1#64 := by decide +kernel
theorem test_slui_extends : sres (.slui 3 0x80000#20) (regs2 0#64 0#64) = some 0xFFFFFFFF80000000#64 := by decide +kernel
theorem test_sadd_s0 : after (.sadd 0 1 2) (regs2 1#64 2#64) (fun r => r.gang.arch) = some (regs2 1#64 2#64) := by decide +kernel
-- R43, R44: targets count words from the header; calls push the word after the clause
theorem test_bz_taken : after (.bz 1 5#18) (regs2 0#64 0#64) (fun r => r.cl.next) = some [(0, 20#64)] := by decide +kernel
theorem test_blt_falls_through : after (.blt 1 5#18) (regs2 1#64 0#64) (fun r => r.cl.next) = some [(0, 8#64)] := by decide +kernel
theorem test_call_pushes : after (.call 0x3FFFF#18) (regs2 0#64 0#64) (fun r => (r.gang.arch.depth, r.cl.next)) = some (1, [(0, 0xFFFFFFFFFFFFFFFC#64)]) := by
  decide +kernel
-- R81 to R86: words, modulo 2^32, the destination read before it is written
theorem test_vsub_wraps : vres (.vsub 4 2 3 0 0) (lanes2 0#32 5#32 1#32 2#32) = some (0xFFFFFFFF#32, 3#32) := by decide +kernel
theorem test_vmulh_signed : vres (.vmulh 4 2 3 0 0) (lanes2 0xFFFFFFFF#32 0x40000000#32 2#32 4#32) = some (0xFFFFFFFF#32, 1#32) := by decide +kernel
theorem test_vabsd_signed : vres (.vabsd 4 2 3 0 0) (lanes2 0xFFFFFFFF#32 7#32 1#32 3#32) = some (2#32, 4#32) := by decide +kernel
theorem test_vdot4_signed : vres (.vdot4 4 2 3 0 0) (lanes2 0xFF000001#32 0x02020202#32 0x02000003#32 0x01010101#32) = some (1#32, 8#32) := by decide +kernel
theorem test_vunpk_signed : vres (.vunpk 4 2 5#3) (lanes2 0x00008000#32 0x00007F00#32 0#32 0#32) = some (0xFFFFFF80#32, 0x7F#32) := by decide +kernel
theorem test_vlane : vres (.vlane 4 0 0) (lanes2 0#32 0#32 0#32 0#32) = some (0#32, 1#32) := by decide +kernel
theorem test_vcmp_less : after (.vcmp 9 2 3 2#3) (lanes2 0xFFFFFFFF#32 5#32 1#32 5#32) (fun r => (r.gang.arch.pget 9 0, r.gang.arch.pget 9 1)) = some (true, false) := by
  decide +kernel
-- R67, R88, R90: 1 + 2 = 3; 1 + 2^-24 is a tie that goes to even; a NaN compares unordered; R92: the bit of +0 is 4
theorem test_fadd_exact : vres (.fadd 4 2 3 0 0) (lanes2 0x3F800000#32 0x3F800000#32 0x40000000#32 0x33800000#32) = some (0x40400000#32, 0x3F800000#32) := by
  decide +kernel
theorem test_fmul_negative : vres (.fmul 4 2 3 0 0) (lanes2 0xC0000000#32 0x7F800000#32 0x40400000#32 0#32) = some (0xC0C00000#32, 0x7FC00000#32) := by decide +kernel
theorem test_fcls_zero : vres (.fcls 4 2 0 0) (lanes2 0#32 0xFF800000#32 0#32 0#32) = some (0x10#32, 1#32) := by decide +kernel
-- R104, R107, R111: lane exchange, a sum for every lane, an inclusive scan
theorem test_shflx_swaps : vres (.shflx 4 2 1 0 0) (lanes2 7#32 8#32 0#32 0#32) = some (8#32, 7#32) := by decide +kernel
theorem test_red_add : vres (.redAdd 4 2 0 0) (lanes2 7#32 8#32 0#32 0#32) = some (15#32, 15#32) := by decide +kernel
theorem test_scan_add : vres (.scanAdd 4 2 0 0) (lanes2 7#32 8#32 0#32 0#32) = some (7#32, 15#32) := by decide +kernel
theorem test_vbal : sres (.vbal 3 9) { lanes2 0#32 0#32 0#32 0#32 with p := [(9, 2#32)] } = some 2#64 := by decide +kernel
-- R49: MPUSH saves the mask and narrows it
theorem test_mpush : after (.mpush 3 9) { lanes2 0#32 0#32 0#32 0#32 with p := [(9, 2#32)] } (fun r => (r.gang.arch.exec, r.gang.arch.sget 0 3)) = some (2#32, 3#64) := by
  decide +kernel
-- R127: a store is held and memory stays; R271: an enqueue is held with its record filled to the stage's words
theorem test_sst_held : after (.sstW 1 2 0) (regs2 9#64 0x400#64) (fun r => r.gang.held.map fun h => h.eff) = some [.store 100 [[9#8, 0#8, 0#8, 0#8]]] := by decide +kernel
theorem test_enqv_padded : after (.enqv 2 0 0) (lanes2 7#32 8#32 0#32 0#32) (fun r => r.gang.held.map fun h => h.eff) =
    some [.enq 0 [7#32, 0#32, 0#32, 0#32], .enq 0 [8#32, 0#32, 0#32, 0#32]] := by decide +kernel
-- R53: LANEOCC is the occupancy; R54: NOP changes nothing
theorem test_sysr_laneocc : sres (.sysr 3 2#12) (lanes2 0#32 0#32 0#32 0#32) = some 3#64 := by decide +kernel
theorem test_nop : exec .nop (issuing arch0 0#32) = .next (issuing arch0 0#32) := rfl
-- R229: G1's 28 lanes on a port of 29 good lanes, and on one of 26
theorem test_lanes_one_pass : ((lanePlaces 0x7F#8 0xEFDFFF7F#32).map fun e => e.2.1) = List.replicate 28 0 ∧
    ((lanePlaces 0x7F#8 0xEFDFFF7F#32).map fun e => e.2.2) = List.range' 0 7 ++ List.range' 8 13 ++ List.range' 22 6 ++ [29, 30] := by decide
theorem test_lanes_two_passes : ((lanePlaces 0x7F#8 0xBDEFBDF7#32).drop 20) =
    [(20, 0, 24), (21, 0, 26), (22, 0, 27), (23, 0, 28), (24, 0, 29), (25, 0, 31), (26, 1, 0), (27, 1, 1)] := by decide

end Sys2Proof.Tests
end

/-!
# Memory stays in canonical form

Memory and its poison marks change through `State.setByte` and `State.setPoison` only, and these keep the canonical form (log 3). So each
operation of the model has one lemma here, named after it in the namespace `CanonicalMemory`: from a state in canonical form it goes to such
a state, or, where it answers an outcome, the outcome `Lands` in one. An operation's lemma cites those of the operations that it calls; the
lemma `CanonicalMemory.exec` collects the instructions and events, and `CanonicalMemory.machineStep` a whole step.
-/

namespace Sys2Proof

open Machine

/-! ## Outcomes and folds -/

/-- An outcome after which memory is in canonical form: a state in which it is, or none. -/
inductive Lands : Res → Prop
  | next {t : State} (h : CanonicalMemory t) : Lands (.next t)
  | fault {f : Fault} : Lands (.fault f)
  | refused {r : Refusal} : Lands (.refused r)

theorem Lands.canonical {t : State} : Lands (.next t) → CanonicalMemory t
  | .next h => h

theorem Lands.ite {c : Prop} [Decidable c] {x y : Res} (hx : Lands x) (hy : Lands y) : Lands (if c then x else y) := by
  split
  · exact hx
  · exact hy

/-- What every round of a fold keeps, the fold keeps. -/
theorem foldl_keeps {α β : Type} {P : β → Prop} {f : β → α → β} (hf : ∀ b a, P b → P (f b a)) (l : List α) {b : β} (h : P b) :
    P (l.foldl f b) :=
  List.foldlRecOn l f h fun b hb a _ => hf b a hb

namespace CanonicalMemory

variable {s : State}

theorem foldl {α : Type} {f : State → α → State} {l : List α} (hf : ∀ t a, CanonicalMemory t → CanonicalMemory (f t a)) (h : CanonicalMemory s) :
    CanonicalMemory (l.foldl f s) :=
  foldl_keeps hf l h

theorem ite {c : Prop} [Decidable c] {t : State} (h : CanonicalMemory s) (h' : CanonicalMemory t) : CanonicalMemory (if c then s else t) := by
  split
  · exact h
  · exact h'

/-! ## Writes of memory -/

theorem setByte {pa b} (h : CanonicalMemory s) : CanonicalMemory (s.setByte pa b) := ⟨setByte_wf s pa b h.1, h.2⟩

theorem setPoison {pa b} (h : CanonicalMemory s) : CanonicalMemory (s.setPoison pa b) := ⟨h.1, mapWf_put _ _ _ _ h.2⟩

theorem setBytes : ∀ {bs s pa}, CanonicalMemory s → CanonicalMemory (s.setBytes pa bs)
  | [], _, _, h => h
  | _ :: _, _, _, h => (h.setByte.setBytes :)

theorem write {d i l b} (h : CanonicalMemory s) : CanonicalMemory (s.write d i l b) := by
  cases l with
  | phys => exact h.setByte
  | scratch | acc | fabric => exact h

theorem writeN : ∀ {bs s d i l}, CanonicalMemory s → CanonicalMemory (s.writeN d i l bs)
  | [], _, _, _, _, h => h
  | _ :: _, _, _, _, _, h => (h.write.writeN :)

theorem announce {d vec sends} (h : CanonicalMemory s) : CanonicalMemory (s.announce d vec sends) := by
  refine foldl (fun t e ht => ?_) h
  split <;> exact ht

theorem refresh {pa bs} (h : CanonicalMemory s) : CanonicalMemory (s.refresh pa bs) :=
  foldl (fun _ _ ht => .ite ht ht.announce) h

theorem device {pa bs} (h : CanonicalMemory s) : CanonicalMemory (s.device pa bs) := h.setBytes.refresh

theorem writeVa {d ctx va bs} (h : CanonicalMemory s) : CanonicalMemory (s.writeVa d ctx va bs) := by
  refine foldl (fun t c ht => ?_) h
  split
  · split
    · exact ht.device
    · exact ht
  · exact ht

/-! ## Updates that leave memory as it is -/

theorem onDie {d f} (h : CanonicalMemory s) : CanonicalMemory (s.onDie d f) := h
theorem onCore {d c f} (h : CanonicalMemory s) : CanonicalMemory (s.onCore d c f) := h
theorem onInst {d i f} (h : CanonicalMemory s) : CanonicalMemory (s.onInst d i f) := h
theorem onCtx {c f} (h : CanonicalMemory s) : CanonicalMemory (s.onCtx c f) := h
theorem onGang {gid f} (h : CanonicalMemory s) : CanonicalMemory (s.onGang gid f) := h
theorem dropGang {gid} (h : CanonicalMemory s) : CanonicalMemory (s.dropGang gid) := h
theorem fresh (h : CanonicalMemory s) : CanonicalMemory s.fresh.2 := h
theorem request {d kind ctx addr info cl} (h : CanonicalMemory s) : CanonicalMemory (s.request d kind ctx addr info cl).2 := h
theorem setGroup {id g} (h : CanonicalMemory s) : CanonicalMemory (s.setGroup id g) := h
theorem setCounter {id c} (h : CanonicalMemory s) : CanonicalMemory (s.setCounter id c) := h
theorem undoGraph {g} (h : CanonicalMemory s) : CanonicalMemory (s.undoGraph g) := h
theorem sweep {d core} (h : CanonicalMemory s) : CanonicalMemory (s.sweep d core) := h
theorem yieldPort {r} (h : CanonicalMemory s) : CanonicalMemory (s.yieldPort r) := h
theorem setRun {r} (h : CanonicalMemory s) : CanonicalMemory (s.setRun r) := h
theorem setArch {r a} (h : CanonicalMemory s) : CanonicalMemory (s.setArch r a) := h
theorem endBy {r kind op op2} (h : CanonicalMemory s) : CanonicalMemory (s.endBy r kind op op2) := h
theorem goTo {r f} (h : CanonicalMemory s) : CanonicalMemory (s.goTo r f) := h
theorem holding {r entries e} (h : CanonicalMemory s) : CanonicalMemory (s.holding r entries e) := h

/-! ## Choices and translations -/

theorem pick {n} (h : CanonicalMemory s) : CanonicalMemory (s.pick n).2 := by
  unfold State.pick
  split <;> exact h

theorem fillWalk {d es} (h : CanonicalMemory s) : CanonicalMemory (s.fillWalk d es) := .ite h h

theorem translate {d c ctx va} (h : CanonicalMemory s) : CanonicalMemory (s.translate d c ctx va).2 := by
  unfold State.translate
  split
  · exact h
  · dsimp only
    split <;> exact h.fillWalk

theorem crossed {d core l} (h : CanonicalMemory s) : CanonicalMemory (s.crossed d core l) := by cases l <;> exact h

theorem findNow {d c inst ctx a kind} (h : CanonicalMemory s) : CanonicalMemory (s.findNow d c inst ctx a kind).2 := by
  unfold State.findNow
  split
  · have ht := h.translate (d := d) (c := c) (ctx := ctx) (va := a.toNat)
    split <;> simpa [*] using ht
  · exact h

theorem heal {d inst l n} (h : CanonicalMemory s) : CanonicalMemory (s.heal d inst l n) := by cases l <;> exact h

/-! ## Records and task lists -/

theorem send {src d inst stage root flight r after handler} (h : CanonicalMemory s) :
    CanonicalMemory (s.send src d inst stage root flight r after handler) :=
  .ite h h

theorem reportList {d slot ctx fromHandler root f words area after trap} (h : CanonicalMemory s) :
    CanonicalMemory (s.reportList d slot ctx fromHandler root f words area after trap) := by
  unfold State.reportList
  split
  · exact .ite h h.send
  · exact h

theorem report {d slot ctx fromHandler root f words} (h : CanonicalMemory s) : CanonicalMemory (s.report d slot ctx fromHandler root f words) :=
  h.reportList

theorem putList {d ctx bs} (h : CanonicalMemory s) : CanonicalMemory (s.putList d ctx bs).2 := by
  unfold State.putList
  dsimp only
  split
  · exact h.onCtx.writeVa
  · exact h

theorem taskList {d ctx nums} (h : CanonicalMemory s) : CanonicalMemory (s.taskList d ctx nums).2 := h.putList

/-! ## Groups and tasks -/

theorem groupCheck {id} (h : CanonicalMemory s) : CanonicalMemory (s.groupCheck id) := by
  unfold State.groupCheck
  split
  · exact h
  · exact .ite h (.ite h h)

theorem leave {id t} (h : CanonicalMemory s) : CanonicalMemory (s.leave id t) := by
  unfold State.leave
  split
  · exact h
  · exact .ite h.setGroup.groupCheck h

theorem endTask {d inst stage ctx num area trap} (h : CanonicalMemory s) : CanonicalMemory (s.endTask d inst stage ctx num area trap) := by
  unfold State.endTask
  extract_lets s0 me s1
  have h0 : CanonicalMemory s0 := by unfold s0; split <;> exact h
  have h1 : CanonicalMemory s1 := foldl (fun _ _ ht => ht.leave) h0
  exact h1

theorem endTasks {d inst stage ctx ts} (h : CanonicalMemory s) : CanonicalMemory (s.endTasks d inst stage ctx ts) :=
  foldl (fun _ _ ht => ht.endTask) h

theorem vacate {gid lanes} (h : CanonicalMemory s) : CanonicalMemory (s.vacate gid lanes) := by
  unfold State.vacate
  split
  · exact h
  · exact .ite h h

theorem retire {gid lanes} (h : CanonicalMemory s) : CanonicalMemory (s.retire gid lanes) := by
  unfold State.retire
  split
  · exact h
  · exact h.endTasks.vacate

theorem freeSlots {g} (h : CanonicalMemory s) : CanonicalMemory (s.freeSlots g) :=
  foldl (fun _ _ ht => ht) (foldl (fun _ _ ht => ht) h)

theorem noteSample {g lost} (h : CanonicalMemory s) : CanonicalMemory (s.noteSample g lost) := .ite h h

theorem discard {gid} (h : CanonicalMemory s) : CanonicalMemory (s.discard gid) := by
  unfold State.discard
  split
  · exact h
  · exact h.freeSlots.undoGraph.noteSample.onGang

/-! ## Instances -/

theorem leaveAll {gs : List Gang} (h : CanonicalMemory s) : CanonicalMemory (gs.foldl (fun (s : State) g => g.lanes.foldl (fun (s : State) t =>
    (s.groupsWith g.die ⟨g.inst, g.stage, t.2.num⟩).foldl (fun (s : State) id => s.leave id ⟨g.inst, g.stage, t.2.num⟩) s) s) s) :=
  foldl (fun _ _ ht => foldl (fun _ _ hu => foldl (fun _ _ hv => hv.leave) hu) ht) h

theorem endInst {d slot how} (h : CanonicalMemory s) : CanonicalMemory (s.endInst d slot how) := by
  unfold State.endInst
  split
  · exact h
  · extract_lets _ _ _ doomed s1 s2
    have h1 : CanonicalMemory s1 := foldl (fun _ _ ht => ht.discard) h
    exact h1.leaveAll (gs := doomed)

theorem instanceRecord {d slot f task stage trap} (h : CanonicalMemory s) : CanonicalMemory (s.instanceRecord d slot f task stage trap) := by
  unfold State.instanceRecord
  split
  · exact h
  · exact h.reportList

theorem strike {d slot kind f task stage} (h : CanonicalMemory s) : CanonicalMemory (s.strike d slot kind f task stage) := by
  unfold State.strike
  split
  · exact h
  · refine .ite h ?_
    dsimp only
    split
    · exact h.onInst.endInst
    · exact h.onInst.onInst.instanceRecord
    · exact .ite h.onInst.instanceRecord.onInst h.onInst.instanceRecord.onInst

theorem charge {d slot stage cls nums n} (h : CanonicalMemory s) : CanonicalMemory (s.charge d slot stage cls nums n) := by
  unfold State.charge
  split
  · exact h
  · refine .ite h ?_
    extract_lets limited s1 touch s2
    have h2 : CanonicalMemory s2 := .ite h h
    refine .ite h2 (.ite h2.strike (.ite ?_ h2))
    split
    · exact h2.strike
    · exact h2

/-! ## Faults -/

theorem parkForService {gid f} (h : CanonicalMemory s) : CanonicalMemory (s.parkForService gid f) := by
  unfold State.parkForService
  split
  · exact h
  · exact h.discard.request.onGang

theorem containCohort {d slot stage cluster f site siteIdx} (h : CanonicalMemory s) :
    CanonicalMemory (s.containCohort d slot stage cluster f site siteIdx).1 := by
  unfold State.containCohort
  extract_lets x cohort tasks ours coming ids s1 s2 gathered s3 s3' s3'' s4 s5
  have h1 : CanonicalMemory s1 := foldl (fun _ _ ht => ht.discard) h
  have h2 : CanonicalMemory s2 := foldl (fun _ _ ht => ht) h1
  have h3 : CanonicalMemory s3'' := foldl (fun _ _ ht => ht) (s := s3') h2
  have h4 : CanonicalMemory s4 := foldl (fun t id ht => by split <;> exact ht) h3
  have h5 : CanonicalMemory s5 := foldl (fun _ _ ht => foldl (fun _ _ hu => hu.leave) ht) h4
  split
  · exact h5
  · dsimp only
    split
    · exact h5
    · exact h5.onInst.taskList.reportList

theorem contain {n d slot stage core f site siteIdx} (h : CanonicalMemory s) : CanonicalMemory (s.contain n d slot stage core f site siteIdx) := by
  induction n generalizing s d slot stage core f site siteIdx with
  | zero => exact h
  | succ n ih =>
    unfold State.contain
    dsimp only
    refine foldl (fun t id ht => foldl (fun u g hu => .ite (ih hu) hu) ht) (.ite ?_ ?_) <;> exact h.containCohort

theorem containGang {g f site siteIdx} (h : CanonicalMemory s) : CanonicalMemory (s.containGang g f site siteIdx) := h.contain

theorem firmwareFault {gid f} (h : CanonicalMemory s) : CanonicalMemory (s.firmwareFault gid f) := by
  unfold State.firmwareFault
  split
  · exact h
  · exact .ite h.discard.dropGang.onDie h.discard.onDie.onGang

theorem endFlight {gid f site siteIdx} (h : CanonicalMemory s) : CanonicalMemory (s.endFlight gid f site siteIdx) := by
  unfold State.endFlight
  split
  · exact h
  · exact h.discard.retire.report

theorem takeFault {gid f consumed site siteIdx} (h : CanonicalMemory s) : CanonicalMemory (s.takeFault gid f consumed site siteIdx) := by
  unfold State.takeFault
  split
  · exact h
  · exact .ite h.firmwareFault (.ite h.parkForService (.ite h.discard.containGang h.endFlight))

theorem chargeClause {r} (h : CanonicalMemory s) : CanonicalMemory (s.chargeClause r) := .ite h h.charge

theorem pause {r lines loads} (h : CanonicalMemory s) : CanonicalMemory (s.pause r lines loads) := h.yieldPort.chargeClause

theorem raiseAt {r code info consumed} (h : CanonicalMemory s) : CanonicalMemory (s.raiseAt r code info consumed) :=
  h.yieldPort.chargeClause.takeFault

theorem raise {r code info} (h : CanonicalMemory s) : Lands (s.raise r code info) := .next h.raiseAt

theorem raisePoison {r info} (h : CanonicalMemory s) : Lands (s.raisePoison r info) := .next h.raiseAt

theorem raiseRead {r code info} (h : CanonicalMemory s) : Lands (s.raiseRead r code info) := .next h.raiseAt

theorem illins {r reason} (h : CanonicalMemory s) : Lands (s.illins r reason) := h.raise

end CanonicalMemory

theorem Lands.issue {s : State} {f : Running → Res} (hf : ∀ r, Lands (f r)) : Lands (s.issue f) := by
  unfold State.issue
  split
  · exact hf _
  · exact .fault

theorem CanonicalMemory.checked {s : State} {r u k} (h : CanonicalMemory s) (hk : Lands k) : Lands (s.checked r u k) := by
  unfold State.checked
  split
  · exact h.illins
  · dsimp only
    split
    · exact h.pick.raise
    · split
      · exact h.raisePoison
      · exact hk

namespace CanonicalMemory

variable {s : State}

/-! ## Results that carry a state -/

theorem of_eq_mk {α : Type} {p : α × State} {a : α} {t : State} (h : CanonicalMemory p.2) (e : p = (a, t)) : CanonicalMemory t := by
  subst e
  exact h

theorem of_eq_mk_fst {α : Type} {p : State × α} {a : α} {t : State} (h : CanonicalMemory p.1) (e : p = (t, a)) : CanonicalMemory t := by
  subst e
  exact h

theorem of_eq_mk₃ {α β : Type} {p : α × State × β} {a : α} {t : State} {b : β} (h : CanonicalMemory p.2.1) (e : p = (a, t, b)) :
    CanonicalMemory t := by
  subst e
  exact h

theorem foldl_fst {α β : Type} {f : State × β → α → State × β} {l : List α} {acc : State × β}
    (hf : ∀ (b : State × β) a, CanonicalMemory b.1 → CanonicalMemory (f b a).1) (h : CanonicalMemory acc.1) : CanonicalMemory (l.foldl f acc).1 :=
  foldl_keeps (P := fun b : State × β => CanonicalMemory b.1) hf l h

theorem foldl_snd {α β : Type} {f : β × State → α → β × State} {l : List α} {acc : β × State}
    (hf : ∀ (b : β × State) a, CanonicalMemory b.2 → CanonicalMemory (f b a).2) (h : CanonicalMemory acc.2) : CanonicalMemory (l.foldl f acc).2 :=
  foldl_keeps (P := fun b : β × State => CanonicalMemory b.2) hf l h

/-! ## Registers and control -/

theorem scalarOp {d srcs f} (h : CanonicalMemory s) : Lands (s.scalarOp d srcs f) := .issue fun _ => h.checked (.next h.setArch)

theorem vectorOp {d g gn vr sr f} (h : CanonicalMemory s) : Lands (s.vectorOp d g gn vr sr f) := .issue fun _ => h.checked (.next h.setArch)

theorem predOp {p vr sr f} (h : CanonicalMemory s) : Lands (s.predOp p vr sr f) := .issue fun _ => h.checked (.next h.setArch)

theorem floatOp {d g gn vr f} (h : CanonicalMemory s) : Lands (s.floatOp d g gn vr f) := .issue fun _ => h.checked (.next h.setArch)

theorem doubleOp {d g gn vr f} (h : CanonicalMemory s) : Lands (s.doubleOp d g gn vr f) := .issue fun _ => h.checked (.next h.setArch)

theorem floatCmp {p vr sr f} (h : CanonicalMemory s) : Lands (s.floatCmp p vr sr f) := .issue fun _ => h.checked (.next h.setArch)

theorem setMask {a f} (h : CanonicalMemory s) : Lands (s.setMask a f) := .issue fun _ => h.checked (.next h.setArch)

theorem shuffleLanes {d a g n extra src} (h : CanonicalMemory s) : Lands (s.shuffleLanes d a g n extra src) :=
  .issue fun _ => h.checked (.next h.setArch)

theorem reduce {d a g n ident f} (h : CanonicalMemory s) : Lands (s.reduce d a g n ident f) := .issue fun _ => h.checked (.next h.setArch)

theorem scan {d a g n ident inclusive f} (h : CanonicalMemory s) : Lands (s.scan d a g n ident inclusive f) :=
  .issue fun _ => h.checked (.next h.setArch)

theorem scanFloat {d a g n inclusive} (h : CanonicalMemory s) : Lands (s.scanFloat d a g n inclusive) :=
  .issue fun _ => h.checked (.next h.setArch)

theorem reduceIdx {d a b g n ident key out} (h : CanonicalMemory s) : Lands (s.reduceIdx d a b g n ident key out) :=
  .issue fun _ => h.checked (.next h.setArch)

theorem branch {srcs o c} (h : CanonicalMemory s) : Lands (s.branch srcs o c) := .issue fun _ => h.checked (.next h.goTo)

theorem callTo {r f} (h : CanonicalMemory s) : Lands (s.callTo r f) := .ite h.illins (.next h.goTo)

theorem aligned {r a k} (h : CanonicalMemory s) (hk : Lands k) : Lands (s.aligned r a k) := by
  unfold State.aligned
  split
  · exact h.raise
  · exact hk

/-! ## Accesses -/

theorem makeReqs {g a} (h : CanonicalMemory s) : CanonicalMemory (s.makeReqs g a).2 := by
  unfold State.makeReqs
  split
  · exact foldl_snd (fun _ _ ht => ht.fresh) h
  · exact h

theorem placeAccess {g a} (h : CanonicalMemory s) : CanonicalMemory (s.placeAccess g a).2.2 := by
  unfold State.placeAccess
  dsimp only
  split
  · exact h.makeReqs
  · exact h

theorem startAccess {r a k} (h : CanonicalMemory s) (hk : ∀ t q, CanonicalMemory t → Lands (k t q)) : Lands (s.startAccess r a k) := by
  unfold State.startAccess
  split
  · exact h.raise
  · dsimp only
    split
    · exact h.raise
    · exact hk _ _ h.placeAccess

theorem readAt {d inst l n} (h : CanonicalMemory s) : CanonicalMemory (s.readAt d inst l n).2 := by cases l <;> exact h

theorem pinFor {d inst l} (h : CanonicalMemory s) : CanonicalMemory (s.pinFor d inst l) := by
  cases l with
  | scratch => exact .ite h h
  | phys | acc | fabric => exact h

theorem fabricRead {l} (h : CanonicalMemory s) : CanonicalMemory (s.fabricRead l).2 := by
  unfold State.fabricRead
  dsimp only
  split
  · exact h.pick
  · exact h

theorem readNow {r a n} (h : CanonicalMemory s) : CanonicalMemory (s.readNow r a n).2.1 := by
  unfold State.readNow
  dsimp only
  split
  next l _ t e =>
    have ht := h.findNow.of_eq_mk e
    split
    next e => exact ht.fabricRead.of_eq_mk e
    next e => exact (ht.fabricRead.of_eq_mk e).pinFor.readAt
  next e => exact h.findNow.of_eq_mk e
  next e => exact h.findNow.of_eq_mk e

end CanonicalMemory

/-- What settling a gang's accesses answers: an outcome, or the state in which the instruction goes on. -/
inductive SettlesCanonical : Res ⊕ (State × Running) → Prop
  | stops {x : Res} (h : Lands x) : SettlesCanonical (.inl x)
  | goesOn {t : State} {q : Running} (h : CanonicalMemory t) : SettlesCanonical (.inr (t, q))

namespace CanonicalMemory

theorem settleAccesses {as : List Access} : ∀ {s : State} {r : Running}, CanonicalMemory s → SettlesCanonical (s.settleAccesses r as) := by
  induction as with
  | nil => exact fun h => .goesOn h
  | cons a rest ih =>
    intro s r h
    unfold State.settleAccesses
    split
    · exact ih h
    · extract_lets t
      have ht : CanonicalMemory t := foldl (fun u p hu => .ite hu hu.findNow) h
      have hu := ht.placeAccess (g := r.gang) (a := a)
      dsimp only
      split
      · exact .stops (.next hu.yieldPort.chargeClause.takeFault)
      · split
        · exact .stops (.next hu.yieldPort.chargeClause.takeFault)
        · exact ih hu
      · exact ih hu

variable {s : State}

theorem withPlaced {r reads n k} (h : CanonicalMemory s) (hk : ∀ t q, CanonicalMemory t → Lands (k t q)) : Lands (s.withPlaced r reads n k) := by
  unfold State.withPlaced
  refine .ite (.next h.pause) ?_
  have hs := h.settleAccesses (r := r) (as := r.gang.accs)
  split
  next e =>
    rw [e] at hs
    cases hs with | stops hx => exact hx
  next e =>
    rw [e] at hs
    cases hs with | goesOn ht => exact .ite (.next ht.pause) (hk _ _ ht)

/-! ## Events of the die's services -/

theorem writeEvent {d} (h : CanonicalMemory s) : CanonicalMemory (s.writeEvent d) := by
  unfold State.writeEvent
  dsimp only
  split
  · exact h
  · exact .ite h h.device.onDie

theorem flushEvents {d} (h : CanonicalMemory s) : CanonicalMemory (s.flushEvents d) := foldl (fun _ _ ht => ht.writeEvent) h

theorem serviceDone {d tag} (h : CanonicalMemory s) : CanonicalMemory (s.serviceDone d tag) := by
  unfold State.serviceDone
  dsimp only
  split
  · exact h
  · split <;> exact h

theorem shootDone {d t} (h : CanonicalMemory s) : CanonicalMemory (s.shootDone d t) := by
  unfold State.shootDone
  extract_lets users s0 s1 s2 s3 a
  have h0 : CanonicalMemory s0 := foldl (fun _ _ ht => ht.discard) h
  have h3 : CanonicalMemory s3 := h0
  exact .ite h3 h3.device

theorem zeroHeaders {base stop n} : ∀ {s pos}, CanonicalMemory s → CanonicalMemory (s.zeroHeaders base stop n pos).2 := by
  induction n with
  | zero => exact fun h => h
  | succ n ih =>
    intro s pos h
    unfold State.zeroHeaders
    split
    · exact h
    · split
      · exact ih h.device
      · exact h

theorem putSample {d type body} (h : CanonicalMemory s) : CanonicalMemory (s.putSample d type body) := by
  unfold State.putSample
  extract_lets x base size head seq len wrap s1 pos
  have h1 : CanonicalMemory s1 := .ite h.device h
  dsimp only
  exact onDie (.ite h1.zeroHeaders.device.device.device h1.zeroHeaders.device.device)

theorem sample {d type body} (h : CanonicalMemory s) : CanonicalMemory (s.sample d type body) :=
  .ite h (.ite (.ite h.onDie.putSample h.onDie) h.putSample)

theorem mark {d} (h : CanonicalMemory s) : CanonicalMemory (s.mark d) := h.sample

theorem setSampling {d v} (h : CanonicalMemory s) : CanonicalMemory (s.setSampling d v) := .ite h h.onDie.mark

theorem sysWrite {d n v} (h : CanonicalMemory s) : CanonicalMemory (s.sysWrite d n v) := by
  unfold State.sysWrite
  split
  · exact h.setSampling
  · exact h.serviceDone
  all_goals exact h

/-! ## Instructions of the system and of the control core -/

theorem privilege {r n} (h : CanonicalMemory s) : Lands (s.privilege r n) := h.raise

theorem execSysr {d n} (h : CanonicalMemory s) : Lands (Machine.execSysr d n s) :=
  .issue fun _ => .ite h.illins (.ite h.privilege (.ite h.illins h.scalarOp))

theorem execSysw {a n} (h : CanonicalMemory s) : Lands (Machine.execSysw a n s) := by
  refine .issue fun r => .ite h.illins (.ite h.privilege (.ite h.illins (h.checked ?_)))
  split
  · exact .ite h.illins (.next h.setArch)
  · exact .ite h.illins (.next h.setArch)
  · exact .ite (.next h.sysWrite) h.illins

theorem control {a d k} (h : CanonicalMemory s) (hk : ∀ r v, Lands (k r v)) : Lands (s.control a d k) :=
  .issue fun _ => .ite h.privilege (h.checked (hk _ _))

theorem holdPend {r d e} (h : CanonicalMemory s) : Lands (s.holdPend r d e) := .next h

/-! ## Loads, stores and atomics -/

theorem load {r file reg cnt parts dests} (h : CanonicalMemory s) : Lands (s.load r file reg cnt parts dests) :=
  h.fresh.startAccess fun _ _ ht => .next ht.setRun

theorem store {r entries parts data wide} (h : CanonicalMemory s) : Lands (s.store r entries parts data wide) :=
  h.fresh.startAccess fun _ _ ht => .next ht.holding

theorem scalarLoad {d b o size sx} (h : CanonicalMemory s) : Lands (s.scalarLoad d b o size sx) := .issue fun _ => h.checked h.load

theorem scalarStore {d b o size} (h : CanonicalMemory s) : Lands (s.scalarStore d b o size) := .issue fun _ => h.checked h.store

theorem vectorLoad {d size sx vr sr addr} (h : CanonicalMemory s) : Lands (s.vectorLoad d size sx vr sr addr) :=
  .issue fun _ => h.checked h.load

theorem vectorStore {d size vr sr addr} (h : CanonicalMemory s) : Lands (s.vectorStore d size vr sr addr) :=
  .issue fun _ => h.checked h.store

theorem execVldbW {d b o} (h : CanonicalMemory s) : Lands (Machine.execVldbW d b o s) := by
  refine .issue fun r => h.checked ?_
  split <;> exact h.load

theorem tileChecked {r i ws st k} (h : CanonicalMemory s) (hk : Lands k) : Lands (s.tileChecked r i ws st k) := by
  unfold State.tileChecked
  split
  · exact h.raise
  · split
    · exact h.raise
    · exact hk

theorem tileLoad {hf b i o turn} (h : CanonicalMemory s) : Lands (s.tileLoad hf b i o turn) :=
  .issue fun _ => h.checked (h.tileChecked h.load)

theorem tileStore {hf b i o turn} (h : CanonicalMemory s) : Lands (s.tileStore hf b i o turn) :=
  .issue fun _ => h.checked (h.tileChecked h.store)

theorem atomicOp {minor d b e i order scope} (h : CanonicalMemory s) : Lands (s.atomicOp minor d b e i order scope) :=
  .issue fun _ => h.checked (h.fresh.startAccess fun _ _ ht => .next ht.holding)

theorem execWaita {d a} (h : CanonicalMemory s) : Lands (Machine.execWaita d a s) := by
  refine .issue fun r => h.checked ?_
  split
  · exact .next h.endBy
  · exact h.fresh.startAccess fun _ _ ht => .next ht.endBy

theorem execWaitq {d q} (h : CanonicalMemory s) : Lands (Machine.execWaitq d q s) := by
  refine .issue fun r => h.checked ?_
  split <;> exact .next h.endBy

theorem readBlocks {a ks f} (hf : ∀ t q bs, CanonicalMemory t → Lands (f t q bs)) :
    ∀ {s r bs}, CanonicalMemory s → Lands (s.readBlocks r a ks bs f) := by
  induction ks with
  | nil => exact fun h => hf _ _ _ h
  | cons k ks ih =>
    intro s r bs h
    unfold State.readBlocks
    dsimp only
    split
    next e => exact (h.readNow.of_eq_mk₃ e).raiseRead
    next e =>
      have ht := h.readNow.of_eq_mk₃ e
      exact .ite ht.raisePoison (ih ht)

theorem execCpy {d a q} (h : CanonicalMemory s) : Lands (Machine.execCpy d a q s) := by
  refine .issue fun r => h.checked ?_
  split
  · exact h.raise
  · refine h.withPlaced fun t q ht => ht.readBlocks ?_
    intro u q bs hu
    split
    · exact hu.raise
    · refine .next (setRun ?_)
      exact foldl_fst (fun _ _ hv => hv.fresh) hu.fresh

/-! ## Enqueues, launches, counters and groups -/

theorem readWords {lane n f} (hf : ∀ t q ws, CanonicalMemory t → Lands (f t q ws)) :
    ∀ {s r va ws}, CanonicalMemory s → Lands (s.readWords r lane va n ws f) := by
  induction n with
  | zero => exact fun h => hf _ _ _ h
  | succ n ih =>
    intro s r va ws h
    unfold State.readWords
    split
    next e => exact (h.readNow.of_eq_mk₃ e).raiseRead
    next e =>
      have ht := h.readNow.of_eq_mk₃ e
      exact .ite ht.raisePoison (ih ht)

theorem holdRecords {a n args e ks} : ∀ {s r entry}, CanonicalMemory s → Lands (s.holdRecords r a n args e entry ks) := by
  induction ks with
  | nil => exact fun h => .next h
  | cons k ks ih => exact fun h => readWords (fun _ _ _ ht => ih ht.fresh) h

theorem recordAligned {r a ks k} (h : CanonicalMemory s) (hk : Lands k) : Lands (s.recordAligned r a ks k) := by
  unfold State.recordAligned
  split
  · exact h.raise
  · exact hk

theorem execEnq {a n g} (h : CanonicalMemory s) : Lands (Machine.execEnq a n g s) := by
  refine .issue fun r => h.checked ?_
  split
  · exact h.illins
  · exact h.recordAligned (h.withPlaced fun _ _ ht => ht.holdRecords)

theorem execEnqv {f n g} (h : CanonicalMemory s) : Lands (Machine.execEnqv f n g s) := by
  refine .issue fun r => h.checked ?_
  split
  · exact h.illins
  · refine .next (setRun ?_)
    exact foldl_fst (fun _ _ hv => hv.fresh) h

theorem execLaunch {d a t} (h : CanonicalMemory s) : Lands (Machine.execLaunch d a t s) := by
  refine .issue fun r => h.checked ?_
  split <;> exact .next h

theorem execDepnew {d a} (h : CanonicalMemory s) : Lands (Machine.execDepnew d a s) := by
  refine .issue fun r => h.checked ?_
  dsimp only
  split <;> exact .next h.fresh.pick

theorem execDepsig {a m} (h : CanonicalMemory s) : Lands (Machine.execDepsig a m s) := by
  refine .issue fun r => h.checked ?_
  dsimp only
  split
  · exact h.raise
  · exact .next h.holding

theorem execDepwait {a} (h : CanonicalMemory s) : Lands (Machine.execDepwait a s) := by
  refine .issue fun r => h.checked ?_
  split
  · exact .next h.endBy
  · exact .ite h.raise (.next h.endBy)

theorem execDeparm {d a n g} (h : CanonicalMemory s) : Lands (Machine.execDeparm d a n g s) := by
  refine .issue fun r => h.checked ?_
  split
  · exact .next h.setRun
  · split
    · exact h.illins
    · dsimp only
      split
      · exact h.raise
      · exact h.recordAligned (h.withPlaced fun _ _ ht => ht.holdRecords)

theorem groupChecked {r join ps k} (h : CanonicalMemory s) (hk : Lands k) : Lands (s.groupChecked r join ps k) := by
  refine .ite (.next h.pause) ?_
  split
  · exact h.raisePoison
  · exact h.raise
  · exact hk

theorem execGnew {d} (h : CanonicalMemory s) : Lands (Machine.execGnew d s) := by
  refine .issue fun r => h.checked ?_
  dsimp only
  split <;> exact .next h.fresh.pick

theorem execGjoin {a} (h : CanonicalMemory s) : Lands (Machine.execGjoin a s) := .issue fun _ => h.checked (h.groupChecked (.next h.holding))

theorem execGleave {a} (h : CanonicalMemory s) : Lands (Machine.execGleave a s) := .issue fun _ => h.checked (h.groupChecked (.next h.holding))

theorem execGbar {a} (h : CanonicalMemory s) : Lands (Machine.execGbar a s) := .issue fun _ => h.checked (h.groupChecked (.next h.endBy))

theorem execGsize {d a} (h : CanonicalMemory s) : Lands (Machine.execGsize d a s) := .issue fun _ => h.checked (.ite (.next h.pause) (.next h))

/-! ## Engines -/

theorem seqDone {d core ctx q seq} (h : CanonicalMemory s) : CanonicalMemory (s.seqDone d core ctx q seq) := h

theorem engineFault {w q seq code info site siteIdx} (h : CanonicalMemory s) : CanonicalMemory (s.engineFault w q seq code info site siteIdx) :=
  h.onInst.report

/-! ## Plans of Newel's evaluations -/

theorem cutRuns {m} : ∀ {s n}, CanonicalMemory s → CanonicalMemory (s.cutRuns m n).2 := by
  induction m with
  | zero => exact fun h => h
  | succ m ih =>
    intro s n h
    unfold State.cutRuns
    exact ih h.pick

theorem shuffle {α : Type} {n} : ∀ {s} {l : List α}, CanonicalMemory s → CanonicalMemory (s.shuffle n l).2 := by
  induction n with
  | zero => exact fun h => h
  | succ n ih =>
    intro s l h
    cases l with
    | nil => exact h
    | cons x l =>
      unfold State.shuffle
      dsimp only
      split
      · exact h.pick
      · exact ih h.pick

theorem emit {b : Build} {p} (h : CanonicalMemory b.st) : CanonicalMemory (b.emit p).2.st := h

theorem mul {b : Build} {w p i j int dbl sat slot} (h : CanonicalMemory b.st) : CanonicalMemory (b.mul w p i j int dbl sat slot).2.st := by
  unfold Build.mul
  extract_lets fmt k kc chunks free most
  dsimp only
  split
  · exact h.pick
  · exact h.pick.cutRuns.shuffle

end CanonicalMemory

/-- Placing a piece of a graph in a plan keeps the memory of the plan's state canonical. -/
def KeepsPlan (mk : Nat → Build → Nat × Build) : Prop := ∀ i b, CanonicalMemory b.st → CanonicalMemory (mk i b).2.st

namespace KeepsPlan

variable {mk : Nat → Build → Nat × Build}

theorem place (hm : KeepsPlan mk) {f b} (h : CanonicalMemory b.st) : CanonicalMemory (Part.place mk f b).2.st := by
  unfold Part.place
  split
  · exact h
  · exact hm _ _ h

theorem groupTree (hm : KeepsPlan mk) {w raw root dims parts ends inner top slot int dbl sat satTop n} : ∀ {i j b}, CanonicalMemory b.st →
    CanonicalMemory (groupTree w mk raw root dims parts ends inner top slot int dbl sat satTop n i j b).2.st := by
  induction n with
  | zero => exact fun h => hm.place h
  | succ n ih =>
    intro i j b h
    unfold Machine.groupTree
    dsimp only
    split
    · exact hm.place h
    · split
      · exact (ih (ih h)).mul
      · split <;> exact (ih (ih h)).mul

theorem chainSegments (hm : KeepsPlan mk) {w raw root ch rows cols last slot int dbl sat satTop n} : ∀ {cur ends rest restEnds b},
    CanonicalMemory b.st →
      CanonicalMemory (chainSegments w mk raw root ch rows cols last slot int dbl sat satTop n cur ends rest restEnds b).2.st := by
  induction n with
  | zero => exact fun h => hm.place h
  | succ n ih =>
    intro cur ends rest restEnds b h
    unfold Machine.chainSegments
    dsimp only
    split
    · exact hm.groupTree h
    · exact ih (hm.groupTree h)

theorem placeAll (hm : KeepsPlan mk) {b l} (h : CanonicalMemory b.st) : CanonicalMemory (placeAll mk b l).2.st :=
  foldl_keeps (P := fun acc : List Nat × Build => CanonicalMemory acc.2.st) (fun _ _ hb => hm.place hb) _ h

theorem sumSegments (hm : KeepsPlan mk) {raw root inner int dbl n} : ∀ {hi cur rest b}, CanonicalMemory b.st →
    CanonicalMemory (sumSegments mk raw root inner int dbl n hi cur rest b).2.st := by
  induction n with
  | zero => exact fun h => h
  | succ n ih =>
    intro hi cur rest b h
    unfold Machine.sumSegments
    dsimp only
    split
    · exact (hm.placeAll h).emit
    · exact ih (hm.placeAll h).emit

/-- The plan's pieces are placed one after another; each case keeps what its operands' places keep. -/
theorem rebuild {w raw slot satToo n} : KeepsPlan (rebuild w raw slot satToo n) := by
  induction n with
  | zero => exact fun _ _ h => h
  | succ n ih =>
    intro i b h
    unfold Machine.rebuild
    split
    · exact h
    · exact h
    · extract_lets start done
      have hd : ∀ r, CanonicalMemory r.2.st → CanonicalMemory (done r).2.st := fun _ h => h
      split
      · exact hd _ h.emit
      · split
        · exact hd _ h.emit
        · split
          · extract_lets sat'
            split
            · dsimp only
              split
              · exact hd _ (ih.chainSegments h)
              · exact hd _ (ih.chainSegments h).emit
            · exact hd _ (ih _ _ (ih _ _ h)).mul
          · split
            · exact hd _ (ih.sumSegments h)
            · exact hd _ (ih.placeAll h).emit
          · exact hd _ (ih _ _ (ih _ _ h)).emit
          · exact hd _ (ih _ _ h).emit
          · exact hd _ (ih _ _ h).emit
          · exact hd _ (ih _ _ h).emit
          · exact hd _ (ih _ _ h).emit
          · exact hd _ (ih _ _ h).emit
          · exact hd _ h.emit

end KeepsPlan

namespace CanonicalMemory

variable {s : State}

theorem planOf {v} (h : CanonicalMemory s) : CanonicalMemory (s.planOf v).2 := by
  unfold State.planOf
  dsimp only
  split
  · exact h
  · exact KeepsPlan.rebuild _ _ h

/-! ## Evaluations -/

theorem putEval {v} (h : CanonicalMemory s) : CanonicalMemory (s.putEval v) := h

theorem dropEval {v} (h : CanonicalMemory s) : CanonicalMemory (s.dropEval v) := h

theorem deliver {tag f} (h : CanonicalMemory s) : CanonicalMemory (s.deliver tag f) := h

theorem makeRoom {d core ctx n stay k} : ∀ {s}, CanonicalMemory s → CanonicalMemory (s.makeRoom d core ctx n stay k) := by
  induction k with
  | zero => exact fun h => h
  | succ k ih =>
    intro s h
    unfold State.makeRoom
    refine .ite h ?_
    dsimp only
    split
    · exact h
    · exact .ite h (ih h.onCore)

theorem spaceFor {v p st} (h : CanonicalMemory s) : CanonicalMemory (s.spaceFor v p st).1 := by
  unfold State.spaceFor
  extract_lets d ctx tile n itiles t used beyond
  have ht : CanonicalMemory t := h.makeRoom
  split
  · exact h
  · split <;> exact ht

theorem doStep {v st host w t} (h : CanonicalMemory s) (e : s.doStep v st host = .inr (w, t)) : CanonicalMemory t := by
  unfold State.doStep at e
  split at e
  · cases e
    exact h
  · split at e
    · cases e
    next u hu =>
      have h' : CanonicalMemory u := h.spaceFor.of_eq_mk_fst hu
      split at e
      · cases e
      · cases e
        exact h'

theorem planEval {v} (h : CanonicalMemory s) : CanonicalMemory (s.planEval v).2 := by
  unfold State.planEval
  split
  · exact h
  · exact h.planOf

theorem giveNode {d core id gid vals flags stands} (h : CanonicalMemory s) : CanonicalMemory (s.giveNode d core id gid vals flags stands) := by
  unfold State.giveNode
  split
  · exact h
  · exact .ite h h

theorem keepValues {v} (h : CanonicalMemory s) : CanonicalMemory (s.keepValues v) := by
  refine foldl (fun t e ht => ?_) h
  extract_lets p s1
  have h1 : CanonicalMemory s1 := .ite ht (foldl (fun _ _ hu => hu.giveNode) ht)
  exact .ite h1 (foldl (fun _ _ hu => hu.giveNode) h1)

theorem retireMacc {v x slot i32 sat ctr} (h : CanonicalMemory s) : CanonicalMemory (s.retireMacc v x slot i32 sat ctr) := by
  unfold State.retireMacc
  extract_lets cells product s1
  have h1 : CanonicalMemory s1 := foldl (fun _ _ ht => ht) h
  split
  · exact .ite h1 h1
  · exact h1

theorem chargeArray {w n} (h : CanonicalMemory s) : CanonicalMemory (s.chargeArray w n) := h.charge

theorem materialise {v} (h : CanonicalMemory s) : CanonicalMemory (s.materialise v) := by
  unfold State.materialise
  extract_lets d core before
  split
  · exact h
  · extract_lets a s1 s2 s3
    have h1 : CanonicalMemory s1 := by unfold s1 a; split; exacts [h.writeVa, h]
    have h2 : CanonicalMemory s2 := h1.onCore.chargeArray
    exact h2.onCore.sweep.onGang

theorem finishEval {v} (h : CanonicalMemory s) : CanonicalMemory (s.finishEval v) := by
  unfold State.finishEval
  extract_lets d core
  split
  · exact h.dropEval
  · refine dropEval ?_
    split
    · exact h.keepValues.deliver
    · exact h.keepValues.onGang
    · exact h.keepValues.retireMacc.seqDone
    · exact h.keepValues.seqDone
    · exact h.keepValues
    · exact h.keepValues.materialise

theorem evalFault {v f} (h : CanonicalMemory s) : CanonicalMemory (s.evalFault v f) := by
  unfold State.evalFault
  extract_lets command
  have hc : ∀ seq, CanonicalMemory (command seq) := fun seq => .ite h h.engineFault.dropEval.seqDone
  split
  · exact hc _
  · exact hc _
  · exact h.takeFault

theorem arrayStep {v} (h : CanonicalMemory s) : CanonicalMemory (s.arrayStep v) := by
  unfold State.arrayStep
  split
  · exact h.dropEval.seqDone
  · split
    · exact h.evalFault
    · have hp := h.planEval (v := v)
      dsimp only
      split
      · exact hp.finishEval
      · refine .ite hp.putEval (.ite (chargeArray hp) ?_)
        split
        · exact hp.putEval.evalFault
        next e =>
          have ht := hp.doStep e
          exact chargeArray (.ite (finishEval ht) ht)

theorem emulatedStep {v host} (h : CanonicalMemory s) : CanonicalMemory (s.emulatedStep v host) := by
  unfold State.emulatedStep
  split
  · exact h.putEval
  · refine .ite h.putEval ?_
    split
    · exact h.putEval.evalFault
    next e => exact .ite (h.doStep e).finishEval (h.doStep e).putEval

/-! ## Fetch and issue -/

theorem firstGang {gs g t} (h : CanonicalMemory s) (e : s.firstGang gs = some (g, t)) : CanonicalMemory t := by
  simp only [State.firstGang, Option.map_eq_some_iff, Prod.mk.injEq] at e
  obtain ⟨_, _, _, rfl⟩ := e
  exact h.pick

theorem countPort {d core port} (h : CanonicalMemory s) : CanonicalMemory (s.countPort d core port) := .ite h h

theorem fetchAll {g a} (h : CanonicalMemory s) : CanonicalMemory (s.fetchAll g a).2.2 := by
  unfold State.fetchAll
  split
  · split
    next e =>
      have ht := h.findNow.of_eq_mk e
      split
      · exact ht
      · exact ht.readAt
    next e => exact h.findNow.of_eq_mk e
    next e => exact h.findNow.of_eq_mk e
  · exact h

theorem fetch {g a} (h : CanonicalMemory s) : CanonicalMemory (s.fetch g a).2 := by
  have ht := h.fetchAll (g := g) (a := a)
  unfold State.fetch
  split
  next e =>
    rw [e] at ht
    exact ht.pick
  next e =>
    rw [e] at ht
    exact ht

theorem fetchWords {g n} : ∀ {s a ws}, CanonicalMemory s → CanonicalMemory (s.fetchWords g a n ws).2 := by
  induction n with
  | zero => exact fun h => h
  | succ n ih =>
    intro s a ws h
    unfold State.fetchWords
    split
    next e => exact ih (h.fetch.of_eq_mk e)
    next e => exact h.fetch.of_eq_mk e

theorem putGang {g} (h : CanonicalMemory s) : CanonicalMemory (s.putGang g) := h

theorem sigFail {g port info} (h : CanonicalMemory s) : CanonicalMemory (s.sigFail g port info) :=
  .ite h.takeFault (.ite h.discard.onGang h.takeFault)

theorem issueClause {g port flips} (h : CanonicalMemory s) : CanonicalMemory (s.issueClause g port flips) := by
  unfold State.issueClause
  extract_lets pc
  split
  · exact h.putGang.takeFault
  · refine .ite h.putGang ?_
    split
    next e => exact (h.fetch.of_eq_mk e).takeFault
    next e =>
      have ht := h.fetch.of_eq_mk e
      extract_lets chkStage
      split
      · exact ht.takeFault
      · split
        next e => exact (ht.fetchWords.of_eq_mk e).takeFault
        next e =>
          have hu := ht.fetchWords.of_eq_mk e
          dsimp only
          split
          · exact hu.takeFault
          · exact .ite hu.sigFail hu

theorem execClauseIssue {die core port flips} (h : CanonicalMemory s) : Lands (Machine.execClauseIssue die core port flips s) := by
  refine .ite .fault ?_
  split
  next e =>
    have ht := h.firstGang e
    refine .next ?_
    split
    · exact ht
    · exact ht.issueClause
  · exact .fault

theorem endClause {r} (h : CanonicalMemory s) : CanonicalMemory (s.endClause r) := h.yieldPort.chargeClause

theorem tagWord {r} (h : CanonicalMemory s) : CanonicalMemory (s.tagWord r) := by
  refine .ite h ?_
  extract_lets g ctl window
  split
  · refine .ite h (onDie ?_)
    split
    · exact h
    · exact h.pick
  · exact h

theorem advance {w} (h : CanonicalMemory s) : CanonicalMemory (s.advance w) := by
  unfold State.advance
  split
  · exact h
  · exact .ite h h.endClause

theorem illinsOneOf {r reasons} (h : CanonicalMemory s) : Lands (s.illinsOneOf r reasons) := h.pick.illins

theorem issueWord {run} (h : CanonicalMemory s) (hr : ∀ i, Lands (run i s)) : Lands (s.issueWord run) := by
  refine .issue fun r => ?_
  extract_lets w
  split
  · exact h.illinsOneOf
  · split
    · exact h.illins
    next i _ =>
      have hi := hr i
      split
      next e => exact .next (e ▸ hi).canonical.tagWord.advance
      next => exact hi

/-! ## Landing -/

theorem spillGang {g t} (h : CanonicalMemory s) (e : s.spillGang g = some t) : CanonicalMemory t := by
  unfold State.spillGang at e
  split at e
  all_goals
    obtain ⟨_, _, rfl⟩ := Option.map_eq_some_iff.mp e
    exact h.writeVa.onGang

theorem fitLanding {d core n} : ∀ {s t}, CanonicalMemory s → s.fitLanding d core n = some t → CanonicalMemory t := by
  induction n with
  | zero => exact fun _ e => nomatch e
  | succ n ih =>
    intro s t h e
    unfold State.fitLanding at e
    split at e
    · cases e
      exact h
    · dsimp only at e
      split at e
      next u hu =>
        obtain ⟨g, _, hg⟩ := List.exists_of_findSome?_eq_some hu
        exact ih (h.spillGang hg) e
      · cases e

theorem settleLanding (h : CanonicalMemory s) : CanonicalMemory s.settleLanding := by
  refine .ite h (foldl (fun t e ht => ?_) h)
  cases ht' : t.fitLanding e.1 e.2 (2 * t.gangs.length + 2) with
  | none => exact ht
  | some u => exact ht.fitLanding ht'

theorem beginFlight {g port} (h : CanonicalMemory s) : CanonicalMemory (s.beginFlight g port) := h

theorem relaunch {g port} (h : CanonicalMemory s) : CanonicalMemory (s.relaunch g port) := by
  unfold State.relaunch
  split
  · exact h.takeFault
  · exact .ite h.putGang (.ite h.putGang (.ite h.putGang h.beginFlight))

theorem execRelaunch {gid port} (h : CanonicalMemory s) : Lands (Machine.execRelaunch gid port s) := by
  unfold Machine.execRelaunch
  split
  · exact .fault
  · exact .ite (.next h.relaunch) .fault

theorem execPreemptGang {gid} (h : CanonicalMemory s) : Lands (Machine.execPreemptGang gid s) := by
  unfold Machine.execPreemptGang
  split
  · exact .fault
  · exact .ite (.next (.ite h.putGang (.ite h.putGang h.putGang))) .fault

theorem execRecordMove {gid die core} (h : CanonicalMemory s) : Lands (Machine.execRecordMove gid die core s) := by
  unfold Machine.execRecordMove
  split
  · exact .fault
  · refine .ite ?_ .fault
    split
    · exact .next h.takeFault
    · exact .ite (.next h.putGang) .fault

/-! ## Watched words, caches and replicas -/

theorem reportWatched {before : State} (h : CanonicalMemory s) : CanonicalMemory (before.reportWatched s) := by
  refine foldl (fun t g ht => ?_) h
  split
  · exact ht
  · exact .ite ht (.ite ht ht)

theorem noteDevice {before} (h : CanonicalMemory s) : CanonicalMemory (s.noteDevice before) := by
  refine foldl (fun t g ht => ?_) h
  split
  · exact .ite (.ite ht ht) ht
  · exact ht

theorem dropL1 {d line but} (h : CanonicalMemory s) : CanonicalMemory (s.dropL1 d line but) := h

theorem fillL2 {pa} (h : CanonicalMemory s) : CanonicalMemory (s.fillL2 pa) := .ite h h

theorem fillL1 {d core l} (h : CanonicalMemory s) : CanonicalMemory (s.fillL1 d core l) := by
  cases l with
  | phys => exact .ite h (onCore (.ite h.fillL2 h))
  | scratch | acc | fabric => exact h

theorem countBeat {d inst} (h : CanonicalMemory s) : CanonicalMemory (s.countBeat d inst) := h

theorem toReplica {e pa bytes} (h : CanonicalMemory s) : CanonicalMemory (s.toReplica e pa bytes) := h

theorem cleanReplica {e line} (h : CanonicalMemory s) : CanonicalMemory (s.cleanReplica e line) := h

/-! ## Stores and atomics at their home -/

theorem keepOld {pa bytes} (h : CanonicalMemory s) : CanonicalMemory (s.keepOld pa bytes) := h

theorem tagLine {pa tag} (h : CanonicalMemory s) : CanonicalMemory (s.tagLine pa tag) := by
  unfold State.tagLine
  extract_lets old t
  have ht : CanonicalMemory t := .ite h h.setBytes
  exact .ite h ht

theorem storeAt {w l va bytes} (h : CanonicalMemory s) : CanonicalMemory (s.storeAt w l va bytes) := by
  cases l with
  | phys => exact h.keepOld.tagLine.fillL2.writeN.dropL1
  | scratch | acc | fabric => exact h.writeN.heal.pinFor

theorem deliverAtom {tag lane size old poison} (h : CanonicalMemory s) : CanonicalMemory (s.deliverAtom tag lane size old poison) := h

theorem perform {w a} (h : CanonicalMemory s) : CanonicalMemory (s.perform w a).1 := by
  cases a with
  | write | merge => exact h.storeAt
  | atom => exact h.storeAt.deliverAtom

theorem performAll {w as} : ∀ {s}, CanonicalMemory s → CanonicalMemory (s.performAll w as).1 := by
  induction as with
  | nil => exact fun h => h
  | cons a as ih => exact fun h => ih h.perform

theorem mergeSent {w d} (h : CanonicalMemory s) : CanonicalMemory (s.mergeSent w d) := h

theorem noteHost {vec ws} (h : CanonicalMemory s) : CanonicalMemory (s.noteHost vec ws) := by
  refine foldl (fun t x ht => ?_) h
  split
  · exact .ite ht ht
  · exact ht

theorem performAt {d w as clears vec num} (h : CanonicalMemory s) : CanonicalMemory (s.performAt d w as clears vec num) := by
  unfold State.performAt
  extract_lets s'
  have h' : CanonicalMemory s' := foldl (fun _ _ ht => ht.crossed) h
  split
  rename_i u ws e
  have hu : CanonicalMemory u := h'.performAll.of_eq_mk_fst e
  extract_lets v t t1 held cleaned t2 t3
  have hv : CanonicalMemory v := by
    unfold v
    split
    · exact .ite hu (.ite hu hu)
    · exact hu
  have ht : CanonicalMemory t := hv.noteHost
  have h1 : CanonicalMemory t1 := by
    refine .ite (foldl (fun r x hr => ?_) ht) ht
    split
    · exact hr.setPoison
    · exact hr
  have h2 : CanonicalMemory t2 := .ite h1.announce h1
  have h3 : CanonicalMemory t3 := .ite h2.mergeSent h2
  exact h3.reportWatched

theorem pathFailed {w va} (h : CanonicalMemory s) : CanonicalMemory (s.pathFailed w va) := h

theorem unperformed {w as} (h : CanonicalMemory s) : CanonicalMemory (s.unperformed w as) := by
  unfold State.unperformed
  extract_lets s1
  have h1 : CanonicalMemory s1 := foldl (fun t a ht => by cases a <;> exact ht) h
  split
  · exact h1.pathFailed
  · exact h1

theorem loseActs {w as} (h : CanonicalMemory s) : CanonicalMemory (s.loseActs w as) := by
  unfold State.loseActs
  dsimp only
  exact (unperformed (.ite h.pick.performAll h.pick)).reportWatched

theorem dropOut {id} (h : CanonicalMemory s) : CanonicalMemory (s.dropOut id) := h

theorem sendTogether {w vec os} (h : CanonicalMemory s) : CanonicalMemory (s.sendTogether w vec os) := by
  unfold State.sendTogether
  split
  · exact h
  · extract_lets own far clean
    split
    rename_i t ws e
    have hu : CanonicalMemory t := by
      refine of_eq_mk_fst ?_ e
      exact foldl_fst (fun _ _ ht => ht.performAll) h
    extract_lets t1 t2 t3
    have h1 : CanonicalMemory t1 := foldl (fun _ _ hr => hr.setPoison) hu
    have h2 : CanonicalMemory t2 := h1.announce
    have h3 : CanonicalMemory t3 := foldl (fun _ _ hr => countBeat (.ite hr hr)) h2.mergeSent
    exact h3.reportWatched

theorem sendOut {o} (h : CanonicalMemory s) : CanonicalMemory (s.sendOut o) := by
  unfold State.sendOut
  extract_lets w
  split
  · exact .ite h.performAt.dropOut.countBeat (.ite h.loseActs.dropOut h.sendTogether)
  · exact .ite h.loseActs.dropOut h
  · exact h.performAt.dropOut

theorem execHomeStore {id} (h : CanonicalMemory s) : Lands (Machine.execHomeStore id s) := by
  unfold Machine.execHomeStore
  split
  · exact .ite (.next h.sendOut) .fault
  · exact .fault

theorem execHomeAtomic {id} (h : CanonicalMemory s) : Lands (Machine.execHomeAtomic id s) := by
  unfold Machine.execHomeAtomic
  split
  · exact .ite (.next h.sendOut) .fault
  · exact .fault

/-! ## Loads and page walks -/

theorem answerAll {req get} (h : CanonicalMemory s) : CanonicalMemory (s.answerAll req get) := h

theorem loadPathFault {g q} (h : CanonicalMemory s) : CanonicalMemory (s.loadPathFault g q) := h.takeFault

theorem dropFab {id} (h : CanonicalMemory s) : CanonicalMemory (s.dropFab id) := h

theorem refuseLoad {g q} (h : CanonicalMemory s) : CanonicalMemory (s.refuseLoad g q) := h.takeFault

theorem execResultArrival {gid req ext} (h : CanonicalMemory s) : Lands (Machine.execResultArrival gid req ext s) := by
  unfold Machine.execResultArrival
  split
  · exact .fault
  · refine .ite .fault ?_
    split
    · split
      · exact .ite .fault (.ite (.next h.refuseLoad.dropFab) (.ite (.next h.answerAll.dropFab) .fault))
      · exact .ite (.next h.loadPathFault) .fault
    · exact .ite (.next h.answerAll) .fault
    · refine .ite ?_ (.ite (.next h.loadPathFault) .fault)
      extract_lets u t
      have hu : CanonicalMemory u := by
        unfold u
        split
        · exact .ite h h
        · exact h
      have ht : CanonicalMemory t := hu.answerAll.fillL1
      refine .next ?_
      split
      · exact .ite ht ht
      · exact ht

theorem execRemoteScratchAccess {op} (h : CanonicalMemory s) : Lands (Machine.execRemoteScratchAccess op s) := by
  unfold Machine.execRemoteScratchAccess
  split
  · split
    · exact .ite (.next (.ite h.loseActs.dropOut h.sendOut)) .fault
    · exact .fault
  · split
    · split
      · exact .ite .fault (.ite (.next h.loadPathFault) (.ite (.next h.crossed.answerAll) .fault))
      · exact .fault
    · exact .fault

theorem execScratchRefill {die core slot page} (h : CanonicalMemory s) : Lands (Machine.execScratchRefill die core slot page s) :=
  .ite (.next h.onInst) .fault

theorem placeAll {gid n} : ∀ {s}, CanonicalMemory s → CanonicalMemory (s.placeAll gid n) := by
  induction n with
  | zero => exact fun h => h
  | succ n ih =>
    intro s h
    unfold State.placeAll
    split
    · exact h
    next g a _ =>
      have ht := h.placeAccess (g := g) (a := a)
      split
      next e =>
        rw [e] at ht
        exact ht.takeFault
      next e =>
        rw [e] at ht
        exact ht.putGang
      next e =>
        rw [e] at ht
        exact ih ht.putGang

theorem execPageWalk {gid vpn} (h : CanonicalMemory s) : Lands (Machine.execPageWalk gid vpn s) := by
  unfold Machine.execPageWalk
  split
  · exact .fault
  · refine .ite .fault ?_
    extract_lets stop
    have hs : ∀ c, Lands (stop c) := fun c => .ite .fault (.next h.takeFault)
    split
    · exact .next (placeAll h.fillWalk)
    · exact hs _
    · exact hs _
    · exact .ite .fault (.next h.takeFault)
    · exact hs _

theorem execWatchChange {gid} (h : CanonicalMemory s) : Lands (Machine.execWatchChange gid s) := by
  unfold Machine.execWatchChange
  split
  · exact .ite (.next h.pinFor.putGang) .fault
  · exact .fault

/-! ## Contexts that leave and resets -/

theorem onPkg {f} (h : CanonicalMemory s) : CanonicalMemory (s.onPkg f) := h

theorem setCtxctl {c v} (h : CanonicalMemory s) : CanonicalMemory (s.setCtxctl c v) := h

theorem markRunning {c on} (h : CanonicalMemory s) : CanonicalMemory (s.markRunning c on) := h.device

theorem saveImage {c slacks} (h : CanonicalMemory s) : CanonicalMemory (s.saveImage c slacks).2 := h

theorem untranslated {c} (h : CanonicalMemory s) : CanonicalMemory (s.untranslated c) := h

theorem unfused {c} (h : CanonicalMemory s) : CanonicalMemory (s.unfused c) := h

theorem switchedOut {c} (h : CanonicalMemory s) : CanonicalMemory (s.switchedOut c) := by
  unfold State.switchedOut
  extract_lets slacks t
  have ht : CanonicalMemory t := h
  split
  rename_i image u e
  have hu : CanonicalMemory u := ht.unfused.untranslated.saveImage.of_eq_mk e
  exact hu.device.onCtx.markRunning.setCtxctl

theorem resetInst {d slot i} (h : CanonicalMemory s) : CanonicalMemory (s.resetInst d slot i) := by
  unfold State.resetInst
  extract_lets stages again mine numsOf s1 s2 s3 s4 traps s5
  have h1 : CanonicalMemory s1 := foldl (fun _ _ ht => ht.discard) h
  have h5 : CanonicalMemory s5 := h1.leaveAll (gs := s.gangs.filter mine)
  refine foldl (fun t k ht => ?_) h5
  exact .ite ht ht.taskList.reportList

theorem stopEngines {d ctx} (h : CanonicalMemory s) : CanonicalMemory (s.stopEngines d ctx) := h

theorem resetContext {ctx} (h : CanonicalMemory s) : CanonicalMemory (s.resetContext ctx) := by
  unfold State.resetContext
  extract_lets insts s1 s2
  have h1 : CanonicalMemory s1 := foldl (fun _ _ ht => ht.resetInst) h
  have h2 : CanonicalMemory s2 := foldl (fun _ _ ht => ht.stopEngines) h1
  exact .ite h2 h2.switchedOut

/-! ## Commits -/

/-- Of the state, making the effects of a commit takes new numbers only. -/
theorem outsOf {g} (h : CanonicalMemory s) : CanonicalMemory (s.outsOf g).2 := by
  unfold State.outsOf
  extract_lets items w vec late corePast add away local_ mem
  have hl : CanonicalMemory local_.1.2 := by
    refine foldl_keeps (P := fun acc : (List Out × State) × List Nat => CanonicalMemory acc.1.2) (fun acc b ht => ?_) _ h
    exact ht.fresh
  have hm : CanonicalMemory mem.2 := by
    refine foldl_snd (fun acc t ht => ?_) hl
    refine foldl_keeps (P := fun acc : (List Out × State) × List (Nat × List Act) => CanonicalMemory acc.1.2) (fun acc row hr => ?_) _ ht
    extract_lets far
    split
    rename_i n u e
    have hu : CanonicalMemory u := by
      refine of_eq_mk ?_ e
      split <;> exact hr
    exact foldl_snd (fun _ _ hv => hv.fresh) hu
  refine foldl_keeps (P := fun acc : (List Out × State) × List Nat × List Nat => CanonicalMemory acc.1.2) (fun acc t ht => ?_) _ hm
  split
  · exact ht
  · exact ht.fresh

theorem taskGroups {d t f} (h : CanonicalMemory s) : CanonicalMemory (s.taskGroups d t f) := h

theorem groupEff {w e} (h : CanonicalMemory s) : CanonicalMemory (s.groupEff w e) := by
  unfold State.groupEff
  split
  · exact h.onDie
  · refine foldl (fun t p ht => ?_) h
    split
    · exact .ite ht ht
    · exact ht
  · refine foldl (fun t p ht => ?_) h
    split
    · exact ht.leave.taskGroups
    · exact ht
  · exact h.endTasks
  · exact h

theorem answerScalar {tag x} (h : CanonicalMemory s) : CanonicalMemory (s.answerScalar tag x) := h

theorem containPinned {d core} (h : CanonicalMemory s) : CanonicalMemory (s.containPinned d core) :=
  foldl (fun _ _ ht => .ite ht.containGang ht) h

theorem commitEff {g e} (h : CanonicalMemory s) : CanonicalMemory (s.commitEff g e) := by
  unfold State.commitEff
  extract_lets d
  split
  · exact h.vacate
  · exact foldl (fun _ _ ht => ht) h
  · exact h.answerScalar
  · refine .ite h.answerScalar ?_
    split
    · exact h.onCore
    · exact h.onCore
    · exact h.answerScalar
  · exact .ite h.answerScalar h.onCore
  · exact h.containPinned.onDie
  · exact h.onDie.onCore
  · exact h.resetContext
  · exact h

theorem queueEval {w node after kind} (h : CanonicalMemory s) : CanonicalMemory (s.queueEval w node after kind) := h

theorem enterMacc {w after e} (h : CanonicalMemory s) : CanonicalMemory (s.enterMacc w after e) := by
  unfold State.enterMacc
  split
  · exact .ite h h.queueEval
  · exact h

theorem enterArray {outs} (h : CanonicalMemory s) : CanonicalMemory (s.enterArray outs) := by
  refine foldl (fun t o ht => ?_) h
  split
  · exact ht.enterMacc
  · exact .ite ht.onCore ht
  · exact ht

theorem release_ {g} (h : CanonicalMemory s) : CanonicalMemory (s.release_ g) := by
  unfold State.release_
  split
  rename_i outs t e
  have ht : CanonicalMemory t := h.outsOf.of_eq_mk e
  extract_lets u v
  have hu : CanonicalMemory u := enterArray ht
  have hv : CanonicalMemory v := foldl (fun _ _ hr => .ite hr.sendOut hr) hu
  exact hv.sendTogether

theorem tryMerge {gid} (h : CanonicalMemory s) : CanonicalMemory (s.tryMerge gid) := by
  unfold State.tryMerge
  split
  · refine .ite ?_ h
    split
    · exact h.takeFault
    · extract_lets back all m t
      have ht : CanonicalMemory t := foldl (fun _ _ hr => hr.dropGang) h
      exact ht.putGang.sweep
  · exact h

theorem arrive {g} (h : CanonicalMemory s) : CanonicalMemory (s.arrive g) := by
  unfold State.arrive
  split
  · exact h.putGang
  · exact .ite h.containGang h.putGang.setGroup.groupCheck

theorem parkPart {g} (h : CanonicalMemory s) : CanonicalMemory (s.parkPart g) := by
  unfold State.parkPart
  extract_lets p
  split
  · split
    · exact .ite h.pinFor.putGang h.pinFor.putGang
    · exact h.putGang
  · exact h.putGang
  · exact .ite h.putGang h.putGang.arrive
  · exact h.putGang
  · exact h.putGang
  · exact h.request.putGang
  · exact h.putGang

theorem settlePart {gid} (h : CanonicalMemory s) : CanonicalMemory (s.settlePart gid) := by
  unfold State.settlePart
  split
  · exact h
  · split
    · exact h.beginFlight
    · exact .ite h.putGang h

theorem splitInto {gid parts} (h : CanonicalMemory s) : CanonicalMemory (s.splitInto gid parts).1 := by
  unfold State.splitInto
  split
  · exact h
  · exact foldl_fst (fun _ _ ht => parkPart ht) h.putGang.parkPart

theorem commit {g} (h : CanonicalMemory s) : CanonicalMemory (s.commit g) := by
  unfold State.commit
  extract_lets k s1 sent s3 s4 s5
  have h1 : CanonicalMemory s1 := h.putGang.release_
  have h3 : CanonicalMemory s3 := foldl (fun _ _ ht => .ite ht.commitEff ht) h1
  have h4 : CanonicalMemory s4 := by
    unfold s4
    refine onCore ?_
    split
    · exact .ite h3.countPort h3
    · exact h3
  have h5 : CanonicalMemory s5 := h4.noteSample
  split
  · exact h5.sweep
  · extract_lets a k1
    refine .ite h5 ?_
    split
    next s6 ids e =>
      have h6 : CanonicalMemory s6 := (splitInto (putGang h5)).of_eq_mk_fst e
      have h7 : CanonicalMemory (ids.foldl State.tryMerge s6) := foldl (fun _ _ ht => ht.tryMerge) h6
      exact sweep (foldl (fun _ _ ht => ht.settlePart) h7)

theorem parityReplay {g} (h : CanonicalMemory s) : CanonicalMemory (s.parityReplay g) := by
  refine .ite h.takeFault ?_
  extract_lets port t
  have ht : CanonicalMemory t := h.onCore.discard.onGang
  exact .ite ht.countPort.onGang ht

theorem chargeRun {g} (h : CanonicalMemory s) : CanonicalMemory (s.chargeRun g) := .ite h h.charge

theorem flightEnd {g upset} (h : CanonicalMemory s) : CanonicalMemory (s.flightEnd g upset) := by
  unfold State.flightEnd
  extract_lets go
  have hg : ∀ {t}, CanonicalMemory t → CanonicalMemory (go t) := by
    intro t ht
    unfold go
    dsimp only
    split
    · exact ht
    · split
      · exact ht.takeFault
      · split
        · exact ht.putGang.putGang.takeFault
        · split
          · exact ht.putGang.takeFault
          · split
            · exact ht.putGang.takeFault
            · exact ht.putGang.commit
  split
  · exact hg h
  · exact h.parityReplay
  · exact hg (chargeRun h)
  · extract_lets s1
    have h1 : CanonicalMemory s1 := foldl (fun _ _ ht => ht.countPort) h
    exact h1.chargeRun.takeFault

theorem execFlightCommit {gid upset} (h : CanonicalMemory s) : Lands (Machine.execFlightCommit gid upset s) := by
  unfold Machine.execFlightCommit
  split
  · exact .fault
  · exact .ite (.next h.flightEnd) .fault

/-! ## What follows at once -/

theorem leaveCore {o e} (h : CanonicalMemory s) : CanonicalMemory (s.leaveCore o e) := by
  unfold State.leaveCore
  extract_lets v parts
  clear_value parts
  split
  · exact h.dropOut
  · exact foldl (fun _ _ ht => ht) h

theorem bindHere {e ctx k desc} (h : CanonicalMemory s) : CanonicalMemory (s.bindHere e ctx k desc) := h

theorem enter {o e} (h : CanonicalMemory s) : CanonicalMemory (s.enter o e) := by
  unfold State.enter
  extract_lets w home t
  have ht : CanonicalMemory t := h.dropOut
  split
  · exact .ite ht.send ht
  · exact .ite ht.answerScalar ht.onDie
  · split
    · exact .ite ht ht.setCounter
    · exact ht
  · exact .ite ht ht
  · exact ht.enterMacc
  · exact .ite ht ht
  · exact ht.bindHere
  · exact ht.groupEff
  · exact ht.groupEff
  · exact ht.groupEff
  · exact ht.groupEff
  · exact ht

theorem settleEff {id} (h : CanonicalMemory s) : CanonicalMemory (s.settleEff id) := by
  unfold State.settleEff
  extract_lets go t
  have ht : CanonicalMemory t := by
    unfold t go
    dsimp only
    split
    · split
      · refine .ite h (.ite ?_ (leaveCore ?_)) <;> split
        · exact h.pick
        · exact h
        · exact h.pick
        · exact h
      · exact h
    · exact h
  split
  · split
    · exact ht
    · exact .ite ht.enter ht
    · exact ht
  · exact ht

theorem settleEffs (h : CanonicalMemory s) : CanonicalMemory s.settleEffs := foldl (fun _ _ ht => ht.settleEff) h

theorem settleJoins (h : CanonicalMemory s) : CanonicalMemory s.settleJoins := h

theorem settleMeets (h : CanonicalMemory s) : CanonicalMemory s.settleMeets := by
  unfold State.settleMeets
  extract_lets t
  have ht : CanonicalMemory t := foldl (fun _ _ hr => hr.tryMerge) h
  exact ht

theorem askLine {d pa} (h : CanonicalMemory s) : CanonicalMemory (s.askLine d pa) := .ite h h

theorem ask {g q} (h : CanonicalMemory s) : CanonicalMemory (s.ask g q) := by
  unfold State.ask
  refine .ite h ?_
  split
  · exact h.askLine
  · exact .ite h h
  · exact h

theorem dropUnasked (h : CanonicalMemory s) : CanonicalMemory s.dropUnasked := h

theorem settleLoads (h : CanonicalMemory s) : CanonicalMemory s.settleLoads := foldl (fun _ _ ht => ht.ask) h.dropUnasked

theorem settleWants (h : CanonicalMemory s) : CanonicalMemory s.settleWants := foldl (fun _ _ ht => ht.askLine) h

theorem settleBacks (h : CanonicalMemory s) : CanonicalMemory s.settleBacks := by
  refine foldl (fun t v ht => ?_) h
  split
  · exact .ite ht ht.emulatedStep
  · exact ht

theorem settleCounters (h : CanonicalMemory s) : CanonicalMemory s.settleCounters := h

theorem settleTraps (h : CanonicalMemory s) : CanonicalMemory s.settleTraps := h

theorem settleInsts (h : CanonicalMemory s) : CanonicalMemory s.settleInsts := by
  refine foldl (fun t e ht => ?_) h
  split
  · exact .ite ht.endInst ht
  · exact ht

theorem hostWord {a v} (h : CanonicalMemory s) : CanonicalMemory (s.hostWord a v) := h.device

theorem complete {c} (h : CanonicalMemory s) : CanonicalMemory (s.complete c) := by
  unfold State.complete
  split
  · exact h
  · refine .ite h ?_
    extract_lets s1 n
    have h1 : CanonicalMemory s1 := .ite h h.writeVa
    exact h1.onCtx.hostWord

theorem ringRecord {c} (h : CanonicalMemory s) : CanonicalMemory (s.ringRecord c) := by
  unfold State.ringRecord
  extract_lets x
  split
  · exact h
  · exact .ite h h.device.onCtx.hostWord

theorem settleHost (h : CanonicalMemory s) : CanonicalMemory s.settleHost := by
  refine foldl (fun t c ht => ?_) h
  extract_lets u
  have hu : CanonicalMemory u := foldl (fun _ _ hr => hr.complete) ht
  exact foldl (fun _ _ hr => hr.ringRecord) hu

theorem settleSince (h : CanonicalMemory s) : CanonicalMemory s.settleSince := h

/-! ## Gathering and dispatch -/

theorem placeGang {d core q} (h : CanonicalMemory s) : CanonicalMemory (s.placeGang d core q) := by
  unfold State.placeGang
  split <;> exact h

theorem placeGangs {d core q cap n} : ∀ {s rs}, CanonicalMemory s → CanonicalMemory (s.placeGangs d core q cap n rs) := by
  induction n with
  | zero => exact fun h => h
  | succ n ih => exact fun h => ite h (ih h.placeGang)

theorem closeGather {d core q} (h : CanonicalMemory s) : CanonicalMemory (s.closeGather d core q) := placeGangs h.onCore

theorem execGatherTimeout {gather} (h : CanonicalMemory s) : Lands (Machine.execGatherTimeout gather s) := by
  unfold Machine.execGatherTimeout
  split
  · exact .ite (.next h.closeGather) .fault
  · exact .fault

theorem gatherRecord {d core slot stage r} (h : CanonicalMemory s) : CanonicalMemory (s.gatherRecord d core slot stage r) := by
  unfold State.gatherRecord
  extract_lets k mine openNew
  clear_value mine
  have hn : ∀ {t}, CanonicalMemory t → CanonicalMemory (openNew t).1 := by
    intro t ht
    unfold openNew
    dsimp only
    split
    · exact ht
    · exact ht.fresh.closeGather
  split
  rename_i t q e
  have ht : CanonicalMemory t := by
    refine of_eq_mk_fst ?_ e
    split
    · split
      · exact h
      · exact hn h.closeGather
    · exact hn h
  split
  · exact .ite ht.closeGather ht
  · exact ht

theorem execDispatch {die} (h : CanonicalMemory s) : Lands (Machine.execDispatch die s) := by
  unfold Machine.execDispatch
  split
  · exact .fault
  · split
    · refine .ite .fault (.next (gatherRecord ?_))
      split <;> exact h
    · exact .fault

theorem execClassifierWindow {die} (h : CanonicalMemory s) : Lands (Machine.execClassifierWindow die s) := .next h.onDie

/-! ## Admission -/

theorem refuse {d r status} (h : CanonicalMemory s) : CanonicalMemory (s.refuse d r status) := by
  unfold State.refuse
  extract_lets t
  split
  · exact h.onDie.onCtx
  · exact h.onDie.answerScalar

theorem markCfgmis {ctx} (h : CanonicalMemory s) : CanonicalMemory (s.markCfgmis ctx) := h.device

theorem admitInst {d r hd sts recs slot} (h : CanonicalMemory s) : CanonicalMemory (s.admitInst d r hd sts recs slot) := by
  unfold State.admitInst
  extract_lets waited mis i s2 s3
  have h3 : CanonicalMemory s3 := .ite h.onDie.markCfgmis h.onDie
  split
  · exact h3.writeVa
  · exact h3.answerScalar

theorem abortScan {d core} (h : CanonicalMemory s) : CanonicalMemory (s.abortScan d core) := by
  unfold State.abortScan
  extract_lets t u
  have hu : CanonicalMemory u := foldl (fun _ _ hr => hr.answerScalar) h.onCore
  split
  · exact hu.answerScalar
  · exact hu

theorem execAdmission {die} (h : CanonicalMemory s) : Lands (Machine.execAdmission die s) := by
  unfold Machine.execAdmission
  split
  · exact .fault
  · refine .ite .fault ?_
    split
    · exact .next h.refuse
    · refine .ite (.next h.refuse) ?_
      extract_lets slack own
      split
      · exact .fault
      · refine .ite ?_ (.ite (.next h.refuse) ?_)
        · split
          · exact .next h.abortScan.onDie
          · exact .next h.refuse
        · split
          · exact .fault
          · exact .next h.admitInst

theorem execHostAdmissionAnswer {die status} (h : CanonicalMemory s) : Lands (Machine.execHostAdmissionAnswer die status s) := by
  unfold Machine.execHostAdmissionAnswer
  split
  · exact .fault
  · exact .ite (.next h.onDie) .fault

/-! ## Windows of queues and counters -/

theorem putWindow {d w} (h : CanonicalMemory s) : CanonicalMemory (s.putWindow d w) := h

theorem qnack {d w e} (h : CanonicalMemory s) : CanonicalMemory (s.qnack d w e) := by
  unfold State.qnack
  split
  · exact h
  · exact h.putList.reportList

theorem refusal {d w st} (h : CanonicalMemory s) : CanonicalMemory (s.refusal d w st) := by
  unfold State.refusal
  split
  · exact h
  · exact foldl (fun _ _ ht => ht.qnack) h.putWindow

theorem offer {d w} (h : CanonicalMemory s) : CanonicalMemory (s.offer d w) := by
  unfold State.offer
  split
  · exact .ite h.onInst.putWindow h.refusal
  · exact h

theorem execEnqueueOffer {win} (h : CanonicalMemory s) : Lands (Machine.execEnqueueOffer win s) := by
  unfold Machine.execEnqueueOffer
  split
  · exact .ite (.next h.offer) .fault
  · exact .fault

theorem execEnqueueBackoff {win} (h : CanonicalMemory s) : Lands (Machine.execEnqueueBackoff win s) := by
  unfold Machine.execEnqueueBackoff
  split
  · exact .ite (.next h.offer) .fault
  · exact .fault

theorem wakeCounter {id} (h : CanonicalMemory s) : CanonicalMemory (s.wakeCounter id) := h

theorem fire {id c} (h : CanonicalMemory s) : CanonicalMemory (s.fire id c) := by
  unfold State.fire
  extract_lets d t
  have ht : CanonicalMemory t := h.setCounter.wakeCounter
  split
  · exact .ite ht.send ht
  · exact ht

theorem decrement {id m} (h : CanonicalMemory s) : CanonicalMemory (s.decrement id m) := by
  unfold State.decrement
  split
  · exact h.onDie
  · exact .ite h (.ite h.fire h.setCounter)

theorem execCounterDecrement {id} (h : CanonicalMemory s) : Lands (Machine.execCounterDecrement id s) := by
  unfold Machine.execCounterDecrement
  split
  · split
    · exact .ite (.next (foldl (fun _ _ ht => ht.decrement) h.dropOut)) .fault
    · exact .fault
  · exact .fault

theorem execGbarArrival {gid} (h : CanonicalMemory s) : Lands (Machine.execGbarArrival gid s) := by
  unfold Machine.execGbarArrival
  split
  · exact .fault
  · exact .ite .fault (.next h.arrive.settlePart)

/-! ## Copy engines -/

theorem copyOver {d core key seq} (h : CanonicalMemory s) : CanonicalMemory (s.copyOver d core key seq) := h

theorem copyFault {d core key seq w code info} (h : CanonicalMemory s) : CanonicalMemory (s.copyFault d core key seq w code info) :=
  .ite h.engineFault h.engineFault.copyOver

theorem copyPlace {w a kind} (h : CanonicalMemory s) : CanonicalMemory (s.copyPlace w a kind).2 := by
  unfold State.copyPlace
  split
  next e => exact h.findNow.of_eq_mk e
  next e => exact h.findNow.of_eq_mk e
  next e => exact h.findNow.of_eq_mk e

theorem copyRead {w ext ps} : ∀ {s bs}, CanonicalMemory s → CanonicalMemory (s.copyRead w ext ps bs).2 := by
  induction ps with
  | nil => exact fun h => h
  | cons p ps ih =>
    intro s bs h
    unfold State.copyRead
    split
    · exact h
    · split
      next e => exact h.copyPlace.of_eq_mk e
      next t e =>
        have ht := h.copyPlace.of_eq_mk e
        extract_lets lost open_
        split
        · exact ht
        · split
          · exact ht
          · split
            · exact ht
            · split
              · split
                · exact ih ht
                · exact ht
              · exact ih ht.pinFor.crossed

theorem copyTargets {w b ps} : ∀ {s}, CanonicalMemory s → CanonicalMemory (s.copyTargets w b ps).2 := by
  induction ps with
  | nil => exact fun h => h
  | cons p ps ih =>
    intro s h
    unfold State.copyTargets
    generalize (if b.redop = 0 then 1 else 3) = kind
    extract_lets here
    have hh : CanonicalMemory here.2 := by
      unfold here
      split
      · exact h
      · split
        · exact h
        · split
          next e => exact h.copyPlace.of_eq_mk e
          next e =>
            have ht := h.copyPlace.of_eq_mk e
            generalize (b.redop != 0 && _) = bad
            cases bad <;> exact ht
    clear_value here
    split
    · exact hh
    · split
      next e => exact (ih hh).of_eq_mk e
      next e => exact (ih hh).of_eq_mk e

theorem engineSend {w as clears} (h : CanonicalMemory s) : CanonicalMemory (s.engineSend w as clears).2 := by
  unfold State.engineSend
  split
  rename_i id t e
  have ht : CanonicalMemory t := h.fresh.of_eq_mk e
  exact sendOut ht

theorem copyWrite {w b row done bs base ps} : ∀ {s ids}, CanonicalMemory s → CanonicalMemory (s.copyWrite w b row done bs base ps ids).2 := by
  induction ps with
  | nil => exact fun h => h
  | cons p ps ih =>
    intro s ids h
    unfold State.copyWrite
    extract_lets data line
    split
    rename_i ids' t e
    have ht : CanonicalMemory t := by
      refine of_eq_mk ?_ e
      exact foldl_snd (fun _ _ hr => hr.engineSend) h
    exact ih ht

theorem enginePath {id va} (h : CanonicalMemory s) : CanonicalMemory (s.enginePath id va) := by
  unfold State.enginePath
  split
  · exact .ite h h.copyFault
  · exact h

theorem copyPage {d core key w p a st} (h : CanonicalMemory s) : CanonicalMemory (s.copyPage d core key w p a st) := h

theorem copyBeat {d core key ext seq b w t} (h : CanonicalMemory s) (e : s.copyBeat d core key ext seq b w = some t) : CanonicalMemory t := by
  unfold State.copyBeat at e
  dsimp only at e
  split at e
  next hr =>
    cases e
    exact (h.copyRead.of_eq_mk hr).copyFault
  next hr =>
    cases e
    exact (h.copyRead.of_eq_mk hr).copyPage
  next => cases e
  next hr =>
    have ht := h.copyRead.of_eq_mk hr
    split at e
    next hu =>
      cases e
      exact (ht.copyTargets.of_eq_mk hu).copyFault
    next hu =>
      cases e
      exact (ht.copyTargets.of_eq_mk hu).copyPage
    next => cases e
    next hu =>
      cases e
      exact (ht.copyTargets.of_eq_mk hu).copyWrite.onCore.charge

theorem execCopyBeat {die core q ext} (h : CanonicalMemory s) : Lands (Machine.execCopyBeat die core q ext s) := by
  unfold Machine.execCopyBeat
  split
  · exact .fault
  · extract_lets p
    refine .ite .fault (.ite (.ite .fault (.next h.copyOver)) (.ite .fault ?_))
    split
    · refine .ite .fault (.ite (.next h.copyFault.dropFab) ?_)
      split
      next e => exact .next (h.copyBeat e).dropFab
      next => exact .fault
    · split
      next e => exact .next (h.copyBeat e)
      next => exact .fault

theorem followOn {b node w} (h : CanonicalMemory s) : CanonicalMemory (s.followOn b node w) := .ite h.queueEval (.ite h.queueEval h)

theorem execCopyNotify {die core q} (h : CanonicalMemory s) : Lands (Machine.execCopyNotify die core q s) := by
  unfold Machine.execCopyNotify
  split
  · exact .fault
  · extract_lets p
    refine .ite .fault (.ite (.next h.followOn.copyOver) ?_)
    split
    · extract_lets t
      have ht : CanonicalMemory t := h.engineSend
      exact .next ht.followOn.copyOver.charge
    · exact .next h.copyFault
    · exact .fault

/-! ## Arrays -/

theorem multicast {us} : ∀ {s}, CanonicalMemory s → CanonicalMemory (s.multicast us) := by
  induction us with
  | nil => exact fun h => h
  | cons u us ih =>
    intro s h
    unfold State.multicast
    dsimp only
    exact ih (.ite h.pick.arrayStep h.pick)

theorem execArrayOperandStep {die core} (h : CanonicalMemory s) : Lands (Machine.execArrayOperandStep die core s) := by
  unfold Machine.execArrayOperandStep
  extract_lets best
  refine .ite .fault ?_
  dsimp only
  split
  · exact .next h.pick.arrayStep.multicast
  · exact .fault

theorem execEmulatedStepDone {die core host} (h : CanonicalMemory s) : Lands (Machine.execEmulatedStepDone die core host s) := by
  unfold Machine.execEmulatedStepDone
  split
  · refine .ite .fault (.ite (.next h.putEval) (.next ?_))
    exact .ite h.onDie.putEval h.onDie.emulatedStep
  · exact .fault

/-! ## Deadlines, clocks and services -/

theorem execDeadmiss {die slot} (h : CanonicalMemory s) : Lands (Machine.execDeadmiss die slot s) := .ite (.next h.strike) .fault

theorem deadlock {d slot} (h : CanonicalMemory s) : CanonicalMemory (s.deadlock d slot) := h.instanceRecord

theorem execWaitforBuild {die} (h : CanonicalMemory s) : Lands (Machine.execWaitforBuild die s) :=
  .next (foldl (fun _ _ ht => ht.deadlock) h.onDie)

theorem execSampleWindow {die data} (h : CanonicalMemory s) : Lands (Machine.execSampleWindow die data s) := by
  unfold Machine.execSampleWindow
  split
  · exact .ite (.next h.onDie.sample) .fault
  · exact .fault

theorem registerEvent {d n v name} (h : CanonicalMemory s) : Lands (s.registerEvent d n v name) := .ite (.next h.sysWrite) .fault

theorem execShootdownComplete {die} (h : CanonicalMemory s) : Lands (Machine.execShootdownComplete die s) := by
  unfold Machine.execShootdownComplete
  split
  · exact .ite (.next h.shootDone) .fault
  · exact .fault

theorem answerDrain {d core status scan} (h : CanonicalMemory s) : CanonicalMemory (s.answerDrain d core status scan) :=
  foldl (fun _ _ ht => ht.answerScalar) h.onCore

theorem execCdrainDone {die core} (h : CanonicalMemory s) : Lands (Machine.execCdrainDone die core s) :=
  .ite .fault (.ite (.next h.answerDrain) (.ite (.next h.answerDrain) .fault))

theorem execCscanDone {die core sig} (h : CanonicalMemory s) : Lands (Machine.execCscanDone die core sig s) := by
  unfold Machine.execCscanDone
  extract_lets c site t
  refine .ite .fault ?_
  split
  · exact .next h.onDie.answerScalar
  · exact .next h.onDie

theorem execClusterPathFail {die src dst} (h : CanonicalMemory s) : Lands (Machine.execClusterPathFail die src dst s) :=
  .ite (.next (.ite h.onDie.onDie h.onDie.onDie)) .fault

theorem loseWord {found} (h : CanonicalMemory s) : CanonicalMemory (s.loseWord found) := by
  unfold State.loseWord
  split
  · exact h.onCore.onInst
  · exact h.onCore.onInst
  · split
    · dsimp only
      exact h.onCore.pick.takeFault
    · exact h
  · exact h

theorem execPatrolScrub {line found} (h : CanonicalMemory s) : Lands (Machine.execPatrolScrub line found s) := by
  unfold Machine.execPatrolScrub
  split
  · exact .next h
  · exact .next h.onDie
  · exact .next (foldl (fun _ _ ht => ht.dropL1) h.onDie.setPoison)
  · exact .next (.ite h.loseWord h.onCore)
  · exact .next (.ite h.loseWord h.onCore)
  · exact .next h.onCore.onCore
  · split
    · exact .ite .fault (.next (.ite h.loseWord h.onCore))
    · exact .fault

theorem execPowerThrottle {die permits mhz} (h : CanonicalMemory s) : Lands (Machine.execPowerThrottle die permits mhz s) :=
  .ite (.next h.onDie) .fault

/-! ## Messages between dies -/

theorem performedAway {o} (h : CanonicalMemory s) : CanonicalMemory (s.performedAway o) := .ite h h.dropOut

theorem updateReplica {e as} (h : CanonicalMemory s) : CanonicalMemory (s.updateReplica e as) := by
  refine reportWatched (foldl (fun t a ht => ?_) h)
  split
  · exact ht.toReplica
  · exact ht

theorem applyWrite {e vec num c} (h : CanonicalMemory s) : CanonicalMemory (s.applyWrite e vec num c) := by
  unfold State.applyWrite
  split
  · exact h.bindHere
  · exact h
  · exact h.cleanReplica
  · split
    · refine .ite ?_ (.ite h.updateReplica h.updateReplica.dropOut)
      split
      · exact h.performAt.performedAway
      · exact h
    · exact h

theorem execCausalMessage {src dst} (h : CanonicalMemory s) : Lands (Machine.execCausalMessage src dst s) := by
  unfold Machine.execCausalMessage
  split
  · refine .ite (.next ?_) .fault
    exact onDie (foldl (fun _ _ ht => ht.applyWrite) h)
  · exact .fault

theorem execReplicaFill {die line} (h : CanonicalMemory s) : Lands (Machine.execReplicaFill die line s) := by
  unfold Machine.execReplicaFill
  split
  · exact .ite (.next h.onDie) .fault
  · exact .fault

theorem execReplicaDrop {die line} (h : CanonicalMemory s) : Lands (Machine.execReplicaDrop die line s) := .ite (.next h.onDie.dropL1) .fault

theorem loseWrite {dst num c} (h : CanonicalMemory s) : CanonicalMemory (s.loseWrite dst num c) := by
  unfold State.loseWrite
  split
  · exact h.bindHere
  · exact h
  · exact h
  · split
    · exact enginePath (dropOut (.ite h.pathFailed h.loseActs))
    · exact h

theorem execD2dLinkFail {src dst} (h : CanonicalMemory s) : Lands (Machine.execD2dLinkFail src dst s) := by
  unfold Machine.execD2dLinkFail
  refine .ite .fault ?_
  extract_lets ms pkg s1 s2 told
  have h2 : CanonicalMemory s2 := foldl (fun _ _ ht => foldl (fun _ _ hu => hu.loseWrite) ht) (s := s1) h
  exact .next h2.onDie.onDie.onDie

/-! ## Other packages -/

theorem reply {src admitted bs} (h : CanonicalMemory s) : CanonicalMemory (s.reply src admitted bs) := h

theorem execFabricRequest {req} (h : CanonicalMemory s) : Lands (Machine.execFabricRequest req s) := by
  unfold Machine.execFabricRequest
  dsimp only
  refine .ite .fault ?_
  split
  · exact .next h.reply
  · exact .next (reply (.ite h h.performAt))

theorem deliverAll {as} : ∀ {s bs}, CanonicalMemory s → CanonicalMemory (s.deliverAll as bs) := by
  induction as with
  | nil => exact fun h => h
  | cons a as ih =>
    intro s bs h
    cases a with
    | write | merge => exact ih h
    | atom => exact ih h.deliverAtom

theorem execFabricAck {id data} (h : CanonicalMemory s) : Lands (Machine.execFabricAck id data s) := by
  unfold Machine.execFabricAck
  split
  · refine .ite .fault ?_
    split
    · split
      · split
        · exact .fault
        · exact .ite (.next h.unperformed.dropOut.enginePath.dropFab) (.ite (.next h.deliverAll.dropOut.dropFab) .fault)
      · exact .next h.dropFab
    · exact .fault
    · exact .fault
  · exact .fault

theorem unanswered {f} (h : CanonicalMemory s) : CanonicalMemory (s.unanswered f) := by
  unfold State.unanswered
  extract_lets t
  have ht : CanonicalMemory t := h.dropFab
  split
  · split
    · exact ht.loseActs.dropOut.enginePath
    · exact ht
  · exact foldl (fun _ _ hu => .ite hu.loadPathFault hu) ht
  · split
    · exact ht.copyFault
    · exact ht

theorem lostRequests (h : CanonicalMemory s) : CanonicalMemory s.lostRequests := foldl (fun _ _ ht => ht.unanswered) h

theorem execFabricLinkFail {link} (h : CanonicalMemory s) : Lands (Machine.execFabricLinkFail link s) := .ite .fault (.next (lostRequests h))

theorem execFabricTimeout {id} (h : CanonicalMemory s) : Lands (Machine.execFabricTimeout id s) := by
  unfold Machine.execFabricTimeout
  split
  · exact .ite (.next (lostRequests h)) .fault
  · exact .fault

/-! ## Registers of the package and contexts -/

theorem execCtxbase {v} (h : CanonicalMemory s) : Lands (Machine.execCtxbase v s) := .next (.ite h.onPkg h)

theorem execFabid {v} (h : CanonicalMemory s) : Lands (Machine.execFabid v s) := .next (.ite h.onPkg h)

theorem execRegisterWrite {off v} (h : CanonicalMemory s) : Lands (Machine.execRegisterWrite off v s) :=
  .next (.ite h (.ite h.onPkg (.ite h.onPkg (.ite h.onPkg h))))

theorem execFrcons {c v} (h : CanonicalMemory s) : Lands (Machine.execFrcons c v s) := .next (.ite h.onPkg h)

theorem execTail {c v} (h : CanonicalMemory s) : Lands (Machine.execTail c v s) := .next (.ite h.onPkg h)

theorem useKeys {mask up} (h : CanonicalMemory s) : CanonicalMemory (s.useKeys mask up) := h

theorem command {c name legal k} (h : CanonicalMemory s) (hk : CanonicalMemory k) : Lands (s.command c name legal k) :=
  .ite .fault (.ite (.next h.setCtxctl) (.ite (.next h.setCtxctl) (.next hk)))

theorem markAll (h : CanonicalMemory s) : CanonicalMemory s.markAll := foldl (fun _ _ ht => ht.mark) h

theorem zeroSequences {c} (h : CanonicalMemory s) : CanonicalMemory (s.zeroSequences c) := h

theorem startContext {c} (h : CanonicalMemory s) : CanonicalMemory (s.startContext c) :=
  .ite h.setCtxctl (.ite h.setCtxctl h.onCtx.zeroSequences.useKeys.markRunning.setCtxctl)

theorem execCtxctlStart {c} (h : CanonicalMemory s) : Lands (Machine.execCtxctlStart c s) := h.command h.startContext

theorem switchOut {c} (h : CanonicalMemory s) : CanonicalMemory (s.switchOut c) := h.onCtx.unfused.markAll.setCtxctl

theorem withEntry {c k} (h : CanonicalMemory s) (hk : CanonicalMemory k) : CanonicalMemory (s.withEntry c k) :=
  .ite h.setCtxctl (.ite h.setCtxctl hk)

theorem execCtxctlSwitchOut {c} (h : CanonicalMemory s) : Lands (Machine.execCtxctlSwitchOut c s) := h.command (h.withEntry h.switchOut)

theorem execContextDrainDone {ctx} (h : CanonicalMemory s) : Lands (Machine.execContextDrainDone ctx s) := .ite (.next h.switchedOut) .fault

theorem execPreemptTimeout {ctx} (h : CanonicalMemory s) : Lands (Machine.execPreemptTimeout ctx s) := .ite (.next h.resetContext) .fault

theorem readmit {d slot slack} (h : CanonicalMemory s) : CanonicalMemory (s.readmit d slot slack) := by
  unfold State.readmit
  split
  · exact h
  · exact .ite h.onInst h.onInst.instanceRecord

theorem rehome {c d a b} (h : CanonicalMemory s) : CanonicalMemory (s.rehome c d a b) := h

theorem rehomes {c} (h : CanonicalMemory s) : CanonicalMemory (s.rehomes c) := by
  refine foldl (fun t d ht => foldl (fun u a hu => ?_) ht) h
  refine .ite hu ?_
  dsimp only
  split
  · exact hu.pick.rehome
  · exact hu

theorem resume {c} (h : CanonicalMemory s) : CanonicalMemory (s.resume c) := by
  unfold State.resume
  refine .ite h.setCtxctl (.ite h.setCtxctl ?_)
  extract_lets elapsed saved old t u v
  have hu : CanonicalMemory u := foldl (fun _ _ hr => hr.onInst) h.onCtx.rehomes
  have hv : CanonicalMemory v := foldl (fun _ _ hr => hr.readmit) hu
  exact .ite h.setCtxctl (.ite h.setCtxctl hv.useKeys.useKeys.markAll.markRunning.setCtxctl)

theorem execCtxctlResume {c} (h : CanonicalMemory s) : Lands (Machine.execCtxctlResume c s) := h.command h.resume

theorem endContext {c} (h : CanonicalMemory s) : CanonicalMemory (s.endContext c) := by
  unfold State.endContext
  split
  rename_i how s0 e
  have h0 : CanonicalMemory s0 := h.pick.of_eq_mk e
  extract_lets insts s1 s2
  have h1 : CanonicalMemory s1 := foldl (fun _ _ hr => hr.endInst) h0
  have h2 : CanonicalMemory s2 := h1
  exact h2.untranslated.useKeys.onCtx.markRunning.setCtxctl

theorem execCtxctlEnd {c} (h : CanonicalMemory s) : Lands (Machine.execCtxctlEnd c s) := h.command (h.withEntry h.endContext)

theorem stopChain {c a} (h : CanonicalMemory s) : CanonicalMemory (s.stopChain c a) := h

theorem present {c a bs} (h : CanonicalMemory s) : CanonicalMemory (s.present c a bs) := by
  unfold State.present
  extract_lets seq t
  have ht : CanonicalMemory t := h.onCtx
  split
  · exact ht.onDie
  · split
    rename_i d u e
    have hu : CanonicalMemory u := by
      refine of_eq_mk ?_ e
      split
      · exact ht
      · exact ht.pick
    exact hu.onCtx

theorem execChainRecord {c} (h : CanonicalMemory s) : Lands (Machine.execChainRecord c s) := by
  unfold Machine.execChainRecord
  extract_lets x next
  refine .ite .fault ?_
  clear_value next
  split
  · exact .next h.stopChain
  · exact .next h.stopChain
  · split
    · exact .next h.stopChain
    · exact .ite (.next h.present) (.next h.stopChain)

theorem execBringUp {fuses} (h : CanonicalMemory s) : Lands (Machine.execBringUp fuses s) := by
  unfold Machine.execBringUp
  refine .ite .fault (.ite (.next h) ?_)
  extract_lets s1 s2
  have h2 : CanonicalMemory s2 := foldl (fun _ _ ht => ht) (s := s1) h
  exact .next h2.onPkg

theorem execAttestationRequest {nonce} (h : CanonicalMemory s) : Lands (Machine.execAttestationRequest nonce s) := .ite (.next h.onPkg) .fault

/-! ## Graphs -/

theorem rebind {r b} (h : CanonicalMemory s) : CanonicalMemory (s.rebind r b) := h

theorem execTndef {a t} (h : CanonicalMemory s) : Lands (Machine.execTndef a t s) := by
  refine .issue fun r => h.checked ?_
  split
  · exact .next h.setRun
  · refine .ite h.raise (h.withPlaced fun u q hu => ?_)
    split
    next e => exact (hu.readNow.of_eq_mk₃ e).raiseRead
    next e =>
      have hv := hu.readNow.of_eq_mk₃ e
      refine .ite hv.raisePoison ?_
      split
      · exact hv.raise
      · exact .next hv.rebind

theorem execTnrel {t} (h : CanonicalMemory s) : Lands (Machine.execTnrel t s) := .issue fun _ => .next (.ite h.rebind h.setRun)

theorem execTnget {d t} (h : CanonicalMemory s) : Lands (Machine.execTnget d t s) :=
  .issue fun _ => .ite h.raise (h.checked (.ite (.next h.setArch) (.next h.setRun)))

theorem request4 {r id node k} (h : CanonicalMemory s) : CanonicalMemory (s.request4 r id node k).1 := h

theorem addNode {r d op rows cols fmt} (h : CanonicalMemory s) : Lands (s.addNode r d op rows cols fmt) := .next h

theorem append {r d op rows cols fmt} (h : CanonicalMemory s) : Lands (s.append r d op rows cols fmt) := by
  refine .ite h.addNode ?_
  split
  · exact h.raise
  · exact .next h.fresh.request4.pause

theorem graph {srcs k} (h : CanonicalMemory s) (hk : ∀ r j, Lands (k r j)) : Lands (s.graph srcs k) := by
  refine .issue fun r => h.checked ?_
  split
  · exact .next h.setRun
  · exact hk _ _

theorem withNode {r n k} (h : CanonicalMemory s) (hk : ∀ id x, Lands (k id x)) : Lands (s.withNode r n k) := by
  unfold State.withNode
  extract_lets id
  split
  · exact hk _ _
  · exact h.raise

theorem badattr {r n} (h : CanonicalMemory s) : Lands (s.badattr r n) := h.raise

theorem shape {r ext want} (h : CanonicalMemory s) : Lands (s.shape r ext want) := h.raise

theorem withDense {r n k} (h : CanonicalMemory s) (hk : ∀ id x, Lands (k id x)) : Lands (s.withDense r n k) :=
  h.withNode fun _ _ => .ite h.badattr (hk _ _)

theorem execMleaf {d a k t} (h : CanonicalMemory s) : Lands (Machine.execMleaf d a k t s) := by
  refine h.graph fun r j => ?_
  split
  · exact h.raise
  · dsimp only
    split
    · exact h.shape
    · exact h.shape
    · exact .ite h.append h.append

theorem execMconst {d a y k} (h : CanonicalMemory s) : Lands (Machine.execMconst d a y k s) := h.graph fun _ _ => .ite h.badattr h.append

theorem execMtri {d n a} (h : CanonicalMemory s) : Lands (Machine.execMtri d n a s) :=
  h.graph fun _ _ => h.withDense fun _ _ => .ite h.badattr h.append

theorem execMscl {d n a} (h : CanonicalMemory s) : Lands (Machine.execMscl d n a s) :=
  h.graph fun _ _ => h.withDense fun _ _ => .ite h.badattr h.append

theorem execMmul {d n m t k p q} (h : CanonicalMemory s) : Lands (Machine.execMmul d n m t k p q s) :=
  h.graph fun _ _ => h.withNode fun _ _ => h.withNode fun _ _ => .ite h.badattr (.ite h.badattr (.ite h.shape h.append))

theorem elementwise {op d n m q} (h : CanonicalMemory s) : Lands (s.elementwise op d n m q) :=
  h.graph fun _ _ => h.withNode fun _ _ => h.withNode fun _ _ =>
    .ite h.badattr (.ite h.badattr (.ite h.badattr (.ite h.shape (.ite h.shape h.append))))

theorem execMtrn {d n} (h : CanonicalMemory s) : Lands (Machine.execMtrn d n s) := h.graph fun _ _ => h.withDense fun _ _ => h.append

theorem execMcvt {d n t m f} (h : CanonicalMemory s) : Lands (Machine.execMcvt d n t m f s) :=
  h.graph fun _ _ => h.withDense fun _ _ => .ite h.badattr h.append

theorem execMact {d n k} (h : CanonicalMemory s) : Lands (Machine.execMact d n k s) :=
  h.graph fun _ _ => h.withDense fun _ _ => .ite h.badattr h.append

theorem execForce {n} (h : CanonicalMemory s) : Lands (Machine.execForce n s) := h.graph fun _ _ => h.withNode fun _ _ => .next h

theorem execMdrop {n} (h : CanonicalMemory s) : Lands (Machine.execMdrop n s) := h.graph fun _ _ => h.withNode fun _ _ => .next h.setArch

theorem execMrd {d n a} (h : CanonicalMemory s) : Lands (Machine.execMrd d n a s) := by
  refine .issue fun r => .ite h.illins (h.checked ?_)
  split
  · exact .next h.setRun
  · exact h.withNode fun _ _ => .ite h.badattr (.ite h.shape (.ite h.shape (.next h)))

theorem execMst {n t a f} (h : CanonicalMemory s) : Lands (Machine.execMst n t a f s) := by
  refine h.graph fun r j => h.withNode fun node x => ?_
  split
  · exact h.raise
  · refine .ite h.badattr (.ite h.shape (.ite h.shape ?_))
    dsimp only
    split
    · split
      · exact h.raise
      · exact .next h
    · exact h.fresh.fresh.startAccess fun _ _ hu => .next hu

theorem execMacc {n k a t i} (h : CanonicalMemory s) : Lands (Machine.execMacc n k a t i s) :=
  h.graph fun _ _ => h.withNode fun _ _ => .ite h.badattr (.ite h.shape (.ite h.shape (.next h.holding)))

theorem execMstat {n d} (h : CanonicalMemory s) : Lands (Machine.execMstat n d s) :=
  .issue fun _ => h.checked (.ite (.next h.setRun) (.next h))

/-! ## The operations that groups of instructions share -/

theorem scalar2 {d a b f} (h : CanonicalMemory s) : Lands (s.scalar2 d a b f) := h.scalarOp

theorem scalar1 {d a f} (h : CanonicalMemory s) : Lands (s.scalar1 d a f) := h.scalarOp

theorem scalarImm {d a i f} (h : CanonicalMemory s) : Lands (s.scalarImm d a i f) := h.scalar1

theorem vector2 {d a b g gn f} (h : CanonicalMemory s) : Lands (s.vector2 d a b g gn f) := h.vectorOp

theorem vector3 {d a b g gn f} (h : CanonicalMemory s) : Lands (s.vector3 d a b g gn f) := h.vectorOp

theorem vector1 {d a g gn f} (h : CanonicalMemory s) : Lands (s.vector1 d a g gn f) := h.vectorOp

theorem vectorImm {d a i f} (h : CanonicalMemory s) : Lands (s.vectorImm d a i f) := h.vector1

theorem predLogic {p f} (h : CanonicalMemory s) : Lands (s.predLogic p f) := h.predOp

theorem float2 {d a b g n f} (h : CanonicalMemory s) : Lands (s.float2 d a b g n f) := h.floatOp

theorem float3 {d a b g n f} (h : CanonicalMemory s) : Lands (s.float3 d a b g n f) := h.floatOp

theorem float1 {d a g n f} (h : CanonicalMemory s) : Lands (s.float1 d a g n f) := h.floatOp

theorem double2 {d a b g n acc f} (h : CanonicalMemory s) : Lands (s.double2 d a b g n acc f) := h.doubleOp

theorem special {d a g n f} (h : CanonicalMemory s) : Lands (s.special d a g n f) := h.float1

theorem vote {d p f} (h : CanonicalMemory s) : Lands (s.vote d p f) := h.scalarOp

theorem random {d a b g n f} (h : CanonicalMemory s) : Lands (s.random d a b g n f) := h.vectorOp

theorem loadLanes {d b e i o size sx} (h : CanonicalMemory s) : Lands (s.loadLanes d b e i o size sx) := h.vectorLoad

theorem storeLanes {d b e i o size} (h : CanonicalMemory s) : Lands (s.storeLanes d b e i o size) := h.vectorStore

/-! ## Scalar and vector operations that read the running gang -/

theorem execSadr {d i} (h : CanonicalMemory s) : Lands (Machine.execSadr d i s) := .issue fun _ => h.scalarOp

theorem execTinst {d} (h : CanonicalMemory s) : Lands (Machine.execTinst d s) := .issue fun _ => h.scalarOp

theorem execTstg {d} (h : CanonicalMemory s) : Lands (Machine.execTstg d s) := .issue fun _ => h.scalarOp

theorem execTbud {d k} (h : CanonicalMemory s) : Lands (Machine.execTbud d k s) := .issue fun _ => h.scalarOp

theorem execTslk {d} (h : CanonicalMemory s) : Lands (Machine.execTslk d s) := .issue fun _ => h.scalarOp

theorem execVtask {d g n} (h : CanonicalMemory s) : Lands (Machine.execVtask d g n s) := .issue fun _ => h.vectorOp

theorem execFcvt {d a c g n sat r} (h : CanonicalMemory s) : Lands (Machine.execFcvt d a c g n sat r s) := .ite h.doubleOp h.floatOp

/-! ## Control flow -/

theorem execCall {o} (h : CanonicalMemory s) : Lands (Machine.execCall o s) := .issue fun _ => h.callTo

theorem execJmp {a} (h : CanonicalMemory s) : Lands (Machine.execJmp a s) := .issue fun _ => h.checked (h.aligned (.next h.goTo))

theorem execCallr {a} (h : CanonicalMemory s) : Lands (Machine.execCallr a s) :=
  .issue fun _ => h.checked (.ite h.illins (h.aligned h.callTo))

theorem execRet (h : CanonicalMemory s) : Lands (Machine.execRet s) := .issue fun _ => .ite h.illins (.next h.goTo)

theorem execRegang {t} (h : CanonicalMemory s) : Lands (Machine.execRegang t s) := .issue fun _ => .next h.endBy

theorem execMpush {d k} (h : CanonicalMemory s) : Lands (Machine.execMpush d k s) := .issue fun _ => h.checked (.next h.setArch)

theorem execAllon {d} (h : CanonicalMemory s) : Lands (Machine.execAllon d s) := .issue fun _ => h.checked (.next h.endBy)

theorem execAlloff {a} (h : CanonicalMemory s) : Lands (Machine.execAlloff a s) := .issue fun _ => h.checked (.next h.setArch)

/-! ## Operations across lanes -/

theorem execRedFadd {d a g n} (h : CanonicalMemory s) : Lands (Machine.execRedFadd d a g n s) := .issue fun _ => h.checked (.next h.setArch)

theorem execKsort {d a b g n} (h : CanonicalMemory s) : Lands (Machine.execKsort d a b g n s) := .issue fun _ => h.checked (.next h.setArch)

theorem execKmerge {d a b g n} (h : CanonicalMemory s) : Lands (Machine.execKmerge d a b g n s) :=
  .issue fun _ => h.checked (.next h.setArch)

/-! ## Fences and queues -/

theorem execFenceRel {c} (h : CanonicalMemory s) : Lands (Machine.execFenceRel c s) := .issue fun _ => .next h.holding

theorem execFenceAcq {c} (h : CanonicalMemory s) : Lands (Machine.execFenceAcq c s) := .issue fun _ => .next h.endBy

theorem execFenceFull {c} (h : CanonicalMemory s) : Lands (Machine.execFenceFull c s) := .issue fun _ => .next h.endBy

theorem execQfence {m} (h : CanonicalMemory s) : Lands (Machine.execQfence m s) := .issue fun _ => .next h.holding

theorem execQseq {d q} (h : CanonicalMemory s) : Lands (Machine.execQseq d q s) := .issue fun _ => h.checked (.next h.fresh.setRun)

/-! ## Tasks and the control core -/

theorem execTend (h : CanonicalMemory s) : Lands (Machine.execTend s) := .issue fun _ => .next h.fresh.endBy

theorem execTrap {c} (h : CanonicalMemory s) : Lands (Machine.execTrap c s) := .issue fun _ => h.raise

theorem execNop (h : CanonicalMemory s) : Lands (Machine.execNop s) := .issue fun _ => .next h.setRun

theorem execEret (h : CanonicalMemory s) : Lands (Machine.execEret s) := .issue fun _ => .ite h.privilege (.next h.endBy)

theorem execCdrain {d a} (h : CanonicalMemory s) : Lands (Machine.execCdrain d a s) := h.control fun _ _ => h.holdPend

theorem execCscan {d a} (h : CanonicalMemory s) : Lands (Machine.execCscan d a s) := h.control fun _ _ => h.holdPend

theorem execCsig {d a} (h : CanonicalMemory s) : Lands (Machine.execCsig d a s) := h.control fun _ _ => .next h.fresh.setRun

theorem execCmaprm {a} (h : CanonicalMemory s) : Lands (Machine.execCmaprm a s) := h.control fun _ _ => .ite (.next h.holding) h.raise

theorem execCmapad {a} (h : CanonicalMemory s) : Lands (Machine.execCmapad a s) := h.control fun _ _ => .ite h.raise (.next h.holding)

theorem execCreset {a} (h : CanonicalMemory s) : Lands (Machine.execCreset a s) := h.control fun _ _ => .next h.holding

/-! ## Every instruction and event -/

/-- What an instruction or an event of the machine answers. -/
theorem exec {i} (h : CanonicalMemory s) : Lands (Machine.exec i s) := by
  unfold Machine.exec
  cases i with
  | sadd | ssub | smul | smulh | smulhu | sand | sor | sxor | sshl | sshr | ssra | smin | smax | sminu | smaxu | sslt | ssltu | sdiv
  | sdivu | srem | sremu | sseq =>
    exact h.scalar2
  | sclz | spop | sshli | sshri | ssrai => exact h.scalar1
  | saddi | sandi | sori | sxori | sslti | ssltiu => exact h.scalarImm
  | slui | mget => exact h.scalarOp
  | sadr => exact h.execSadr
  | bra | bz | bnz | bmz | bmnz | blt => exact h.branch
  | call => exact h.execCall
  | jmp => exact h.execJmp
  | callr => exact h.execCallr
  | ret => exact h.execRet
  | regang => exact h.execRegang
  | mpush => exact h.execMpush
  | mpop | melse | mset => exact h.setMask
  | allon => exact h.execAllon
  | alloff => exact h.execAlloff
  | vadd | vsub | vmul | vmulh | vmulhu | vand | vor | vxor | vshl | vshr | vsra | vmin | vmax | vminu | vmaxu | vabsd | fmin | fmax
  | fminn | fmaxn | fcpys =>
    exact h.vector2
  | vmad | vdot4 | vdot4u => exact h.vector3
  | vpop | vclz | vbrev | vmov | vshli | vshri | vsrai | vunpk | fabs | fneg | fcls => exact h.vector1
  | vsel | vreq8 | vreq4 | vlane | vbcs | vmovi | vlui => exact h.vectorOp
  | vtask => exact h.execVtask
  | vaddi | vandi | vori | vxori | vmini | vmaxi => exact h.vectorImm
  | vcmp | vcmps => exact h.predOp
  | fcmp | fcmps | dcmp => exact h.floatCmp
  | pand | por | pxor | pandn | pnot | pmov | pset | pclr => exact h.predLogic
  | fadd | fsub | fmul | fscl | hadd2 | hsub2 | hmul2 | hmin2 | hmax2 | badd2 | bsub2 | bmul2 => exact h.float2
  | ffma | ffms | hfma2 | bfma2 => exact h.float3
  | frnd | sqrt => exact h.float1
  | fcvt => exact h.execFcvt
  | dadd | dsub | dmul | dfma | dmin | dmax => exact h.double2
  | exp2 | log2 | rcp | rsq | sinpi | cospi | tanh => exact h.special
  | shfl | shflx | shflup | shfldn | bcast => exact h.shuffleLanes
  | vbal | vany | vall | vcnt => exact h.vote
  | redAdd | redMax | redMin | redMaxu | redMinu | redFmax | redFmin | redAnd | redOr | redXor => exact h.reduce
  | redFadd => exact h.execRedFadd
  | redMaxi | redMini | redFmaxi | redFmini => exact h.reduceIdx
  | scanAdd | scanxAdd | scanMax | scanMin | scanOr => exact h.scan
  | scanFadd | scanxFadd => exact h.scanFloat
  | ksort => exact h.execKsort
  | kmerge => exact h.execKmerge
  | rng | rngf => exact h.random
  | sldB | sldBu | sldH | sldHu | sldW | sldWu | sldD => exact h.scalarLoad
  | sstB | sstH | sstW | sstD => exact h.scalarStore
  | vldB | vldBu | vldH | vldHu | vldW | vldD => exact h.loadLanes
  | vldsW => exact h.vectorLoad
  | vldbW => exact h.execVldbW
  | vstB | vstH | vstW | vstD => exact h.storeLanes
  | vstsW => exact h.vectorStore
  | tld | tldt => exact h.tileLoad
  | tst | tstt => exact h.tileStore
  | aadd | amin | amax | aminu | amaxu | aand | aor | axor | axch | acas | afadd | aaddD | amaxuD | acasD => exact h.atomicOp
  | fenceRel => exact h.execFenceRel
  | fenceAcq => exact h.execFenceAcq
  | fenceFull => exact h.execFenceFull
  | qfence => exact h.execQfence
  | waita => exact h.execWaita
  | waitq => exact h.execWaitq
  | cpy => exact h.execCpy
  | qseq => exact h.execQseq
  | tndef => exact h.execTndef
  | tnrel => exact h.execTnrel
  | tnget => exact h.execTnget
  | mleaf => exact h.execMleaf
  | mconst => exact h.execMconst
  | mtri => exact h.execMtri
  | mscl => exact h.execMscl
  | mmul => exact h.execMmul
  | meadd | mesub | memul => exact h.elementwise
  | mtrn => exact h.execMtrn
  | mcvt => exact h.execMcvt
  | mact => exact h.execMact
  | force => exact h.execForce
  | mdrop => exact h.execMdrop
  | mrd => exact h.execMrd
  | mst => exact h.execMst
  | macc => exact h.execMacc
  | mstat => exact h.execMstat
  | tend => exact h.execTend
  | tinst => exact h.execTinst
  | tstg => exact h.execTstg
  | tbud => exact h.execTbud
  | tslk => exact h.execTslk
  | enq => exact h.execEnq
  | enqv => exact h.execEnqv
  | launch => exact h.execLaunch
  | depnew => exact h.execDepnew
  | depsig => exact h.execDepsig
  | depwait => exact h.execDepwait
  | deparm => exact h.execDeparm
  | gnew => exact h.execGnew
  | gjoin => exact h.execGjoin
  | gleave => exact h.execGleave
  | gbar => exact h.execGbar
  | gsize => exact h.execGsize
  | sysr => exact h.execSysr
  | sysw => exact h.execSysw
  | trap => exact h.execTrap
  | nop => exact h.execNop
  | cdrain => exact h.execCdrain
  | cscan => exact h.execCscan
  | csig => exact h.execCsig
  | cmaprm => exact h.execCmaprm
  | cmapad => exact h.execCmapad
  | creset => exact h.execCreset
  | eret => exact h.execEret
  | clauseIssue => exact h.execClauseIssue
  | flightCommit => exact h.execFlightCommit
  | resultArrival => exact h.execResultArrival
  | pageWalk => exact h.execPageWalk
  | scratchRefill => exact h.execScratchRefill
  | relaunch => exact h.execRelaunch
  | preemptGang => exact h.execPreemptGang
  | recordMove => exact h.execRecordMove
  | gatherTimeout => exact h.execGatherTimeout
  | dispatch => exact h.execDispatch
  | admission => exact h.execAdmission
  | enqueueOffer => exact h.execEnqueueOffer
  | enqueueBackoff => exact h.execEnqueueBackoff
  | counterDecrement => exact h.execCounterDecrement
  | gbarArrival => exact h.execGbarArrival
  | watchChange => exact h.execWatchChange
  | homeStore => exact h.execHomeStore
  | homeAtomic => exact h.execHomeAtomic
  | remoteScratchAccess => exact h.execRemoteScratchAccess
  | clusterPathFail => exact h.execClusterPathFail
  | copyBeat => exact h.execCopyBeat
  | copyNotify => exact h.execCopyNotify
  | arrayOperandStep => exact h.execArrayOperandStep
  | emulatedStepDone => exact h.execEmulatedStepDone
  | deadmiss => exact h.execDeadmiss
  | preemptTimeout => exact h.execPreemptTimeout
  | contextDrainDone => exact h.execContextDrainDone
  | waitforBuild => exact h.execWaitforBuild
  | sampleWindow => exact h.execSampleWindow
  | tlbinv | evdone | dbgresume | sampctl | contain => exact h.registerEvent
  | shootdownComplete => exact h.execShootdownComplete
  | cdrainDone => exact h.execCdrainDone
  | cscanDone => exact h.execCscanDone
  | causalMessage => exact h.execCausalMessage
  | replicaFill => exact h.execReplicaFill
  | d2dLinkFail => exact h.execD2dLinkFail
  | fabricRequest => exact h.execFabricRequest
  | fabricAck => exact h.execFabricAck
  | fabricLinkFail => exact h.execFabricLinkFail
  | fabricTimeout => exact h.execFabricTimeout
  | patrolScrub => exact h.execPatrolScrub
  | powerThrottle => exact h.execPowerThrottle
  | bringUp => exact h.execBringUp
  | attestationRequest => exact h.execAttestationRequest
  | tail => exact h.execTail
  | chainRecord => exact h.execChainRecord
  | frcons => exact h.execFrcons
  | ctxctlStart => exact h.execCtxctlStart
  | ctxctlSwitchOut => exact h.execCtxctlSwitchOut
  | ctxctlResume => exact h.execCtxctlResume
  | ctxctlEnd => exact h.execCtxctlEnd
  | ctxbase => exact h.execCtxbase
  | fabid => exact h.execFabid
  | registerWrite => exact h.execRegisterWrite
  | classifierWindow => exact h.execClassifierWindow
  | replicaDrop => exact h.execReplicaDrop
  | hostAdmissionAnswer => exact h.execHostAdmissionAnswer

/-! ## What follows at once -/

theorem askBeat {d core key} (h : CanonicalMemory s) : CanonicalMemory (s.askBeat d core key) := by
  unfold State.askBeat
  split
  · exact h
  extract_lets p wants
  refine .ite h ?_
  split
  extract_lets from_ ls t
  have ht : CanonicalMemory t := foldl (fun _ _ ht => ht.askLine) h
  clear_value t
  split
  · exact .ite ht.fresh ht
  · exact ht

theorem settleCopies (h : CanonicalMemory s) : CanonicalMemory s.settleCopies := foldl (fun _ _ ht => ht.askBeat) h

theorem settleLaunches (h : CanonicalMemory s) : CanonicalMemory s.settleLaunches := foldl (fun _ _ ht => ht.askLine) h

theorem settle (h : CanonicalMemory s) : CanonicalMemory s.settle :=
  have ht := h.settleEffs.settleJoins.settleMeets.settleBacks.settleLoads.settleWants.settleCopies.settleLaunches
  have hu := ht.settleCounters.settleInsts.settleHost.settleTraps.settleLanding
  (foldl (fun _ _ hv => hv.flushEvents) hu).settleSince

theorem settled {before : State} (h : CanonicalMemory s) : CanonicalMemory (s.settled before) := (ite h.settle h).noteDevice

/-! ## One step -/

theorem tick (h : CanonicalMemory s) : CanonicalMemory s.tick := h

theorem dueNow {i t} (h : CanonicalMemory s) (e : s.dueNow = some (i, t)) : CanonicalMemory t := by
  unfold State.dueNow at e
  split at e
  · split at e
    · cases e
      exact h
    · cases e
  · cases e

/-- An event of the machine's own, or the passing of time. -/
theorem autoEvent (h : CanonicalMemory s) : Lands s.autoEvent := by
  unfold State.autoEvent
  extract_lets t due all
  split
  next i u hpick =>
    have ht : CanonicalMemory t := h
    have hu : CanonicalMemory u := ht.pick.of_eq_mk hpick
    split
    · split
      next hexec => exact hexec ▸ hu.exec
      · exact .next h.tick
    · exact .next h.tick

/-- The word, the event of the agenda or the event of the machine's own that a step takes. -/
theorem machineStep (h : CanonicalMemory s) : Lands s.machineStep := by
  unfold State.machineStep
  extract_lets r
  have hr : Lands r := by
    unfold r
    split
    · exact h.issueWord fun _ => h.exec
    · split
      next hdue => exact (h.dueNow hdue).exec
      · exact h.autoEvent
  clear_value r
  cases hr with
  | next ht => exact .next ht.settled
  | fault => exact .fault
  | refused => exact .refused

end CanonicalMemory

/-- Settles O60: memory and its poison marks change only through `State.setByte` and `State.setPoison`, which keep the canonical form
(`CanonicalMemory.setByte`, `CanonicalMemory.setPoison`), so each instruction and event lands in a state that has it
(`CanonicalMemory.exec`), and so does what follows at once (`CanonicalMemory.settled`). -/
theorem stepKeepsMemoryCanonical : Obligations.StepKeepsMemoryCanonical := by
  unfold Obligations.StepKeepsMemoryCanonical
  intro s t hs hstep
  have hland : Lands (s.machineStep) := hs.machineStep
  rw [show s.machineStep = .next t from hstep] at hland
  exact hland.canonical

end Sys2Proof

/-!
# Words and the instructions that they hold

The opcode map reads each instruction back from its own word, and the fixed bits of a word cover it, so that a word is an instruction's own
or has a reason against it. A port that issues runs its word or raises one of those reasons.
-/

namespace Sys2Proof

open Machine Laws

/-- The opcode map reads every instruction back from its own word; an event has no word. -/
theorem rawDecode_of_encode {i : Instr} {w : Word} (h : encode i = some w) : rawDecode w = some i := by
  cases i with
  | sadd => exact Word.sadd _ _ _ w h
  | ssub => exact Word.ssub _ _ _ w h
  | smul => exact Word.smul _ _ _ w h
  | smulh => exact Word.smulh _ _ _ w h
  | smulhu => exact Word.smulhu _ _ _ w h
  | sand => exact Word.sand _ _ _ w h
  | sor => exact Word.sor _ _ _ w h
  | sxor => exact Word.sxor _ _ _ w h
  | sshl => exact Word.sshl _ _ _ w h
  | sshr => exact Word.sshr _ _ _ w h
  | ssra => exact Word.ssra _ _ _ w h
  | smin => exact Word.smin _ _ _ w h
  | smax => exact Word.smax _ _ _ w h
  | sminu => exact Word.sminu _ _ _ w h
  | smaxu => exact Word.smaxu _ _ _ w h
  | sslt => exact Word.sslt _ _ _ w h
  | ssltu => exact Word.ssltu _ _ _ w h
  | sdiv => exact Word.sdiv _ _ _ w h
  | sdivu => exact Word.sdivu _ _ _ w h
  | srem => exact Word.srem _ _ _ w h
  | sremu => exact Word.sremu _ _ _ w h
  | sclz => exact Word.sclz _ _ w h
  | spop => exact Word.spop _ _ w h
  | sseq => exact Word.sseq _ _ _ w h
  | saddi => exact Word.saddi _ _ _ w h
  | sandi => exact Word.sandi _ _ _ w h
  | sori => exact Word.sori _ _ _ w h
  | sxori => exact Word.sxori _ _ _ w h
  | sshli => exact Word.sshli _ _ _ w h
  | sshri => exact Word.sshri _ _ _ w h
  | ssrai => exact Word.ssrai _ _ _ w h
  | sslti => exact Word.sslti _ _ _ w h
  | ssltiu => exact Word.ssltiu _ _ _ w h
  | slui => exact Word.slui _ _ w h
  | sadr => exact Word.sadr _ _ w h
  | bra => exact Word.bra _ w h
  | bz => exact Word.bz _ _ w h
  | bnz => exact Word.bnz _ _ w h
  | bmz => exact Word.bmz _ w h
  | bmnz => exact Word.bmnz _ w h
  | blt => exact Word.blt _ _ w h
  | call => exact Word.call _ w h
  | jmp => exact Word.jmp _ w h
  | callr => exact Word.callr _ w h
  | ret => exact Word.ret w h
  | regang => exact Word.regang _ w h
  | mpush => exact Word.mpush _ _ w h
  | mpop => exact Word.mpop _ w h
  | melse => exact Word.melse _ w h
  | allon => exact Word.allon _ w h
  | alloff => exact Word.alloff _ w h
  | mget => exact Word.mget _ w h
  | mset => exact Word.mset _ w h
  | vadd => exact Word.vadd _ _ _ _ _ w h
  | vsub => exact Word.vsub _ _ _ _ _ w h
  | vmul => exact Word.vmul _ _ _ _ _ w h
  | vmulh => exact Word.vmulh _ _ _ _ _ w h
  | vmulhu => exact Word.vmulhu _ _ _ _ _ w h
  | vmad => exact Word.vmad _ _ _ _ _ w h
  | vand => exact Word.vand _ _ _ _ _ w h
  | vor => exact Word.vor _ _ _ _ _ w h
  | vxor => exact Word.vxor _ _ _ _ _ w h
  | vshl => exact Word.vshl _ _ _ _ _ w h
  | vshr => exact Word.vshr _ _ _ _ _ w h
  | vsra => exact Word.vsra _ _ _ _ _ w h
  | vmin => exact Word.vmin _ _ _ _ _ w h
  | vmax => exact Word.vmax _ _ _ _ _ w h
  | vminu => exact Word.vminu _ _ _ _ _ w h
  | vmaxu => exact Word.vmaxu _ _ _ _ _ w h
  | vpop => exact Word.vpop _ _ _ _ w h
  | vclz => exact Word.vclz _ _ _ _ w h
  | vbrev => exact Word.vbrev _ _ _ _ w h
  | vabsd => exact Word.vabsd _ _ _ _ _ w h
  | vsel => exact Word.vsel _ _ _ _ _ w h
  | vmov => exact Word.vmov _ _ _ _ w h
  | vdot4 => exact Word.vdot4 _ _ _ _ _ w h
  | vdot4u => exact Word.vdot4u _ _ _ _ _ w h
  | vreq8 => exact Word.vreq8 _ _ _ _ _ w h
  | vreq4 => exact Word.vreq4 _ _ _ _ _ w h
  | vlane => exact Word.vlane _ _ _ w h
  | vtask => exact Word.vtask _ _ _ w h
  | vbcs => exact Word.vbcs _ _ _ _ w h
  | vaddi => exact Word.vaddi _ _ _ w h
  | vandi => exact Word.vandi _ _ _ w h
  | vori => exact Word.vori _ _ _ w h
  | vxori => exact Word.vxori _ _ _ w h
  | vshli => exact Word.vshli _ _ _ w h
  | vshri => exact Word.vshri _ _ _ w h
  | vsrai => exact Word.vsrai _ _ _ w h
  | vmini => exact Word.vmini _ _ _ w h
  | vmaxi => exact Word.vmaxi _ _ _ w h
  | vmovi => exact Word.vmovi _ _ w h
  | vunpk => exact Word.vunpk _ _ _ w h
  | vlui => exact Word.vlui _ _ w h
  | vcmp => exact Word.vcmp _ _ _ _ w h
  | vcmps => exact Word.vcmps _ _ _ _ w h
  | fcmp => exact Word.fcmp _ _ _ _ w h
  | fcmps => exact Word.fcmps _ _ _ _ w h
  | dcmp => exact Word.dcmp _ _ _ _ w h
  | pand => exact Word.pand _ _ _ w h
  | por => exact Word.por _ _ _ w h
  | pxor => exact Word.pxor _ _ _ w h
  | pandn => exact Word.pandn _ _ _ w h
  | pnot => exact Word.pnot _ _ w h
  | pmov => exact Word.pmov _ _ w h
  | pset => exact Word.pset _ w h
  | pclr => exact Word.pclr _ w h
  | fadd => exact Word.fadd _ _ _ _ _ w h
  | fsub => exact Word.fsub _ _ _ _ _ w h
  | fmul => exact Word.fmul _ _ _ _ _ w h
  | ffma => exact Word.ffma _ _ _ _ _ w h
  | ffms => exact Word.ffms _ _ _ _ _ w h
  | fmin => exact Word.fmin _ _ _ _ _ w h
  | fmax => exact Word.fmax _ _ _ _ _ w h
  | fminn => exact Word.fminn _ _ _ _ _ w h
  | fmaxn => exact Word.fmaxn _ _ _ _ _ w h
  | fabs => exact Word.fabs _ _ _ _ w h
  | fneg => exact Word.fneg _ _ _ _ w h
  | fcpys => exact Word.fcpys _ _ _ _ _ w h
  | fscl => exact Word.fscl _ _ _ _ _ w h
  | fcls => exact Word.fcls _ _ _ _ w h
  | frnd => exact Word.frnd _ _ _ _ w h
  | fcvt => exact Word.fcvt _ _ _ _ _ _ _ w h
  | hadd2 => exact Word.hadd2 _ _ _ _ _ w h
  | hsub2 => exact Word.hsub2 _ _ _ _ _ w h
  | hmul2 => exact Word.hmul2 _ _ _ _ _ w h
  | hfma2 => exact Word.hfma2 _ _ _ _ _ w h
  | hmin2 => exact Word.hmin2 _ _ _ _ _ w h
  | hmax2 => exact Word.hmax2 _ _ _ _ _ w h
  | badd2 => exact Word.badd2 _ _ _ _ _ w h
  | bsub2 => exact Word.bsub2 _ _ _ _ _ w h
  | bmul2 => exact Word.bmul2 _ _ _ _ _ w h
  | bfma2 => exact Word.bfma2 _ _ _ _ _ w h
  | dadd => exact Word.dadd _ _ _ _ _ w h
  | dsub => exact Word.dsub _ _ _ _ _ w h
  | dmul => exact Word.dmul _ _ _ _ _ w h
  | dfma => exact Word.dfma _ _ _ _ _ w h
  | dmin => exact Word.dmin _ _ _ _ _ w h
  | dmax => exact Word.dmax _ _ _ _ _ w h
  | exp2 => exact Word.exp2 _ _ _ _ w h
  | log2 => exact Word.log2 _ _ _ _ w h
  | rcp => exact Word.rcp _ _ _ _ w h
  | rsq => exact Word.rsq _ _ _ _ w h
  | sqrt => exact Word.sqrt _ _ _ _ w h
  | sinpi => exact Word.sinpi _ _ _ _ w h
  | cospi => exact Word.cospi _ _ _ _ w h
  | tanh => exact Word.tanh _ _ _ _ w h
  | shfl => exact Word.shfl _ _ _ _ _ w h
  | shflx => exact Word.shflx _ _ _ _ _ w h
  | shflup => exact Word.shflup _ _ _ _ _ w h
  | shfldn => exact Word.shfldn _ _ _ _ _ w h
  | bcast => exact Word.bcast _ _ _ _ _ w h
  | vbal => exact Word.vbal _ _ w h
  | vany => exact Word.vany _ _ w h
  | vall => exact Word.vall _ _ w h
  | vcnt => exact Word.vcnt _ _ w h
  | redAdd => exact Word.redAdd _ _ _ _ w h
  | redFadd => exact Word.redFadd _ _ _ _ w h
  | redMax => exact Word.redMax _ _ _ _ w h
  | redMin => exact Word.redMin _ _ _ _ w h
  | redMaxu => exact Word.redMaxu _ _ _ _ w h
  | redMinu => exact Word.redMinu _ _ _ _ w h
  | redFmax => exact Word.redFmax _ _ _ _ w h
  | redFmin => exact Word.redFmin _ _ _ _ w h
  | redAnd => exact Word.redAnd _ _ _ _ w h
  | redOr => exact Word.redOr _ _ _ _ w h
  | redXor => exact Word.redXor _ _ _ _ w h
  | redMaxi => exact Word.redMaxi _ _ _ _ _ w h
  | redMini => exact Word.redMini _ _ _ _ _ w h
  | redFmaxi => exact Word.redFmaxi _ _ _ _ _ w h
  | redFmini => exact Word.redFmini _ _ _ _ _ w h
  | scanAdd => exact Word.scanAdd _ _ _ _ w h
  | scanxAdd => exact Word.scanxAdd _ _ _ _ w h
  | scanFadd => exact Word.scanFadd _ _ _ _ w h
  | scanxFadd => exact Word.scanxFadd _ _ _ _ w h
  | scanMax => exact Word.scanMax _ _ _ _ w h
  | scanMin => exact Word.scanMin _ _ _ _ w h
  | scanOr => exact Word.scanOr _ _ _ _ w h
  | ksort => exact Word.ksort _ _ _ _ _ w h
  | kmerge => exact Word.kmerge _ _ _ _ _ w h
  | rng => exact Word.rng _ _ _ _ _ w h
  | rngf => exact Word.rngf _ _ _ _ _ w h
  | sldB => exact Word.sldB _ _ _ w h
  | sldBu => exact Word.sldBu _ _ _ w h
  | sldH => exact Word.sldH _ _ _ w h
  | sldHu => exact Word.sldHu _ _ _ w h
  | sldW => exact Word.sldW _ _ _ w h
  | sldWu => exact Word.sldWu _ _ _ w h
  | sldD => exact Word.sldD _ _ _ w h
  | sstB => exact Word.sstB _ _ _ w h
  | sstH => exact Word.sstH _ _ _ w h
  | sstW => exact Word.sstW _ _ _ w h
  | sstD => exact Word.sstD _ _ _ w h
  | vldB => exact Word.vldB _ _ _ _ _ w h
  | vldBu => exact Word.vldBu _ _ _ _ _ w h
  | vldH => exact Word.vldH _ _ _ _ _ w h
  | vldHu => exact Word.vldHu _ _ _ _ _ w h
  | vldW => exact Word.vldW _ _ _ _ _ w h
  | vldD => exact Word.vldD _ _ _ _ _ w h
  | vldsW => exact Word.vldsW _ _ _ _ w h
  | vldbW => exact Word.vldbW _ _ _ w h
  | vstB => exact Word.vstB _ _ _ _ _ w h
  | vstH => exact Word.vstH _ _ _ _ _ w h
  | vstW => exact Word.vstW _ _ _ _ _ w h
  | vstD => exact Word.vstD _ _ _ _ _ w h
  | vstsW => exact Word.vstsW _ _ _ _ w h
  | tld => exact Word.tld _ _ _ _ w h
  | tldt => exact Word.tldt _ _ _ _ w h
  | tst => exact Word.tst _ _ _ _ w h
  | tstt => exact Word.tstt _ _ _ _ w h
  | aadd => exact Word.aadd _ _ _ _ _ _ w h
  | amin => exact Word.amin _ _ _ _ _ _ w h
  | amax => exact Word.amax _ _ _ _ _ _ w h
  | aminu => exact Word.aminu _ _ _ _ _ _ w h
  | amaxu => exact Word.amaxu _ _ _ _ _ _ w h
  | aand => exact Word.aand _ _ _ _ _ _ w h
  | aor => exact Word.aor _ _ _ _ _ _ w h
  | axor => exact Word.axor _ _ _ _ _ _ w h
  | axch => exact Word.axch _ _ _ _ _ _ w h
  | acas => exact Word.acas _ _ _ _ _ _ w h
  | afadd => exact Word.afadd _ _ _ _ _ _ w h
  | aaddD => exact Word.aaddD _ _ _ _ _ _ w h
  | amaxuD => exact Word.amaxuD _ _ _ _ _ _ w h
  | acasD => exact Word.acasD _ _ _ _ _ _ w h
  | fenceRel => exact Word.fenceRel _ w h
  | fenceAcq => exact Word.fenceAcq _ w h
  | fenceFull => exact Word.fenceFull _ w h
  | qfence => exact Word.qfence _ w h
  | waita => exact Word.waita _ _ w h
  | waitq => exact Word.waitq _ _ w h
  | cpy => exact Word.cpy _ _ _ w h
  | qseq => exact Word.qseq _ _ w h
  | tndef => exact Word.tndef _ _ w h
  | tnrel => exact Word.tnrel _ w h
  | tnget => exact Word.tnget _ _ w h
  | mleaf => exact Word.mleaf _ _ _ _ w h
  | mconst => exact Word.mconst _ _ _ _ w h
  | mtri => exact Word.mtri _ _ _ w h
  | mscl => exact Word.mscl _ _ _ w h
  | mmul => exact Word.mmul _ _ _ _ _ _ _ w h
  | meadd => exact Word.meadd _ _ _ _ w h
  | mesub => exact Word.mesub _ _ _ _ w h
  | memul => exact Word.memul _ _ _ _ w h
  | mtrn => exact Word.mtrn _ _ w h
  | mcvt => exact Word.mcvt _ _ _ _ _ w h
  | mact => exact Word.mact _ _ _ w h
  | force => exact Word.force _ w h
  | mdrop => exact Word.mdrop _ w h
  | mrd => exact Word.mrd _ _ _ w h
  | mst => exact Word.mst _ _ _ _ w h
  | macc => exact Word.macc _ _ _ _ _ w h
  | mstat => exact Word.mstat _ _ w h
  | tend => exact Word.tend w h
  | tinst => exact Word.tinst _ w h
  | tstg => exact Word.tstg _ w h
  | tbud => exact Word.tbud _ _ w h
  | tslk => exact Word.tslk _ w h
  | enq => exact Word.enq _ _ _ w h
  | enqv => exact Word.enqv _ _ _ w h
  | launch => exact Word.launch _ _ _ w h
  | depnew => exact Word.depnew _ _ w h
  | depsig => exact Word.depsig _ _ w h
  | depwait => exact Word.depwait _ w h
  | deparm => exact Word.deparm _ _ _ _ w h
  | gnew => exact Word.gnew _ w h
  | gjoin => exact Word.gjoin _ w h
  | gleave => exact Word.gleave _ w h
  | gbar => exact Word.gbar _ w h
  | gsize => exact Word.gsize _ _ w h
  | sysr => exact Word.sysr _ _ w h
  | sysw => exact Word.sysw _ _ w h
  | trap => exact Word.trap _ w h
  | nop => exact Word.nop w h
  | cdrain => exact Word.cdrain _ _ w h
  | cscan => exact Word.cscan _ _ w h
  | csig => exact Word.csig _ _ w h
  | cmaprm => exact Word.cmaprm _ w h
  | cmapad => exact Word.cmapad _ w h
  | creset => exact Word.creset _ w h
  | eret => exact Word.eret w h
  | clauseIssue | flightCommit | resultArrival | pageWalk | scratchRefill | relaunch | preemptGang | recordMove | gatherTimeout | dispatch
  | admission | enqueueOffer | enqueueBackoff | counterDecrement | gbarArrival | watchChange | homeStore | homeAtomic | remoteScratchAccess
  | clusterPathFail | copyBeat | copyNotify | arrayOperandStep | emulatedStepDone | deadmiss | preemptTimeout | contextDrainDone | waitforBuild
  | sampleWindow | tlbinv | shootdownComplete | evdone | dbgresume | sampctl | contain | cdrainDone | cscanDone | causalMessage | replicaFill
  | d2dLinkFail | fabricRequest | fabricAck | fabricLinkFail | fabricTimeout | patrolScrub | powerThrottle | bringUp | attestationRequest | tail
  | chainRecord | frcons | ctxctlStart | ctxctlSwitchOut | ctxctlResume | ctxctlEnd | ctxbase | fabid | registerWrite | classifierWindow
  | replicaDrop | hostAdmissionAnswer => cases h

theorem decode_of_encode {i : Instr} {w : Word} (hwf : i.WellFormed) (h : encode i = some w) : decode w = .ok i := by
  simp only [decode, rawDecode_of_encode h]
  exact if_pos ⟨h, hwf⟩

/-- What decodes is its instruction's own word, and the instruction is well formed. -/
theorem of_decode_ok {i : Instr} {w : Word} (h : decode w = .ok i) : encode i = some w ∧ i.WellFormed := by
  unfold decode at h
  split at h
  next j _ =>
    split at h
    next hj => cases h; exact hj
    · cases h
  · cases h

/-- Only the decoder's reasons are given for a word that does not decode. -/
theorem errors_of_decode {es : List DecodeError} {w : Word} (h : decode w = .error es) : es = decodeErrors w := by
  unfold decode at h
  split at h
  · split at h
    · cases h
    · cases h; rfl
  · cases h; rfl

theorem eq_zero_of_masked {n : Nat} {x r : BitVec n} (h : x &&& r = 0#n) (h' : x &&& ~~~r = 0#n) : x = 0#n :=
  calc x = x &&& r ||| x &&& ~~~r := by rw [← BitVec.and_or_distrib_left, BitVec.or_not_self, BitVec.and_allOnes]
    _ = 0#n := by rw [h, h', BitVec.or_zero]

/-- Every bit of a word is a register bit or a reserved one, so that a word that agrees with another in both is the other. -/
theorem eq_zero_of_fixed_bits {w x : Word} (hres : x &&& reservedBits w = 0#32) (hreg : x &&& registerBits w = 0#32) : x = 0#32 := by
  simp only [reservedBits] at hres
  split at hres
  next hone =>
    have hmaj : (w.extractLsb' 26 6).toNat = 0x02 := by simp only [Bool.and_eq_true, decide_eq_true_eq] at hone; exact hone.1
    rw [show registerBits w = 0x02082000#32 by simp only [registerBits, hmaj]] at hreg
    refine eq_zero_of_masked ?_ hres
    rw [show (0x02080000#32 : Word) = 0x02082000#32 &&& 0x02080000#32 by decide, ← BitVec.and_assoc, hreg, BitVec.zero_and]
  · exact eq_zero_of_masked hreg hres

/-- The word 0 has a reserved major. -/
theorem reservedMajor_zero : reservedMajor 0#32 = true := by decide

/-- A word that is no instruction's own well-formed word has a reason. -/
theorem decodeErrors_ne_nil {w : Word} (h : ∀ i, rawDecode w = some i → ¬ (encode i = some w ∧ i.WellFormed)) : decodeErrors w ≠ [] := by
  intro hnil
  unfold decodeErrors at hnil
  split at hnil
  · cases hnil
  next hmaj =>
    split at hnil
    · cases hnil
    next i hraw =>
      have hsel : i.selectorsOk = true := by by_contra hc; simp [hc] at hnil
      have hfld : i.fieldsOk = true ∧ (w ^^^ (encode i).getD 0#32) &&& reservedBits w = 0#32 := by
        by_contra hc; simp only [not_and] at hc; simp at hnil; exact hc hnil.2.1.1 hnil.2.1.2
      have hreg : i.registersOk = true ∧ (w ^^^ (encode i).getD 0#32) &&& registerBits w = 0#32 := by
        by_contra hc; simp only [not_and] at hc; simp at hnil; exact hc hnil.2.2.1 hnil.2.2.2
      have hown : w = (encode i).getD 0#32 := BitVec.xor_eq_zero_iff.1 (eq_zero_of_fixed_bits hfld.2 hreg.2)
      refine h i hraw ⟨?_, by simp [Instr.WellFormed, Instr.wf, hsel, hfld.1, hreg.1]⟩
      cases hword : encode i with
      | some v => rw [hown, hword]; rfl
      | none =>
        have hzero : w = 0#32 := by rw [hown, hword]; rfl
        exact absurd (hzero ▸ reservedMajor_zero) hmaj

/-- A word that does not decode has a reason. -/
theorem errors_ne_nil_of_decode {es : List DecodeError} {w : Word} (h : decode w = .error es) : es ≠ [] := by
  rw [errors_of_decode h]
  refine decodeErrors_ne_nil fun i _ hi => ?_
  rw [decode_of_encode hi.2 hi.1] at h
  cases h

/-- Settles O1: each instruction's word is read back by the opcode map (`rawDecode_of_encode`). -/
theorem decodeInvertsEncode : Obligations.DecodeInvertsEncode := by
  unfold Obligations.DecodeInvertsEncode
  exact fun _ _ => decode_of_encode

/-- Settles O2: the fixed bits of a word cover it, so that a word that differs from its instruction's own has a reason
(`decodeErrors_ne_nil`). -/
theorem decodedOrReasons : Obligations.DecodedOrReasons := by
  unfold Obligations.DecodedOrReasons
  intro w
  cases h : decode w with
  | ok i => exact of_decode_ok h
  | error es => exact errors_ne_nil_of_decode h

/-- A word that may stand where it does has no reason against it. -/
theorem wordReasons_of_ok {r : Running} {w : Word} {i : Instr} (hd : decode w = .ok i)
    (hl : r.cl.idx < r.cl.count → mustBeLast w (r.gang.ctx == firmware) = false) : wordReasons r w = [] := by
  simp only [wordReasons, hd, List.nil_append]
  by_cases h : r.cl.idx < r.cl.count
  · simp [hl h]
  · simp [h]

/-- A word that is no instruction, or must be last and is not, has a reason against it. -/
theorem wordReasons_ne_nil {r : Running} {w : Word}
    (h : (∃ es, decode w = .error es) ∨ (∃ i, decode w = .ok i ∧ r.cl.idx < r.cl.count ∧ mustBeLast w (r.gang.ctx == firmware) = true)) :
    wordReasons r w ≠ [] := by
  obtain ⟨es, hd⟩ | ⟨i, hd, hlt, hlast⟩ := h
  · simp [wordReasons, hd, errors_ne_nil_of_decode hd]
  · simp [wordReasons, hlt, hlast, rawDecode_of_encode (of_decode_ok hd).1]

/-- A free choice moves the counter of free values at most. -/
theorem pick_state (s : State) (n : Nat) : (s.pick n).2 = { s with free := (s.pick n).2.free } := by
  unfold State.pick
  split <;> rfl

/-- A free choice among some is one of them. -/
theorem pick_lt {s : State} {n : Nat} (h : 0 < n) : (s.pick n).1 < n := by
  unfold State.pick
  split
  · exact h
  · exact Nat.mod_lt _ h

/-- Settles O4: no reason speaks against the word (`wordReasons_of_ok`), so that the port runs it. -/
theorem stepRunsDecodedWord : Obligations.StepRunsDecodedWord := by
  unfold Obligations.StepRunsDecodedWord
  intro s r w i hr hw hd hl
  unfold step State.machineStep State.issueWord State.issue
  simp only [hr, ← hw, wordReasons_of_ok hd hl, hd]
  cases exec i s <;> rfl

/-- Settles O5: some reason speaks against the word (`wordReasons_ne_nil`), and the one that is picked is raised. -/
theorem badWordRaisesIllins : Obligations.BadWordRaisesIllins := by
  unfold Obligations.BadWordRaisesIllins
  intro s r w hr hw hbad
  obtain ⟨e, es, hcons⟩ := List.exists_cons_of_ne_nil (wordReasons_ne_nil hbad)
  have hlt : (s.pick (e :: es).length).1 < (e :: es).length := pick_lt (by simp)
  refine ⟨(e :: es).getD (s.pick (e :: es).length).1 0, (s.pick (e :: es).length).2.free, ?_, ?_⟩
  · rw [hcons, List.getD_eq_getElem _ _ hlt]
    exact List.getElem_mem hlt
  · rw [← pick_state]
    unfold step State.machineStep State.issueWord State.issue
    simp only [hr, ← hw, hcons, State.illinsOneOf, State.illins, State.raise]

end Sys2Proof

/-!
# The two-source scalar instructions (R40)

Each has the form `sD, sA, sB`; the lemmas here give its operation in the spelling of the statement.
-/

namespace Sys2Proof

open Machine

/-- An instruction of the form `sD, sA, sB` writes what its operation, in any spelling, gives. -/
theorem sets_of_scalar2 {s : State} {r : Running} (hr : s.cur = some r) {d a b : BitVec 5} {i : Instr} {f g : DWord → DWord → DWord}
    (h : Usable s r { sr := [a.toNat, b.toNat], sw := [d.toNat], slices := r.gang.arch.slicesList })
    (hi : exec i s = s.scalar2 d a b f) (hfg : ∀ x y, f x y = g x y) :
    Sets s r i fun z => ScalarsWritten r.gang.arch z d.toNat r.gang.arch.slicesList fun k =>
      g (r.gang.arch.sget k a.toNat) (r.gang.arch.sget k b.toNat) := by
  obtain rfl : f = g := funext₂ hfg
  obtain ⟨y, hy, hw⟩ := scalarOp_next hr d.toNat d.isLt _ _ h
  exact ⟨y, hi.trans hy, hw⟩

theorem field_low6 (y : DWord) : field y 0 6 = y.toNat % 64 := by simp [field]

/-! ### The minimum, maximum and comparison by the order of the values -/

theorem min_signed (x y : DWord) : (if y.slt x = true then y else x) = if x.toInt ≤ y.toInt then x else y := by
  simp only [BitVec.slt_iff_toInt_lt]
  by_cases h : x.toInt ≤ y.toInt
  · rw [if_neg (by omega), if_pos h]
  · rw [if_pos (by omega), if_neg h]

theorem max_signed (x y : DWord) : (if x.slt y = true then y else x) = if x.toInt ≤ y.toInt then y else x := by
  simp only [BitVec.slt_iff_toInt_lt]
  by_cases h : x.toInt < y.toInt
  · rw [if_pos h, if_pos (by omega)]
  · rw [if_neg h]
    split
    · exact BitVec.eq_of_toInt_eq (by omega)
    · rfl

theorem min_unsigned (x y : DWord) : (if y.ult x = true then y else x) = if x.toNat ≤ y.toNat then x else y := by
  simp only [BitVec.ult_iff_lt, BitVec.lt_def]
  by_cases h : x.toNat ≤ y.toNat
  · rw [if_neg (by omega), if_pos h]
  · rw [if_pos (by omega), if_neg h]

theorem max_unsigned (x y : DWord) : (if x.ult y = true then y else x) = if x.toNat ≤ y.toNat then y else x := by
  simp only [BitVec.ult_iff_lt, BitVec.lt_def]
  by_cases h : x.toNat < y.toNat
  · rw [if_pos h, if_pos (by omega)]
  · rw [if_neg h]
    split
    · exact BitVec.eq_of_toNat_eq (by omega)
    · rfl

theorem flag64_slt (x y : DWord) : flag64 (x.slt y) = if x.toInt < y.toInt then 1#64 else 0#64 := by
  simp only [flag64, BitVec.slt_iff_toInt_lt]

theorem flag64_ult (x y : DWord) : flag64 (x.ult y) = if x.toNat < y.toNat then 1#64 else 0#64 := by
  simp only [flag64, BitVec.ult_iff_lt, BitVec.lt_def]

theorem flag64_beq (x y : DWord) : flag64 (x == y) = if x = y then 1#64 else 0#64 := by simp only [flag64, beq_iff_eq]

/-! ### Quotients and remainders by the operations on words -/

theorem ofInt_tdiv (x y : DWord) : BitVec.ofInt 64 (x.toInt.tdiv y.toInt) = x.sdiv y := by
  apply BitVec.eq_of_toInt_eq
  rw [BitVec.toInt_sdiv, BitVec.toInt_ofInt]

/-- The quotient that overflows wraps to the dividend. -/
theorem sdiv_overflow : (0x8000000000000000#64).sdiv (BitVec.ofInt 64 (-1)) = 0x8000000000000000#64 := by decide

theorem srem_overflow : (0x8000000000000000#64).srem (BitVec.ofInt 64 (-1)) = 0#64 := by decide

theorem sdivOf_eq (x y : DWord) : sdivOf x y = if y = 0#64 then BitVec.ofInt 64 (-1) else x.sdiv y := by
  unfold sdivOf
  split
  · rfl
  · split
    next h =>
      simp only [Bool.and_eq_true, decide_eq_true_eq] at h
      rw [h.1, h.2, sdiv_overflow]
    · exact ofInt_tdiv x y

/-- The remainder is what the quotient leaves. -/
theorem sub_mul_sdiv (x y : DWord) : x - y * x.sdiv y = x.srem y := by
  rw [sub_eq_iff_eq_add']
  calc x = BitVec.ofInt 64 (y.toInt * x.toInt.tdiv y.toInt + x.toInt.tmod y.toInt) := by
        rw [Int.mul_tdiv_add_tmod, BitVec.ofInt_toInt]
    _ = y * x.sdiv y + x.srem y := by
        rw [BitVec.ofInt_add, BitVec.ofInt_mul, BitVec.ofInt_toInt, ofInt_tdiv, ← BitVec.toInt_srem, BitVec.ofInt_toInt]

/-- The unsigned remainder is what the quotient leaves. -/
theorem sub_mul_udiv (x y : DWord) : x - y * BitVec.ofNat 64 (x.toNat / y.toNat) = BitVec.ofNat 64 (x.toNat % y.toNat) := by
  rw [sub_eq_iff_eq_add']
  calc x = BitVec.ofNat 64 (y.toNat * (x.toNat / y.toNat) + x.toNat % y.toNat) := by rw [Nat.div_add_mod, BitVec.ofNat_toNat, BitVec.setWidth_eq]
    _ = y * BitVec.ofNat 64 (x.toNat / y.toNat) + BitVec.ofNat 64 (x.toNat % y.toNat) := by
        rw [BitVec.ofNat_add, BitVec.ofNat_mul, BitVec.ofNat_toNat, BitVec.setWidth_eq]

theorem srem_eq (x y : DWord) : (if y = 0#64 then x
    else if (x = 0x8000000000000000#64 && y = BitVec.ofInt 64 (-1)) = true then 0#64 else x - y * sdivOf x y) =
      if y = 0#64 then x else x.srem y := by
  split
  · rfl
  next hy =>
    split
    next h =>
      simp only [Bool.and_eq_true, decide_eq_true_eq] at h
      rw [h.1, h.2, srem_overflow]
    · rw [sdivOf_eq, if_neg hy, sub_mul_sdiv]

theorem sremu_eq (x y : DWord) : (if y = 0#64 then x else x - y * sdivuOf x y) =
    if y = 0#64 then x else BitVec.ofNat 64 (x.toNat % y.toNat) := by
  split
  · rfl
  next hy =>
    rw [sdivuOf, if_neg hy, sub_mul_udiv]

/-- Settles O8: each is of the form `sD, sA, sB` (`sets_of_scalar2`), with the operation in another spelling. -/
theorem scalarTwoSources : Obligations.ScalarTwoSources := by
  unfold Obligations.ScalarTwoSources
  intro s r d a b hr h
  simp only [List.forall_mem_cons]
  exact
    ⟨sets_of_scalar2 hr h (exec_sadd s d a b) fun _ _ => rfl,
     sets_of_scalar2 hr h (exec_ssub s d a b) fun _ _ => rfl,
     sets_of_scalar2 hr h (exec_smul s d a b) fun _ _ => rfl,
     sets_of_scalar2 hr h (exec_smulh s d a b) fun _ _ => rfl,
     sets_of_scalar2 hr h (exec_smulhu s d a b) fun _ _ => rfl,
     sets_of_scalar2 hr h (exec_sand s d a b) fun _ _ => rfl,
     sets_of_scalar2 hr h (exec_sor s d a b) fun _ _ => rfl,
     sets_of_scalar2 hr h (exec_sxor s d a b) fun _ _ => rfl,
     sets_of_scalar2 hr h (exec_sshl s d a b) fun x y => by rw [field_low6],
     sets_of_scalar2 hr h (exec_sshr s d a b) fun x y => by rw [field_low6],
     sets_of_scalar2 hr h (exec_ssra s d a b) fun x y => by rw [field_low6],
     sets_of_scalar2 hr h (exec_smin s d a b) min_signed,
     sets_of_scalar2 hr h (exec_smax s d a b) max_signed,
     sets_of_scalar2 hr h (exec_sminu s d a b) min_unsigned,
     sets_of_scalar2 hr h (exec_smaxu s d a b) max_unsigned,
     sets_of_scalar2 hr h (exec_sslt s d a b) flag64_slt,
     sets_of_scalar2 hr h (exec_ssltu s d a b) flag64_ult,
     sets_of_scalar2 hr h (exec_sseq s d a b) flag64_beq,
     sets_of_scalar2 hr h (exec_sdiv s d a b) sdivOf_eq,
     sets_of_scalar2 hr h (exec_sdivu s d a b) fun _ _ => rfl,
     sets_of_scalar2 hr h (exec_srem s d a b) srem_eq,
     sets_of_scalar2 hr h (exec_sremu s d a b) sremu_eq,
     List.forall_mem_nil _⟩

end Sys2Proof

/-!
# The control core's instructions (R293, R294)
-/

namespace Sys2Proof

open Machine

/-! ## The instructions of the control core (R293, R294) -/

theorem field_zero (x : DWord) (n : Nat) : field x 0 n = x.toNat % 2 ^ n := by simp [field]

/-- The destination of an instruction stands on the pending list, unless it is s0 (R55). -/
theorem pend_eq (r : Running) (tag file reg cnt left : Nat) (lanes : List Nat) (vals : List Deliv) :
    r.pend tag file reg cnt lanes left vals = { r with gang := { r.gang with
      pend := r.gang.pend ++ if file = 1 ∧ reg = 0 then [] else [⟨tag, file, reg, cnt, lanes, left, vals⟩] } } := by
  by_cases h : file = 1 ∧ reg = 0
  · simp [Running.pend, h]
  · have h' : ¬ (file = 1 && reg = 0) = true := by simpa using h
    rw [Running.pend, if_neg h', if_neg h]

/-- The same for a scalar by its field. -/
theorem pend_scalar (r : Running) (tag cnt left : Nat) (d : BitVec 5) (lanes : List Nat) (vals : List Deliv) :
    r.pend tag 1 d.toNat cnt lanes left vals =
      { r with gang := { r.gang with pend := r.gang.pend ++ if d = 0#5 then [] else [⟨tag, 1, d.toNat, cnt, lanes, left, vals⟩] } } := by
  have hd : d.toNat = 0 ↔ d = 0#5 := by simp [← BitVec.toNat_inj]
  simp only [pend_eq, true_and, hd]

section
variable {s : State} {r : Running} {a : BitVec 5}

/-- In firmware, with its registers usable, an instruction of the control core does what it does with S[a] of the lowest slice. -/
theorem control_firmware (hr : s.cur = some r) (hctx : r.gang.ctx = firmware) {d : Option (BitVec 5)}
    (h : Usable s r { sr := [a.toNat], sw := (d.map (·.toNat)).toList, slices := r.gang.arch.slicesList }) (k : Running → DWord → Res) :
    s.control a d k = k r (r.gang.arch.sget (r.gang.arch.slicesList.headD 0) a.toNat) := by
  simp only [State.control, State.issue, hr, hctx, bne_self_eq_false, Bool.false_eq_true, if_false, checked_usable h]

/-- In any other gang it raises PRIVILEGE. -/
theorem control_tenant (hr : s.cur = some r) (hctx : r.gang.ctx ≠ firmware) (d : Option (BitVec 5)) (k : Running → DWord → Res) :
    s.control a d k = s.privilege r 0 := by
  simp only [State.control, State.issue, hr, bne_iff_ne.2 hctx, if_true]

/-- ERET ends the flight in firmware. -/
theorem execEret_firmware (hr : s.cur = some r) (hctx : r.gang.ctx = firmware) : execEret s = .next (s.endBy r 11 0#64 0#64) := by
  simp only [execEret, State.issue, hr, hctx, bne_self_eq_false, Bool.false_eq_true, if_false, wkEret]

theorem execEret_tenant (hr : s.cur = some r) (hctx : r.gang.ctx ≠ firmware) : execEret s = s.privilege r 0 := by
  simp only [execEret, State.issue, hr, bne_iff_ne.2 hctx, if_true]

/-- PRIVILEGE with no number names the word alone. -/
theorem privilege_zero (s : State) (r : Running) :
    s.privilege r 0 = .next (s.raiseAt r 0x0005 (BitVec.ofNat 64 (r.cl.idx % 16)) false) := by
  simp [State.privilege, State.raise, codePrivilege]

theorem form3_eq (n : Nat) (v : DWord) : form3 n v = BitVec.ofNat 64 (3 * 2 ^ 62 + n * 2 ^ 58 + v.toNat % 2 ^ 40) := by
  simp only [form3, field_zero]

/-- An effect whose status is awaited is held, and its scalar is pending. -/
theorem holdPend_eq (s : State) (r : Running) (d : BitVec 5) (e : Nat → Eff) :
    s.holdPend r d e = .next { s with
      nextId := s.nextId + 1
      cur := some { r with gang := { r.gang with
        held := r.gang.held ++ [⟨s.nextId, r.pc, r.cl.idx, 1, e s.nextId⟩]
        pend := r.gang.pend ++ if d = 0#5 then [] else [⟨s.nextId, 1, d.toNat, 1, [], 1, []⟩] } } } := by
  simp only [State.holdPend, State.fresh, pend_scalar]
  rfl

/-- An effect held takes the next number and its place after the others. -/
theorem holding_eq (s : State) (r : Running) (e : Eff) :
    s.holding r 1 e = { s with
      nextId := s.nextId + 1
      cur := some { r with gang := { r.gang with held := r.gang.held ++ [⟨s.nextId, r.pc, r.cl.idx, 1, e⟩] } } } := rfl

section
variable (h : Usable s r { sr := [a.toNat], slices := r.gang.arch.slicesList })
include h

/-- CMAPRM holds its effect where the core is drained, and raises PROT elsewhere. -/
theorem execCmaprm_firmware (hr : s.cur = some r) (hctx : r.gang.ctx = firmware) :
    execCmaprm a s = if (s.core r.gang.die ((r.gang.arch.sget (r.gang.arch.slicesList.headD 0) a.toNat).toNat % 2 ^ 7)).scan = 2 then
      .next (s.holding r 1 (.cmaprm (r.gang.arch.sget (r.gang.arch.slicesList.headD 0) a.toNat)))
      else s.raise r codeProt (form3 7 (r.gang.arch.sget (r.gang.arch.slicesList.headD 0) a.toNat)) := by
  rw [execCmaprm, control_firmware hr hctx h, field_zero]

/-- CMAPAD raises PROT where the number or the site is in use, and holds its effect elsewhere. -/
theorem execCmapad_firmware (hr : s.cur = some r) (hctx : r.gang.ctx = firmware) :
    execCmapad a s = if ((s.die r.gang.die).site? ((r.gang.arch.sget (r.gang.arch.slicesList.headD 0) a.toNat).toNat % 2 ^ 7)).isSome ||
        ((s.die r.gang.die).coreAt? ((r.gang.arch.sget (r.gang.arch.slicesList.headD 0) a.toNat).toNat / 2 ^ 8 % 2 ^ 8)).isSome then
      s.raise r codeProt (form3 7 (r.gang.arch.sget (r.gang.arch.slicesList.headD 0) a.toNat))
      else .next (s.holding r 1 (.cmapad (r.gang.arch.sget (r.gang.arch.slicesList.headD 0) a.toNat))) := by
  rw [execCmapad, control_firmware hr hctx h, field_zero]
  rfl

end

end

/-- Settles O52: in firmware each instruction goes on with S[a] of its lowest slice (`control_firmware`), in any other gang none does
(`control_tenant`). -/
theorem controlCoreInstructions : Obligations.ControlCoreInstructions := by
  unfold Obligations.ControlCoreInstructions
  intro s r d a hr
  refine ⟨fun hctx => ⟨fun h => ⟨?_, ?_, ?_⟩, fun h => ⟨?_, ?_, ?_, ?_, ?_⟩, ?_⟩, fun hctx => ?_⟩
  · refine (exec_cdrain s d a).trans ?_
    rw [execCdrain, control_firmware hr hctx h, field_zero]
    exact holdPend_eq s r d _
  · refine (exec_cscan s d a).trans ?_
    rw [execCscan, control_firmware hr hctx h, field_zero]
    exact holdPend_eq s r d _
  · refine (exec_csig s d a).trans ?_
    rw [execCsig, control_firmware hr hctx h, field_zero]
    simp only [State.fresh, pend_scalar, List.append_nil]
    rfl
  · intro hscan
    refine (exec_cmaprm s a).trans ?_
    rw [execCmaprm_firmware h hr hctx, if_pos hscan]
    rfl
  · intro hscan
    refine (exec_cmaprm s a).trans ?_
    rw [execCmaprm_firmware h hr hctx, if_neg hscan, form3_eq]
    rfl
  · intro hsite hcore
    refine (exec_cmapad s a).trans ?_
    rw [execCmapad_firmware h hr hctx, hsite, hcore]
    rfl
  · intro hused
    refine (exec_cmapad s a).trans ?_
    rw [execCmapad_firmware h hr hctx, if_pos, form3_eq]
    · rfl
    · simpa only [Bool.or_eq_true, Option.isSome_iff_ne_none] using hused
  · refine (exec_creset s a).trans ?_
    rw [execCreset, control_firmware hr hctx h, field_zero]
    rfl
  · exact execEret_firmware hr hctx
  · simp only [List.forall_mem_cons, ← privilege_zero, exec_cdrain, exec_cscan, exec_csig, exec_cmaprm, exec_cmapad, exec_creset, exec_eret]
    exact ⟨control_tenant hr hctx _ _, control_tenant hr hctx _ _, control_tenant hr hctx _ _, control_tenant hr hctx _ _,
      control_tenant hr hctx _ _, control_tenant hr hctx _ _, execEret_tenant hr hctx, List.forall_mem_nil _⟩

end Sys2Proof

/-!
# Loads and stores at their issue (R149, R152, R154)

An access that is aligned and finds no fault is placed as far as its pages are there. A load makes its requests once it is placed as a
whole; a store is held.
-/

namespace Sys2Proof

open Machine

/-! ## Accesses at their issue (R149, R152, R154) -/

/-- The parts of an access after placing, with how far it came. -/
theorem placeParts_placed {s : State} {r : Running} {g : Gang} {kind : Nat} (hg : (g.die, g.core, g.inst, g.ctx) = (r.gang.die, r.gang.core, r.gang.inst, r.gang.ctx)) :
    ∀ parts : List APart, (∀ p ∈ parts, p.loc = none) →
      (∀ p ∈ parts, ∀ c f, s.find r.gang.die r.gang.core r.gang.inst r.gang.ctx p.va kind ≠ .bad c f) →
      PartsPlaced s r kind parts (s.placeParts g kind parts).1 ((s.placeParts g kind parts).2 == .done) ∧
        ∀ c f p, (s.placeParts g kind parts).2 ≠ .bad c f p := by
  simp only [Prod.mk.injEq] at hg
  obtain ⟨hdie, hcore, hinst, hctx⟩ := hg
  intro parts
  induction parts with
  | nil => intro _ _; exact ⟨⟨rfl, by simp [State.placeParts], by simp [State.placeParts]⟩, by simp [State.placeParts]⟩
  | cons p ps ih =>
    intro hnone hfind
    obtain ⟨⟨hsame, hplaced, hall⟩, hbad⟩ := ih (fun q hq => hnone q (.tail _ hq)) fun q hq => hfind q (.tail _ hq)
    simp only [State.placeParts, hnone p List.mem_cons_self, hdie, hcore, hinst, hctx]
    cases hf : s.find r.gang.die r.gang.core r.gang.inst r.gang.ctx p.va kind with
    | bad c f => exact absurd hf (hfind p List.mem_cons_self c f)
    | miss v =>
      refine ⟨⟨rfl, ?_, ?_⟩, by simp⟩
      · intro q hq l hl
        rw [hnone q hq] at hl
        cases hl
      · simp [hnone p List.mem_cons_self]
    | at_ l tso =>
      refine ⟨⟨by simp [hsame], ?_, by simpa using hall⟩, hbad⟩
      intro q hq l' hl
      cases hq with
      | head => cases hl; exact hf
      | tail _ hq => exact hplaced q hq l' hl

/-- The request of a load for one of its lines (R152). -/
def Machine.State.lineReq (s : State) (g : Gang) (a : Access) (dests : List Dest) (line : Loc) (id : Nat) : Req :=
  let parts := (a.parts.zip dests).filter fun e => (e.1.loc.map Loc.line) == some line
  ⟨id, a.id, line, parts, s.loadAfter g a.id line (parts.any (·.1.tso))⟩

/-- The requests of a load are one for each of its lines, under numbers in a row. -/
theorem makeReqs_load (s : State) (g : Gang) (a : Access) {tag : Nat} {dests : List Dest} (hk : a.kind = .load tag dests) :
    s.makeReqs g a = ((a.lines.zipIdx s.nextId).map fun e => s.lineReq g a dests e.1 e.2, { s with nextId := s.nextId + a.lines.length }) := by
  let step := fun (acc : List Req × State) line => (acc.1 ++ [s.lineReq g a dests line acc.2.nextId], { acc.2 with nextId := acc.2.nextId + 1 })
  have hstep : ∀ (ls : List Loc) (rs : List Req) (n : Nat), ls.foldl step (rs, { s with nextId := n }) =
      (rs ++ (ls.zipIdx n).map fun e => s.lineReq g a dests e.1 e.2, { s with nextId := n + ls.length }) := by
    intro ls
    induction ls with
    | nil => intro rs n; simp
    | cons l ls ih =>
      intro rs n
      refine (ih _ (n + 1)).trans ?_
      simp only [List.zipIdx_cons, List.map_cons, List.length_cons, List.append_assoc, List.singleton_append]
      rw [Nat.add_right_comm, Nat.add_assoc n]
  simp only [State.makeReqs, hk]
  exact hstep a.lines [] s.nextId

/-- Only a load asks for lines. -/
theorem makeReqs_store (s : State) (g : Gang) (a : Access) (hk : a.kind = .store) : s.makeReqs g a = ([], s) := by
  simp only [State.makeReqs, hk]

/-- Every placed part of a load is in the request of its line. -/
theorem lineReq_covers {s : State} {g : Gang} {a : Access} {dests : List Dest} {e : APart × Dest} (he : e ∈ a.parts.zip dests)
    (hloc : e.1.loc.isSome = true) (n : Nat) :
    ∃ m ∈ (a.lines.zipIdx n).map fun e => s.lineReq g a dests e.1 e.2, e ∈ m.parts ∧ e.1.loc.map Loc.line = some m.line := by
  obtain ⟨l, hl⟩ := Option.isSome_iff_exists.1 hloc
  have hline : l.line ∈ a.lines := by
    rw [Access.lines, List.mem_eraseDups, List.mem_filterMap]
    exact ⟨e.1, (List.of_mem_zip (show (e.1, e.2) ∈ _ from he)).1, by rw [hl]; rfl⟩
  rw [← List.zipIdx_map_fst n a.lines] at hline
  obtain ⟨q, hq, hql⟩ := List.mem_map.1 hline
  refine ⟨_, List.mem_map_of_mem hq, ?_, by rw [hl, hql]; rfl⟩
  exact List.mem_filter.2 ⟨he, by rw [hl, hql]; simp⟩

/-- A flight's accesses with a new one, replaced as it is placed, are those with the placed one. -/
theorem map_placed (as : List Access) (a : Access) (ps : List APart) (ready : Bool) :
    (as ++ [a]).map (fun x => if x.id = a.id then { a with parts := ps, ready := ready } else x) =
      withAccess as { a with parts := ps, ready := ready } := by
  simp [withAccess]

/-- Going on with an access: its parts as far as they are placed, and its requests once all are. -/
theorem placeAccess_of_parts {s : State} {g : Gang} {a : Access} {ps : List APart} {pr : Progress}
    (h : s.placeParts g a.kind.needs a.parts = (ps, pr)) :
    let b : Access := { a with parts := ps, ready := pr == .done }
    let g' : Gang := { g with accs := g.accs.map fun x => if x.id = a.id then b else x, used := (g.used ++ b.pages).eraseDups }
    let q := if pr == .done then s.makeReqs g' b else ([], s)
    s.placeAccess g a = ({ g' with reqs := g'.reqs ++ q.1 }, pr, q.2) := by
  intro b g' q
  unfold State.placeAccess
  rw [h]
  cases pr with
  | done => rfl
  | miss v => simp [q, g', b]
  | bad c f p => simp [q, g', b]

/-- An access that is aligned and finds no fault goes on with what was placed. -/
theorem startAccess_of_place {s t : State} {r : Running} {a : Access} {g : Gang} {pr : Progress}
    (halign : ∀ p ∈ a.parts, p.va.toNat % p.size = 0) (h : s.placeAccess { r.gang with accs := r.gang.accs ++ [a] } a = (g, pr, t))
    (hbad : ∀ c f p, pr ≠ .bad c f p) (k : State → Running → Res) : s.startAccess r a k = k t { r with gang := g } := by
  have hfind : (a.parts.find? fun p => p.va.toNat % p.size != 0) = none := by
    simp only [List.find?_eq_none, bne_iff_ne, ne_eq, not_not]
    exact halign
  unfold State.startAccess
  rw [hfind]
  dsimp only at h ⊢
  rw [h]
  cases pr with
  | done => rfl
  | miss v => rfl
  | bad c f p => exact absurd rfl (hbad c f p)

/-- An access that is issued is placed as far as its pages are there; with all its parts placed it makes its requests. -/
theorem startAccess_issuable {s : State} {r : Running} {a : Access} (hnone : ∀ p ∈ a.parts, p.loc = none)
    (h : Issuable s r a.kind.needs a.parts) :
    ∃ ps ready used rs t, PartsPlaced s r a.kind.needs a.parts ps ready ∧
      let b : Access := { a with parts := ps, ready := ready }
      let g : Gang := { r.gang with accs := withAccess r.gang.accs b, used := used }
      (if ready = true then s.makeReqs g b else ([], s)) = (rs, t) ∧
      ∀ k, s.startAccess r a k = k t { r with gang := { g with reqs := r.gang.reqs ++ rs } } := by
  obtain ⟨ps, pr, hres⟩ : ∃ ps pr, s.placeParts { r.gang with accs := r.gang.accs ++ [a] } a.kind.needs a.parts = (ps, pr) := ⟨_, _, rfl⟩
  obtain ⟨hplaced, hbad⟩ := placeParts_placed (s := s) (g := { r.gang with accs := r.gang.accs ++ [a] }) rfl a.parts hnone fun p hp => (h p hp).2
  rw [hres] at hplaced hbad
  have hplace := placeAccess_of_parts hres
  simp only [map_placed] at hplace
  exact ⟨ps, pr == .done, _, _, _, hplaced, rfl, startAccess_of_place (fun p hp => (h p hp).1) hplace hbad⟩

/-- A store that is issued is under way, its data held after the flight's earlier effects. -/
theorem store_issues {s : State} {r : Running} {entries : Nat} {parts : List APart} {data : List (List Byte)} {wide : Bool}
    (hnone : ∀ p ∈ parts, p.loc = none) (h : Issuable s r 1 parts) :
    ∃ q n, s.store r entries parts data wide = .next { s with cur := some q, nextId := n } ∧
      EffectIssued s r .store parts entries (fun id => .store id data) (fun _ => []) q := by
  let a : Access := ⟨s.nextId, r.pc, r.cl.idx, .store, parts, false, wide⟩
  obtain ⟨ps, ready, used, rs, t, hplaced, hreqs, hstart⟩ := startAccess_issuable (s := s.fresh.2) (r := r) (a := a) hnone h
  rw [makeReqs_store _ _ { a with parts := ps, ready := ready } rfl, ite_self, Prod.mk.injEq] at hreqs
  obtain ⟨rfl, rfl⟩ := hreqs
  have hstore := hstart fun t r => .next (t.holding r entries (.store s.nextId data))
  rw [List.append_nil] at hstore
  exact ⟨_, s.nextId + 2, hstore, rfl, ⟨ps, ready, wide, ⟨hplaced.same, hplaced.placed, hplaced.all⟩, rfl⟩, rfl, (List.append_nil _).symm, rfl⟩

/-- A load that is issued is under way, with its destination pending. -/
theorem load_issues {s : State} {r : Running} {file reg cnt : Nat} {parts : List APart} {dests : List Dest}
    (hnone : ∀ p ∈ parts, p.loc = none) (h : Issuable s r 0 parts) :
    ∃ q n, s.load r file reg cnt parts dests = .next { s with cur := some q, nextId := n } ∧ LoadIssued s r file reg cnt parts dests q := by
  let a : Access := ⟨s.nextId, r.pc, r.cl.idx, .load s.nextId dests, parts, false, false⟩
  obtain ⟨ps, ready, used, rs, t, hplaced, hreqs, hstart⟩ := startAccess_issuable (s := s.fresh.2) (r := r) (a := a) hnone h
  rw [makeReqs_load _ _ { a with parts := ps, ready := ready } rfl] at hreqs
  obtain ⟨n, ht⟩ : ∃ n, t = { s with nextId := n } := by
    split at hreqs <;> exact ⟨_, (Prod.mk.inj hreqs).2.symm⟩
  subst ht
  have hload := hstart fun t r => .next (t.setRun (r.pend s.nextId file reg cnt (awaited dests) 0 []))
  rw [pend_eq] at hload
  refine ⟨_, n, hload, rfl, ⟨ps, ready, rs, ⟨hplaced.same, hplaced.placed, hplaced.all⟩, rfl, rfl, ?_, ?_, ?_⟩, rfl, rfl⟩
  · intro m hm
    split at hreqs
    · rw [← (Prod.mk.inj hreqs).1] at hm
      obtain ⟨e, -, rfl⟩ := List.mem_map.1 hm
      rfl
    · rw [← (Prod.mk.inj hreqs).1] at hm
      cases hm
  · intro hr
    rw [hr] at hreqs
    exact (Prod.mk.inj hreqs).1.symm
  · intro hr e he
    rw [hr, if_pos rfl] at hreqs
    rw [← (Prod.mk.inj hreqs).1]
    exact lineReq_covers (a := { a with parts := ps, ready := true }) he (hplaced.all.1 hr _ (List.of_mem_zip (show (e.1, e.2) ∈ _ from he)).1) _

/-! ## The scalar forms (R154) -/

section
variable {s : State} {r : Running} {d b o : BitVec 5}

/-- The parts of a scalar access, one for each acting slice. -/
theorem scalarParts_unplaced (ks : List Nat) (f : Nat → DWord) (size : Nat) : ∀ p ∈ ks.map fun k => partAt (4 * k) (f k) size, p.loc = none := by
  intro p hp
  obtain ⟨k, -, rfl⟩ := List.mem_map.1 hp
  rfl

theorem scalarLoad_issues (hr : s.cur = some r) {size : Nat} {sx : Bool}
    (hu : Usable s r { sr := [b.toNat], sw := [d.toNat], slices := r.gang.arch.acting })
    (h : Issuable s r 0 (r.gang.arch.acting.map fun k => partAt (4 * k) (r.gang.arch.scalarAddr b o size k) size)) :
    ∃ q n, s.scalarLoad d b o size sx = .next { s with cur := some q, nextId := n } ∧
      LoadIssued s r 1 d.toNat 1 (r.gang.arch.acting.map fun k => partAt (4 * k) (r.gang.arch.scalarAddr b o size k) size)
        (r.gang.arch.acting.map fun k => ⟨false, [k * 32 + d.toNat], sx⟩) q := by
  simp only [State.scalarLoad, State.issue, hr, checked_usable hu]
  exact load_issues (scalarParts_unplaced _ _ _) h

theorem scalarStore_issues (hr : s.cur = some r) {size : Nat}
    (hu : Usable s r { sr := [b.toNat, d.toNat], slices := r.gang.arch.acting })
    (h : Issuable s r 1 (r.gang.arch.acting.map fun k => partAt (4 * k) (r.gang.arch.scalarAddr b o size k) size)) :
    ∃ q n, s.scalarStore d b o size = .next { s with cur := some q, nextId := n } ∧
      EffectIssued s r .store (r.gang.arch.acting.map fun k => partAt (4 * k) (r.gang.arch.scalarAddr b o size k) size) 1
        (fun id => .store id (r.gang.arch.acting.map fun k => bytesOf size (r.gang.arch.sget k d.toNat))) (fun _ => []) q := by
  simp only [State.scalarStore, State.issue, hr, checked_usable hu]
  exact store_issues (scalarParts_unplaced _ _ _) h

end

/-- Settles O36: each is the scalar load or store of its size (`scalarLoad_issues`, `scalarStore_issues`). -/
theorem scalarLoadsAndStores : Obligations.ScalarLoadsAndStores := by
  unfold Obligations.ScalarLoadsAndStores
  intro s r d b o hr
  refine ⟨fun hu => ?_, fun hu => ?_⟩
  · simp only [List.forall_mem_cons]
    exact ⟨scalarLoad_issues hr hu, scalarLoad_issues hr hu, scalarLoad_issues hr hu, scalarLoad_issues hr hu, scalarLoad_issues hr hu,
      scalarLoad_issues hr hu, scalarLoad_issues hr hu, List.forall_mem_nil _⟩
  · simp only [List.forall_mem_cons]
    exact ⟨scalarStore_issues hr hu, scalarStore_issues hr hu, scalarStore_issues hr hu, scalarStore_issues hr hu, List.forall_mem_nil _⟩

end Sys2Proof

/-!
# Clauses that a port issues (R27, R29, R37)
-/

namespace Sys2Proof

open Machine

/-! ## A clause is issued (R27, R29, R37) -/

/-- Changing no words of the issue buffer. -/
@[simp] theorem flipWords_nil (ws : List Word) : flipWords ws [] = ws := rfl

/-- The signature that a clause leaves in each of some slices. -/
theorem look_signed (sig : Half) (ks : List Nat) (m : List (Nat × Half)) (k : Nat) :
    look 0#16 (ks.foldl (fun m k => put 0#16 m k sig) m) k = if k ∈ ks then sig else look 0#16 m k := by
  induction ks generalizing m with
  | nil => simp
  | cons j ks ih =>
    rw [List.foldl_cons, ih, look_put]
    by_cases hk : k ∈ ks
    · simp [hk]
    · by_cases hj : j = k
      · simp [hj]
      · simp [hk, hj, Ne.symm hj]

/-- The count of a header is its highest field. -/
theorem fieldW_count (h : Word) : fieldW h 28 4 = h.toNat / 2 ^ 28 := Nat.mod_eq_of_lt (by have := h.isLt; omega)

/-- No word of a clause is of another class than its header's. -/
theorem find_otherClass {ws : List Word} {h : Word} (hws : ∀ x ∈ ws, x.toNat / 2 ^ 29 = h.toNat / 2 ^ 25 % 2 ^ 3) :
    ((List.range ws.length).find? fun i => fieldW (ws.getD i 0#32) 29 3 != fieldW h 25 3) = none := by
  rw [List.find?_eq_none]
  intro i hi
  have hi : i < ws.length := List.mem_range.mp hi
  have hclass := hws ws[i] (List.getElem_mem hi)
  have hword : fieldW ws[i] 29 3 = ws[i].toNat / 2 ^ 29 := Nat.mod_eq_of_lt (by have := ws[i].isLt; omega)
  have hhead : fieldW h 25 3 = h.toNat / 2 ^ 25 % 2 ^ 3 := rfl
  rw [List.getD_eq_getElem?_getD, List.getElem?_eq_getElem hi, Option.getD_some, hword, hhead, hclass]
  simp

/-- A gang as its clause begins: signed in its slices, past its breakpoint, the clause's pages among those that it uses. -/
def Machine.Gang.issuing (g : Gang) (ws : List Word) : Gang :=
  { g with arch := { g.arch with sigval := g.arch.slicesList.foldl (fun m k => put 0#16 m k (signature ws)) g.arch.sigval }, skipBrk := none,
           used := (g.used ++ ((List.range (ws.length + 1)).map fun i => (g.arch.pc.toNat + 4 * i) / 4096).eraseDups).eraseDups }

/-- The clause of a header and its words. -/
def clauseOf (pc : DWord) (h : Word) (ws : List Word) : Clause :=
  ⟨pc, fieldW h 28 4, fieldW h 25 3, fieldW h 23 2, h.getLsbD 22, h.setWidth 16, ws, 1, 0, [], false, 0, 0⟩

/-- A clause that its checks pass stands in the issue buffer (R37). -/
theorem issueClause_issues {u v w : State} {port : Nat} {g : Gang} {h : Word} {ws : List Word} (hpath : g.pathFault = none)
    (hbreak : u.breakAt g = false) (hfetch : u.fetch g g.arch.pc = (.word h, v))
    (hhead : headerReason h (((v.stage? g).map fun st => st.flags.getLsbD 3).getD false) = none)
    (hwords : v.fetchWords g (g.arch.pc + 4#64) (fieldW h 28 4) [] = (.inl ws, w))
    (hclass : ∀ x ∈ ws, x.toNat / 2 ^ 29 = h.toNat / 2 ^ 25 % 2 ^ 3) (hsig : h.getLsbD 22 = true → h.setWidth 16 = signature ws) :
    u.issueClause g port [] = { w.dropGang g.gid with cur := some ⟨g.issuing ws, clauseOf g.arch.pc h ws⟩ } := by
  have hbuffer : (h.getLsbD 22 && signature ws != h.setWidth 16) = false := by
    cases hb : h.getLsbD 22 with
    | false => rfl
    | true => simp [hsig hb]
  unfold State.issueClause
  simp only [hpath, hbreak, hfetch, Bool.false_eq_true, if_false]
  simp only [hhead]
  simp only [hwords]
  simp only [flipWords_nil, find_otherClass hclass]
  simp only [hbuffer, Bool.false_eq_true, if_false, Gang.issuing, clauseOf, hpath]

/-- The part of O56 that speaks of issuing a clause. -/
theorem clauseIssueRuns : ClauseIssueRuns := by
  intro s u v w d core port g h ws hcur hfirst hpaused hpath hbreak hfetch hhead hwords hclass hsig
  refine ⟨{ w.dropGang g.gid with cur := some ⟨g.issuing ws, clauseOf g.arch.pc h ws⟩ }, ⟨g.issuing ws, clauseOf g.arch.pc h ws⟩, ?_, rfl, rfl, ?_, rfl, rfl,
    look_signed _ _ _⟩
  · rw [← fieldW_count] at hwords
    rw [← issueClause_issues (port := port) hpath hbreak hfetch hhead hwords hclass hsig]
    show execClauseIssue d core port [] s = _
    unfold execClauseIssue
    rw [hcur, hfirst]
    simp only [hpaused, Option.isSome_none, Bool.false_eq_true, if_false]
  · rw [← fieldW_count]
    rfl
end Sys2Proof

/-!
# Launch requests and gatherings (R123, R124, R262)
-/

namespace Sys2Proof

open Machine

/-! ## What changes of a die -/

theorem die_onDie (s : State) (d e : Nat) (f : Die → Die) : (s.onDie d f).die e = if e = d then f (s.die d) else s.die e := by
  unfold State.die
  rw [State.onDie_dies, look, look?_put?]
  by_cases h : e = d
  · rw [if_pos h.symm, if_pos h]; rfl
  · rw [if_neg (Ne.symm h), if_neg h]; rfl

@[simp] theorem die_onDie_same (s : State) (d : Nat) (f : Die → Die) : (s.onDie d f).die d = f (s.die d) := by rw [die_onDie, if_pos rfl]

/-- Changing the value of every entry of a map. -/
theorem look?_mapEntries {α β : Type} (f : Nat → α → β) (m : List (Nat × α)) (i : Nat) :
    look? (m.map fun e => (e.1, f e.1 e.2)) i = (look? m i).map (f i) := by
  induction m with
  | nil => rfl
  | cons e m ih =>
    by_cases h : e.1 = i
    · simp [look?, h]
    · simp [look?, h, ih]

/-- A field that a change of every die leaves is left of each. -/
theorem die_mapDies {α : Type} (p : Die → α) {f : Nat × Die → Die} (s : State) (e : Nat) (hf : ∀ x, p (f x) = p x.2) :
    p (State.die { s with dies := s.dies.map fun x => (x.1, f x) } e) = p (s.die e) := by
  unfold State.die look
  dsimp only
  rw [look?_mapEntries (fun i x => f (i, x))]
  cases look? s.dies e with
  | none => rfl
  | some x => exact hf (e, x)

/-! ## Admission (R257 to R263) -/

/-- The instances of every die and the requests that wait there are the same. -/
structure SameAdmitted (s t : State) : Prop where
  insts : ∀ e, (t.die e).insts = (s.die e).insts
  vestibule : ∀ e, (t.die e).vestibule = (s.die e).vestibule

namespace SameAdmitted

variable {s t : State}

theorem refl : SameAdmitted s s := ⟨fun _ => rfl, fun _ => rfl⟩

theorem inst? (h : SameAdmitted s t) (d i : Nat) : t.inst? d i = s.inst? d i := congrArg (look? · _) (h.insts _)

theorem onDie {d : Nat} {f : Die → Die} (h : SameAdmitted s t) (hinsts : ∀ x, (f x).insts = x.insts) (hvest : ∀ x, (f x).vestibule = x.vestibule) :
    SameAdmitted s (t.onDie d f) := by
  constructor <;> intro e <;> rw [die_onDie] <;> split
  · rename_i he; rw [hinsts, he, h.insts]
  · exact h.insts e
  · rename_i he; rw [hvest, he, h.vestibule]
  · exact h.vestibule e

theorem announce {d : Nat} {vec : List Nat} {sends : Nat → List (Nat × Cargo)} (h : SameAdmitted s t) : SameAdmitted s (t.announce d vec sends) := by
  refine foldl_keeps (fun u e hu => ?_) _ (h.onDie (fun _ => rfl) fun _ => rfl)
  split
  · exact hu.onDie (fun _ => rfl) fun _ => rfl
  · exact ⟨hu.insts, hu.vestibule⟩

theorem setBytes : ∀ (bs : List Byte) {t : State} {pa : Nat}, SameAdmitted s t → SameAdmitted s (t.setBytes pa bs)
  | [], _, _, h => h
  | _ :: bs, _, _, h => setBytes bs ⟨h.insts, h.vestibule⟩

theorem refresh {pa : Nat} {bs : List Byte} (h : SameAdmitted s t) : SameAdmitted s (t.refresh pa bs) := by
  refine foldl_keeps (fun u e hu => ?_) _ ⟨fun e => ?_, fun e => ?_⟩
  · dsimp only
    split
    · exact hu
    · exact hu.announce
  · refine Eq.trans ?_ (h.insts e)
    exact die_mapDies Die.insts t e (by intro _; rfl)
  · refine Eq.trans ?_ (h.vestibule e)
    exact die_mapDies Die.vestibule t e (by intro _; rfl)

theorem device {pa : Nat} {bs : List Byte} (h : SameAdmitted s t) : SameAdmitted s (t.device pa bs) := (setBytes bs h).refresh

theorem writeVa {d ctx va : Nat} {bs : List Byte} (h : SameAdmitted s t) : SameAdmitted s (t.writeVa d ctx va bs) := by
  refine foldl_keeps (fun u e hu => ?_) _ h
  split
  · split
    · exact hu.device
    · exact hu
  · exact hu

end SameAdmitted

/-- A launch takes the lowest slot of the die that is free. -/
theorem freeInstSlots_head {s : State} {d slot : Nat} {rest : List Nat} (h : s.freeInstSlots d = slot :: rest) :
    slot < 256 ∧ s.inst? d slot = none ∧ ∀ k < slot, s.inst? d k ≠ none := by
  have hfind : (List.range 256).find? (fun i => (s.inst? d i).isNone) = some slot := by
    rw [← List.head?_filter]
    exact congrArg List.head? h
  obtain ⟨hfree, hmem, hbefore⟩ := List.find?_range_eq_some.mp hfind
  exact ⟨List.mem_range.mp hmem, by simpa using hfree, fun k hk => Option.isSome_iff_ne_none.mp (by simpa using hbefore k hk)⟩

/-- What is admitted stands in its slot, and its request has left the Vestibule. -/
theorem admitInst_stands (s : State) (d : Nat) (r : LaunchReq) (h : Header) (sts : List Stage) (recs : List (Nat × List Rec)) {slot : Nat} (hslot : slot < 256) :
    ∃ i, (s.admitInst d r h sts recs slot).inst? d slot = some i ∧ i.ctx = r.ctx ∧ i.stages = sts ∧ i.queues = recs ∧ i.issue = h.issue ∧ i.array = h.array ∧
      i.copy = h.copy ∧ i.deadline = some (s.time + (s.die d).dtcBase + (r.slack h).toNat - if r.forwarded = true then s.time - r.received else 0) ∧
      ((s.admitInst d r h sts recs slot).die d).vestibule = (s.die d).vestibule.tail := by
  unfold State.admitInst
  extract_lets waited mis i s2 s3
  have h3 : SameAdmitted s2 s3 := by
    unfold s3
    split
    · exact SameAdmitted.refl.device
    · exact .refl
  have h4 : SameAdmitted s2 (match r.record with
      | some a => s3.writeVa d r.ctx (a.toNat + 32) (bytesOf 8 (BitVec.ofNat 64 (statusWord 0 slot d mis false 0)))
      | none => s3.answerScalar r.tag (launchResult 0 slot d)) := by
    split
    · exact h3.writeVa
    · exact ⟨h3.insts, h3.vestibule⟩
  refine ⟨i, ?_, rfl, rfl, rfl, rfl, rfl, rfl, rfl, ?_⟩
  · refine (h4.inst? d slot).trans ?_
    unfold s2 State.inst? homeInst
    rw [if_pos (by omega), die_onDie_same]
    exact look?_put?_same (s.die d).insts slot (some i)
  · refine (h4.vestibule d).trans ?_
    unfold s2
    rw [die_onDie_same]

/-- The part of O56 that speaks of a launch request at the head of its Vestibule. -/
theorem admissionRuns : AdmissionRuns := by
  intro s d r hcur hreq
  refine ⟨fun hdesc => ?_, fun h sts recs hdesc => ⟨fun hearly => ?_, fun hearly hhost hutil hstore hfree => ?_, fun n hn hearly hhost hanswer => ?_⟩⟩
  · show execAdmission d s = _
    simp only [execAdmission, hreq, hcur, hdesc, Option.isSome_none, Bool.false_eq_true, if_false]
  · show execAdmission d s = _
    simp only [execAdmission, hreq, hcur, hdesc, Option.isSome_none, Bool.false_eq_true, if_false, hearly, ne_eq, not_false_eq_true, if_true]
  · obtain ⟨slot, rest, hslots⟩ := List.exists_cons_of_ne_nil hfree
    obtain ⟨hlt, hnone, hbefore⟩ := freeInstSlots_head hslots
    obtain ⟨i, hi, hctx, hstages, hqueues, hissue, harray, hcopy, hdeadline, hvest⟩ := admitInst_stands s d r h sts recs hlt
    refine ⟨s.admitInst d r h sts recs slot, slot, i, ?_, hnone, hbefore, hi, hctx, hstages, hqueues, hissue, harray, hcopy, hdeadline, hvest⟩
    show execAdmission d s = _
    simp only [execAdmission, hreq, hcur, hdesc, Option.isSome_none, Bool.false_eq_true, if_false, hearly, ne_eq, not_true_eq_false, hhost, hutil, hstore, hslots]
  · show execHostAdmissionAnswer d n s = _
    simp [execHostAdmissionAnswer, hreq, hcur, hdesc, hearly, hhost, hanswer, hn, State.onDie]

end Sys2Proof

/-!
# Gangs that a gathering launches (R123)
-/

namespace Sys2Proof

open Machine

/-! ## Gatherings that close (R123, R124) -/

/-- The gang of gathered records on its ports, or in the Landing where there are none. -/
def Machine.State.launchedOn (s : State) (d core : Nat) (q : Gather) (i : Inst) (st : Stage) (ports : Option (Nat × Option Nat)) : Gang :=
  let causal := q.recs.foldl (fun v r => mergeVec v r.2.vec) (s.vector d)
  match ports with
  | some (p, pair) => { launchGang s.nextId d core q i st causal (st.regs * q.slices * 16) pair with flight := s.nextId + 1, place := .port p }
  | none => { launchGang s.nextId d core q i st causal 0 none with flight := s.nextId + 1, place := .landing, phase := .parked, woken := true }

/-- The gang of gathered records with its slack. -/
def Machine.State.launched (s : State) (d core : Nat) (q : Gather) (i : Inst) (st : Stage) : Gang :=
  let g := s.launchedOn d core q i st (s.closePorts d core q (st.regs * q.slices * 16) (st.flags.getLsbD 0))
  { g with slack := s.slackOf g }

/-- What the gang of gathered records has in common, on a port or in the Landing. -/
structure Launches (i : Inst) (st : Stage) (q : Gather) (g : Gang) : Prop where
  arch : g.arch = launchArch i st q.recs
  anchor : g.anchor = launchArch i st q.recs
  lanes : g.lanes = (List.range q.recs.length).zip (q.recs.map (launchTask st))

theorem launchedOn_launches (s : State) (d core : Nat) (q : Gather) (i : Inst) (st : Stage) (ports : Option (Nat × Option Nat)) :
    Launches i st q (s.launchedOn d core q i st ports) := by
  cases ports <;> exact ⟨rfl, rfl, rfl⟩

theorem launched_launches (s : State) (d core : Nat) (q : Gather) (i : Inst) (st : Stage) : Launches i st q (s.launched d core q i st) :=
  have ⟨harch, hanchor, hlanes⟩ := launchedOn_launches s d core q i st (s.closePorts d core q (st.regs * q.slices * 16) (st.flags.getLsbD 0))
  ⟨harch, hanchor, hlanes⟩

theorem launched_port {s : State} {d core : Nat} {q : Gather} {i : Inst} {st : Stage} {p : Nat} {pair : Option Nat}
    (h : s.closePorts d core q (st.regs * q.slices * 16) (st.flags.getLsbD 0) = some (p, pair)) :
    (s.launched d core q i st).place = .port p ∧ (s.launched d core q i st).pair = pair ∧ (s.launched d core q i st).phase = .run := by
  unfold State.launched
  rw [h]
  exact ⟨rfl, rfl, rfl⟩

theorem launched_landing {s : State} {d core : Nat} {q : Gather} {i : Inst} {st : Stage}
    (h : s.closePorts d core q (st.regs * q.slices * 16) (st.flags.getLsbD 0) = none) :
    (s.launched d core q i st).place = .landing ∧ (s.launched d core q i st).phase = .parked := by
  unfold State.launched
  rw [h]
  exact ⟨rfl, rfl⟩

theorem placeGang_eq {s : State} {d core : Nat} {q : Gather} {i : Inst} {st : Stage} (hi : s.inst? d q.inst = some i)
    (hst : i.stages[q.stage]? = some st) :
    s.placeGang d core q = { s with nextId := s.nextId + 2, gangs := s.gangs ++ [s.launched d core q i st] } := by
  unfold State.placeGang
  rw [hi, Option.bind_some, hst]
  rfl

/-- The tasks of a gang's lanes are those of its records. -/
theorem Launches.tasks {i : Inst} {st : Stage} {q : Gather} {g : Gang} (h : Launches i st q g) : g.lanes.map (fun e => e.2.num) = q.recs.map Prod.fst := by
  rw [h.lanes]
  have hsnd : ((List.range q.recs.length).zip (q.recs.map (launchTask st))).map Prod.snd = q.recs.map (launchTask st) := by
    rw [List.map_snd_zip]
    simp
  calc ((List.range q.recs.length).zip (q.recs.map (launchTask st))).map (fun e => e.2.num)
      = (((List.range q.recs.length).zip (q.recs.map (launchTask st))).map Prod.snd).map (·.num) := by rw [List.map_map]; rfl
    _ = q.recs.map Prod.fst := by rw [hsnd, List.map_map]; rfl

/-- Each record of a gathering is in one of its gangs. -/
theorem placeGangs_tasks {d core cap : Nat} {q : Gather} {i : Inst} {st : Stage} (hcap : 0 < cap) (hst : i.stages[q.stage]? = some st) :
    ∀ (n : Nat) (rs : List (Nat × Rec)) (s : State), rs.length ≤ n → s.inst? d q.inst = some i →
      ∃ gs, (s.placeGangs d core q cap n rs).gangs = s.gangs ++ gs ∧ gs.flatMap (fun g => g.lanes.map fun e => e.2.num) = rs.map Prod.fst := by
  intro n
  induction n with
  | zero =>
    intro rs s hlen hi
    obtain rfl : rs = [] := List.length_eq_zero_iff.mp (Nat.le_zero.mp hlen)
    exact ⟨[], by simp [State.placeGangs], rfl⟩
  | succ n ih =>
    intro rs s hlen hi
    cases rs with
    | nil => exact ⟨[], by simp [State.placeGangs], rfl⟩
    | cons r rs =>
      have hstep := placeGang_eq (s := s) (core := core) (q := { q with recs := (r :: rs).take cap }) hi hst
      have hdrop : ((r :: rs).drop cap).length ≤ n := by
        simp only [List.length_drop, List.length_cons] at hlen ⊢
        omega
      obtain ⟨gs, hgangs, htasks⟩ := ih ((r :: rs).drop cap) (s.placeGang d core { q with recs := (r :: rs).take cap }) hdrop (by rw [hstep]; exact hi)
      refine ⟨s.launched d core { q with recs := (r :: rs).take cap } i st :: gs, ?_, ?_⟩
      · rw [State.placeGangs, if_neg (by simp), hgangs, hstep]
        exact List.append_assoc _ _ _
      · rw [List.flatMap_cons, htasks, (launched_launches _ _ _ _ _ _).tasks, ← List.map_append, List.take_append_drop]

/-- A gathering whose records one gang takes becomes one gang. -/
theorem placeGangs_one {d core cap : Nat} {q : Gather} {i : Inst} {st : Stage} {s : State} (hi : s.inst? d q.inst = some i) (hst : i.stages[q.stage]? = some st)
    (hne : q.recs ≠ []) (hcap : q.recs.length ≤ cap) : (s.placeGangs d core q cap q.recs.length q.recs).gangs = s.gangs ++ [s.launched d core q i st] := by
  obtain ⟨n, hn⟩ : ∃ n, q.recs.length = n + 1 := Nat.exists_eq_succ_of_ne_zero (by simpa using hne)
  rw [hn, State.placeGangs, if_neg (by simpa using hne), List.take_of_length_le hcap, List.drop_of_length_le hcap]
  have hempty : ∀ (m : Nat) (t : State), t.placeGangs d core q cap m [] = t := by
    intro m t
    cases m <;> rfl
  rw [hempty]
  exact congrArg State.gangs (placeGang_eq hi hst)

end Sys2Proof

/-!
# What a gang launched from records starts with (R23, R25, R123)
-/

namespace Sys2Proof

open Machine

/-! ## The registers of a gang at its launch (R23, R25) -/

section Puts
variable {α : Type} [DecidableEq α] (d : α) (es : List (Nat × α)) (m : List (Nat × α)) (k : Nat)

/-- Entries put into a map one after another leave the keys that they do not name. -/
theorem look_puts_other (h : ∀ v, (k, v) ∉ es) : look d (es.foldl (fun m e => put d m e.1 e.2) m) k = look d m k := by
  induction es generalizing m with
  | nil => rfl
  | cons e es ih =>
    rw [List.foldl_cons, ih _ fun v hv => h v (.tail _ hv), look_put_other]
    intro he
    exact h e.2 (he ▸ .head _)

/-- A key that they name in one way has the value named. -/
theorem look_puts (v : α) (hv : (k, v) ∈ es) (hall : ∀ w, (k, w) ∈ es → w = v) : look d (es.foldl (fun m e => put d m e.1 e.2) m) k = v := by
  induction es generalizing m with
  | nil => cases hv
  | cons e es ih =>
    rw [List.foldl_cons]
    by_cases hin : ∃ w, (k, w) ∈ es
    · obtain ⟨w, hw⟩ := hin
      exact ih _ (hall w (.tail _ hw) ▸ hw) fun u hu => hall u (.tail _ hu)
    · rw [look_puts_other d es _ k fun w hw => hin ⟨w, hw⟩]
      cases hv with
      | head => exact look_put_same _ _ _ _
      | tail _ hv => exact absurd ⟨v, hv⟩ hin

end Puts

/-- A list with the places of its elements. -/
theorem mem_zip_range {α : Type} (xs : List α) (n k : Nat) (x : α) : (x, k) ∈ xs.zip (List.range n) ↔ xs[k]? = some x ∧ k < n := by
  rw [List.mem_iff_getElem?]
  constructor
  · rintro ⟨i, hi⟩
    obtain ⟨hx, hk⟩ := List.getElem?_zip_eq_some.mp hi
    obtain ⟨hlt, hik⟩ := List.getElem?_eq_some_iff.mp hk
    rw [List.getElem_range] at hik
    rw [List.length_range] at hlt
    subst hik
    exact ⟨hx, hlt⟩
  · rintro ⟨hx, hk⟩
    exact ⟨k, List.getElem?_zip_eq_some.mpr ⟨hx, by simp [hk]⟩⟩

theorem padWords_getElem? (ws : List Word) {n j : Nat} (hj : j < n) : (padWords ws n)[j]? = some (ws.getD j 0#32) := by
  unfold padWords
  by_cases h : j < ws.length
  · rw [List.getElem?_append_left h, List.getD_eq_getElem?_getD, List.getElem?_eq_getElem h, Option.getD_some]
  · rw [List.getElem?_append_right (by omega), List.getElem?_replicate, if_pos (by omega), List.getD_eq_getElem?_getD,
      List.getElem?_eq_none (by omega), Option.getD_none]

/-- The low bits of a word. -/
theorem getLsbD_lowBits {w : Nat} (n i : Nat) (hn : n ≤ w) : (BitVec.ofNat w (2 ^ n - 1)).getLsbD i = decide (i < n) := by
  rw [BitVec.getLsbD_ofNat, Nat.testBit_two_pow_sub_one]
  by_cases h : i < n
  · simp [h, Nat.lt_of_lt_of_le h hn]
  · simp [h]

/-- The arguments of records as entries of the vector registers. -/
def launchWords (n : Nat) (recs : List (Nat × Rec)) : List (Nat × Word) :=
  (recs.zip (List.range recs.length)).flatMap fun e => ((padWords e.1.2.words n).zip (List.range n)).map fun w => (w.2 * 32 + e.2, w.1)

section Launch
variable (i : Inst) (st : Stage) (recs : List (Nat × Rec))

theorem launchArch_v : (launchArch i st recs).v = (launchWords st.args recs).foldl (fun m e => put 0#32 m e.1 e.2) [] := by
  unfold launchWords
  rw [List.foldl_flatMap]
  simp only [List.foldl_map]
  rfl

theorem launchArch_occ (hlen : recs.length ≤ 32) (l : Nat) : (launchArch i st recs).occ.getLsbD l = decide (l < recs.length) := getLsbD_lowBits _ _ hlen

theorem launchArch_slices (hlen : recs.length ≤ 32) (k : Nat) : (launchArch i st recs).slices.getLsbD k = decide (4 * k < recs.length) := by
  refine (getLsbD_lowBits (ceilDiv recs.length 4) k ?_).trans (decide_eq_decide.mpr ?_)
  · unfold ceilDiv
    omega
  · unfold ceilDiv
    omega

theorem launchArch_vget (hlen : recs.length ≤ 32) {l j : Nat} (hl : l < recs.length) (hj : j < st.args) :
    (launchArch i st recs).vget j l = ((recs.map fun e => e.2.words).getD l []).getD j 0#32 := by
  have hrec : (recs.map fun e => e.2.words).getD l [] = (recs[l]).2.words := by
    rw [List.getD_eq_getElem?_getD, List.getElem?_map, List.getElem?_eq_getElem hl]
    rfl
  unfold Arch.vget
  rw [launchArch_v, hrec]
  refine look_puts 0#32 _ [] _ _ ?_ ?_
  · refine List.mem_flatMap.mpr ⟨(recs[l], l), (mem_zip_range _ _ _ _).mpr ⟨List.getElem?_eq_getElem hl, hl⟩, List.mem_map.mpr ⟨(_, j), ?_, rfl⟩⟩
    exact (mem_zip_range _ _ _ _).mpr ⟨padWords_getElem? _ hj, hj⟩
  · intro w hw
    obtain ⟨⟨e, l'⟩, he, hw⟩ := List.mem_flatMap.mp hw
    obtain ⟨⟨x, j'⟩, hx, hkey⟩ := List.mem_map.mp hw
    obtain ⟨he, hl'⟩ := (mem_zip_range _ _ _ _).mp he
    obtain ⟨hx, hj'⟩ := (mem_zip_range _ _ _ _).mp hx
    obtain ⟨hkey, rfl⟩ := Prod.mk.inj hkey
    dsimp only at hkey hx
    obtain rfl : l' = l := by omega
    obtain rfl : j' = j := by omega
    rw [List.getElem?_eq_getElem hl] at he
    rw [padWords_getElem? _ hj, ← Option.some.inj he] at hx
    exact (Option.some.inj hx).symm

theorem launchArch_sget (hlen : recs.length ≤ 32) {k : Nat} (hk : 4 * k < recs.length) : (launchArch i st recs).sget k 1 = i.param := by
  have hin : k ∈ bitsOf (launchArch i st recs).slices := by
    rw [mem_bitsOf, launchArch_slices _ _ _ hlen, decide_eq_true hk]
  unfold Arch.sget
  rw [if_neg (by decide)]
  have hs : (launchArch i st recs).s = ((bitsOf (launchArch i st recs).slices).map fun k => (k * 32 + 1, i.param)).foldl (fun m e => put 0#64 m e.1 e.2) [] := by
    rw [List.foldl_map]
    rfl
  rw [hs]
  refine look_puts 0#64 _ [] _ _ (List.mem_map.mpr ⟨k, hin, rfl⟩) ?_
  intro w hw
  obtain ⟨k', -, hkey⟩ := List.mem_map.mp hw
  exact (Prod.mk.inj hkey).2.symm

end Launch

/-- The lanes of a launched gang with their tasks' numbers. -/
theorem Launches.numbered {i : Inst} {st : Stage} {q : Gather} {g : Gang} (h : Launches i st q g) :
    g.lanes.map (fun e => (e.1, e.2.num)) = (List.range q.recs.length).zip (q.recs.map (·.1)) := by
  rw [h.lanes, List.zip_map_right, List.map_map, List.zip_map_right]
  rfl

/-- One gang at least takes a record. -/
theorem closeCap_pos {s : State} {d core : Nat} {q : Gather} {pairs : Bool} (hne : q.recs ≠ []) : 0 < s.closeCap d core q pairs := by
  unfold State.closeCap
  dsimp only
  split
  · exact List.length_pos_iff.mpr hne
  · rename_i h
    simp only [Bool.or_eq_true, decide_eq_true_eq, not_or] at h
    exact Nat.pos_of_ne_zero h.2

/-- The part of O56 that speaks of a gather whose time is up. -/
theorem gatherTimeoutRuns : GatherTimeoutRuns := by
  intro s id d core q i st hcur hgather htime hi hst hlen hne s0
  have hexec : exec (.gatherTimeout id) s = .next (s.closeGather d core q) := by
    show execGatherTimeout id s = _
    simp [execGatherTimeout, hgather, hcur, gatherNs, htime]
  have hi0 : s0.inst? d q.inst = some i := by
    refine Eq.trans ?_ hi
    unfold s0 State.onCore State.inst?
    rw [die_onDie]
    split
    · rename_i h; rw [h]; rfl
    · rfl
  have hpaired : s0.paired d q.inst q.stage = st.flags.getLsbD 0 := by
    rw [State.paired, hi0, Option.bind_some, hst]
    rfl
  have hports : (s0.die d).portsOf core = (s.die d).portsOf core := by
    unfold s0 State.onCore
    rw [die_onDie_same]
    rfl
  refine ⟨?_, fun hcap => ?_⟩
  · obtain ⟨gs, hgangs, htasks⟩ := placeGangs_tasks (core := core) (closeCap_pos (s := s0) (d := d) (core := core) (pairs := s0.paired d q.inst q.stage) hne)
      hst q.recs.length q.recs s0 (Nat.le_refl _) hi0
    exact ⟨_, gs, hexec, hgangs, htasks⟩
  · have hone := launched_launches s0 d core q i st
    refine ⟨_, s0.launched d core q i st, hexec, placeGangs_one hi0 hst hne hcap, hone.anchor.trans hone.arch.symm, fun hthree hport hpair => ?_,
      launched_landing, ?_⟩
    · apply launched_port
      have hkeeps : s0.keepsPorts d core q (st.flags.getLsbD 0) = true := by
        unfold State.keepsPorts
        rw [hports]
        cases hflag : st.flags.getLsbD 0 with
        | false => simpa [hthree] using hport
        | true =>
          obtain ⟨p, hp, hq⟩ := hpair hflag
          simpa [hthree, hq, hp] using hport
      rw [State.closePorts, if_pos hkeeps]
    · rw [hone.arch]
      exact ⟨rfl, rfl, hone.numbered, launchArch_occ _ _ _ hlen, launchArch_slices _ _ _ hlen, fun _ _ => launchArch_vget _ _ _ hlen,
        fun _ => launchArch_sget _ _ _ hlen⟩

end Sys2Proof

/-!
# Dispatch of records (R264, R265)
-/

namespace Sys2Proof

open Machine

/-! ## Dispatch (R264, R265) -/

@[simp] theorem placeGang_dies (s : State) (d core : Nat) (q : Gather) : (s.placeGang d core q).dies = s.dies := by
  unfold State.placeGang
  cases (s.inst? d q.inst).bind fun i => (i.stages[q.stage]?).map fun st => (i, st) <;> rfl

namespace SameAdmitted

variable {s t : State}

theorem of_dies {u : State} (h : SameAdmitted s t) (hu : u.dies = t.dies) : SameAdmitted s u := by
  have hdie : ∀ e, u.die e = t.die e := by
    intro e
    unfold State.die
    rw [hu]
  exact ⟨fun e => hdie e ▸ h.insts e, fun e => hdie e ▸ h.vestibule e⟩

theorem onCore {d c : Nat} {f : Core → Core} (h : SameAdmitted s t) : SameAdmitted s (t.onCore d c f) := h.onDie (fun _ => rfl) fun _ => rfl

theorem placeGangs {d core cap : Nat} {q : Gather} : ∀ {n : Nat} {rs : List (Nat × Rec)} {t : State}, SameAdmitted s t →
    SameAdmitted s (t.placeGangs d core q cap n rs)
  | 0, _, _, h => h
  | n + 1, rs, t, h => by
    rw [State.placeGangs]
    split
    · exact h
    · exact placeGangs (h.of_dies (placeGang_dies _ _ _ _))

theorem closeGather {d core : Nat} {q : Gather} (h : SameAdmitted s t) : SameAdmitted s (t.closeGather d core q) := h.onCore.placeGangs

theorem fresh (h : SameAdmitted s t) : SameAdmitted s t.fresh.2 := h.of_dies rfl

theorem gatherRecord {d core slot stage : Nat} {r : Nat × Rec} (h : SameAdmitted s t) : SameAdmitted s (t.gatherRecord d core slot stage r) := by
  unfold State.gatherRecord
  extract_lets k mine openNew
  have hopen : ∀ u, SameAdmitted s u → SameAdmitted s (openNew u).1 := by
    intro u hu
    unfold openNew
    split
    · exact (SameAdmitted.fresh hu).onCore
    · exact (SameAdmitted.fresh hu).closeGather
  have hclose : ∀ p : State × Option Gather, SameAdmitted s p.1 → SameAdmitted s (match p.2 with
      | some q => if q.recs.length = (t.die d).good core q.port / 4 * 4 then p.1.closeGather d core q else p.1
      | none => p.1) := by
    intro p hp
    split
    · split
      · exact hp.closeGather
      · exact hp
    · exact hp
  clear_value mine
  apply hclose
  cases mine with
  | none => exact hopen _ h
  | some q =>
    dsimp only
    split
    · exact h.onCore
    · exact hopen _ h.closeGather

end SameAdmitted

theorem inst?_onInst (s : State) (d n : Nat) (f : Inst → Inst) : (s.onInst d n f).inst? d n = (s.inst? d n).map f := by
  unfold State.onInst State.inst?
  rw [die_onDie_same]
  exact look?_put?_same (s.die (homeInst d n).1).insts (homeInst d n).2 _

/-- An `Inst` of which a record is dispatched, as its number `num`. -/
def Machine.Inst.dispatched (i : Inst) (k num : Nat) (idem : Bool) (r : Rec) (rest : List Rec) : Inst :=
  { i with queues := put [] i.queues k rest, inflight := alter 0 i.inflight k (· + 1),
           nextTask := if r.num.isSome then i.nextTask else put 0 i.nextTask k ((num + 1) % 2 ^ 32),
           retained := if idem then (i.retained.filter fun e => e.1 != (k, num)) ++ [((k, num), { r with num := some num })] else i.retained,
           tried := if fusesNow i k then k :: i.tried else i.tried }

/-- A die on which a cluster is fused for an `Inst`. -/
def Machine.Die.fusedFor (x : Die) (cluster slot : Nat) : Die :=
  { x with fused := put? x.fused cluster (some slot),
           cores := x.cores.map fun (e : Nat × Core) => if x.cluster e.1 = cluster then (e.1, { e.2 with l1 := [] }) else e }

/-- The part of O56 that speaks of dispatching a record. -/
theorem dispatchRuns : DispatchRuns := by
  intro s d slot k core i f r rest hcur hbest hi hstage hplace hqueue
  let num := r.num.getD (look 0 i.nextTask k)
  let j := i.dispatched k num (((i.stages[k]?).map fun st => st.flags.getLsbD 1).getD false) r rest
  let s1 := s.onInst d slot fun i' => i'.dispatched k num (((i.stages[k]?).map fun st => st.flags.getLsbD 1).getD false) r rest
  have hs1 : s1.inst? d slot = some j := (inst?_onInst _ _ _ _).trans (congrArg (Option.map _) hi)
  have hexec : ∃ s2 : State, exec (.dispatch d) s = .next (s2.gatherRecord d core slot k (num, r)) ∧ SameAdmitted s1 s2 := by
    cases f with
    | none =>
      refine ⟨s1, ?_, .refl⟩
      show execDispatch d s = _
      simp only [execDispatch, hbest, Option.bind_some, hstage, Option.map_some, hplace, hqueue, hcur, Option.isSome_none, Bool.false_eq_true, if_false]
      rfl
    | some c =>
      refine ⟨s1.onDie d fun x => x.fusedFor c slot, ?_, .onDie .refl (fun _ => rfl) fun _ => rfl⟩
      show execDispatch d s = _
      simp only [execDispatch, hbest, Option.bind_some, hstage, Option.map_some, hplace, hqueue, hcur, Option.isSome_none, Bool.false_eq_true, if_false]
      rfl
  obtain ⟨s2, hexec, hs2⟩ := hexec
  exact ⟨_, j, hexec, (hs2.gatherRecord.inst? d slot).trans hs1, look_put_same _ _ _ _, (look_alter 0 i.inflight k k (· + 1)).trans (if_pos rfl)⟩

end Sys2Proof

/-!
# Records: relaunch, pre-emption and moves (R126, R133, R138, R139)
-/

namespace Sys2Proof

open Machine

/-! ## Gangs by their numbers -/

theorem find?_mapGangs {F : Gang → Gang} (hF : ∀ g, (F g).gid = g.gid) (gs : List Gang) (n : Nat) :
    (gs.map F).find? (fun g => g.gid == n) = (gs.find? fun g => g.gid == n).map F := by
  rw [List.find?_map]
  exact congrArg (fun p => (gs.find? p).map F) (funext fun g => by simp [hF])

/-- A change of every gang that keeps their numbers. -/
theorem gang?_mapGangs {F : Gang → Gang} (s : State) (hF : ∀ g, (F g).gid = g.gid) (n : Nat) :
    State.gang? { s with gangs := s.gangs.map F } n = (s.gang? n).map F := find?_mapGangs hF _ _

theorem gang?_gid {s : State} {n : Nat} {g : Gang} (h : s.gang? n = some g) : g.gid = n := by
  simpa using List.find?_some h

theorem gang?_onGang {s : State} {n : Nat} {g : Gang} {f : Gang → Gang} (h : s.gang? n = some g) (hf : ∀ g, (f g).gid = g.gid) :
    (s.onGang n f).gang? n = some (f g) := by
  have hF : ∀ k : Gang, (if k.gid = n then f k else k).gid = k.gid := by
    intro k
    split
    · exact hf k
    · rfl
  refine (gang?_mapGangs s hF n).trans ?_
  rw [h, Option.map_some, if_pos (gang?_gid h)]

theorem gang?_onGang_other {s : State} {n m : Nat} {f : Gang → Gang} (hm : m ≠ n) (hf : ∀ g, g.gid = n → (f g).gid = n) :
    (s.onGang n f).gang? m = s.gang? m := by
  have hF : ∀ k : Gang, (if k.gid = n then f k else k).gid = k.gid := by
    intro k
    split
    · rename_i hk; rw [hf k hk, hk]
    · rfl
  refine (gang?_mapGangs s hF m).trans ?_
  cases h : s.gang? m with
  | none => rfl
  | some g => rw [Option.map_some, if_neg (by rw [gang?_gid h]; exact hm)]

theorem gang?_putGang {s : State} {g k : Gang} (h : s.gang? g.gid = some k) : (s.putGang g).gang? g.gid = some g := by
  have hF : ∀ x : Gang, (if x.gid = g.gid then g else x).gid = x.gid := by
    intro x
    split
    · rename_i hx; exact hx.symm
    · rfl
  refine (gang?_mapGangs s hF g.gid).trans ?_
  rw [h, Option.map_some, if_pos (gang?_gid h)]

theorem gang?_putGang_other {s : State} {g : Gang} {m : Nat} (hm : m ≠ g.gid) : (s.putGang g).gang? m = s.gang? m :=
  gang?_onGang_other hm fun _ _ => rfl

/-! ## Relaunch, pre-emption and moves (R126, R133, R138, R139) -/

section Records
variable {s : State} {g : Gang} (hcur : s.cur = none) (hg : s.gang? g.gid = some g)
include hcur hg

theorem preemptGang_runs (hp : s.preempts g = true) : exec (.preemptGang g.gid) s = .next (s.putGang (if g.paused.isSome = true then
      { g.leavePort with phase := .parked, wakeKind := 8, wakeOp := 0#64, wakeOp2 := 0#64, woken := false, slack := s.slackOf g }
      else if g.phase = .run then { g with phase := .ending, preempt := true, wakeKind := 8, wakeOp := 0#64, wakeOp2 := 0#64, nexts := [] }
      else { g.leavePort with preempt := true, slack := s.slackOf g })) := by
  show execPreemptGang g.gid s = _
  simp only [execPreemptGang, hg, hcur, hp, Option.isNone_none, Bool.and_self, if_true]
  by_cases hpaused : g.paused.isSome = true
  · rw [if_pos hpaused, if_pos hpaused]
  · rw [if_neg hpaused, if_neg hpaused]
    by_cases hrun : g.phase = .run
    · rw [if_pos hrun, if_neg (by simp [hrun])]
    · rw [if_neg hrun, if_pos (by simpa using hrun)]

theorem recordMove_runs {die core : Nat} (hmovable : g.movable = true) (hplace : ∀ a, g.place ≠ .spill a)
    (hallowed : if die = g.die then core ≠ g.core else die < 4 ∧ (s.ctx g.ctx).diemask.getLsbD die = true ∧ (s.ctx g.ctx).run = 1 ∧ s.mayCross g = true)
    (hopen : s.openCore die core (s.moved g die core).inst = true)
    (hdue : (s.core g.die g.core).scan ≠ 0 ∨ s.eligible g = true ∧ ∃ n, g.since = some n ∧ n + 10000 ≤ s.time)
    (hfits : (s.putGang (s.moved g die core)).landingFits die core = true) :
    exec (.recordMove g.gid die core) s = .next (s.putGang (s.moved g die core)) := by
  have hwants : s.recordWants g = [] := by
    unfold State.recordWants
    split
    · rename_i a ha; exact absurd ha (hplace a)
    · rfl
  have hback : s.readBack g = .inl g := by
    unfold State.readBack
    split
    · rename_i a ha; exact absurd ha (hplace a)
    · rfl
  have hdue' : (s.eligible g && (match g.since with
      | some t => decide (t + 10000 ≤ s.time)
      | none => false) || decide ((s.core g.die g.core).scan ≠ 0)) = true := by
    rcases hdue with hscan | ⟨helig, n, hsince, htime⟩
    · simp [hscan]
    · simp [helig, hsince, htime]
  have hallowed' : (if die = g.die then decide (core ≠ g.core)
      else decide (die < 4) && (s.ctx g.ctx).diemask.getLsbD die && (s.ctx g.ctx).run == 1 && s.mayCross g) = true := by
    by_cases h : die = g.die
    · simpa [h] using hallowed
    · rw [if_neg h] at hallowed ⊢
      simp [hallowed]
  show execRecordMove g.gid die core s = _
  unfold execRecordMove
  rw [hg]
  dsimp only
  rw [if_pos, hback]
  · dsimp only
    rw [if_pos hfits]
  · simp only [Bool.and_eq_true]
    exact ⟨⟨⟨⟨⟨by rw [hcur]; rfl, by rw [hwants]; rfl⟩, hmovable⟩, hdue'⟩, hallowed'⟩, hopen⟩

end Records

/-! ## Relaunch (R133, R139) -/

section OnPort
variable (s : State) (g : Gang) (port : Nat)

@[simp] theorem onPort_place : (s.onPort g port).place = .port port := by
  unfold State.onPort
  dsimp only
  split
  · rename_i h; exact eq_of_beq h
  · rfl
@[simp] theorem onPort_gid : (s.onPort g port).gid = g.gid := by unfold State.onPort; dsimp only; split <;> rfl
@[simp] theorem onPort_arch : (s.onPort g port).arch = g.arch := by unfold State.onPort; dsimp only; split <;> rfl
@[simp] theorem onPort_pend : (s.onPort g port).pend = g.pend := by unfold State.onPort; dsimp only; split <;> rfl
@[simp] theorem onPort_paused : (s.onPort g port).paused = g.paused := by unfold State.onPort; dsimp only; split <;> rfl
@[simp] theorem onPort_held : (s.onPort g port).held = g.held := by unfold State.onPort; dsimp only; split <;> rfl
@[simp] theorem onPort_anchor : (s.onPort g port).anchor = g.anchor := by unfold State.onPort; dsimp only; split <;> rfl
@[simp] theorem onPort_ctx : (s.onPort g port).ctx = g.ctx := by unfold State.onPort; dsimp only; split <;> rfl
@[simp] theorem onPort_handler : (s.onPort g port).handler = g.handler := by unfold State.onPort; dsimp only; split <;> rfl
@[simp] theorem onPort_root : (s.onPort g port).root = g.root := by unfold State.onPort; dsimp only; split <;> rfl

end OnPort

/-- A gang as its next flight begins, under its number (R129, R130). -/
def Machine.State.begun (s : State) (g : Gang) (port : Nat) : Gang :=
  let h := (s.onPort g port).deliverAll.clearFlight
  { h with phase := .run, anchor := if h.ctx = firmware && h.handler then h.anchor else h.arch, flight := s.nextId, wakeKind := 0, wakeOp := 0#64, wakeOp2 := 0#64,
           ackScope := 0, woken := false, hit := false, since := none, preempt := false, nexts := [], spent := 0, spent2 := 0,
           spent3 := 0, fwd := [], anchorAt := none, fenced := false, fetchFrom := if g.fenced then s.olds.length else g.fetchFrom }

theorem beginFlight_eq (s : State) (g : Gang) (port : Nat) : s.beginFlight g port = s.fresh.2.putGang (s.begun g port) := rfl

section Begun
variable (s : State) (g : Gang) (port : Nat)

@[simp] theorem begun_gid : (s.begun g port).gid = g.gid := onPort_gid s g port
@[simp] theorem begun_root : (s.begun g port).root = g.root := onPort_root s g port
@[simp] theorem begun_place : (s.begun g port).place = .port port := onPort_place s g port
@[simp] theorem begun_phase : (s.begun g port).phase = .run := rfl
@[simp] theorem begun_held : (s.begun g port).held = [] := rfl
@[simp] theorem begun_pend : (s.begun g port).pend = [] := rfl
@[simp] theorem begun_flight : (s.begun g port).flight = s.nextId := rfl
@[simp] theorem begun_arch : (s.begun g port).arch = g.deliverAll.arch := by
  show (s.onPort g port).deliverAll.arch = g.deliverAll.arch
  simp [Gang.deliverAll]
@[simp] theorem begun_anchor (h : ¬ (g.ctx = firmware ∧ g.handler = true)) : (s.begun g port).anchor = (s.begun g port).arch := by
  show (if ((s.onPort g port).ctx = firmware && (s.onPort g port).handler) = true then (s.onPort g port).anchor else (s.begun g port).arch) = (s.begun g port).arch
  rw [if_neg (by simpa using h)]

end Begun

section Relaunch
variable {s : State} {g : Gang} {port : Nat} (hcur : s.cur = none) (hg : s.gang? g.gid = some g) (helig : s.eligible g = true) (htake : s.canTake g port = true)
  (hplace : g.place = .landing)

theorem readBack_of_landing (s : State) (hplace : g.place = .landing) : s.readBack g = .inl g := by
  unfold State.readBack
  rw [hplace]

include hcur hg helig htake hplace in
theorem relaunch_runs (hfirst : ∀ h ∈ s.takeable g.die g.core port, s.precedes h g = false) :
    exec (.relaunch g.gid port) s = .next (s.relaunch g port) := by
  have hall : ((s.takeable g.die g.core port).all fun h => !s.precedes h g) = true := List.all_eq_true.mpr fun h hh => by simp [hfirst h hh]
  have hwants : s.recordWants g = [] := by
    unfold State.recordWants
    rw [hplace]
  show execRelaunch g.gid port s = _
  unfold execRelaunch
  rw [hg]
  dsimp only
  rw [if_pos]
  simp only [Bool.and_eq_true]
  exact ⟨⟨⟨⟨by rw [hcur]; rfl, by rw [hwants]; rfl⟩, helig⟩, htake⟩, hall⟩

include helig htake hplace in
/-- A record that a port takes goes on in its flight, replays it, or begins its next. -/
theorem relaunch_eq : s.relaunch g port =
    if g.paused.isSome then
      s.putGang { s.onPort g port with phase := .run, wakeKind := 0, wakeOp := 0#64, wakeOp2 := 0#64, woken := false, since := none, preempt := false }
    else if g.wakeKind = 9 then
      s.putGang { s.onPort g port with anchor := if (s.onPort g port).ctx = firmware && (s.onPort g port).handler then (s.onPort g port).anchor else (s.onPort g port).arch,
                                       phase := .run, wakeKind := 0, wakeOp := 0#64, wakeOp2 := 0#64, woken := false, since := none, spent := 0, spent2 := 0, spent3 := 0,
                                       nexts := [], backTo := none, sigMoved := (s.onPort g port).sigPort.any (· != port), anchorAt := none }
    else s.beginFlight g port := by
  unfold State.relaunch
  rw [readBack_of_landing s hplace]
  dsimp only
  rw [helig, htake, if_neg (by decide)]
  by_cases hpaused : g.paused.isSome = true
  · rw [if_pos hpaused, if_pos hpaused]
  · rw [if_neg hpaused, if_neg hpaused]
    by_cases hkind : g.wakeKind = 9
    · rw [if_pos (by simp [hkind]), if_pos hkind]
    · rw [if_neg (by simp [hkind]), if_neg hkind]

include hg helig htake hplace in
theorem relaunch_gang : ∃ k, (s.relaunch g port).gang? g.gid = some k ∧ k.place = .port port ∧ k.phase = .run ∧
    (g.paused ≠ none → k.paused = g.paused ∧ k.arch = g.arch ∧ k.held = g.held ∧ k.anchor = g.anchor) ∧
    (g.paused = none → g.wakeKind = 9 → k.arch = g.arch ∧ k.nexts = [] ∧ k.anchor = if g.ctx = firmware ∧ g.handler = true then g.anchor else g.arch) ∧
    (g.paused = none → g.wakeKind ≠ 9 → k.arch = g.deliverAll.arch ∧ k.pend = [] ∧ k.flight = s.nextId ∧ (g.ctx ≠ firmware → k.anchor = k.arch)) := by
  have hput : ∀ (t : State) (k : Gang), t.gangs = s.gangs → k.gid = g.gid → (t.putGang k).gang? g.gid = some k := by
    intro t k ht hk
    rw [← hk]
    refine gang?_putGang (k := g) ?_
    rw [hk, ← hg]
    unfold State.gang?
    rw [ht]
  rw [relaunch_eq helig htake hplace]
  by_cases hpaused : g.paused.isSome = true
  · rw [if_pos hpaused]
    have hsome : g.paused ≠ none := by
      intro h
      simp [h] at hpaused
    exact ⟨_, hput _ _ rfl (onPort_gid s g port), onPort_place s g port, rfl,
      fun _ => ⟨onPort_paused s g port, onPort_arch s g port, onPort_held s g port, onPort_anchor s g port⟩, fun h => absurd h hsome, fun h => absurd h hsome⟩
  · rw [if_neg hpaused]
    have hnone : g.paused = none := by simpa using hpaused
    by_cases hkind : g.wakeKind = 9
    · rw [if_pos hkind]
      refine ⟨_, hput _ _ rfl (onPort_gid s g port), onPort_place s g port, rfl, fun h => absurd hnone h, fun _ _ => ⟨onPort_arch s g port, rfl, ?_⟩,
        fun _ h => absurd hkind h⟩
      simp
    · rw [if_neg hkind, beginFlight_eq]
      refine ⟨_, hput _ _ rfl (begun_gid s g port), begun_place s g port, rfl, fun h => absurd hnone h, fun _ h => absurd h hkind, fun _ _ =>
        ⟨begun_arch s g port, rfl, rfl, fun hctx => begun_anchor s g port fun h => hctx h.1⟩⟩

end Relaunch
end Sys2Proof

/-!
# Page walks (R157)
-/

namespace Sys2Proof

open Machine

/-! ## Page walks (R157) -/

section Walks
variable {s : State} {g : Gang} {a : Access} {p : APart} (hcur : s.cur = none) (hg : s.gang? g.gid = some g) (hmiss : s.missing g = some (a, p))
  (hread : s.unread g.die (s.walked g.die g.ctx p.va.toNat).2.2 = [])

/-- The access that waits for a page is the first that is not placed. -/
theorem missing_first (hmiss : s.missing g = some (a, p)) : (g.accs.find? fun a => !a.ready) = some a := by
  unfold State.missing at hmiss
  obtain ⟨b, hb, hp⟩ := Option.bind_eq_some_iff.mp hmiss
  obtain ⟨q, hq, hfind⟩ := Option.bind_eq_some_iff.mp hp
  split at hfind
  · cases hfind
    exact hb
  · cases hfind

@[simp] theorem fillWalk_gangs (s : State) (d : Nat) (es : List (Nat × DWord)) : (s.fillWalk d es).gangs = s.gangs := by
  unfold State.fillWalk
  split <;> rfl

theorem makeReqs_gangs (s : State) (g : Gang) (a : Access) : (s.makeReqs g a).2.gangs = s.gangs := by
  unfold State.makeReqs
  split
  · refine foldl_keeps (P := fun acc : List Req × State => acc.2.gangs = s.gangs) (fun _ _ h => ?_) _ ?_
    · exact h
    · rfl
  · rfl

theorem placeAccess_gid (s : State) (g : Gang) (a : Access) : (s.placeAccess g a).1.gid = g.gid := by
  unfold State.placeAccess
  dsimp only
  split <;> rfl

theorem placeAccess_gangs (s : State) (g : Gang) (a : Access) : (s.placeAccess g a).2.2.gangs = s.gangs := by
  unfold State.placeAccess
  dsimp only
  split
  · exact makeReqs_gangs _ _ _
  · rfl

/-- A gang whose accesses are all placed has none to go on with. -/
theorem placeAll_placed {t : State} {h : Gang} (hg : t.gang? h.gid = some h) (hready : ∀ b ∈ h.accs, b.ready = true) (n : Nat) : t.placeAll h.gid n = t := by
  cases n with
  | zero => rfl
  | succ n =>
    have hnone : (h.accs.find? fun a => !a.ready) = none := List.find?_eq_none.mpr fun b hb => by simp [hready b hb]
    rw [State.placeAll, hg, Option.bind_some, hnone]
    rfl

include hcur hg hmiss hread

theorem pageWalk_ok {l : Leaf} {h : Gang} {u : State} (hwalk : s.walk g.die g.ctx p.va.toNat = .ok l)
    (hplace : ((s.fillWalk g.die (s.walked g.die g.ctx p.va.toNat).2.1).fillTlb g.die g.core g.ctx p.va.toNat l).placeAccess g a = (h, .done, u))
    (hready : ∀ b ∈ h.accs, b.ready = true) : exec (.pageWalk g.gid (p.va.toNat / 4096)) s = .next (u.putGang h) := by
  have hgid : h.gid = g.gid := by
    rw [← placeAccess_gid _ g a, hplace]
  have hgangs : u.gangs = s.gangs := by
    have := placeAccess_gangs ((s.fillWalk g.die (s.walked g.die g.ctx p.va.toNat).2.1).fillTlb g.die g.core g.ctx p.va.toNat l) g a
    rw [hplace] at this
    exact this.trans (fillWalk_gangs _ _ _)
  have hput : (u.putGang h).gang? h.gid = some h := by
    refine gang?_putGang (k := g) ?_
    rw [hgid, ← hg]
    unfold State.gang?
    rw [hgangs]
  have hfound : ((s.fillWalk g.die (s.walked g.die g.ctx p.va.toNat).2.1).fillTlb g.die g.core g.ctx p.va.toNat l).gang? g.gid = some g := by
    rw [← hg]
    exact congrArg (List.find? _) (fillWalk_gangs _ _ _)
  show execPageWalk g.gid (p.va.toNat / 4096) s = _
  unfold execPageWalk
  rw [hg, Option.bind_some, hmiss, Option.map_some]
  dsimp only
  rw [if_neg (by simp [hcur, hread]), hwalk]
  dsimp only
  rw [State.placeAll, hfound, Option.bind_some, missing_first hmiss, Option.map_some]
  dsimp only
  rw [hplace, ← hgid]
  exact congrArg Host.Outcome.next (placeAll_placed hput hready _)

theorem pageWalk_fault {w : Walk} {c : Nat} (hw : (w, c) ∈ ([(.page, 0x0010), (.prot, 0x0011), (.poison, 0x0013)] : List (Walk × Nat))) (hphase : g.phase ≠ .parked)
    (hwalk : s.walk g.die g.ctx p.va.toNat = w) :
    exec (.pageWalk g.gid (p.va.toNat / 4096)) s = .next (s.takeFault g.gid ⟨c, partInfo a.kind 0 p, a.pc⟩ (c == 0x0013) 0#64 0) := by
  show execPageWalk g.gid (p.va.toNat / 4096) s = _
  have hparked : (g.phase == .parked) = false := by simpa using hphase
  unfold execPageWalk
  rw [hg, Option.bind_some, hmiss, Option.map_some]
  dsimp only
  rw [if_neg (by simp [hcur, hread]), hwalk, hparked]
  simp only [List.mem_cons, Prod.mk.injEq, List.not_mem_nil, or_false] at hw
  rcases hw with ⟨rfl, rfl⟩ | ⟨rfl, rfl⟩ | ⟨rfl, rfl⟩ <;> rfl

end Walks
end Sys2Proof

/-!
# Answers to loads (R55, R150, R152, R233)
-/

namespace Sys2Proof

open Machine

/-! ## What a read gives does not depend on the paths' checks (R250) -/

/-- Two states that differ in the checks of their dies' paths only, as far as reads go. -/
structure SameButChecks (s t : State) (checks : Nat → List (Nat × Nat)) : Prop where
  die : ∀ e, t.die e = { s.die e with pathChecks := checks e }
  mem : t.mem = s.mem
  poison : t.poison = s.poison
  pkg : t.pkg = s.pkg
  drain : t.drain = s.drain
  owners : t.owners = s.owners
  free : t.free = s.free

namespace SameButChecks

variable {s t : State} {checks : Nat → List (Nat × Nat)} (h : SameButChecks s t checks)
include h

theorem byte (pa : Nat) : t.byte pa = s.byte pa := by unfold State.byte; rw [h.mem]

theorem poisoned (pa : Nat) : t.poisoned pa = s.poisoned pa := by unfold State.poisoned; rw [h.poison]

theorem dieByte (d pa : Nat) : t.dieByte d pa = s.dieByte d pa := by unfold State.dieByte; rw [h.byte, h.die]

theorem badAt (d pa : Nat) : t.badAt d pa = s.badAt d pa := by unfold State.badAt; rw [h.poisoned, h.die]

theorem outOfReach (d pa : Nat) : t.outOfReach d pa = s.outOfReach d pa := by
  unfold State.outOfReach State.readable State.pathDown State.travelling
  dsimp only
  rw [h.die, h.pkg, h.drain]

theorem entry (d pa : Nat) : t.entry d pa = s.entry d pa := by
  unfold State.entry
  simp only [h.dieByte]

theorem walkFrom (d ctx va : Nat) : ∀ n table level, walkFrom t d ctx va n table level = walkFrom s d ctx va n table level := by
  intro n
  induction n with
  | zero => intro _ _; rfl
  | succ n ih =>
    intro table level
    unfold Machine.walkFrom
    simp only [h.die, h.entry, h.outOfReach, h.badAt, h.pkg, ih]

theorem walk (d ctx va : Nat) : t.walk d ctx va = s.walk d ctx va := by
  unfold State.walk State.walked State.ctx
  rw [h.walkFrom, h.pkg]

theorem tlb? (d c ctx va : Nat) : t.tlb? d c ctx va = s.tlb? d c ctx va := by
  unfold State.tlb?
  simp only [h.die]
  rfl

theorem sealed (d c ctx va : Nat) (l : Loc) (bs : List Byte) : t.seal d c ctx va l bs = s.seal d c ctx va l bs := by
  unfold State.seal State.core
  simp only [h.owners, h.tlb?, h.walk, h.die, h.free]
  rfl

theorem inst? (d i : Nat) : t.inst? d i = s.inst? d i := by
  unfold State.inst?
  rw [h.die]

theorem badN (d i : Nat) (l : Loc) (n : Nat) : t.badN d i l n = s.badN d i l n := by
  have hbad : ∀ k, t.bad d i k = s.bad d i k := by
    intro k
    cases k <;> simp only [State.bad, h.badAt, h.inst?]
  unfold State.badN
  simp only [hbad]

theorem readN (d i : Nat) (l : Loc) (n : Nat) : t.readN d i l n = s.readN d i l n := by
  have hread : ∀ k, t.read d i k = s.read d i k := by
    intro k
    cases k <;> simp only [State.read, h.dieByte, h.inst?]
  unfold State.readN
  simp only [hread]

end SameButChecks

/-- A transfer that has passed its path's check (R250). -/
theorem crossed_sameButChecks (s : State) (d core : Nat) (l : Loc) : ∃ checks, SameButChecks s (s.crossed d core l) checks := by
  cases l with
  | scratch c o =>
    refine ⟨fun e => if e = d then erase (s.die d).pathChecks (((s.die d).site? core).getD core * 128 + ((s.die d).site? c).getD c) else (s.die e).pathChecks,
      fun e => ?_, rfl, rfl, rfl, rfl, rfl, rfl⟩
    refine (die_onDie s d e _).trans ?_
    by_cases he : e = d
    · simp only [he, if_true]
    · simp only [he, if_false]
  | phys pa => exact ⟨fun e => (s.die e).pathChecks, fun _ => rfl, rfl, rfl, rfl, rfl, rfl, rfl⟩
  | acc o => exact ⟨fun e => (s.die e).pathChecks, fun _ => rfl, rfl, rfl, rfl, rfl, rfl, rfl⟩
  | fabric p b => exact ⟨fun e => (s.die e).pathChecks, fun _ => rfl, rfl, rfl, rfl, rfl, rfl, rfl⟩

/-! ## Loads (R55, R150, R152, R233) -/

theorem answer_gid (g : Gang) (q : Req) (get : DWord → Loc → Nat → List Byte) (bad : Loc → Nat → Bool) : (g.answer q get bad).gid = g.gid := by
  unfold Gang.answer
  split <;> rfl

/-- What a request brings does not depend on what its gang follows. -/
theorem answer_causal (g : Gang) (v : List Nat) (q : Req) (get : DWord → Loc → Nat → List Byte) (bad : Loc → Nat → Bool) :
    Gang.answer { g with causal := v } q get bad = { g.answer q get bad with causal := v } := by
  unfold Gang.answer
  rw [show Gang.acc? { g with causal := v } q.acc = g.acc? q.acc from rfl]
  cases (g.acc? q.acc).map (·.kind) with
  | none => rfl
  | some kind => cases kind <;> rfl

theorem gang?_answerAll {s : State} {n : Nat} {g : Gang} {q : Req} {get : Gang → Loc → Nat → List Byte} (hg : s.gang? n = some g)
    (hq : (g.reqs.find? fun r => r.id == q.id) = some q) :
    (s.answerAll q.id get).gang? n = some (g.answer q (fun va l m => s.seal g.die g.core g.ctx va.toNat l (get g l m)) (s.badN g.die g.inst)) := by
  have hF : ∀ k : Gang, (match k.reqs.find? fun (r : Req) => r.id == q.id with
      | some r => k.answer r (fun va l m => s.seal k.die k.core k.ctx va.toNat l (get k l m)) (s.badN k.die k.inst)
      | none => k).gid = k.gid := by
    intro k
    split
    · exact answer_gid _ _ _ _
    · rfl
  refine (gang?_mapGangs s hF n).trans ?_
  rw [hg, Option.map_some, hq]

theorem gang?_mergeAsked {s : State} {n : Nat} {g : Gang} {q : Req} (v : List Nat) (hg : s.gang? n = some g)
    (hq : (g.reqs.find? fun r => r.id == q.id) = some q) : (s.mergeAsked q.id v).gang? n = some { g with causal := mergeVec g.causal v } := by
  have hF : ∀ k : Gang, (if (k.reqs.any fun (r : Req) => r.id == q.id) = true then { k with causal := mergeVec k.causal v } else k).gid = k.gid := by
    intro k
    split <;> rfl
  refine (gang?_mapGangs s hF n).trans ?_
  rw [hg, Option.map_some, if_pos (List.any_eq_true.mpr ⟨q, List.mem_of_find?_eq_some hq, by simp⟩)]

theorem fillL1_mem (s : State) (d core : Nat) (l : Loc) : (s.fillL1 d core l).mem = s.mem := by
  unfold State.fillL1 State.fillL2
  cases l <;> repeat' split
  all_goals rfl

theorem fillL1_gangs (s : State) (d core : Nat) (l : Loc) : (s.fillL1 d core l).gangs = s.gangs := by
  unfold State.fillL1 State.fillL2
  cases l <;> repeat' split
  all_goals rfl

/-- The gang after the answer of a request that its state's memory gives (R55). -/
def Machine.State.answered (s : State) (g : Gang) (q : Req) (v : List Nat) : Gang :=
  { g.answer q (fun va l n => s.seal g.die g.core g.ctx va.toNat l (s.readN g.die g.inst l n)) (s.badN g.die g.inst) with causal := v }

theorem gang?_answered {s t : State} {checks : Nat → List (Nat × Nat)} {n : Nat} {g : Gang} {q : Req} {v : List Nat} (hsame : SameButChecks s t checks)
    (hg : t.gang? n = some { g with causal := v }) (hq : (g.reqs.find? fun r => r.id == q.id) = some q) :
    (t.answerAll q.id fun g l n => s.readN g.die g.inst l n).gang? n = some (s.answered g q v) := by
  have hbad : t.badN g.die g.inst = s.badN g.die g.inst := funext fun l => funext fun m => hsame.badN _ _ l m
  refine (gang?_answerAll (g := { g with causal := v }) hg hq).trans ?_
  rw [answer_causal]
  simp only [hsame.sealed, hbad]
  rfl

/-- An event answers a request of a gang; memory is as it was. -/
def Answers (s : State) (i : Instr) (g : Gang) (q : Req) (v : List Nat) : Prop :=
  ∃ t, exec i s = .next t ∧ t.mem = s.mem ∧ t.gang? g.gid = some (s.answered g q v)

section Loads
variable {s : State} {g : Gang} {q : Req} (hg : s.gang? g.gid = some g) (hq : (g.reqs.find? fun r => r.id == q.id) = some q) (hmay : s.mayLoad q = true)
include hg hq hmay

theorem resultArrival_phys {pa : Nat} (hline : q.line = .phys pa) (hread : s.readable g.die q.line = true) :
    Answers s (.resultArrival g.gid q.id []) g q (if isHost pa then mergeVec g.causal (s.hostVec pa) else g.causal) := by
  let u := if isHost pa then s.mergeAsked q.id (s.hostVec pa) else s
  let t := (u.answerAll q.id fun g l n => s.readN g.die g.inst l n).fillL1 g.die g.core (.phys pa)
  have hexec : exec (.resultArrival g.gid q.id []) s = .next (if (s.core g.die ((s.die g.die).l1Core g.core (pa / 64))).l1.contains (pa / 64) then t
      else t.countBeat g.die g.inst) := by
    show execResultArrival g.gid q.id [] s = _
    unfold execResultArrival
    rw [hg, Option.bind_some, hq, Option.map_some]
    dsimp only
    rw [hmay, if_neg (by decide)]
    simp only [hline] at hread ⊢
    rw [if_pos hread]
  have hmem : t.mem = s.mem := by
    refine (fillL1_mem _ _ _ _).trans ?_
    unfold u
    split <;> rfl
  have hgang : t.gang? g.gid = some (s.answered g q (if isHost pa then mergeVec g.causal (s.hostVec pa) else g.causal)) := by
    refine (congrArg (List.find? _) (fillL1_gangs _ _ _ _)).trans ?_
    have hsame : SameButChecks s u fun e => (s.die e).pathChecks := by
      unfold u
      split <;> exact ⟨fun _ => rfl, rfl, rfl, rfl, rfl, rfl, rfl⟩
    refine gang?_answered hsame ?_ hq
    unfold u
    split
    · exact gang?_mergeAsked _ hg hq
    · exact hg
  refine ⟨_, hexec, ?_, ?_⟩
  · split <;> exact hmem
  · split <;> exact hgang

theorem resultArrival_scratch {o : Nat} (hline : q.line = .scratch g.core o) (hpin : s.pinned g.die g.inst q.line = true)
    (hhalf : s.halfDone g.die g.core g.root (g.lanes.map (·.1)) = false) : Answers s (.resultArrival g.gid q.id []) g q g.causal := by
  refine ⟨s.answerAll q.id fun g l n => s.readN g.die g.inst l n, ?_, rfl,
    gang?_answered (checks := fun e => (s.die e).pathChecks) ⟨fun _ => rfl, rfl, rfl, rfl, rfl, rfl, rfl⟩ hg hq⟩
  show execResultArrival g.gid q.id [] s = _
  unfold execResultArrival
  rw [hg, Option.bind_some, hq, Option.map_some]
  dsimp only
  rw [hmay, if_neg (by decide)]
  simp only [hline] at hpin ⊢
  rw [if_pos (by simp [hpin, hhalf])]

theorem remoteScratchAccess_load {b o : Nat} (hline : q.line = .scratch b o) (hb : b ≠ g.core) (hpin : s.pinned g.die g.inst q.line = true)
    (hpath : (((s.die g.die).site? g.core).getD g.core, ((s.die g.die).site? b).getD b) ∉ (s.die g.die).deadPaths) :
    Answers s (.remoteScratchAccess (.load g.gid q.id)) g q g.causal := by
  obtain ⟨checks, hsame⟩ := crossed_sameButChecks s g.die g.core q.line
  have hdown : s.clusterDown g.die g.core b = false := by
    unfold State.clusterDown
    simpa using hpath
  have hcrossed : (s.crossed g.die g.core q.line).gangs = s.gangs ∧ (s.crossed g.die g.core q.line).mem = s.mem := by
    rw [hline]
    exact ⟨rfl, rfl⟩
  refine ⟨(s.crossed g.die g.core q.line).answerAll q.id fun g l n => s.readN g.die g.inst l n, ?_, hcrossed.2, ?_⟩
  · show execRemoteScratchAccess (.load g.gid q.id) s = _
    unfold execRemoteScratchAccess
    dsimp only
    rw [hg, Option.bind_some, hq, Option.map_some]
    simp only [hline] at hpin ⊢
    simp only [hmay, hb, hdown, hpin, decide_false, Bool.not_true, Bool.or_self, Bool.false_eq_true, if_false, if_true]
  · refine gang?_answered hsame ?_ hq
    refine Eq.trans ?_ hg
    exact congrArg (List.find? _) hcrossed.1

omit hmay in
theorem scratchRefill_runs (hcur : s.cur = none) {b o : Nat} {j : Inst} (hline : q.line = .scratch b o) (hj : s.inst? g.die g.inst = some j)
    (hpin : j.pinned.contains (coreOf g.die g.inst b * 128 + o / 4096) = false) : exec (.scratchRefill g.die b g.inst (o / 4096)) s =
      .next (s.onInst g.die g.inst fun i => { i with pinned := (coreOf g.die g.inst b * 128 + o / 4096) :: i.pinned }) := by
  have hwants : s.wantsPage g.die b g.inst (o / 4096) = true := by
    unfold State.wantsPage
    rw [Bool.or_eq_true]
    refine .inl (List.any_eq_true.mpr ⟨g, List.mem_of_find?_eq_some hg, ?_⟩)
    have hreq : (g.reqs.any fun q => match q.line with
        | .scratch c off => c == b && off / 4096 == o / 4096
        | _ => false) = true := List.any_eq_true.mpr ⟨q, List.mem_of_find?_eq_some hq, by simp [hline]⟩
    simp only [beq_self_eq_true, Bool.true_and]
    exact hreq
  have hunpinned : s.pinned g.die g.inst (.scratch b (o / 4096 * 4096)) = false := by
    unfold State.pinned
    dsimp only
    rw [hj, Nat.mul_div_cancel _ (by decide : 0 < 4096)]
    exact hpin
  show execScratchRefill g.die b g.inst (o / 4096) s = _
  unfold execScratchRefill
  rw [if_pos (by simp [hcur, hwants, hunpinned])]

end Loads

end Sys2Proof

/-!
# Flights that are replayed after a parity error (R131, R146)
-/

namespace Sys2Proof

open Machine

/-! ## What leaves gangs, memory and the effects on their way -/

/-- Memory and the effects on their way are as they were. -/
structure Still (s t : State) : Prop where
  mem : t.mem = s.mem
  drain : t.drain = s.drain

/-- So are the gangs. -/
structure Quiet (s t : State) : Prop extends Still s t where
  gangs : t.gangs = s.gangs

namespace Still
theorem refl {s : State} : Still s s := ⟨rfl, rfl⟩
theorem trans {s t u : State} (h : Still s t) (h' : Still t u) : Still s u := ⟨h'.mem.trans h.mem, h'.drain.trans h.drain⟩
theorem onGang {s : State} {n : Nat} {f : Gang → Gang} : Still s (s.onGang n f) := ⟨rfl, rfl⟩
theorem putGang {s : State} {g : Gang} : Still s (s.putGang g) := ⟨rfl, rfl⟩
end Still

namespace Quiet

variable {s t u : State}

theorem refl : Quiet s s := ⟨.refl, rfl⟩
theorem trans (h : Quiet s t) (h' : Quiet t u) : Quiet s u := ⟨h.toStill.trans h'.toStill, h'.gangs.trans h.gangs⟩
theorem gang? (h : Quiet s t) (n : Nat) : t.gang? n = s.gang? n := congrArg (List.find? _) h.gangs
theorem onDie {d : Nat} {f : Die → Die} : Quiet s (s.onDie d f) := ⟨⟨rfl, rfl⟩, rfl⟩
theorem onCore {d c : Nat} {f : Core → Core} : Quiet s (s.onCore d c f) := ⟨⟨rfl, rfl⟩, rfl⟩
theorem countCore {d c kind : Nat} : Quiet s (s.countCore d c kind) := ⟨⟨rfl, rfl⟩, rfl⟩
theorem undoGraph {g : Gang} : Quiet s (s.undoGraph g) := ⟨⟨rfl, rfl⟩, rfl⟩
theorem sweep {d c : Nat} : Quiet s (s.sweep d c) := ⟨⟨rfl, rfl⟩, rfl⟩
theorem request {d kind ctx : Nat} {addr info : DWord} {cl : Option Client} : Quiet s (s.request d kind ctx addr info cl).2 := ⟨⟨rfl, rfl⟩, rfl⟩

theorem freeSlots {g : Gang} : Quiet s (s.freeSlots g) :=
  foldl_keeps (fun _ _ h => h.trans .onDie) _ (foldl_keeps (fun _ _ h => h.trans .onDie) _ .refl)

theorem noteSample {g : Gang} {lost : Bool} : Quiet s (s.noteSample g lost) := by
  unfold State.noteSample
  split
  · exact .refl
  · exact .onDie

theorem countPort {d core port : Nat} : Quiet s (s.countPort d core port) := by
  unfold State.countPort
  dsimp only
  split
  · exact Quiet.trans (Quiet.trans .onDie .onDie) .request
  · exact .onDie

end Quiet

/-! ## A flight that is discarded, and replayed after a parity error (R131, R146) -/

/-- A gang whose flight is discarded: its registers come back from its anchor, and it goes on where that lies. -/
def Machine.State.discarded (s : State) (g : Gang) : Gang :=
  let h := { g.clearFlight with arch := g.anchor, phase := .run, stall := false, paused := none, wants := [], waitsFor := [], fenced := false, spent := 0,
                                spent2 := 0, spent3 := 0, ackScope := 0 }
  let waits := { h with phase := .parked, wakeKind := 9, wakeOp := 0#64, wakeOp2 := 0#64, woken := true, slack := s.slackOf g }
  match g.anchorAt, g.place with
  | some a, _ => { waits with place := .spill a, anchorAt := none, written := g.anchorWritten, granted := 0, pair := none }
  | none, .port _ => h
  | none, .spill _ => if g.phase == .ending || g.paused.isSome then { waits with place := .landing } else waits
  | none, .landing => waits

theorem discard_eq {s : State} {n : Nat} {g : Gang} (hg : s.gang? n = some g) :
    s.discard n = (((s.freeSlots g).undoGraph g).noteSample g true).onGang n s.discarded := by
  unfold State.discard
  rw [hg]
  rfl

/-- What a gang has kept of its flight once that is discarded. -/
structure Discarded (g k : Gang) : Prop where
  gid : k.gid = g.gid
  arch : k.arch = g.anchor
  held : k.held = []
  nexts : k.nexts = []
  pend : k.pend = []
  parity : k.parity = g.parity

theorem discarded_discarded (s : State) (g : Gang) : Discarded g (s.discarded g) := by
  unfold State.discarded
  dsimp only
  split
  · exact ⟨rfl, rfl, rfl, rfl, rfl, rfl⟩
  · exact ⟨rfl, rfl, rfl, rfl, rfl, rfl⟩
  · split <;> exact ⟨rfl, rfl, rfl, rfl, rfl, rfl⟩
  · exact ⟨rfl, rfl, rfl, rfl, rfl, rfl⟩

/-- A resident gang's flight goes on from its anchor on its port, or waits for it where that is spilled. -/
theorem discarded_resident (s : State) {g : Gang} {port : Nat} (hplace : g.place = .port port) :
    (g.anchorAt = none → (s.discarded g).phase = .run ∧ (s.discarded g).place = g.place) ∧
      ∀ a, g.anchorAt = some a → (s.discarded g).phase = .parked ∧ (s.discarded g).place = .spill a := by
  refine ⟨fun hat => ?_, fun a hat => ?_⟩
  · unfold State.discarded
    rw [hat, hplace]
    exact ⟨rfl, hplace⟩
  · unfold State.discarded
    rw [hat]
    exact ⟨rfl, rfl⟩

theorem discard_still {s : State} {n : Nat} {g : Gang} (hg : s.gang? n = some g) : Still s (s.discard n) ∧ (s.discard n).gang? n = some (s.discarded g) := by
  have hquiet : Quiet s (((s.freeSlots g).undoGraph g).noteSample g true) := (Quiet.freeSlots.trans .undoGraph).trans .noteSample
  rw [discard_eq hg]
  exact ⟨hquiet.toStill.trans .onGang, gang?_onGang ((hquiet.gang? n).trans hg) fun g => (discarded_discarded s g).gid⟩

theorem parity_runs {s : State} {g : Gang} {port : Nat} (hcur : s.cur = none) (hg : s.gang? g.gid = some g) (hcommit : s.mayCommit g = true)
    (hplace : g.place = .port port) (hcount : g.parity.count port < 2) (hhandler : g.ctx = firmware → g.handler = false) :
    ∃ t k, exec (.flightCommit g.gid .parity) s = .next t ∧ t.gang? g.gid = some k ∧
        k.arch = g.anchor ∧ k.held = [] ∧ k.nexts = [] ∧ k.pend = [] ∧ k.parity = port :: g.parity ∧ t.mem = s.mem ∧ t.drain = s.drain ∧
        (g.anchorAt = none → k.phase = .run ∧ k.place = g.place) ∧ ∀ a, g.anchorAt = some a → k.phase = .parked ∧ k.place = .spill a := by
  have hports : g.runPorts.headD 0 = port := by
    unfold Gang.runPorts
    rw [hplace]
    rfl
  have hgang : (s.countCore g.die g.core 0x100).gang? g.gid = some g := (Quiet.countCore.gang? _).trans hg
  obtain ⟨hstill, hdiscard⟩ := discard_still hgang
  generalize ht : ((s.countCore g.die g.core 0x100).discard g.gid).onGang g.gid (fun h => { h with parity := port :: h.parity }) = t
  have hexec : exec (.flightCommit g.gid .parity) s = .next t := by
    show execFlightCommit g.gid .parity s = _
    unfold execFlightCommit
    rw [hg]
    dsimp only
    rw [if_pos (by simp [hcur, hcommit])]
    unfold State.flightEnd State.parityReplay
    dsimp only
    rw [if_neg (by simpa using hhandler), hports, if_neg (by omega), ht]
  have hk := discarded_discarded (s.countCore g.die g.core 0x100) g
  have hres := discarded_resident (s.countCore g.die g.core 0x100) hplace
  refine ⟨t, { (s.countCore g.die g.core 0x100).discarded g with parity := port :: ((s.countCore g.die g.core 0x100).discarded g).parity }, hexec, ?_, hk.arch, hk.held,
    hk.nexts, hk.pend, congrArg _ hk.parity, ?_, ?_, hres.1, hres.2⟩
  · rw [← ht]
    exact gang?_onGang hdiscard fun _ => rfl
  · rw [← ht]
    exact hstill.mem
  · rw [← ht]
    exact hstill.drain

end Sys2Proof

/-!
# The effects that a commit sends, by cases (R169, R170, R194)
-/

namespace Sys2Proof

open Machine

/-! ## The effects of a commit, one after another (R169, R170, R194) -/

/-- One more effect on its way, under the next number. -/
def addOut (g : Gang) (late : List Nat) (acc : List Out × State) (effs after parts mates made : List Nat) (clears loose : Bool) (c : Cargo) : List Out × State :=
  (acc.1 ++ [⟨acc.2.nextId, effs, (late ++ after).eraseDups, g.who, false, clears, g.causal, c, parts, loose, mates, made⟩], acc.2.fresh.2)

/-- The core's own batches. -/
def outBatch (s : State) (g : Gang) (late : List Nat) (items : List Item) (acc : (List Out × State) × List Nat) (b : List Item) :
    (List Out × State) × List Nat :=
  let away := items.filter fun t => t.eff.isSome || t.acts.any fun a => !a.isLocal g.core
  let seqs := b.map (·.seq)
  let loads := b.flatMap fun t => g.loadsBefore t.seq (tsoActs t.acts) t.acts t.actors
  let past := ((b.getLast?).map fun t => before away t false).getD []
  let acts := b.flatMap (·.acts)
  (addOut g late acc.1 seqs (past.filter (fun n => !seqs.contains n) ++ acc.2 ++ loads ++ s.localBefore g acts) acc.2 [] (b.flatMap (·.actors)).eraseDups
    false false (.acts acts), acc.2 ++ seqs)

/-- The acts of one row that leave together, under the row's number `n`. -/
def outGroup (g : Gang) (late : List Nat) (items : List Item) (t : Item) (n : Nat) (earlier : List (Nat × List Act)) (acc : List Out × State) (as : List Act) :
    List Out × State :=
  let line := ((as.head?).map fun a => a.loc.line).getD (.acc 0)
  let whole := coversLine items line && lastOn items line = t.seq
  let same := (items.filter fun u => decide (u.seq < t.seq) && u.acts.any fun a => as.any (·.overlaps a)).map (·.seq)
  let rows := (earlier.filter fun e => e.2.any fun a => as.any (·.overlaps a)).map (·.1)
  let all := if whole then (items.filter fun u => decide (u.seq < t.seq) && u.acts.any fun a => a.loc.overlaps a.len line 64).map (·.seq) else []
  let first := before items t (as.any fun a => match a.loc with
    | .fabric _ _ => true
    | _ => false)
  addOut g late acc (if t.rows.length ≤ 1 then [t.seq] else [t.seq, n]) (first ++ same ++ all ++ rows ++ g.loadsBefore t.seq (tsoActs as) as t.actors) []
    ((same ++ all ++ rows).filter (!first.contains ·)) t.actors whole false (.acts as)

/-- One row of an effect on memory. -/
def outRow (g : Gang) (late : List Nat) (items : List Item) (t : Item) (acc : (List Out × State) × List (Nat × List Act)) (row : List Act) :
    (List Out × State) × List (Nat × List Act) :=
  let far := row.filter fun a => !a.isLocal g.core
  let (n, u) := if t.rows.length ≤ 1 then (t.seq, acc.1.2) else acc.1.2.fresh
  ((groupActs far).foldl (outGroup g late items t n acc.2) (acc.1.1, u), if t.rows.length ≤ 1 then acc.2 else acc.2 ++ [(n, far)])

/-- An effect that is no act on memory. -/
def outEff (g : Gang) (late corePast : List Nat) (items : List Item) (acc : (List Out × State) × List Nat × List Nat) (t : Item) :
    (List Out × State) × List Nat × List Nat :=
  match t.eff with
  | none => acc
  | some e =>
    let groups := if e.onGroups then acc.2.2 else []
    let engine := match e with
      | .cpy _ _ _ _ _ | .macc _ _ _ _ _ | .qfence _ => (items.filter fun u => decide (u.seq < t.seq)).map (·.seq) ++ corePast
      | _ => []
    (addOut g late acc.1 [t.seq] (before items t false ++ acc.2.1 ++ engine) groups [] [] false (e.onGroups && items.any fun u => !u.acts.isEmpty) (.eff e),
      acc.2.1 ++ [t.seq], if e.onGroups then acc.2.2 ++ [t.seq] else acc.2.2)

theorem outsOf_eq (s : State) (g : Gang) : s.outsOf g =
    let items := s.itemsOf g
    let late := s.behind g
    let corePast := (s.drain.filter fun o => o.who.die == g.die && o.who.core == g.core && o.who.flight != 0).flatMap (·.effs)
    let local_ := (batches g.core items).foldl (outBatch s g late items) (([], s), [])
    let mem := items.foldl (fun acc t => (t.rows.foldl (outRow g late items t) (acc, [])).1) local_.1
    (items.foldl (outEff g late corePast items) (mem, [], [])).1 := rfl

end Sys2Proof

/-!
# Effects that leave one by one, and rows of a store (R127, R194)
-/

namespace Sys2Proof

open Machine

/-! ## The items of a commit that is handed over whole -/

/-- One held effect more: the epochs after it, and its item where it leaves. -/
def itemStep (s : State) (g : Gang) (acc : (Nat × Nat) × List Item) (h : Held) : (Nat × Nat) × List Item :=
  let rows := s.actsOf g h.eff
  let tso := g.tsoEff h.eff rows.flatten
  let (b, a) := h.eff.bumps tso g.die
  let far := tso || h.eff.ordersFabric
  let ep := acc.1.1 + b
  let epF := acc.1.2 + if far then b else 0
  let item : List Item := match h.eff with
    | .store _ _ | .atomic _ _ _ _ _ _ | .mst _ _ _ _ _ _ _ _ _ => [⟨h.seq, ep, epF, rows, none, g.effActors h.eff⟩]
    | .fence _ => []
    | .retire lanes => [⟨h.seq, ep, epF, [], some (.ended (g.tasksIn lanes)), []⟩]
    | e => if e.atCommit then [] else [⟨h.seq, ep, epF, [], some e, []⟩]
  ((ep + a, epF + if far then a else 0), acc.2 ++ item)

theorem itemsOf_eq (s : State) (g : Gang) : s.itemsOf g = (g.held.foldl (itemStep s g) ((0, 0), [])).2 := rfl

/-- An item carries a held effect that is no act on memory. -/
structure Carries (t : Item) (h : Held) : Prop where
  seq : t.seq = h.seq
  rows : t.rows = []
  eff : t.eff = some h.eff

theorem itemStep_handed (s : State) (g : Gang) (acc : (Nat × Nat) × List Item) {h : Held} (hh : Handed h.eff) :
    ∃ x t, itemStep s g acc h = (x, acc.2 ++ [t]) ∧ Carries t h := by
  obtain ⟨seq, pc, idx, entries, eff⟩ := h
  cases eff with
  | enq _ _ | launch _ _ _ | cpy _ _ _ _ _ | depsig _ | deparm _ _ _ => exact ⟨_, _, rfl, rfl, rfl, rfl⟩
  | _ => exact hh.elim

theorem itemsOf_handed {s : State} {g : Gang} (hh : ∀ h ∈ g.held, Handed h.eff) : List.Forall₂ Carries (s.itemsOf g) g.held := by
  have hgen : ∀ (hs : List Held) (acc : (Nat × Nat) × List Item), (∀ h ∈ hs, Handed h.eff) →
      ∃ x ts, hs.foldl (itemStep s g) acc = (x, acc.2 ++ ts) ∧ List.Forall₂ Carries ts hs := by
    intro hs
    induction hs with
    | nil => exact fun acc _ => ⟨acc.1, [], by simp, .nil⟩
    | cons h hs ih =>
      intro acc hall
      obtain ⟨x, t, hstep, ht⟩ := itemStep_handed s g acc (hall h (.head _))
      obtain ⟨y, ts, hrest, hts⟩ := ih (x, acc.2 ++ [t]) fun k hk => hall k (.tail _ hk)
      exact ⟨y, t :: ts, by rw [List.foldl_cons, hstep, hrest, List.append_assoc]; rfl, .cons ht hts⟩
  obtain ⟨x, ts, hfold, hts⟩ := hgen g.held ((0, 0), []) hh
  rw [itemsOf_eq, hfold]
  exact hts

/-! ## What they leave the core as -/

/-- An element of the first of two lists that a relation joins has its partner in the second. -/
theorem exists_of_forall₂_mem {α β : Type} {R : α → β → Prop} {xs : List α} {ys : List β} (h : List.Forall₂ R xs ys) {x : α} (hx : x ∈ xs) : ∃ y ∈ ys, R x y := by
  induction h with
  | nil => cases hx
  | cons hr _ ih =>
    cases hx with
    | head => exact ⟨_, .head _, hr⟩
    | tail _ hx =>
      obtain ⟨y, hy, hxy⟩ := ih hx
      exact ⟨y, .tail _ hy, hxy⟩

/-- Two lists that a relation joins have one image where it says so of each pair. -/
theorem map_eq_map_of_forall₂ {α β γ : Type} {R : α → β → Prop} {xs : List α} {ys : List β} {f : α → γ} {g : β → γ} (h : List.Forall₂ R xs ys)
    (hfg : ∀ x y, R x y → f x = g y) : xs.map f = ys.map g := by
  induction h with
  | nil => rfl
  | cons hr _ ih => rw [List.map_cons, List.map_cons, hfg _ _ hr, ih]

/-- A state under which the next numbers are given out. -/
def Machine.State.numbered (s : State) (n : Nat) : State := { s with nextId := n }

/-- An item with no acts of the core's own leaves no batch. -/
theorem batches_nil {core : Nat} {items : List Item} (h : ∀ t ∈ items, ∀ row ∈ t.rows, ∀ a ∈ row, Act.isLocal core a = false) : batches core items = [] := by
  have hhere : (items.map fun t => { t with rows := t.rows.map fun (as : List Act) => as.filter fun a => a.isLocal core }).filter (fun t => !t.acts.isEmpty) = [] := by
    rw [List.filter_eq_nil_iff]
    intro t ht
    obtain ⟨u, hu, rfl⟩ := List.mem_map.mp ht
    have hempty : Item.acts { u with rows := u.rows.map fun (as : List Act) => as.filter fun a => a.isLocal core } = [] := by
      refine List.flatten_eq_nil_iff.mpr fun row hrow => ?_
      obtain ⟨as, has, rfl⟩ := List.mem_map.mp hrow
      exact List.filter_eq_nil_iff.mpr fun a ha => by simp [h u hu as has a ha]
    rw [hempty]
    decide
  unfold batches
  dsimp only
  rw [hhere]
  rfl

/-- What has left as one held effect that is no act on memory: after what is late, and what left before it. -/
structure Leaves (g : Gang) (late : List Nat) (o : Out) (h : Held) : Prop where
  effs : o.effs = [h.seq]
  cargo : o.cargo = .eff h.eff
  who : o.who = g.who
  sent : o.sent = false
  late : ∀ n ∈ late, n ∈ o.after

theorem mem_addOut_after {late after : List Nat} {n : Nat} : n ∈ (late ++ after).eraseDups ↔ n ∈ late ∨ n ∈ after := by
  rw [List.mem_eraseDups, List.mem_append]

theorem handed_onGroups {e : Eff} (h : Handed e) : e.onGroups = false := by
  cases e with
  | enq _ _ | launch _ _ _ | cpy _ _ _ _ _ | depsig _ | deparm _ _ _ => rfl
  | _ => exact h.elim

theorem handed_atCommit {e : Eff} (h : Handed e) : e.atCommit = false := by
  cases e with
  | enq _ _ | launch _ _ _ | cpy _ _ _ _ _ | depsig _ | deparm _ _ _ => rfl
  | _ => exact h.elim

/-- One item more has left. -/
theorem outEff_handed (g : Gang) (late corePast : List Nat) (items : List Item) (acc : (List Out × State) × List Nat × List Nat) {t : Item} {h : Held}
    (ht : Carries t h) (hh : Handed h.eff) : ∃ o, outEff g late corePast items acc t =
      ((acc.1.1 ++ [o], acc.1.2.numbered (acc.1.2.nextId + 1)), acc.2.1 ++ [h.seq], acc.2.2) ∧ Leaves g late o h ∧ ∀ n ∈ acc.2.1, n ∈ o.after := by
  unfold outEff
  rw [ht.eff]
  dsimp only
  rw [handed_onGroups hh, ht.seq]
  refine ⟨_, rfl, ⟨rfl, rfl, rfl, rfl, fun n hn => mem_addOut_after.mpr (.inl hn)⟩, fun n hn => mem_addOut_after.mpr (.inr ?_)⟩
  simp [hn]

theorem outEffs_handed (g : Gang) (late corePast : List Nat) (items : List Item) {ts : List Item} {hs : List Held} (hts : List.Forall₂ Carries ts hs)
    (hall : ∀ h ∈ hs, Handed h.eff) (os : List Out) (u : State) (past groups : List Nat) : ∃ new n rest, ts.foldl (outEff g late corePast items) ((os, u), past, groups) =
      ((os ++ new, u.numbered n), rest) ∧ List.Forall₂ (Leaves g late) new hs ∧ (∀ o ∈ new, ∀ n ∈ past, n ∈ o.after) ∧
      new.Pairwise fun a b => ∀ n ∈ a.effs, n ∈ b.after := by
  induction hts generalizing os u past with
  | nil => exact ⟨[], u.nextId, _, by rw [List.append_nil]; rfl, .nil, fun o ho => (List.not_mem_nil ho).elim, .nil⟩
  | @cons t h ts hs ht _ ih =>
    obtain ⟨o, hstep, hleaves, hpast⟩ := outEff_handed g late corePast items ((os, u), past, groups) ht (hall h (.head _))
    obtain ⟨new, n, rest, hfold, hnew, hafter, hpair⟩ := ih (fun k hk => hall k (.tail _ hk)) (os ++ [o]) (u.numbered (u.nextId + 1)) (past ++ [h.seq])
    refine ⟨o :: new, n, rest, ?_, .cons hleaves hnew, ?_, List.pairwise_cons.mpr ⟨fun b hb m hm => ?_, hpair⟩⟩
    · rw [List.foldl_cons, hstep]
      refine hfold.trans ?_
      rw [List.append_assoc]
      rfl
    · rintro p (_ | ⟨_, hp⟩) m hm
      · exact hpast m hm
      · exact hafter p hp m (List.mem_append_left _ hm)
    · rw [hleaves.effs] at hm
      exact hafter b hb m (List.mem_append_right _ hm)

/-- Items that touch no memory of the core's own: the other homes' acts leave, then the effects that are no acts. -/
theorem outsOf_far {s : State} {g : Gang} (h : ∀ t ∈ s.itemsOf g, ∀ row ∈ t.rows, ∀ a ∈ row, Act.isLocal g.core a = false) : s.outsOf g =
    ((s.itemsOf g).foldl (outEff g (s.behind g) ((s.drain.filter fun o => o.who.die == g.die && o.who.core == g.core && o.who.flight != 0).flatMap (·.effs)) (s.itemsOf g))
      ((s.itemsOf g).foldl (fun acc t => (t.rows.foldl (outRow g (s.behind g) (s.itemsOf g) t) (acc, [])).1) ([], s), [], [])).1 := by
  rw [outsOf_eq]
  dsimp only
  rw [batches_nil h]
  rfl

/-- What a list of effects leaves as. -/
theorem outsOf_handed {s : State} {g : Gang} (hh : ∀ h ∈ g.held, Handed h.eff) : ∃ os n, s.outsOf g = (os, s.numbered n) ∧
    List.Forall₂ (Leaves g (s.behind g)) os g.held ∧ os.Pairwise fun a b => ∀ n ∈ a.effs, n ∈ b.after := by
  have hitems := itemsOf_handed (s := s) hh
  have hrows : ∀ t ∈ s.itemsOf g, t.rows = [] := fun t ht => by
    obtain ⟨h, -, hc⟩ := exists_of_forall₂_mem hitems ht
    exact hc.rows
  have hmem : ∀ (ts : List Item) (acc : List Out × State), (∀ t ∈ ts, t.rows = []) →
      ts.foldl (fun acc t => (t.rows.foldl (outRow g (s.behind g) (s.itemsOf g) t) (acc, [])).1) acc = acc := by
    intro ts acc hall
    induction ts with
    | nil => rfl
    | cons t ts ih =>
      rw [List.foldl_cons, hall t (.head _)]
      exact ih fun u hu => hall u (.tail _ hu)
  obtain ⟨new, n, rest, hfold, hnew, -, hpair⟩ := outEffs_handed g (s.behind g)
    ((s.drain.filter fun o => o.who.die == g.die && o.who.core == g.core && o.who.flight != 0).flatMap (·.effs)) (s.itemsOf g) hitems hh [] s [] []
  refine ⟨new, n, ?_, hnew, hpair⟩
  rw [outsOf_far fun t ht row hrow => by rw [hrows t ht] at hrow; exact (List.not_mem_nil hrow).elim, hmem _ _ hrows, hfold]
  rfl

/-! ## The rows of one store (R194) -/

/-- A write of one line of the package's memory. -/
structure InLine (w : Write) (pa : Nat) : Prop where
  loc : w.loc = .phys pa
  len : pa % 64 + w.bytes.length ≤ 64

theorem InLine.groupActs {w : Write} {pa : Nat} (h : InLine w pa) : groupActs [.write w] = [[.write w]] := by
  have hcut : cutWrite (w.bytes.length / 64 + 1) w = [w] := by
    unfold cutWrite
    rw [h.loc]
    exact if_pos h.len
  unfold Machine.groupActs
  simp only [List.flatMap_cons, List.flatMap_nil, hcut, List.map_cons, List.map_nil, List.append_nil, List.foldl_cons, List.foldl_nil, Act.loc, h.loc]
  rfl

theorem InLine.isLocal {w : Write} {pa : Nat} (h : InLine w pa) (core : Nat) : Act.isLocal core (.write w) = false := by
  unfold Act.isLocal Act.loc
  dsimp only
  rw [h.loc]

/-- What has left as one row of a store. -/
structure Row (g : Gang) (late : List Nat) (t : Item) (o : Out) (w : Write) : Prop where
  cargo : o.cargo = .acts [.write w]
  who : o.who = g.who
  sent : o.sent = false
  late : ∀ n ∈ late, n ∈ o.after
  effs : t.rows.length ≤ 1 → o.effs = [t.seq]

theorem outRow_write (g : Gang) (late : List Nat) (items : List Item) (t : Item) (acc : (List Out × State) × List (Nat × List Act)) {w : Write} {pa : Nat}
    (hw : InLine w pa) : ∃ o n rest, outRow g late items t acc [.write w] = ((acc.1.1 ++ [o], acc.1.2.numbered n), rest) ∧ Row g late t o w := by
  have hfar : [Act.write w].filter (fun a => !a.isLocal g.core) = [.write w] := by
    rw [List.filter_cons, hw.isLocal]
    rfl
  unfold outRow
  rw [hfar]
  dsimp only
  rw [hw.groupActs]
  by_cases hone : t.rows.length ≤ 1
  · rw [if_pos hone, if_pos hone]
    refine ⟨_, _, _, rfl, rfl, rfl, rfl, fun n hn => mem_addOut_after.mpr (.inl hn), fun _ => ?_⟩
    exact if_pos hone
  · rw [if_neg hone, if_neg hone]
    exact ⟨_, _, _, rfl, rfl, rfl, rfl, fun n hn => mem_addOut_after.mpr (.inl hn), fun h => absurd h hone⟩

theorem outRows_writes (g : Gang) (late : List Nat) (items : List Item) (t : Item) {ws : List Write} (hws : ∀ w ∈ ws, ∃ pa, InLine w pa)
    (acc : (List Out × State) × List (Nat × List Act)) : ∃ new n rest, (ws.map fun w => [Act.write w]).foldl (outRow g late items t) acc =
      ((acc.1.1 ++ new, acc.1.2.numbered n), rest) ∧ List.Forall₂ (Row g late t) new ws := by
  induction ws generalizing acc with
  | nil => exact ⟨[], acc.1.2.nextId, acc.2, by rw [List.append_nil]; rfl, .nil⟩
  | cons w ws ih =>
    obtain ⟨pa, hw⟩ := hws w (.head _)
    obtain ⟨o, n, rest, hstep, ho⟩ := outRow_write g late items t acc hw
    obtain ⟨new, m, rest', hfold, hnew⟩ := ih (fun k hk => hws k (.tail _ hk)) ((acc.1.1 ++ [o], acc.1.2.numbered n), rest)
    refine ⟨o :: new, m, rest', ?_, .cons ho hnew⟩
    rw [List.map_cons, List.foldl_cons, hstep, hfold, List.append_assoc]
    rfl

/-- A commit whose one item is a store of rows that lie in a line each. -/
theorem outsOf_rows {s : State} {g : Gang} {t : Item} {ws : List Write} (hitems : s.itemsOf g = [t]) (hrows : t.rows = ws.map fun w => [.write w])
    (heff : t.eff = none) (hws : ∀ w ∈ ws, ∃ pa, InLine w pa) : ∃ os n, s.outsOf g = (os, s.numbered n) ∧ List.Forall₂ (Row g (s.behind g) t) os ws := by
  obtain ⟨new, n, rest, hfold, hnew⟩ := outRows_writes g (s.behind g) (s.itemsOf g) t hws (([], s), [])
  refine ⟨new, n, ?_, hnew⟩
  rw [outsOf_far]
  · rw [hitems] at hfold ⊢
    dsimp only [List.foldl_cons, List.foldl_nil]
    rw [hrows, hfold]
    unfold outEff
    rw [heff]
    rfl
  · intro u hu row hrow a ha
    rw [hitems, List.mem_singleton] at hu
    rw [hu, hrows] at hrow
    obtain ⟨w, hw, rfl⟩ := List.mem_map.mp hrow
    obtain ⟨pa, hline⟩ := hws w hw
    rw [List.mem_singleton.mp ha]
    exact hline.isLocal _

end Sys2Proof

/-!
# What a commit's stores write, and what waits at its release (R149, R169, R308)
-/

namespace Sys2Proof

open Machine

/-! ## The acts of a store and of a graph store (R149, R194) -/

/-- Effects that write memory. -/
def Stores : Eff → Prop
  | .store _ _ | .mst _ _ _ _ _ _ _ _ _ => True
  | _ => False

/-- A commit with one store has one item, with its acts. -/
theorem itemsOf_store {s : State} {g : Gang} {h : Held} (hheld : g.held = [h]) (hs : Stores h.eff) :
    ∃ t, s.itemsOf g = [t] ∧ t.rows = s.actsOf g h.eff ∧ t.eff = none ∧ t.seq = h.seq := by
  rw [itemsOf_eq, hheld]
  obtain ⟨seq, pc, idx, entries, eff⟩ := h
  cases eff with
  | store _ _ | mst _ _ _ _ _ _ _ _ _ => exact ⟨_, rfl, rfl, rfl, rfl⟩
  | _ => exact hs.elim

theorem actsOf_store {s : State} {g : Gang} {a : Access} {p : APart} {l : Loc} (bs : List Byte) (hacc : g.acc? a.id = some a) (hparts : a.parts = [p])
    (hloc : p.loc = some l) : s.actsOf g (.store a.id [bs]) = [[.write ⟨l, p.va, bs, p.tso⟩]] := by
  unfold State.actsOf
  dsimp only
  rw [hacc]
  dsimp only
  rw [hparts]
  dsimp only [List.zip_cons_cons, List.zip_nil_right]
  rw [List.filterMap_cons, hloc]
  rfl

/-- A row of a graph store as one write. -/
def rowWrite (e : TDesc) (row col n : Nat) (sat tso : Bool) (x : Nat → Nat → Sys2Proof.Num) (pa : Nat → Nat) (i : Nat) : Write :=
  ⟨.phys (pa i), e.addr (row + i) col, (List.range n).flatMap fun j => bytesN (elemBits e.fmt / 8) (storeBits e.fmt sat (x i j)), tso⟩

theorem bytesN_length (n x : Nat) : (bytesN n x).length = n := by
  simp [bytesN, bytesOf]

theorem rowWrite_length (e : TDesc) (row col n : Nat) (sat tso : Bool) (x : Nat → Nat → Sys2Proof.Num) (pa : Nat → Nat) (i : Nat) :
    (rowWrite e row col n sat tso x pa i).bytes.length = n * (elemBits e.fmt / 8) := by
  simp [rowWrite, List.length_flatMap, bytesN_length]

/-- Every format but INT4 has whole bytes. -/
theorem elemBits_pos {f : Nat} (h : f ≠ fINT4) : 0 < elemBits f / 8 := by
  unfold elemBits
  split
  case h_8 => exact absurd rfl h
  all_goals decide

/-- An address that the TLBs have is found without a walk. -/
theorem findNow_of_find {s : State} {d c inst ctx kind : Nat} {a : DWord} {l : Loc} {tso : Bool} (h : s.find d c inst ctx a kind = .at_ l tso) :
    (s.findNow d c inst ctx a kind).1 = .at_ l tso := by
  unfold State.find at h
  unfold State.findNow
  cases hregion : regionOf a with
  | global =>
    rw [hregion] at h
    dsimp only at h ⊢
    unfold State.translate
    cases htlb : s.tlb? d c ctx a.toNat with
    | none => rw [htlb] at h; cases h
    | some leaf => rw [htlb] at h; exact h
  | local_ off => rw [hregion] at h; exact h
  | cluster pos off => rw [hregion] at h; exact h
  | accum off => rw [hregion] at h; exact h
  | none_ => rw [hregion] at h; exact h
  | badCluster => rw [hregion] at h; exact h

/-- Bytes within a page, all of them stored whole, are one write. -/
theorem placeBytes_write {s : State} {g : Gang} {a : DWord} {l : Loc} {tso : Bool} {bs : List Byte} (n : Nat) (hloc : s.mstLoc g a = some (l, tso)) (hbs : bs ≠ [])
    (hpage : a.toNat % 4096 + bs.length ≤ 4096) : s.placeBytes g (n + 2) a (bs.map fun b => (b, 0xFF#8)) = [.write ⟨l, a, bs, tso⟩] := by
  have hlen : min (bs.map fun b => (b, 0xFF#8)).length (4096 - a.toNat % 4096) = (bs.map fun b => (b, 0xFF#8)).length := by
    rw [List.length_map]
    omega
  have hempty : (bs.map fun b => (b, 0xFF#8)).isEmpty = false := by
    simpa using hbs
  have hall : ((bs.map fun b => (b, 0xFF#8)).all fun b => b.2 == 0xFF#8) = true := by
    simp
  rw [State.placeBytes, hempty]
  dsimp only
  rw [hlen, List.take_length, List.drop_length, hloc, hall]
  dsimp only
  rw [State.placeBytes]
  simp [Function.comp_def]

section GraphStore
variable {s : State} {g : Gang} {e : TDesc} {row col m n : Nat} {sat : Bool} {vals : List (Nat × List Sys2Proof.Num)} {tso : Bool} {x : Nat → Nat → Sys2Proof.Num}
  {pa : Nat → Nat} (hmajor : e.colMajor = false) (hfmt : e.fmt ≠ fINT4) (hn : 0 < n) (hvals : ∀ i < m, ∀ j < n, stripAt vals i j = some (x i j))
  (hplace : ∀ i < m, s.mstLoc g (e.addr (row + i) col) = some (.phys (pa i), tso) ∧ (e.addr (row + i) col).toNat % 4096 + n * (elemBits e.fmt / 8) ≤ 4096)
include hmajor hfmt hn hvals hplace

theorem mstActs_rows : s.mstActs g e row col sat m n vals = (List.range m).map fun i => [.write (rowWrite e row col n sat tso x pa i)] := by
  unfold State.mstActs
  refine List.map_congr_left fun i hi => ?_
  rw [List.mem_range] at hi
  obtain ⟨hloc, hpage⟩ := hplace i hi
  have hxs : ((List.range n).map fun j => (stripAt vals i j).getD .nan) = (List.range n).map (x i) :=
    List.map_congr_left fun j hj => by rw [hvals i hi j (List.mem_range.mp hj), Option.getD_some]
  have hbytes : mstBytes e sat col ((List.range n).map (x i)) = ((rowWrite e row col n sat tso x pa i).bytes).map fun b => (b, 0xFF#8) := by
    unfold mstBytes rowWrite
    rw [if_neg hfmt, List.flatMap_map]
  have hlen := rowWrite_length e row col n sat tso x pa i
  have hne : (rowWrite e row col n sat tso x pa i).bytes ≠ [] := by
    intro h
    rw [h, List.length_nil] at hlen
    exact (Nat.mul_pos hn (elemBits_pos hfmt)).ne hlen
  dsimp only
  rw [hmajor, hxs, hbytes]
  exact placeBytes_write _ hloc hne (by rw [hlen]; exact hpage)

end GraphStore

/-! ## What a commit sends (R169, R308) -/

/-- An effect that stays on its way: no entry of the matrix queue, and nothing that leaves with the commit. -/
inductive Waits (s : State) (o : Out) : Prop
  | eff (e : Eff) (hcargo : o.cargo = .eff e) (he : Handed e)
  | write (w : Write) (pa : Nat) (hcargo : o.cargo = .acts [.write w]) (hloc : w.loc = .phys pa) (hhost : isHost pa = false) (hhome : homeDie pa = o.who.die)
      (hreplica : ∀ e, (s.die e).replicates (pa / 64) = false)

theorem enterArray_waits {s u : State} {outs : List Out} (h : ∀ o ∈ outs, Waits s o) : u.enterArray outs = u := by
  unfold State.enterArray
  induction outs generalizing u with
  | nil => rfl
  | cons o outs ih =>
    rw [List.foldl_cons]
    refine Eq.trans ?_ (ih fun p hp => h p (.tail _ hp))
    congr 1
    cases h o (.head _) with
    | eff e hcargo he =>
      rw [hcargo]
      cases e with
      | enq _ _ | launch _ _ _ | cpy _ _ _ _ _ | depsig _ | deparm _ _ _ => rfl
      | _ => exact he.elim
    | write w pa hcargo _ _ _ _ => rw [hcargo]

theorem Waits.eff_or_far {s : State} {o : Out} {core : Nat} (h : Waits s o) : (o.acts.all (fun a => a.isLocal core) && !o.acts.isEmpty) = false := by
  unfold Out.acts
  cases h with
  | eff e hcargo _ => rw [hcargo]; rfl
  | write w pa hcargo hloc _ _ _ =>
    rw [hcargo]
    simp [Act.isLocal, Act.loc, hloc]

theorem Waits.stays {s u : State} {o : Out} (h : Waits s o) (hdies : u.dies = s.dies) (b : Bool) :
    (!o.acts.isEmpty && (o.away?.isSome && b || u.replicated o)) = false := by
  cases h with
  | eff e hcargo _ => 
    have : o.acts = [] := by unfold Out.acts; rw [hcargo]
    rw [this]
    rfl
  | write w pa hcargo hloc hhost hhome hreplica =>
    have hacts : o.acts = [.write w] := by unfold Out.acts; rw [hcargo]
    have haway : o.away? = none := by
      unfold Out.away?
      rw [hacts]
      simp [Act.loc, hloc, hhome]
    have hrep : u.replicated o = false := by
      have hdie : ∀ e, u.die e = s.die e := fun e => by unfold State.die; rw [hdies]
      unfold State.replicated
      rw [hacts]
      simp [Act.loc, hloc, hdie, hreplica]
    rw [haway, hrep]
    simp

theorem together_waits {s u : State} {g : Gang} {outs : List Out} (h : ∀ o ∈ outs, Waits s o) (hdies : u.dies = s.dies) : u.together g outs = [] := by
  unfold State.together
  refine List.foldlRecOn (motive := fun sel => sel = []) outs _ rfl fun sel hsel o ho => ?_
  dsimp only
  rw [if_neg]
  · exact hsel
  · have := (h o ho).stays hdies (match (o.acts.head?).map Act.loc with
      | some l => !u.pathDown g.die l
      | none => false)
    intro hc
    simp only [Bool.and_eq_true] at hc
    obtain ⟨⟨⟨hacts, hgoes⟩, -⟩, -⟩ := hc
    rw [hacts, Bool.true_and] at this
    exact absurd (hgoes.symm.trans this) (by decide)

/-- A commit's effects that wait are on their way, in their order; nothing else has changed. -/
theorem release_waits {s : State} {g : Gang} {os : List Out} {n : Nat} (houts : s.outsOf g = (os, s.numbered n)) (hw : ∀ o ∈ os, Waits s o) :
    s.release_ g = { s with nextId := n, drain := s.drain ++ os } := by
  unfold State.release_
  rw [houts]
  dsimp only
  rw [enterArray_waits hw]
  have hfold : ∀ (ps : List Out) (u : State), (∀ o ∈ ps, Waits s o) → ps.foldl (fun (u : State) o =>
      if o.acts.all (fun a => a.isLocal g.core) && !o.acts.isEmpty && u.free? o && !u.heldUp o then u.sendOut o else u) u = u := by
    intro ps u hps
    refine List.foldlRecOn (motive := fun v => v = u) ps _ rfl fun v hv o ho => ?_
    rw [(hps o ho).eff_or_far]
    exact hv
  rw [hfold _ _ hw]
  have htogether : State.together { s with nextId := n, drain := s.drain ++ os } g os = [] := together_waits hw rfl
  exact congrArg (State.sendTogether { s with nextId := n, drain := s.drain ++ os } g.who g.causal) htogether

end Sys2Proof

/-!
# The course of a commit (R129)
-/

namespace Sys2Proof

open Machine

/-! ## The course of a commit (R129) -/

/-- A gang as the commit of its flight begins. -/
def Machine.State.committing (s : State) (g : Gang) : Gang :=
  { g with causal := mergeVec g.causal (s.vector g.die), reqs := s.afterOwn g, fwd := s.forwards g }

section Committing
variable (s : State) (g : Gang)

@[simp] theorem committing_gid : (s.committing g).gid = g.gid := rfl
@[simp] theorem committing_root : (s.committing g).root = g.root := rfl
@[simp] theorem committing_die : (s.committing g).die = g.die := rfl
@[simp] theorem committing_core : (s.committing g).core = g.core := rfl
@[simp] theorem committing_inst : (s.committing g).inst = g.inst := rfl
@[simp] theorem committing_place : (s.committing g).place = g.place := rfl
@[simp] theorem committing_wakeKind : (s.committing g).wakeKind = g.wakeKind := rfl
@[simp] theorem committing_wakeOp : (s.committing g).wakeOp = g.wakeOp := rfl
@[simp] theorem committing_wakeOp2 : (s.committing g).wakeOp2 = g.wakeOp2 := rfl
@[simp] theorem committing_held : (s.committing g).held = g.held := rfl
@[simp] theorem committing_pend : (s.committing g).pend = g.pend := rfl
@[simp] theorem committing_ctx : (s.committing g).ctx = g.ctx := rfl
@[simp] theorem committing_handler : (s.committing g).handler = g.handler := rfl
@[simp] theorem committing_arch : (s.committing g).arch = g.arch := rfl
@[simp] theorem committing_nexts : (s.committing g).nexts = g.nexts := rfl

end Committing

/-- The state once a flight's commit is counted and its forced strips are marked. -/
def Machine.State.counted (s : State) (g h : Gang) : State :=
  ((match h.sigPort with
    | some p => if h.sigMoved then s.countPort h.die h.core p else s
    | none => s).onCore h.die h.core fun c =>
      { c with nodes := h.made.foldl (fun (m : List (Nat × Node)) (e : Nat × List Nat × BitVec 7) => alter? m e.1 fun x => { x with base := x.base ||| e.2.2 }) c.nodes }).noteSample
    g false

/-- A gang with nothing held, with given registers, effects to follow and next addresses. -/
def Machine.Gang.holdsNothing (k : Gang) (a : Arch) (owes : List Nat) (nexts : List (Nat × DWord)) : Gang :=
  { k with arch := a, held := [], appends := [], gresv := [], cresv := [], binds := [], evals := [], made := [], autos := [], used := [],
           owes := owes, sigPort := none, sigPorts := [], sigMoved := false, parity := [], nexts := nexts }

section HoldsNothing
variable (k : Gang) (a : Arch) (owes : List Nat) (nexts : List (Nat × DWord))

@[simp] theorem holdsNothing_gid : (k.holdsNothing a owes nexts).gid = k.gid := rfl
@[simp] theorem holdsNothing_root : (k.holdsNothing a owes nexts).root = k.root := rfl
@[simp] theorem holdsNothing_place : (k.holdsNothing a owes nexts).place = k.place := rfl
@[simp] theorem holdsNothing_wakeKind : (k.holdsNothing a owes nexts).wakeKind = k.wakeKind := rfl
@[simp] theorem holdsNothing_wakeOp : (k.holdsNothing a owes nexts).wakeOp = k.wakeOp := rfl
@[simp] theorem holdsNothing_wakeOp2 : (k.holdsNothing a owes nexts).wakeOp2 = k.wakeOp2 := rfl
@[simp] theorem holdsNothing_arch : (k.holdsNothing a owes nexts).arch = a := rfl
@[simp] theorem holdsNothing_held : (k.holdsNothing a owes nexts).held = [] := rfl
@[simp] theorem holdsNothing_pend : (k.holdsNothing a owes nexts).pend = k.pend := rfl
@[simp] theorem holdsNothing_nexts : (k.holdsNothing a owes nexts).nexts = nexts := rfl
@[simp] theorem holdsNothing_ctx : (k.holdsNothing a owes nexts).ctx = k.ctx := rfl
@[simp] theorem holdsNothing_handler : (k.holdsNothing a owes nexts).handler = k.handler := rfl

end HoldsNothing

/-- Registers under another FLIGHTID. -/
def Machine.Arch.numbered (a : Arch) (x : DWord) : Arch := { a with flightid := x }

section Numbered
variable (a : Arch) (x : DWord)

@[simp] theorem numbered_slices : (a.numbered x).slices = a.slices := rfl
@[simp] theorem numbered_pc : (a.numbered x).pc = a.pc := rfl
@[simp] theorem numbered_split : (a.numbered x).split = a.split := rfl
@[simp] theorem numbered_depth : (a.numbered x).depth = a.depth := rfl
@[simp] theorem numbered_flightid : (a.numbered x).flightid = x := rfl
@[simp] theorem numbered_slicesList : (a.numbered x).slicesList = a.slicesList := rfl
@[simp] theorem numbered_rendezvous : (a.numbered x).rendezvous = a.rendezvous := rfl

end Numbered

/-- The registers of a gang between its flights: the flight is counted. -/
def Machine.Arch.counted (a : Arch) : Arch := a.numbered (flightIdOf a.flightid (field a.flightid 0 29 + 1) a.lowSlice)

@[simp] theorem counted_slices (a : Arch) : a.counted.slices = a.slices := numbered_slices _ _
@[simp] theorem counted_split (a : Arch) : a.counted.split = a.split := numbered_split _ _
@[simp] theorem counted_depth (a : Arch) : a.counted.depth = a.depth := numbered_depth _ _
@[simp] theorem counted_rendezvous (a : Arch) : a.counted.rendezvous = a.rendezvous := numbered_rendezvous _ _

/-- A gang between its flights. -/
def Machine.State.between (s : State) (k : Gang) : Gang :=
  k.holdsNothing k.arch.counted ((s.drain.filter fun o => o.who.die == k.die && o.who.core == k.core).flatMap (·.effs))
    (k.nexts.filter fun e => k.arch.counted.slices.getLsbD e.1)

section Between
variable (s : State) (k : Gang)

@[simp] theorem between_gid : (s.between k).gid = k.gid := holdsNothing_gid _ _ _ _
@[simp] theorem between_root : (s.between k).root = k.root := holdsNothing_root _ _ _ _
@[simp] theorem between_place : (s.between k).place = k.place := holdsNothing_place _ _ _ _
@[simp] theorem between_wakeKind : (s.between k).wakeKind = k.wakeKind := holdsNothing_wakeKind _ _ _ _
@[simp] theorem between_wakeOp : (s.between k).wakeOp = k.wakeOp := holdsNothing_wakeOp _ _ _ _
@[simp] theorem between_wakeOp2 : (s.between k).wakeOp2 = k.wakeOp2 := holdsNothing_wakeOp2 _ _ _ _
@[simp] theorem between_held : (s.between k).held = [] := holdsNothing_held _ _ _ _
@[simp] theorem between_pend : (s.between k).pend = k.pend := holdsNothing_pend _ _ _ _
@[simp] theorem between_ctx : (s.between k).ctx = k.ctx := holdsNothing_ctx _ _ _ _
@[simp] theorem between_handler : (s.between k).handler = k.handler := holdsNothing_handler _ _ _ _
@[simp] theorem between_arch : (s.between k).arch = k.arch.counted := holdsNothing_arch _ _ _ _
@[simp] theorem between_nexts : (s.between k).nexts = k.nexts.filter fun e => k.arch.slices.getLsbD e.1 := by
  unfold State.between Arch.counted
  rw [holdsNothing_nexts, numbered_slices]

end Between

/-- The parts of a gang between its flights, met and settled. -/
def Machine.State.partsSettled (s : State) (gid : Nat) (k : Gang) : State :=
  let (s5, ids) := (s.putGang k).splitInto gid k.parts
  let s6 := ids.foldl State.tryMerge s5
  (s6.standing k.root).foldl State.settlePart s6

/-- The handler's flight has ended: the faulted one replays (R293). -/
def Machine.State.handlerOver (s4 : State) (k1 : Gang) (g : Gang) : State :=
  let x := { k1.fromHandler with pend := [], accs := [], reqs := [], fwd := [], flight := 0, wakeKind := 0, spent := 0, spent2 := 0, spent3 := 0,
                                   fetchFrom := if k1.fenced then s4.olds.length else k1.fetchFrom }
  let (n, t) := (s4.putGang x).fresh
  let x := { x with flight := n, wakeOp := 0#64, wakeOp2 := 0#64, woken := false }
  let y := if s4.acked x then { x with ackScope := 0, fenced := false } else { x.leavePort with phase := .parked, wakeKind := 1 }
  (t.putGang y).sweep g.die g.core

/-- A gang as it follows its commit's own message (R309). -/
def Machine.State.following (s : State) (h : Gang) : Gang := { h with causal := ((s.gang? h.gid).map (·.causal)).getD h.causal }

/-- Effects that the commit itself performs. -/
def performHeld (sent : Gang) (s : State) (e : Held) : State := if e.eff.atCommit then s.commitEff sent e.eff else s

/-- The end of a commit whose effects have left. -/
def Machine.State.effectsGone (s4 : State) (g : Gang) : State :=
  match s4.gang? g.gid with
  | none => s4.sweep g.die g.core
  | some k =>
    if k.wakeKind = 11 then s4.handlerOver (s4.between k) g
    else (s4.partsSettled g.gid (s4.between k)).sweep g.die g.core

theorem commit_def (s : State) (g : Gang) : s.commit g =
    (((s.committing g).held.foldl (performHeld (((s.putGang (s.committing g)).release_ (s.committing g)).following (s.committing g)))
      ((s.putGang (s.committing g)).release_ (s.committing g))).counted g (s.committing g)).effectsGone g := rfl

theorem performHeld_nil {hs : List Held} (hnone : ∀ e ∈ hs, e.eff.atCommit = false) (sent : Gang) (s : State) : hs.foldl (performHeld sent) s = s := by
  refine List.foldlRecOn (motive := fun v => v = s) _ _ rfl fun v hv e he => ?_
  unfold performHeld
  rw [hnone e he]
  exact hv

/-- A commit with no effects of its own. -/
theorem commit_eq {s t : State} {g k : Gang} (hnone : ∀ e ∈ g.held, e.eff.atCommit = false)
    (ht : ((s.putGang (s.committing g)).release_ (s.committing g)).counted g (s.committing g) = t) (hk : t.gang? g.gid = some k) (hkind : k.wakeKind ≠ 11) :
    s.commit g = (t.partsSettled g.gid (t.between k)).sweep g.die g.core := by
  rw [commit_def, performHeld_nil (hs := (s.committing g).held) hnone, ht]
  unfold State.effectsGone
  rw [hk]
  exact if_neg hkind

/-! ## The counts that go with a commit -/

theorem countPort_nextId (s : State) (d core port : Nat) : s.nextId ≤ (s.countPort d core port).nextId := by
  unfold State.countPort
  dsimp only
  split
  · exact Nat.le_succ _
  · exact Nat.le_refl _

theorem counted_quiet (s : State) (g h : Gang) : Quiet s (s.counted g h) := by
  unfold State.counted
  refine .trans (.trans ?_ .onCore) .noteSample
  split
  · split
    · exact .countPort
    · exact .refl
  · exact .refl

theorem counted_nextId (s : State) (g h : Gang) : s.nextId ≤ (s.counted g h).nextId := by
  have hsample : ∀ (t : State), (t.noteSample g false).nextId = t.nextId := by
    intro t
    unfold State.noteSample
    split <;> rfl
  unfold State.counted
  rw [hsample]
  show s.nextId ≤ State.nextId (match h.sigPort with
    | some p => if h.sigMoved then s.countPort h.die h.core p else s
    | none => s)
  split
  · split
    · exact countPort_nextId _ _ _ _
    · exact Nat.le_refl _
  · exact Nat.le_refl _

/-! ## A clean commit -/

/-- What a clean commit needs of a gang, beside its turn. -/
structure Commits (s : State) (g : Gang) : Prop where
  cur : s.cur = none
  found : s.gang? g.gid = some g
  may : s.mayCommit g = true
  path : g.pathFault = none
  resident : g.resident = true
  late : (s.putGang g).lateFault g = none
  record : (s.putGang g).checkRecord g = none

theorem Commits.exec {s : State} {g : Gang} (h : Commits s g) : exec (.flightCommit g.gid .clean) s = .next ((s.putGang g).commit g) := by
  obtain ⟨hcur, hg, hmay, hpath, hres, hlate, hrecord⟩ := h
  have hback : s.readBack g = .inl g := by
    unfold Gang.resident at hres
    unfold State.readBack
    cases hplace : g.place with
    | port p => rfl
    | landing => rfl
    | spill a => rw [hplace] at hres; cases hres
  show execFlightCommit g.gid .clean s = _
  unfold execFlightCommit
  rw [hg]
  dsimp only
  rw [if_pos (by simp [hcur, hmay])]
  unfold State.flightEnd
  dsimp only
  rw [hg]
  dsimp only
  rw [hback]
  dsimp only
  rw [if_pos hres, hpath]
  dsimp only
  rw [hlate]
  dsimp only
  rw [hrecord]

theorem afterCommit {s : State} {g : Gang} {os : List Out} {n : Nat} (hg : s.gang? g.gid = some g) (hnone : ∀ e ∈ g.held, e.eff.atCommit = false)
    (houts : ((s.putGang g).putGang ((s.putGang g).committing g)).outsOf ((s.putGang g).committing g) =
      (os, ((s.putGang g).putGang ((s.putGang g).committing g)).numbered n)) (hw : ∀ o ∈ os, Waits s o) (hkind : g.wakeKind ≠ 11) :
    ∃ t : State, t.gangs = ((s.putGang g).putGang ((s.putGang g).committing g)).gangs ∧ t.mem = s.mem ∧ t.drain = s.drain ++ os ∧ n ≤ t.nextId ∧
      t.gang? g.gid = some ((s.putGang g).committing g) ∧
      (s.putGang g).commit g = (t.partsSettled g.gid (t.between ((s.putGang g).committing g))).sweep g.die g.core := by
  have hrelease := release_waits houts fun o ho => by
    cases hw o ho with
    | eff e hcargo he => exact .eff e hcargo he
    | write w pa hcargo hloc hhost hhome hreplica => exact .write w pa hcargo hloc hhost hhome hreplica
  have hquiet := counted_quiet (((s.putGang g).putGang ((s.putGang g).committing g)).release_ ((s.putGang g).committing g)) g ((s.putGang g).committing g)
  have hnext := counted_nextId (((s.putGang g).putGang ((s.putGang g).committing g)).release_ ((s.putGang g).committing g)) g ((s.putGang g).committing g)
  have hput : ((s.putGang g).putGang ((s.putGang g).committing g)).gang? g.gid = some ((s.putGang g).committing g) :=
    gang?_putGang (g := (s.putGang g).committing g) (gang?_putGang hg)
  generalize ht : (((s.putGang g).putGang ((s.putGang g).committing g)).release_ ((s.putGang g).committing g)).counted g ((s.putGang g).committing g) = t at *
  have hgangs : t.gangs = ((s.putGang g).putGang ((s.putGang g).committing g)).gangs := hquiet.gangs.trans (by rw [hrelease])
  have hgang : t.gang? g.gid = some ((s.putGang g).committing g) := (congrArg (List.find? _) hgangs).trans hput
  refine ⟨t, hgangs, hquiet.mem.trans (by rw [hrelease]; rfl), hquiet.drain.trans (by rw [hrelease]; rfl), ?_, hgang, commit_eq hnone ht hgang hkind⟩
  rw [hrelease] at hnext
  exact hnext

end Sys2Proof

/-!
# Parts that are settled, parked and split (R45, R129, R130)
-/

namespace Sys2Proof

open Machine

/-! ## What results that are delivered leave as it was (R55) -/

/-- Two register states with the same slices, place and stacks. -/
structure SameFlow (a b : Arch) : Prop where
  slices : b.slices = a.slices
  pc : b.pc = a.pc
  split : b.split = a.split
  flightid : b.flightid = a.flightid

theorem SameFlow.refl {a : Arch} : SameFlow a a := ⟨rfl, rfl, rfl, rfl⟩
theorem SameFlow.trans {a b c : Arch} (h : SameFlow a b) (h' : SameFlow b c) : SameFlow a c :=
  ⟨h'.slices.trans h.slices, h'.pc.trans h.pc, h'.split.trans h.split, h'.flightid.trans h.flightid⟩

theorem land_sameFlow (a : Arch) (x : Deliv) : SameFlow a (a.land x) := by
  have hset : SameFlow a (if x.vec then a.vset (x.key / 32) (x.key % 32) (x.val.setWidth 32) else a.sset (x.key / 32) (x.key % 32) x.val) := by
    unfold Arch.sset
    split
    · exact ⟨rfl, rfl, rfl, rfl⟩
    · split <;> exact ⟨rfl, rfl, rfl, rfl⟩
  unfold Arch.land
  split
  · exact .refl
  · dsimp only
    split
    · exact hset.trans ⟨rfl, rfl, rfl, rfl⟩
    · exact hset

theorem touch_sameFlow (a : Arch) (p : Pend) : SameFlow a (a.touch p) := by
  unfold Arch.touch
  split
  · exact .refl
  · split
    · exact ⟨rfl, rfl, rfl, rfl⟩
    · split <;> exact ⟨rfl, rfl, rfl, rfl⟩

theorem deliverAll_sameFlow (g : Gang) : SameFlow g.arch g.deliverAll.arch :=
  foldl_keeps (P := SameFlow g.arch) (fun b p hb => foldl_keeps (fun c x hc => hc.trans (land_sameFlow c x)) p.vals (hb.trans (touch_sameFlow b p))) g.pend .refl

/-- Two gangs of one task gang with the same slices, place and stacks. -/
structure SamePart (g k : Gang) : Prop where
  root : k.root = g.root
  flow : SameFlow g.arch k.arch

theorem SamePart.refl {g : Gang} : SamePart g g := ⟨rfl, .refl⟩
theorem SamePart.trans {g h k : Gang} (a : SamePart g h) (b : SamePart h k) : SamePart g k := ⟨b.root.trans a.root, a.flow.trans b.flow⟩

/-! ## Parts that go on or leave their port (R129) -/

/-- What becomes of a part on its port: its next flight has begun there, or it has left as a record. -/
inductive Settled (g : Gang) : Gang → Prop
  | begun (s : State) (port : Nat) (hplace : g.place = .port port) (hphase : g.phase = .parked) : Settled g (s.begun g port)
  | left (hplace : g.resident = true) (hphase : g.phase = .parked) : Settled g g.leavePort

theorem stays_place {s : State} {g : Gang} {p : Nat} (h : s.stays g = some p) : g.place = .port p ∧ g.phase = .parked := by
  unfold State.stays at h
  cases hplace : g.place with
  | port q =>
    rw [hplace] at h
    dsimp only at h
    split at h
    · rename_i hc
      simp only [Bool.and_eq_true] at hc
      obtain ⟨⟨⟨⟨⟨-, helig⟩, -⟩, -⟩, -⟩, -⟩ := hc
      unfold State.eligible at helig
      simp only [Bool.and_eq_true] at helig
      obtain ⟨⟨⟨⟨⟨⟨hphase, -⟩, -⟩, -⟩, -⟩, -⟩, -⟩ := helig
      exact ⟨by rw [Option.some.inj h], by simpa using hphase⟩
    · cases h
  | landing => rw [hplace] at h; cases h
  | spill a => rw [hplace] at h; cases h

/-- A part that is settled, or stays as it is. -/
theorem settlePart_cases {s : State} {n : Nat} {g : Gang} (hg : s.gang? n = some g) :
    (s.settlePart n = s ∧ ¬ (g.resident = true ∧ g.phase = .parked ∧ s.toArrive g = false)) ∨
      ∃ t k, s.settlePart n = t.putGang k ∧ Still s t ∧ t.gangs = s.gangs ∧ k.gid = n ∧ Settled g k := by
  have hn := gang?_gid hg
  unfold State.settlePart
  rw [hg]
  dsimp only
  cases hstay : s.stays g with
  | some p =>
    refine .inr ⟨s.fresh.2, s.begun g p, beginFlight_eq s g p, ⟨rfl, rfl⟩, rfl, (begun_gid s g p).trans hn, .begun s p (stays_place hstay).1 (stays_place hstay).2⟩
  | none =>
    dsimp only
    split
    · rename_i hc
      simp only [Bool.and_eq_true] at hc
      obtain ⟨⟨hres, hphase⟩, -⟩ := hc
      exact .inr ⟨s, g.leavePort, rfl, .refl, rfl, hn, .left hres (by simpa using hphase)⟩
    · rename_i hc
      exact .inl ⟨rfl, fun ⟨hres, hphase, harrive⟩ => hc (by simp [hres, hphase, harrive])⟩

theorem settlePart_still (s : State) (n : Nat) : Still s (s.settlePart n) := by
  cases hg : s.gang? n with
  | none =>
    unfold State.settlePart
    rw [hg]
    exact .refl
  | some g =>
    rcases settlePart_cases hg with ⟨h, -⟩ | ⟨t, k, h, hstill, -⟩
    · rw [h]; exact .refl
    · rw [h]; exact hstill.trans .putGang

theorem settlePart_other {s : State} {n m : Nat} (h : m ≠ n) : (s.settlePart n).gang? m = s.gang? m := by
  cases hg : s.gang? n with
  | none =>
    unfold State.settlePart
    rw [hg]
  | some g =>
    rcases settlePart_cases hg with ⟨hs, -⟩ | ⟨t, k, hs, -, hgangs, hk, -⟩
    · rw [hs]
    · rw [hs, gang?_putGang_other (by rw [hk]; exact h)]
      exact congrArg (List.find? _) hgangs

theorem settlePart_same {s : State} {n : Nat} {g : Gang} (hg : s.gang? n = some g) :
    ((s.settlePart n).gang? n = some g ∧ ¬ (g.resident = true ∧ g.phase = .parked ∧ s.toArrive g = false)) ∨ ∃ k, (s.settlePart n).gang? n = some k ∧ Settled g k := by
  rcases settlePart_cases hg with ⟨hs, hnot⟩ | ⟨t, k, hs, -, hgangs, hk, hset⟩
  · exact .inl ⟨by rw [hs]; exact hg, hnot⟩
  · refine .inr ⟨k, ?_, hset⟩
    rw [hs, ← hk]
    refine gang?_putGang (k := g) ?_
    rw [hk, ← hg]
    exact congrArg (List.find? _) hgangs

theorem Settled.samePart {g k : Gang} (h : Settled g k) : SamePart g k := by
  cases h with
  | begun s port => exact ⟨begun_root s g port, by rw [begun_arch]; exact deliverAll_sameFlow g⟩
  | left => exact ⟨rfl, .refl⟩

theorem settleParts_still (ns : List Nat) (s : State) : Still s (ns.foldl State.settlePart s) :=
  foldl_keeps (fun t n h => h.trans (settlePart_still t n)) ns .refl

theorem settleParts_samePart (ns : List Nat) {s : State} {n : Nat} {g : Gang} (hg : s.gang? n = some g) :
    ∃ k, (ns.foldl State.settlePart s).gang? n = some k ∧ SamePart g k := by
  refine foldl_keeps (P := fun t : State => ∃ k, t.gang? n = some k ∧ SamePart g k) (fun t m ⟨k, hk, hpart⟩ => ?_) ns ⟨g, hg, .refl⟩
  by_cases hm : n = m
  · subst hm
    rcases settlePart_same hk with ⟨h, -⟩ | ⟨l, h, hset⟩
    · exact ⟨k, h, hpart⟩
    · exact ⟨l, h, hpart.trans hset.samePart⟩
  · exact ⟨k, (settlePart_other hm).trans hk, hpart⟩

theorem Settled.before {g k : Gang} (h : Settled g k) : g.resident = true ∧ g.phase = .parked := by
  cases h with
  | begun s port hplace hphase =>
    refine ⟨?_, hphase⟩
    unfold Gang.resident
    rw [hplace]
  | left hres hphase => exact ⟨hres, hphase⟩

theorem leavePort_resident {g : Gang} (h : g.resident = true) : g.leavePort.place = .landing := by
  unfold Gang.resident at h
  unfold Gang.leavePort
  cases hplace : g.place with
  | port p => rfl
  | landing => rfl
  | spill a => rw [hplace] at h; cases h

theorem Settled.after {g k : Gang} (h : Settled g k) : ¬ (k.resident = true ∧ k.phase = .parked) := by
  rintro ⟨hres, hphase⟩
  cases h with
  | begun s port => cases hphase
  | left hres' =>
    unfold Gang.resident at hres
    rw [leavePort_resident hres'] at hres
    cases hres

/-- A part that is settled stays so. -/
theorem Settled.once {g k : Gang} (h : Settled g k) (ns : List Nat) {s : State} {n : Nat} (hk : s.gang? n = some k) :
    (ns.foldl State.settlePart s).gang? n = some k := by
  refine foldl_keeps (P := fun t : State => t.gang? n = some k) (fun t m ht => ?_) ns hk
  by_cases hm : n = m
  · subst hm
    rcases settlePart_same ht with ⟨ht', -⟩ | ⟨l, -, hset⟩
    · exact ht'
    · exact absurd hset.before h.after
  · exact (settlePart_other hm).trans ht

/-- A part that stands on its port with nothing to run is settled in its turn. -/
theorem settleParts_settled {ns : List Nat} {s : State} {n : Nat} {g : Gang} (hn : n ∈ ns) (hg : s.gang? n = some g) (hres : g.resident = true)
    (hphase : g.phase = .parked) (hkind : g.wakeKind ≠ 5) : ∃ k, (ns.foldl State.settlePart s).gang? n = some k ∧ Settled g k := by
  induction ns generalizing s with
  | nil => cases hn
  | cons m ns ih =>
    rw [List.foldl_cons]
    by_cases hm : n = m
    · subst hm
      rcases settlePart_same hg with ⟨-, hnot⟩ | ⟨k, hk, hset⟩
      · exact absurd ⟨hres, hphase, by simp [State.toArrive, hkind]⟩ hnot
      · exact ⟨k, hset.once ns hk, hset⟩
    · exact ih ((List.mem_cons.mp hn).resolve_left hm) ((settlePart_other hm).trans hg)

/-! ## Parts that park, and wait for none (R45, R47, R130) -/

/-- A part at the end of its flight. -/
def Machine.State.parked (s : State) (g : Gang) : Gang :=
  { g with phase := .parked, slack := s.slackOf g, hit := false, woken := false, since := none, anchor := if g.ctx = firmware && g.handler then g.anchor else g.arch,
           accs := g.accs.filter fun a => a.kind == .watch || g.reqs.any fun q => q.acc == a.id }

theorem parkPart_simple {s : State} {g : Gang} (h : g.wakeKind ≤ 1) : s.parkPart g = s.putGang (s.parked g) := by
  unfold State.parkPart
  dsimp only
  split
  case h_7 => rfl
  all_goals omega

/-- A part at a REGANG. -/
def Machine.State.awaiting (s : State) (g : Gang) : Gang := { s.parked g with woken := g.arch.rendezvous.isNone }

theorem parkPart_regang {s : State} {g : Gang} (h : g.wakeKind = 3) : s.parkPart g = s.putGang (s.awaiting g) := by
  unfold State.parkPart
  dsimp only
  split
  case h_2 => rfl
  case h_7 => exact absurd h ‹g.wakeKind = 3 → False›
  all_goals omega

/-- A part of a split as it waits under its own number. -/
def partOf (q : Gang) (n : Nat) : Gang := { q.leavePort with gid := n }

/-- A part of a split among the gangs, under the next number. -/
def Machine.State.withPart (s : State) (q : Gang) : State := { s with nextId := s.nextId + 1, gangs := s.gangs ++ [partOf q s.nextId] }

/-- One part more of a split. -/
def splitStep (acc : State × List Nat) (q : Gang) : State × List Nat :=
  let (n, t) := acc.1.fresh
  let h := { q.leavePort with gid := n }
  (({ t with gangs := t.gangs ++ [h] } : State).parkPart h, acc.2 ++ [n])

theorem splitInto_cons (s : State) (gid : Nat) (p : Gang) (rest : List Gang) : s.splitInto gid (p :: rest) = rest.foldl splitStep ((s.putGang p).parkPart p, [gid]) := rfl

theorem splitStep_simple {acc : State × List Nat} {q : Gang} (hq : q.wakeKind ≤ 1) : splitStep acc q =
    ((acc.1.withPart q).putGang ((acc.1.withPart q).parked (partOf q acc.1.nextId)), acc.2 ++ [acc.1.nextId]) :=
  congrArg (·, acc.2 ++ [acc.1.nextId]) (parkPart_simple (g := partOf q acc.1.nextId) hq)

/-- What a split has left of the state: memory and effects as they were, and of the parts so far none that meets others. -/
structure Splits (s : State) (acc : State × List Nat) : Prop where
  still : Still s acc.1
  kind : ∀ k ∈ acc.1.gangs, k.gid ∈ acc.2 → k.wakeKind ≤ 1

theorem putGang_kind {s : State} {g : Gang} {ids : List Nat} (hg : g.wakeKind ≤ 1) (h : ∀ k ∈ s.gangs, k.gid ∈ ids → k.gid ≠ g.gid → k.wakeKind ≤ 1) :
    ∀ k ∈ (s.putGang g).gangs, k.gid ∈ ids → k.wakeKind ≤ 1 := by
  intro k hk hid
  obtain ⟨x, hx, rfl⟩ := List.mem_map.mp hk
  by_cases he : x.gid = g.gid
  · simp only [he, if_true]
    exact hg
  · simp only [he, if_false] at hid ⊢
    exact h x hx hid he

theorem splitStep_splits {s : State} {acc : State × List Nat} {q : Gang} (h : Splits s acc) (hq : q.wakeKind ≤ 1) : Splits s (splitStep acc q) := by
  rw [splitStep_simple hq]
  refine ⟨h.still.trans (Still.trans (t := acc.1.withPart q) ⟨rfl, rfl⟩ .putGang), putGang_kind hq fun k hk hid hne => ?_⟩
  have hne' : k.gid ≠ acc.1.nextId := hne
  rcases List.mem_append.mp hk with hk | hk
  · rcases List.mem_append.mp hid with hid | hid
    · exact h.kind k hk hid
    · exact absurd (List.mem_singleton.mp hid) hne'
  · exact absurd (congrArg Gang.gid (List.mem_singleton.mp hk)) hne'

theorem splitInto_splits {s : State} {gid : Nat} {ps : List Gang} (hkind : ∀ p ∈ ps, p.wakeKind ≤ 1) (hgid : ∀ p ∈ ps, p.gid = gid) : Splits s (s.splitInto gid ps) := by
  cases ps with
  | nil => exact ⟨.refl, fun k _ hid => (List.not_mem_nil hid).elim⟩
  | cons p rest =>
    rw [splitInto_cons, parkPart_simple (hkind p (.head _))]
    refine List.foldlRecOn (motive := Splits s) rest _ ⟨.trans .putGang .putGang, putGang_kind (hkind p (.head _)) fun k _ hid hne => ?_⟩
      fun acc hacc q hq => splitStep_splits hacc (hkind q (.tail _ hq))
    exact absurd ((List.mem_singleton.mp hid).trans (hgid p (.head _)).symm) hne

theorem tryMerge_none {s : State} {n : Nat} (h : ∀ k ∈ s.gangs, k.gid = n → k.wakeKind ≤ 1) : s.tryMerge n = s := by
  unfold State.tryMerge
  cases hg : s.gang? n with
  | none => rfl
  | some g =>
    have hkind := h g (List.mem_of_find?_eq_some hg) (gang?_gid hg)
    have hkey : s.meetKey g = none := by
      unfold State.meetKey
      split
      · rfl
      · split
        · omega
        · omega
        · rfl
    rw [Option.bind_some, hkey]
    rfl

theorem parts_kind {k : Gang} {gid : Nat} (hkind : k.wakeKind ≤ 1) (hgid : k.gid = gid) : ∀ p ∈ k.parts, p.wakeKind ≤ 1 ∧ p.gid = gid := by
  unfold Gang.parts
  split
  · intro p hp
    obtain ⟨q, -, rfl⟩ := List.mem_map.mp hp
    exact ⟨hkind, hgid⟩
  · intro p hp
    rw [List.mem_singleton.mp hp]
    exact ⟨hkind, hgid⟩

theorem parts_splits {t : State} {gid : Nat} {k : Gang} (hkind : k.wakeKind ≤ 1) (hgid : k.gid = gid) : Splits (t.putGang k) ((t.putGang k).splitInto gid k.parts) :=
  splitInto_splits (fun p hp => (parts_kind hkind hgid p hp).1) fun p hp => (parts_kind hkind hgid p hp).2

/-- Parts that meet none are settled where they stand. -/
theorem partsSettled_eq {t : State} {gid : Nat} {k : Gang} (hkind : k.wakeKind ≤ 1) (hgid : k.gid = gid) : t.partsSettled gid k =
    (((t.putGang k).splitInto gid k.parts).1.standing k.root).foldl State.settlePart ((t.putGang k).splitInto gid k.parts).1 := by
  have hmerge : ((t.putGang k).splitInto gid k.parts).2.foldl State.tryMerge ((t.putGang k).splitInto gid k.parts).1 = ((t.putGang k).splitInto gid k.parts).1 :=
    List.foldlRecOn (motive := fun u => u = ((t.putGang k).splitInto gid k.parts).1) _ _ rfl fun u hu n hn => by
      rw [hu]
      exact tryMerge_none fun x hx hxn => (parts_splits hkind hgid).kind x hx (hxn ▸ hn)
  unfold State.partsSettled
  dsimp only
  rw [hmerge]

theorem partsSettled_still {t : State} {gid : Nat} {k : Gang} (hkind : k.wakeKind ≤ 1) (hgid : k.gid = gid) : Still t (t.partsSettled gid k) := by
  rw [partsSettled_eq hkind hgid]
  exact .trans (.trans .putGang (parts_splits hkind hgid).still) (settleParts_still _ _)

end Sys2Proof

/-!
# A commit's effects on their way (R127, R149, R194)
-/

namespace Sys2Proof

open Machine

/-! ## What a commit's effects leave as (R127, R149, R169, R194) -/

/-- The state in which a commit's effects leave, and its gang. -/
def Machine.State.leaving (s : State) (g : Gang) : State := (s.putGang g).putGang ((s.putGang g).committing g)

section Effects
variable {s : State} {g : Gang} (hg : s.gang? g.gid = some g) (hkind : g.wakeKind ≤ 1)
include hg hkind

/-- A commit whose effects wait puts them on their way; memory is as it was. -/
theorem commit_drain {os : List Out} {n : Nat} (hnone : ∀ e ∈ g.held, e.eff.atCommit = false)
    (houts : (s.leaving g).outsOf ((s.putGang g).committing g) = (os, (s.leaving g).numbered n)) (hw : ∀ o ∈ os, Waits s o) :
    ((s.putGang g).commit g).drain = s.drain ++ os ∧ ((s.putGang g).commit g).mem = s.mem := by
  obtain ⟨t, -, hmem, hdrain, -, -, hcommit⟩ := afterCommit hg hnone houts hw (by omega)
  have hstill := (partsSettled_still (t := t) (gid := g.gid) (k := t.between ((s.putGang g).committing g)) (by simpa using hkind) (by simp)).trans
    (Quiet.sweep (d := g.die) (c := g.core)).toStill
  rw [hcommit]
  exact ⟨hstill.drain.trans hdrain, hstill.mem.trans hmem⟩

theorem commit_handed (hh : ∀ h ∈ g.held, Handed h.eff) : ∃ os, ((s.putGang g).commit g).drain = s.drain ++ os ∧ ((s.putGang g).commit g).mem = s.mem ∧
    os.map (fun o => (o.effs, o.cargo)) = g.held.map (fun h => ([h.seq], .eff h.eff)) ∧
    (os.Pairwise fun a b => ∀ n ∈ a.effs, n ∈ b.after) ∧ ∀ o ∈ os, o.sent = false ∧ o.who = g.who ∧ ∀ n ∈ s.behind g, n ∈ o.after := by
  obtain ⟨os, n, houts, hleaves, hpair⟩ := outsOf_handed (s := s.leaving g) (g := (s.putGang g).committing g) hh
  have hw : ∀ o ∈ os, Waits s o := fun o ho => by
    obtain ⟨h, hmem, hl⟩ := exists_of_forall₂_mem hleaves ho
    exact .eff h.eff hl.cargo (hh h hmem)
  obtain ⟨hdrain, hmem⟩ := commit_drain hg hkind (fun e he => handed_atCommit (hh e he)) houts hw
  refine ⟨os, hdrain, hmem, map_eq_map_of_forall₂ hleaves fun o h hl => by rw [hl.effs, hl.cargo], hpair, fun o ho => ?_⟩
  obtain ⟨h, -, hl⟩ := exists_of_forall₂_mem hleaves ho
  exact ⟨hl.sent, hl.who, hl.late⟩

/-- A commit whose one effect writes rows that lie in a line each. -/
theorem commit_rows {h : Held} {ws : List Write} (hheld : g.held = [h]) (hs : Stores h.eff)
    (hacts : (s.leaving g).actsOf ((s.putGang g).committing g) h.eff = ws.map fun w => [.write w])
    (hws : ∀ w ∈ ws, ∃ pa, InLine w pa ∧ isHost pa = false ∧ homeDie pa = g.die ∧ ∀ e, (s.die e).replicates (pa / 64) = false) :
    ∃ os t, ((s.putGang g).commit g).drain = s.drain ++ os ∧ ((s.putGang g).commit g).mem = s.mem ∧ t.rows.length = ws.length ∧ t.seq = h.seq ∧
      List.Forall₂ (Row g (s.behind g) t) os ws := by
  obtain ⟨t, hitems, hrows, heff, hseq⟩ := itemsOf_store (s := s.leaving g) (g := (s.putGang g).committing g) hheld hs
  obtain ⟨os, n, houts, hrow⟩ := outsOf_rows hitems (hrows.trans hacts) heff fun w hw => by
    obtain ⟨pa, hline, -⟩ := hws w hw
    exact ⟨pa, hline⟩
  have hnone : ∀ e ∈ g.held, e.eff.atCommit = false := by
    intro e he
    rw [hheld, List.mem_singleton] at he
    rw [he]
    generalize h.eff = eff at hs
    cases eff with
    | store _ _ | mst _ _ _ _ _ _ _ _ _ => rfl
    | _ => exact hs.elim
  have hw : ∀ o ∈ os, Waits s o := fun o ho => by
    obtain ⟨w, hmem, hr⟩ := exists_of_forall₂_mem hrow ho
    obtain ⟨pa, hline, hhost, hhome, hreplica⟩ := hws w hmem
    exact .write w pa hr.cargo hline.loc hhost (by rw [hr.who]; exact hhome) hreplica
  obtain ⟨hdrain, hmem⟩ := commit_drain hg hkind hnone houts hw
  exact ⟨os, t, hdrain, hmem, by rw [hrows, hacts, List.length_map], hseq, hrow.imp fun o w hr => ⟨hr.cargo, hr.who, hr.sent, hr.late, hr.effs⟩⟩

theorem commit_store {h : Held} {a : Access} {p : APart} {pa : Nat} {bs : List Byte} (hheld : g.held = [h]) (heff : h.eff = .store a.id [bs])
    (hacc : g.acc? a.id = some a) (hparts : a.parts = [p]) (hloc : p.loc = some (.phys pa)) (hhost : isHost pa = false) (hhome : homeDie pa = g.die)
    (hline : pa % 64 + bs.length ≤ 64) (hreplica : ∀ e, (s.die e).replicates (pa / 64) = false) :
    ∃ o, ((s.putGang g).commit g).drain = s.drain ++ [o] ∧ ((s.putGang g).commit g).mem = s.mem ∧ o.effs = [h.seq] ∧
      o.cargo = .acts [.write ⟨.phys pa, p.va, bs, p.tso⟩] ∧ o.who = g.who ∧ o.sent = false ∧ ∀ n ∈ s.behind g, n ∈ o.after := by
  have hacts : (s.leaving g).actsOf ((s.putGang g).committing g) h.eff = [⟨.phys pa, p.va, bs, p.tso⟩].map fun w => [.write w] := by
    rw [heff]
    exact actsOf_store (g := (s.putGang g).committing g) bs hacc hparts hloc
  obtain ⟨os, t, hdrain, hmem, hlen, hseq, hrow⟩ := commit_rows hg hkind hheld (by rw [heff]; trivial) hacts fun w hw => by
    rw [List.mem_singleton.mp hw]
    exact ⟨pa, ⟨rfl, hline⟩, hhost, hhome, hreplica⟩
  obtain ⟨o, rest, ho, hnil, rfl⟩ := List.forall₂_cons_right_iff.mp hrow
  rw [List.forall₂_nil_right_iff.mp hnil] at hdrain
  refine ⟨o, hdrain, hmem, (ho.effs (by rw [hlen]; exact Nat.le_refl _)).trans (by rw [hseq]), ho.cargo, ho.who, ho.sent, ho.late⟩

theorem commit_mst {h : Held} {e : TDesc} {row col m n acc tag : Nat} {sat tso : Bool} {vals : List (Nat × List Sys2Proof.Num)} {x : Nat → Nat → Sys2Proof.Num} {pa : Nat → Nat}
    (hheld : g.held = [h]) (heff : h.eff = .mst e row col sat m n acc tag vals) (hmajor : e.colMajor = false) (hfmt : e.fmt ≠ fINT4) (hn : 0 < n)
    (hvals : ∀ i < m, ∀ j < n, stripAt vals i j = some (x i j)) (hplace : ∀ i < m, accumOff (e.addr (row + i) col) = none ∧
      s.find g.die g.core g.inst g.ctx (e.addr (row + i) col) 1 = .at_ (.phys (pa i)) tso ∧ isHost (pa i) = false ∧ homeDie (pa i) = g.die ∧
      pa i % 64 + n * (elemBits e.fmt / 8) ≤ 64 ∧ (e.addr (row + i) col).toNat % 4096 + n * (elemBits e.fmt / 8) ≤ 4096 ∧
      ∀ f, (s.die f).replicates (pa i / 64) = false) : ∃ os, ((s.putGang g).commit g).drain = s.drain ++ os ∧ ((s.putGang g).commit g).mem = s.mem ∧
      os.map (·.cargo) = (List.range m).map fun i => .acts [.write ⟨.phys (pa i), e.addr (row + i) col, (List.range n).flatMap fun j => bytesN (elemBits e.fmt / 8)
        (if isInt e.fmt = true then (roundInteger e.fmt 0 (x i j)).1 else (roundFloat e.fmt 0 0 sat (x i j)).1), tso⟩] := by
  have hacts : (s.leaving g).actsOf ((s.putGang g).committing g) h.eff = ((List.range m).map (rowWrite e row col n sat tso x pa)).map fun w => [.write w] := by
    rw [heff, List.map_map]
    refine mstActs_rows (s := s.leaving g) (g := (s.putGang g).committing g) hmajor hfmt hn hvals fun i hi => ?_
    obtain ⟨hacc, hfind, -, -, -, hpage, -⟩ := hplace i hi
    refine ⟨?_, hpage⟩
    unfold State.mstLoc
    rw [hacc]
    dsimp only
    rw [committing_die, committing_core, committing_inst, committing_ctx]
    have hfind' : (s.leaving g).find g.die g.core g.inst g.ctx (e.addr (row + i) col) 1 = .at_ (.phys (pa i)) tso := hfind
    rw [findNow_of_find hfind']
  obtain ⟨os, t, hdrain, hmem, -, -, hrow⟩ := commit_rows hg hkind hheld (by rw [heff]; trivial) hacts fun w hw => by
    obtain ⟨i, hi, rfl⟩ := List.mem_map.mp hw
    obtain ⟨-, -, hhost, hhome, hline, -, hreplica⟩ := hplace i (List.mem_range.mp hi)
    exact ⟨pa i, ⟨rfl, by rw [rowWrite_length]; exact hline⟩, hhost, hhome, hreplica⟩
  refine ⟨os, hdrain, hmem, ?_⟩
  rw [map_eq_map_of_forall₂ (f := fun o : Out => o.cargo) (g := fun w => Cargo.acts [.write w]) hrow fun o w hr => hr.cargo, List.map_map]
  rfl

end Effects
end Sys2Proof

/-!
# A clean commit of a gang that goes on as one (R53, R129)
-/

namespace Sys2Proof

open Machine

/-! ## A commit with nothing held -/

theorem outsOf_nil {s : State} {g : Gang} (hheld : g.held = []) : s.outsOf g = ([], s.numbered s.nextId) := by
  have hitems : s.itemsOf g = [] := by
    rw [itemsOf_eq, hheld]
    rfl
  rw [outsOf_eq]
  dsimp only
  rw [hitems]
  rfl

theorem afterCommit_nothing {s : State} {g : Gang} (hg : s.gang? g.gid = some g) (hheld : g.held = []) (hkind : g.wakeKind ≠ 11) :
    ∃ t : State, t.gangs = (s.leaving g).gangs ∧ s.nextId ≤ t.nextId ∧ t.gang? g.gid = some ((s.putGang g).committing g) ∧
      (s.putGang g).commit g = (t.partsSettled g.gid (t.between ((s.putGang g).committing g))).sweep g.die g.core := by
  obtain ⟨t, hgangs, -, -, hnext, hgang, hcommit⟩ := afterCommit hg (by rw [hheld]; exact fun e he => (List.not_mem_nil he).elim)
    (outsOf_nil (s := s.leaving g) (g := (s.putGang g).committing g) hheld) (fun o ho => (List.not_mem_nil ho).elim) hkind
  exact ⟨t, hgangs, hnext, hgang, hcommit⟩

/-! ## A clean commit of a gang that goes on as one (R53, R129) -/

theorem Settled.held {g k : Gang} (h : Settled g k) (hheld : g.held = []) : k.held = [] := by
  cases h with
  | begun s port => exact begun_held s g port
  | left => exact hheld

/-- A part that is settled runs where it stood, or lies in the Landing. -/
theorem Settled.outcome {g k : Gang} (h : Settled g k) :
    k.phase = .run ∧ k.place = g.place ∧ (k.anchor = k.arch ∨ g.ctx = firmware) ∨ k.phase = .parked ∧ k.place = .landing := by
  cases h with
  | begun s port hplace =>
    refine .inl ⟨rfl, (begun_place s g port).trans hplace.symm, ?_⟩
    by_cases hctx : g.ctx = firmware
    · exact .inr hctx
    · exact .inl (begun_anchor s g port fun hc => hctx hc.1)
  | left hres hphase => exact .inr ⟨hphase, leavePort_resident hres⟩

/-- A gang with no next addresses has itself as its one part. -/
theorem parts_one {k : Gang} (h : k.nexts = []) : k.parts = [k] := by
  have hk : { k with nexts := [] } = k := by rw [← h]
  unfold Gang.parts
  rw [h]
  exact congrArg (fun x => [x]) hk

section Parked
variable (s : State) (g : Gang)

@[simp] theorem parked_gid : (s.parked g).gid = g.gid := rfl
@[simp] theorem parked_root : (s.parked g).root = g.root := rfl
@[simp] theorem parked_place : (s.parked g).place = g.place := rfl
@[simp] theorem parked_phase : (s.parked g).phase = .parked := rfl
@[simp] theorem parked_wakeKind : (s.parked g).wakeKind = g.wakeKind := rfl
@[simp] theorem parked_arch : (s.parked g).arch = g.arch := rfl
@[simp] theorem parked_held : (s.parked g).held = g.held := rfl
@[simp] theorem parked_ctx : (s.parked g).ctx = g.ctx := rfl
@[simp] theorem parked_resident : (s.parked g).resident = g.resident := rfl

end Parked

/-- One part that waits for no other is settled where it stands. -/
theorem partsSettled_one {t : State} {k x : Gang} (hfound : t.gang? k.gid = some x) (hkind : k.wakeKind ≤ 1) (hnexts : k.nexts = []) (hres : k.resident = true) :
    ∃ u l, (t.partsSettled k.gid k).gang? k.gid = some l ∧ Settled (State.parked u k) l := by
  have hsplit : ((t.putGang k).splitInto k.gid k.parts).1 = ((t.putGang k).putGang k).putGang (((t.putGang k).putGang k).parked k) := by
    rw [parts_one hnexts, splitInto_cons, parkPart_simple hkind]
    rfl
  have hgang : (((t.putGang k).putGang k).putGang (((t.putGang k).putGang k).parked k)).gang? k.gid = some (((t.putGang k).putGang k).parked k) :=
    gang?_putGang (g := ((t.putGang k).putGang k).parked k) (gang?_putGang (gang?_putGang hfound))
  rw [partsSettled_eq hkind rfl, hsplit]
  refine ⟨(t.putGang k).putGang k, settleParts_settled (g := ((t.putGang k).putGang k).parked k) ?_ hgang hres rfl ?_⟩
  · refine List.mem_map.mpr ⟨_, List.mem_filter.mpr ⟨List.mem_of_find?_eq_some hgang, ?_⟩, rfl⟩
    simp [hres]
  · rw [parked_wakeKind]
    omega

/-- The commit of a flight with nothing held, whose gang waits for nothing. -/
theorem commit_clean {s : State} {g : Gang} (h : Commits s g) (hheld : g.held = []) (hnexts : g.nexts = []) (hkind : g.wakeKind = 0) :
    ∃ k, ((s.putGang g).commit g).gang? g.gid = some k ∧
      k.arch.flightid = flightIdOf g.arch.flightid (g.arch.flightid.toNat % 2 ^ 29 + 1) g.arch.lowSlice ∧ k.held = [] ∧
      ((s.putGang g).commit g).mem = s.mem ∧
      (k.phase = .run ∧ k.place = g.place ∧ (k.anchor = k.arch ∨ g.ctx = firmware) ∨ k.phase = .parked ∧ k.place = .landing) := by
  have hhanded : ∀ e ∈ g.held, Handed e.eff := by
    rw [hheld]
    exact fun e he => (List.not_mem_nil he).elim
  obtain ⟨os, -, hmem, -⟩ := commit_handed h.found (by omega) hhanded
  obtain ⟨t, -, -, hgang, hcommit⟩ := afterCommit_nothing h.found hheld (by omega)
  obtain ⟨u, l, hl, hset⟩ := partsSettled_one (t := t) (k := t.between ((s.putGang g).committing g)) (by rw [between_gid]; exact hgang)
    (by rw [between_wakeKind, committing_wakeKind]; omega) (by rw [between_nexts, committing_nexts, hnexts]; rfl)
    (by unfold Gang.resident; rw [between_place, committing_place]; exact h.resident)
  rw [between_gid, committing_gid] at hl
  have hflight := hset.samePart.flow.flightid
  have hplace := hset.outcome
  rw [parked_arch, between_arch, committing_arch] at hflight
  rw [parked_place, between_place, committing_place, parked_ctx, between_ctx, committing_ctx] at hplace
  refine ⟨l, ?_, hflight.trans ?_, hset.held (by rw [parked_held, between_held]), hmem, hplace⟩
  · rw [hcommit]
    exact (Quiet.sweep.gang? _).trans hl
  · unfold Arch.counted field
    rw [numbered_flightid, Nat.pow_zero, Nat.div_one]

end Sys2Proof

/-!
# The events of one gang
-/

namespace Sys2Proof

open Machine

/-! ## The events of one gang -/

/-- A flight with nothing held, that waits for nothing, has no fault at its end. -/
theorem lateFault_none {s : State} {g : Gang} (hheld : g.held = []) (hkind : g.wakeKind = 0) : s.lateFault g = none := by
  have hpath : s.latePath g = none := by
    unfold State.latePath
    rw [hheld]
    rfl
  have hlate : s.heldLate g g.held = (none, s) := by
    rw [hheld]
    rfl
  unfold State.lateFault
  rw [hpath]
  dsimp only
  rw [hlate]
  dsimp only
  unfold State.endLate
  simp [hkind]

theorem flightCommit_runs {s : State} {g : Gang} (hcur : s.cur = none) (hg : s.gang? g.gid = some g) (hmay : s.mayCommit g = true) :
    exec (.flightCommit g.gid .clean) s = .next (s.flightEnd g .clean) := by
  show execFlightCommit g.gid .clean s = _
  unfold execFlightCommit
  rw [hg]
  exact if_pos (by simp [hcur, hmay])

/-- The number that another die gives an `Inst` tells its own die and slot. -/
theorem homeInst_instName (e : Nat) {h : Nat × Nat} (hslot : h.2 < 256) : homeInst e (instName e h) = h := by
  obtain ⟨d, i⟩ := h
  unfold homeInst instName
  dsimp only at hslot ⊢
  by_cases hd : d = e
  · rw [if_pos hd, if_pos (by omega), hd]
  · rw [if_neg hd, if_neg (by omega)]
    exact Prod.ext (by dsimp only; omega) (by dsimp only; omega)

theorem moved_die (s : State) (g : Gang) (core : Nat) : s.moved g g.die core = { g with core := core, place := .landing, since := none } := if_pos rfl

theorem moved_otherDie (s : State) (g : Gang) {e : Nat} (core : Nat) (he : e ≠ g.die) : s.moved g e core =
    { g with
      die := e, core := core, place := .landing, since := none, inst := instName e (homeInst g.die g.inst)
      causal := mergeVec g.causal ((List.range 4).map fun f => (s.die f).sent), ackScope := 0, lost := g.lost + 1000 } := if_neg he

/-- The part of O56 that speaks of the events of one gang. -/
theorem gangEventsRun : GangEventsRun := by
  intro s g hcur hg
  refine ⟨fun hmay => ⟨?_, fun port hplace hcount hhandler => parity_runs hcur hg hmay hplace hcount hhandler⟩, fun port helig htake hfirst hplace => ?_,
    preemptGang_runs hcur hg, fun core hmovable hspill hcore hopen hdue hfits => ?_,
    fun e core hmovable hspill he hdie hmask hrun hcross hopen hdue hfits => ?_, fun a p hmiss hread => ⟨?_, ?_⟩, fun q hq hmay => ⟨?_, ?_, ?_⟩⟩
  · refine ⟨_, flightCommit_runs hcur hg hmay, fun hheld hnexts hkind hpath hres hrecord => ?_⟩
    have hc : Commits s g := ⟨hcur, hg, hmay, hpath, hres, lateFault_none hheld hkind, hrecord⟩
    have hend : s.flightEnd g .clean = (s.putGang g).commit g := Host.Outcome.next.inj ((flightCommit_runs hcur hg hmay).symm.trans hc.exec)
    rw [hend]
    exact commit_clean hc hheld hnexts hkind
  · obtain ⟨k, hk⟩ := relaunch_gang hg helig htake hplace
    exact ⟨_, k, relaunch_runs hcur hg helig htake hplace hfirst, hk⟩
  · have hmoved := moved_die s g core
    rw [← hmoved] at hfits ⊢
    exact recordMove_runs hcur hg hmovable hspill (by rw [if_pos rfl]; exact hcore) (by rw [hmoved]; exact hopen) hdue hfits
  · have hmoved := moved_otherDie s g core hdie
    refine ⟨s.moved g e core, recordMove_runs hcur hg hmovable hspill (by rw [if_neg hdie]; exact ⟨he, hmask, hrun, hcross⟩) (by rw [hmoved]; exact hopen) hdue hfits, ?_⟩
    rw [hmoved]
    exact ⟨rfl, rfl, rfl, rfl, rfl, rfl, homeInst_instName e, rfl⟩
  · exact fun l h u hwalk hplaced hready => pageWalk_ok hcur hg hmiss hread hwalk hplaced hready
  · exact fun ⟨w, c⟩ hw hphase hwalk => pageWalk_fault hcur hg hmiss hread hw hphase hwalk
  · exact fun pa hline hreadable => resultArrival_phys hg hq hmay hline hreadable
  · exact fun b o hline hpin => ⟨fun hb hhalf => by subst hb; exact resultArrival_scratch hg hq hmay hline hpin hhalf,
      fun hb hpath => remoteScratchAccess_load hg hq hmay hline hb hpin hpath⟩
  · exact fun b o j hline hj hpin => scratchRefill_runs hg hq hcur hline hj hpin

end Sys2Proof

/-!
# A commit whose gang is split (R45, R46)
-/

namespace Sys2Proof

open Machine

/-! ## Splits (R45, R46) -/

section Maps
variable {α : Type}

/-- Changing the values of different keys changes each once. -/
theorem look_alters [DecidableEq α] (d : α) (f : α → α) {ks : List Nat} (hks : ks.Nodup) (m : List (Nat × α)) (j : Nat) :
    look d (ks.foldl (fun m k => alter d m k f) m) j = if j ∈ ks then f (look d m j) else look d m j := by
  induction ks generalizing m with
  | nil => simp
  | cons k ks ih =>
    obtain ⟨hk, hks⟩ := List.nodup_cons.mp hks
    rw [List.foldl_cons, ih hks, look_alter]
    by_cases hj : k = j
    · subst hj
      simp [hk]
    · simp [hj, Ne.symm hj]

/-- The entries that a map keeps. -/
theorem look?_keepKeys (m : List (Nat × α)) (own : Nat → Bool) (j : Nat) : look? (keepKeys m own) j = if own j then look? m j else none := by
  induction m with
  | nil => simp [keepKeys]
  | cons e m ih =>
    obtain ⟨k, v⟩ := e
    unfold keepKeys at ih ⊢
    rw [List.filter_cons]
    by_cases hk : k = j
    · subst hk
      cases hown : own k with
      | true => simp [look?]
      | false => simpa [hown] using ih
    · cases hown : own k with
      | true => simpa [hown, look?, hk] using ih
      | false => simpa [hown, look?, hk] using ih

end Maps

theorem nodup_bitsOf {n : Nat} (x : BitVec n) : (bitsOf x).Nodup := List.nodup_range.filter _

/-- The slices of a group are those that go on at its address. -/
theorem groupByAddr_mem (ns : List (Nat × DWord)) : ∀ q ∈ groupByAddr ns, ∀ k ∈ q.2, (k, q.1) ∈ ns := by
  unfold groupByAddr
  refine List.foldlRecOn (motive := fun m : List (DWord × List Nat) => ∀ q ∈ m, ∀ k ∈ q.2, (k, q.1) ∈ ns) ns _ (fun q hq => (List.not_mem_nil hq).elim) fun m hm e he => ?_
  split
  · intro q hq k hk
    obtain ⟨p, hp, rfl⟩ := List.mem_map.mp hq
    split at hk
    · rename_i heq
      rw [if_pos heq]
      rcases List.mem_append.mp hk with hk | hk
      · exact hm p hp k hk
      · rw [List.mem_singleton.mp hk, eq_of_beq heq]
        exact he
    · rename_i hne
      rw [if_neg hne]
      exact hm p hp k hk
  · intro q hq k hk
    rcases List.mem_append.mp hq with hq | hq
    · exact hm q hq k hk
    · rw [List.mem_singleton.mp hq] at hk ⊢
      rw [List.mem_singleton.mp hk]
      exact he

/-- The bits of some slices. -/
theorem getLsbD_slices (ks : List Nat) (j : Nat) : (ks.foldl (fun (m : Byte) k => m ||| (1#8 <<< k)) 0#8).getLsbD j = decide (j < 8 ∧ j ∈ ks) := by
  have hgen : ∀ m : Byte, (ks.foldl (fun (m : Byte) k => m ||| (1#8 <<< k)) m).getLsbD j = (m.getLsbD j || decide (j < 8 ∧ j ∈ ks)) := by
    induction ks with
    | nil => simp
    | cons k ks ih =>
      intro m
      rw [List.foldl_cons, ih, BitVec.getLsbD_or, BitVec.getLsbD_shiftLeft, Bool.or_assoc]
      by_cases hj : j < 8
      · have hone : (decide (j < 8) && !decide (j < k) && (1#8).getLsbD (j - k)) = decide (j = k) := by
          rw [BitVec.getLsbD_one, Bool.eq_iff_iff]
          simp only [Bool.and_eq_true, Bool.not_eq_true', decide_eq_true_eq, decide_eq_false_iff_not]
          omega
        rw [hone]
        simp [hj, Bool.decide_or]
      · simp [hj]
  rw [hgen]
  simp

/-- The slices that go on at one address. -/
def slicesOfGroup (q : DWord × List Nat) : Byte := q.2.foldl (fun (m : Byte) k => m ||| (1#8 <<< k)) 0#8

/-- The registers of the part that goes on at an address. -/
def Machine.Arch.partAt (a : Arch) (q : DWord × List Nat) : Arch :=
  let x := a.restrict (slicesOfGroup q &&& a.slices)
  { x with pc := q.1, bracket := false, split := x.slicesList.foldl (fun m k => alter [] m k (a.slices :: ·)) x.split,
           flightid := flightIdOf x.flightid (field x.flightid 0 29) x.lowSlice }

/-- A gang with some slices' registers and lanes alone. -/
def Machine.Gang.partWith (g : Gang) (sl : Byte) (a : Arch) : Gang := { g.keepLanes sl with arch := a, nexts := [] }

@[simp] theorem partWith_arch (g : Gang) (sl : Byte) (a : Arch) : (g.partWith sl a).arch = a := rfl
@[simp] theorem partWith_root (g : Gang) (sl : Byte) (a : Arch) : (g.partWith sl a).root = g.root := rfl

theorem parts_many {k : Gang} (h : 2 ≤ (groupByAddr k.nexts).length) :
    k.parts = (groupByAddr k.nexts).map fun q => k.partWith (slicesOfGroup q) (k.arch.partAt q) := by
  unfold Gang.parts
  split
  · rename_i a b rest heq
    rw [heq]
    rfl
  · rename_i hne
    match hgroups : groupByAddr k.nexts with
    | [] => rw [hgroups] at h; simp at h
    | [a] => rw [hgroups] at h; simp at h
    | a :: b :: rest => exact absurd hgroups (hne a b rest)

/-- What a part has: its address, its slices, and the splitting set on its stacks. -/
theorem partAt_flow {a : Arch} {q : DWord × List Nat} (hq : ∀ k ∈ q.2, k < 8 ∧ a.slices.getLsbD k = true) : (a.partAt q).pc = q.1 ∧
    (∀ j, (a.partAt q).slices.getLsbD j = decide (j ∈ q.2)) ∧ ∀ j ∈ q.2, look [] (a.partAt q).split j = a.slices :: look [] a.split j := by
  have hslices : ∀ j, (slicesOfGroup q &&& a.slices).getLsbD j = decide (j ∈ q.2) := by
    intro j
    rw [BitVec.getLsbD_and, slicesOfGroup, getLsbD_slices]
    by_cases hj : j ∈ q.2
    · obtain ⟨hlt, hbit⟩ := hq j hj
      simp [hj, hlt, hbit]
    · simp [hj]
  refine ⟨rfl, hslices, fun j hj => ?_⟩
  have hin : j ∈ (a.restrict (slicesOfGroup q &&& a.slices)).slicesList := by
    refine (mem_bitsOf _ _).mpr ?_
    rw [show (a.restrict (slicesOfGroup q &&& a.slices)).slices = slicesOfGroup q &&& a.slices from rfl, hslices]
    simpa using hj
  have hkept : look [] (a.restrict (slicesOfGroup q &&& a.slices)).split j = look [] a.split j := by
    unfold look
    rw [show (a.restrict (slicesOfGroup q &&& a.slices)).split = keepKeys a.split fun k => (slicesOfGroup q &&& a.slices).getLsbD k from rfl, look?_keepKeys, hslices]
    simp [hj]
  exact (look_alters [] (a.slices :: ·) (nodup_bitsOf _) _ j).trans ((if_pos hin).trans (congrArg _ hkept))

/-! ## The parts of a split among the gangs -/

/-- Every gang's number has been given out. -/
def Machine.State.Counted (s : State) : Prop := ∀ k ∈ s.gangs, k.gid < s.nextId

theorem counted_putGang {s : State} (h : s.Counted) {g : Gang} (hg : g.gid < s.nextId) : (s.putGang g).Counted := by
  intro k hk
  obtain ⟨x, hx, rfl⟩ := List.mem_map.mp hk
  split
  · exact hg
  · exact h x hx

theorem counted_gang? {s : State} (h : s.Counted) {n : Nat} {g : Gang} (hg : s.gang? n = some g) : n < s.nextId :=
  gang?_gid hg ▸ h g (List.mem_of_find?_eq_some hg)

theorem counted_withPart {s : State} (h : s.Counted) (q : Gang) : (s.withPart q).Counted := by
  intro k hk
  rcases List.mem_append.mp hk with hk | hk
  · exact Nat.lt_succ_of_lt (h k hk)
  · rw [List.mem_singleton.mp hk]
    exact Nat.lt_succ_self _

theorem withPart_gang?_new {s : State} (h : s.Counted) (q : Gang) : (s.withPart q).gang? s.nextId = some (partOf q s.nextId) := by
  have hnone : s.gangs.find? (fun g => g.gid == s.nextId) = none := List.find?_eq_none.mpr fun k hk => by
    have := h k hk
    simp
    omega
  refine (List.find?_append ..).trans ?_
  rw [hnone]
  simp [partOf]

theorem withPart_gang?_old {s : State} {n : Nat} {g : Gang} (hg : s.gang? n = some g) (q : Gang) : (s.withPart q).gang? n = some g := by
  refine (List.find?_append ..).trans ?_
  rw [show s.gangs.find? (fun g => g.gid == n) = some g from hg]
  rfl

/-- Where a part of a split is found. -/
def Machine.State.Finds (s : State) (q : Gang) : Prop := ∃ n k, s.gang? n = some k ∧ SamePart q k

theorem splitStep_finds {acc : State × List Nat} {q : Gang} (hc : acc.1.Counted) (hq : q.wakeKind ≤ 1) : (splitStep acc q).1.Counted ∧ (splitStep acc q).1.Finds q ∧
    ∀ p, acc.1.Finds p → (splitStep acc q).1.Finds p := by
  rw [splitStep_simple hq]
  refine ⟨counted_putGang (counted_withPart hc q) (Nat.lt_succ_self _), ⟨acc.1.nextId, _, gang?_putGang (withPart_gang?_new hc q), rfl, .refl⟩, ?_⟩
  rintro p ⟨n, k, hk, hpart⟩
  exact ⟨n, k, (gang?_putGang_other (Nat.ne_of_lt (counted_gang? hc hk))).trans (withPart_gang?_old hk q), hpart⟩

theorem splitSteps_find {qs : List Gang} (hkind : ∀ q ∈ qs, q.wakeKind ≤ 1) {acc : State × List Nat} (hc : acc.1.Counted) :
    (∀ q ∈ qs, (qs.foldl splitStep acc).1.Finds q) ∧ ∀ p, acc.1.Finds p → (qs.foldl splitStep acc).1.Finds p := by
  induction qs generalizing acc with
  | nil => exact ⟨fun q hq => (List.not_mem_nil hq).elim, fun p hp => hp⟩
  | cons q qs ih =>
    obtain ⟨hc', hnew, hold⟩ := splitStep_finds hc (hkind q (.head _))
    obtain ⟨hall, hkeep⟩ := ih (fun r hr => hkind r (.tail _ hr)) hc'
    refine ⟨fun r hr => ?_, fun p hp => hkeep p (hold p hp)⟩
    cases hr with
    | head => exact hkeep q hnew
    | tail _ hr => exact hall r hr

theorem splitInto_finds {s : State} {gid : Nat} {ps : List Gang} {g : Gang} (hc : s.Counted) (hg : s.gang? gid = some g) (hkind : ∀ p ∈ ps, p.wakeKind ≤ 1)
    (hgid : ∀ p ∈ ps, p.gid = gid) : ∀ p ∈ ps, (s.splitInto gid ps).1.Finds p := by
  cases ps with
  | nil => exact fun p hp => (List.not_mem_nil hp).elim
  | cons p ps =>
    obtain rfl := hgid p (.head _)
    rw [splitInto_cons, parkPart_simple (hkind p (.head _))]
    have hlt := counted_gang? hc hg
    have hput := gang?_putGang hg
    obtain ⟨hall, hkeep⟩ := splitSteps_find (fun q hq => hkind q (.tail _ hq)) (acc := ((s.putGang p).putGang ((s.putGang p).parked p), [p.gid]))
      (counted_putGang (counted_putGang hc hlt) hlt)
    intro q hq
    cases hq with
    | head => exact hkeep p ⟨p.gid, _, gang?_putGang (g := (s.putGang p).parked p) hput, rfl, .refl⟩
    | tail _ hq => exact hall q hq

/-- The parts of a gang that waits for none are among the gangs at the end. -/
theorem partsSettled_finds {t : State} {k x : Gang} (hc : t.Counted) (hg : t.gang? k.gid = some x) (hkind : k.wakeKind ≤ 1) :
    ∀ p ∈ k.parts, (t.partsSettled k.gid k).Finds p := by
  intro p hp
  obtain ⟨n, l, hl, hpart⟩ := splitInto_finds (counted_putGang hc (counted_gang? hc hg)) (gang?_putGang hg) (fun p hp => (parts_kind hkind rfl p hp).1)
    (fun p hp => (parts_kind hkind rfl p hp).2) p hp
  rw [partsSettled_eq hkind rfl]
  obtain ⟨m, hm, hsame⟩ := settleParts_samePart _ hl
  exact ⟨n, m, hm, hpart.trans hsame⟩

/-! ## A commit whose gang is split -/

theorem commit_split {s : State} {g : Gang} (hg : s.gang? g.gid = some g) (hkind : g.wakeKind ≤ 1) (hheld : g.held = []) (hcount : s.Counted)
    (hnexts : ∀ e ∈ g.nexts, e.1 < 8 ∧ g.arch.slices.getLsbD e.1 = true) (htwo : 2 ≤ (groupByAddr g.nexts).length) {q : DWord × List Nat} (hq : q ∈ groupByAddr g.nexts) :
    ∃ k ∈ ((s.putGang g).commit g).gangs, k.root = g.root ∧ k.arch.pc = q.1 ∧ (∀ j, k.arch.slices.getLsbD j = decide (j ∈ q.2)) ∧
      ∀ j ∈ q.2, look [] k.arch.split j = g.arch.slices :: look [] g.arch.split j := by
  obtain ⟨t, hgangs, hnext, hgang, hcommit⟩ := afterCommit_nothing hg hheld (by omega)
  have hlt := counted_gang? hcount hg
  have hc : t.Counted := by
    intro k hk
    rw [hgangs] at hk
    exact Nat.lt_of_lt_of_le (counted_putGang (g := (s.putGang g).committing g) (counted_putGang hcount hlt) hlt k hk) hnext
  have hall : (t.between ((s.putGang g).committing g)).nexts = g.nexts := by
    rw [between_nexts, committing_nexts, committing_arch]
    exact List.filter_eq_self.mpr fun e he => (hnexts e he).2
  have harch : (t.between ((s.putGang g).committing g)).arch = g.arch.counted := by rw [between_arch, committing_arch]
  obtain ⟨n, k, hk, hpart⟩ := partsSettled_finds hc (k := t.between ((s.putGang g).committing g)) (by rw [between_gid]; exact hgang)
    (by rw [between_wakeKind, committing_wakeKind]; exact hkind) _ (by rw [parts_many (by rw [hall]; exact htwo), hall]; exact List.mem_map.mpr ⟨q, hq, rfl⟩)
  obtain ⟨hroot, hslices, hpc, hsplit, -⟩ := hpart
  rw [partWith_root, between_root, committing_root] at hroot
  rw [partWith_arch, harch] at hslices hpc hsplit
  obtain ⟨hpc', hslices', hsplit'⟩ := partAt_flow (a := g.arch.counted) (q := q) fun j hj => by
    rw [counted_slices]
    exact hnexts _ (groupByAddr_mem g.nexts q hq j hj)
  rw [between_gid, committing_gid] at hk
  rw [hcommit]
  refine ⟨k, List.mem_of_find?_eq_some hk, hroot, hpc.trans hpc', fun j => by rw [hslices, hslices'], fun j hj => ?_⟩
  rw [hsplit, hsplit' j hj, counted_slices, counted_split]

end Sys2Proof

/-!
# Two parts that meet at a REGANG (R47)
-/

namespace Sys2Proof

open Machine

/-! ## Two parts that meet at a REGANG (R47) -/

/-- A gang parked at a REGANG for the slices `w`, with nothing to be read back. -/
structure AwaitsAll (w : Byte) (r : Nat) (g : Gang) : Prop where
  root : g.root = r
  phase : g.phase = .parked
  woken : g.woken = false
  kind : g.wakeKind = 3
  slices : g.arch.rendezvous = some w
  place : ∀ a, g.place ≠ .spill a
  pend : ∀ p ∈ g.pend, p.complete = true

/-- Two parts of a task gang that wait at one REGANG, and are all of it. -/
structure Pair (s : State) (w : Byte) (r : Nat) (x y : Gang) : Prop where
  first : AwaitsAll w r x
  second : AwaitsAll w r y
  header : y.wakeOp = x.wakeOp
  token : y.wakeOp2 &&& 0xFFF#64 = x.wakeOp2 &&& 0xFFF#64
  depth : y.arch.depth = x.arch.depth
  whole : w = x.arch.slices ||| y.arch.slices
  parts : (s.gangs.filter fun k => k.root == r).Perm [x, y]

theorem Pair.symm {s : State} {w : Byte} {r : Nat} {x y : Gang} (h : Pair s w r x y) : Pair s w r y x :=
  ⟨h.second, h.first, h.header.symm, h.token.symm, h.depth.symm, h.whole.trans (BitVec.or_comm _ _), h.parts.trans (.swap y x [])⟩

section Pairs
variable {s : State} {w : Byte} {r : Nat} {x y : Gang}

/-- The parts hold the slices of both. -/
theorem Pair.slicesHeld (h : Pair s w r x y) {k : Gang} (hk : k.root = r) : s.slicesHeld k = w := by
  have hfold : ∀ gs : List Gang, gs.Perm [x, y] → gs.foldl (fun m h => m ||| h.arch.slices) 0#8 = w := by
    intro gs hgs
    rcases List.perm_pair.mp hgs with rfl | rfl
    · simp [h.whole]
    · simp [h.whole, BitVec.or_comm]
  unfold State.slicesHeld
  rw [hk]
  exact hfold _ h.parts

theorem Pair.meetKey (h : Pair s w r x y) : s.meetKey x = some (3, w, x.wakeOp2 &&& 0xFFF#64, x.wakeOp, x.arch.depth) := by
  unfold State.meetKey
  rw [h.first.phase, h.first.woken, h.first.kind, h.first.slices, h.slicesHeld h.first.root]
  simp

theorem Pair.meetKey_eq (h : Pair s w r x y) : s.meetKey y = s.meetKey x := by
  rw [h.meetKey, h.symm.meetKey, h.header, h.token, h.depth]

theorem Pair.meeting (h : Pair s w r x y) : (s.meeting x).Perm [x, y] := by
  unfold State.meeting
  rw [h.meetKey, h.first.root]
  refine (List.mergeSort_perm _ _).trans ?_
  have hsplit : (s.gangs.filter fun k => k.root == r && s.meetKey k == some (3, w, x.wakeOp2 &&& 0xFFF#64, x.wakeOp, x.arch.depth)) =
      (s.gangs.filter fun k => k.root == r).filter fun k => s.meetKey k == some (3, w, x.wakeOp2 &&& 0xFFF#64, x.wakeOp, x.arch.depth) := by
    rw [List.filter_filter]
    exact List.filter_congr fun k _ => Bool.and_comm _ _
  rw [hsplit, List.filter_eq_self.mpr]
  · exact h.parts
  · intro k hk
    rw [beq_iff_eq, ← h.meetKey]
    rcases List.mem_cons.mp (h.parts.mem_iff.mp hk) with rfl | hk
    · rfl
    · rw [List.mem_singleton.mp hk]
      exact h.meetKey_eq

theorem AwaitsAll.readBack {g : Gang} (h : AwaitsAll w r g) : s.readBack g = .inl g := by
  unfold State.readBack
  split
  · rename_i a ha; exact absurd ha (h.place a)
  · rfl

theorem AwaitsAll.recordWants {g : Gang} (h : AwaitsAll w r g) : s.recordWants g = [] := by
  unfold State.recordWants
  split
  · rename_i a ha; exact absurd ha (h.place a)
  · rfl

/-- A gang where another stands. -/
def Machine.Gang.standsAs (m h : Gang) : Gang := { m with place := h.place, granted := h.granted, pair := h.pair }

/-- Two parts as one gang, the first with the lower slices. -/
def Machine.Gang.mergedWith (p q : Gang) : Gang := (p.leavePort.deliverAll.join q.leavePort.deliverAll).merged

/-- A record that cannot be read back, with its fault. -/
def Machine.State.unread? (s : State) (h : Gang) : Option (Gang × FaultInfo) :=
  match s.readBack h with
  | .inr f => some (h, f)
  | .inl _ => none

/-- A part as it is read back, off its port and with its results. -/
def Machine.State.back (s : State) (h : Gang) : Gang :=
  match s.readBack h with
  | .inl k => k.leavePort.deliverAll
  | .inr _ => h

/-- Some parts in one gang. -/
def Machine.State.mergeParts (s : State) (p : Gang) (ps : List Gang) : State :=
  let all := ((ps.map s.back).foldl Gang.join (s.back p)).merged
  let m := match (p :: ps).find? (·.resident) with
    | some h => all.standsAs h
    | none => all
  let t := ps.foldl (fun (s : State) h => s.dropGang h.gid) s
  (t.putGang m).sweep m.die m.core

theorem tryMerge_def (s : State) (gid : Nat) : s.tryMerge gid =
    match (s.gang? gid).bind fun g => (s.meetKey g).map fun k => (s.meeting g, k.2.1) with
    | some (p :: ps, w) =>
      if (p :: ps).all (fun h => h.pend.all (·.complete) && (s.recordWants h).isEmpty) && w &&& ~~~((p :: ps).foldl (fun m h => m ||| h.arch.slices) 0#8) = 0#8 then
        match (p :: ps).findSome? s.unread? with
        | some (h, f) => s.takeFault h.gid f true 0#64 0
        | none => s.mergeParts p ps
      else s
    | _ => s := rfl

theorem Pair.tryMerge (h : Pair s w r x y) (hfound : s.gang? x.gid = some x) (hres : x.resident = true) (hres' : y.resident = false) :
    ∃ p q, [p, q].Perm [x, y] ∧ s.tryMerge x.gid =
      ((s.dropGang q.gid).putGang ((p.mergedWith q).standsAs x)).sweep ((p.mergedWith q).standsAs x).die ((p.mergedWith q).standsAs x).core := by
  obtain ⟨p, q, hpq⟩ : ∃ p q, s.meeting x = [p, q] := by
    rcases List.perm_pair.mp h.meeting with hm | hm
    · exact ⟨x, y, hm⟩
    · exact ⟨y, x, hm⟩
  have hperm : [p, q].Perm [x, y] := hpq ▸ h.meeting
  have hall : ∀ k ∈ [p, q], AwaitsAll w r k := by
    intro k hk
    rcases List.mem_cons.mp (hperm.mem_iff.mp hk) with rfl | hk
    · exact h.first
    · rw [List.mem_singleton.mp hk]
      exact h.second
  have hready : ([p, q].all fun h => h.pend.all (·.complete) && (s.recordWants h).isEmpty) = true := by
    rw [List.all_eq_true]
    intro k hk
    rw [(hall k hk).recordWants, List.all_eq_true.mpr (hall k hk).pend]
    rfl
  have hwhole : w &&& ~~~([p, q].foldl (fun m h => m ||| h.arch.slices) 0#8) = 0#8 := by
    have hor : [p, q].foldl (fun m h => m ||| h.arch.slices) 0#8 = w := by
      rcases List.perm_pair.mp hperm with he | he
      · rw [he]; simp [h.whole]
      · rw [he]; simp [h.whole, BitVec.or_comm]
    rw [hor]
    exact BitVec.and_not_self w
  have hback : [p, q].findSome? s.unread? = none := by
    rw [List.findSome?_eq_none_iff]
    intro k hk
    unfold State.unread?
    rw [(hall k hk).readBack]
  have hread : s.back p = p.leavePort.deliverAll ∧ s.back q = q.leavePort.deliverAll := by
    unfold State.back
    rw [(hall p (.head _)).readBack, (hall q (.tail _ (.head _))).readBack]
    exact ⟨rfl, rfl⟩
  have hfind : [p, q].find? (·.resident) = some x := by
    rcases List.perm_pair.mp hperm with he | he
    · rw [he]; simp [hres]
    · rw [he]; simp [hres, hres']
  refine ⟨p, q, hperm, ?_⟩
  rw [tryMerge_def, hfound, Option.bind_some, h.meetKey, Option.map_some, hpq]
  dsimp only
  rw [if_pos (by rw [hready, hwhole]; rfl), hback]
  dsimp only
  unfold State.mergeParts
  rw [hfind, List.map_cons, List.map_nil, List.foldl_cons, List.foldl_nil, hread.1, hread.2]
  rfl

end Pairs
end Sys2Proof

/-!
# The gang that two parts become (R47)
-/

namespace Sys2Proof

open Machine

/-! ## The gang that two parts become (R47) -/

/-- An entry of two maps in one is the first's, or the second's. -/
theorem look?_union? {α : Type} (a b : List (Nat × α)) (j : Nat) : look? (union? a b) j = (look? a j).or (look? b j) := by
  unfold union?
  induction b generalizing a with
  | nil => simp
  | cons e b ih =>
    obtain ⟨k, v⟩ := e
    rw [List.foldl_cons, ih]
    by_cases hk : k = j
    · subst hk
      cases ha : look? a k with
      | some x => simp [ha]
      | none => simp [look?]
    · have hkeep : look? (if (look? a k).isSome then a else put? a k (some v)) j = look? a j := by
        split
        · rfl
        · exact look?_put?_other _ _ hk
      simp only [hkeep, look?, hk, if_false]

/-- The first of two parts, with both parts' lanes and given registers. -/
def Machine.Gang.joinedAs (a b : Gang) (x : Arch) : Gang :=
  { a with arch := x, lanes := a.lanes ++ b.lanes, ackScope := max a.ackScope b.ackScope,
           fenced := a.fenced || b.fenced, slack := min a.slack b.slack, pathFault := a.pathFault.or b.pathFault,
           causal := mergeVec a.causal b.causal, owes := (a.owes ++ b.owes).eraseDups, fetchFrom := min a.fetchFrom b.fetchFrom, lost := max a.lost b.lost }

theorem join_eq (a b : Gang) : a.join b = a.joinedAs b (a.arch.join b.arch) := rfl

@[simp] theorem joinedAs_gid (a b : Gang) (x : Arch) : (a.joinedAs b x).gid = a.gid := rfl
@[simp] theorem joinedAs_root (a b : Gang) (x : Arch) : (a.joinedAs b x).root = a.root := rfl
@[simp] theorem joinedAs_wakeKind (a b : Gang) (x : Arch) : (a.joinedAs b x).wakeKind = a.wakeKind := rfl
@[simp] theorem joinedAs_arch (a b : Gang) (x : Arch) : (a.joinedAs b x).arch = x := rfl

/-- A gang that has met its parts, with given registers. -/
def Machine.Gang.metAs (g : Gang) (a : Arch) : Gang := { g with arch := a, woken := true, wakeKind := 0, wakeOp := 0#64, wakeOp2 := 0#64 }

@[simp] theorem metAs_gid (g : Gang) (a : Arch) : (g.metAs a).gid = g.gid := rfl
@[simp] theorem metAs_root (g : Gang) (a : Arch) : (g.metAs a).root = g.root := rfl
@[simp] theorem metAs_arch (g : Gang) (a : Arch) : (g.metAs a).arch = a := rfl

/-- Registers with one entry popped from each split stack. -/
def Machine.Arch.popped (a : Arch) : Arch := { a with split := a.slicesList.foldl (fun m k => alter [] m k List.tail) a.split }

theorem merged_regang {g : Gang} (h : g.wakeKind = 3) : g.merged = g.metAs g.arch.popped := by
  unfold Gang.merged
  simp only [h, if_true]
  rfl

@[simp] theorem popped_slices (a : Arch) : a.popped.slices = a.slices := rfl

theorem popped_split (a : Arch) {j : Nat} (hbit : a.slices.getLsbD j = true) : look [] a.popped.split j = (look [] a.split j).tail :=
  (look_alters [] List.tail (nodup_bitsOf a.slices) a.split j).trans (if_pos ((mem_bitsOf _ _).mpr hbit))

@[simp] theorem standsAs_gid (m h : Gang) : (m.standsAs h).gid = m.gid := rfl
@[simp] theorem standsAs_root (m h : Gang) : (m.standsAs h).root = m.root := rfl
@[simp] theorem standsAs_arch (m h : Gang) : (m.standsAs h).arch = m.arch := rfl

@[simp] theorem archJoin_slices (a b : Arch) : (a.join b).slices = a.slices ||| b.slices := rfl
@[simp] theorem archJoin_split (a b : Arch) : (a.join b).split = union? a.split b.split := rfl

/-- A part off its port, with its results, is the part that it was. -/
theorem backPart_flow (g : Gang) : SameFlow g.arch g.leavePort.deliverAll.arch := deliverAll_sameFlow g.leavePort

section Merged
variable {p q : Gang} (hkind : p.wakeKind = 3)
include hkind

theorem mergedWith_eq : p.mergedWith q = (p.leavePort.deliverAll.joinedAs q.leavePort.deliverAll
    (p.leavePort.deliverAll.arch.join q.leavePort.deliverAll.arch)).metAs (p.leavePort.deliverAll.arch.join q.leavePort.deliverAll.arch).popped := by
  unfold Gang.mergedWith
  rw [join_eq, merged_regang (by rw [joinedAs_wakeKind]; exact hkind), joinedAs_arch]

theorem mergedWith_gid : (p.mergedWith q).gid = p.gid := by
  rw [mergedWith_eq hkind, metAs_gid, joinedAs_gid]
  rfl

theorem mergedWith_root : (p.mergedWith q).root = p.root := by
  rw [mergedWith_eq hkind, metAs_root, joinedAs_root]
  rfl

theorem mergedWith_slices : (p.mergedWith q).arch.slices = p.arch.slices ||| q.arch.slices := by
  rw [mergedWith_eq hkind, metAs_arch, popped_slices, archJoin_slices, (backPart_flow p).slices, (backPart_flow q).slices]

/-- A slice of one part has that part's stack, less its top. -/
theorem mergedWith_split {j : Nat} (hbit : (p.arch.slices ||| q.arch.slices).getLsbD j = true) :
    look [] (p.mergedWith q).arch.split j = (((look? p.arch.split j).or (look? q.arch.split j)).getD []).tail := by
  rw [mergedWith_eq hkind, metAs_arch, popped_split _ (by rw [archJoin_slices, (backPart_flow p).slices, (backPart_flow q).slices]; exact hbit), archJoin_split,
    (backPart_flow p).split, (backPart_flow q).split]
  unfold look
  rw [look?_union?]

end Merged

/-! ## One gang of a task gang -/

/-- A gang that is all of its task gang, under a number that only it has. -/
structure Sole (s : State) (r : Nat) (k : Gang) : Prop where
  all : (s.gangs.filter fun m => m.root == r) = [k]
  number : ∀ m ∈ s.gangs, m.gid = k.gid → m.root = r

theorem Sole.mem {s : State} {r : Nat} {k : Gang} (h : Sole s r k) : k ∈ s.gangs ∧ k.root = r := by
  have hk : k ∈ s.gangs.filter fun m => m.root == r := by rw [h.all]; exact .head _
  obtain ⟨hmem, hroot⟩ := List.mem_filter.mp hk
  exact ⟨hmem, by simpa using hroot⟩

theorem Sole.eq {s : State} {r : Nat} {k m : Gang} (h : Sole s r k) (hm : m ∈ s.gangs) (hgid : m.gid = k.gid) : m = k := by
  have hin : m ∈ s.gangs.filter fun m => m.root == r := List.mem_filter.mpr ⟨hm, by simpa using h.number m hm hgid⟩
  rw [h.all] at hin
  exact List.mem_singleton.mp hin

/-- A gang put in its place among the gangs of a task gang. -/
theorem filter_putGang {s : State} {r : Nat} {k : Gang} (hk : k.root = r) (hnumber : ∀ m ∈ s.gangs, m.gid = k.gid → m.root = r) :
    ((s.putGang k).gangs.filter fun m => m.root == r) = (s.gangs.filter fun m => m.root == r).map fun m => if m.gid = k.gid then k else m := by
  refine (List.filter_map ..).trans (congrArg _ (List.filter_congr fun m hm => ?_))
  dsimp only [Function.comp_apply]
  by_cases hgid : m.gid = k.gid
  · rw [if_pos hgid, hk, hnumber m hm hgid]
  · rw [if_neg hgid]

theorem Sole.putGang {s : State} {r : Nat} {k l : Gang} (h : Sole s r k) (hgid : l.gid = k.gid) (hroot : l.root = r) : Sole (s.putGang l) r l := by
  refine ⟨?_, fun m hm hmg => ?_⟩
  · rw [filter_putGang hroot (by rw [hgid]; exact h.number), h.all, List.map_cons, List.map_nil, if_pos hgid.symm]
  · obtain ⟨x, hx, rfl⟩ := List.mem_map.mp hm
    by_cases hxg : x.gid = l.gid
    · rw [if_pos hxg]
      exact hroot
    · rw [if_neg hxg] at hmg ⊢
      exact absurd hmg hxg

theorem Sole.of_gangs {s t : State} {r : Nat} {k : Gang} (h : Sole s r k) (hgangs : t.gangs = s.gangs) : Sole t r k :=
  ⟨by rw [hgangs]; exact h.all, by rw [hgangs]; exact h.number⟩

theorem Sole.settlePart {s : State} {r : Nat} {k : Gang} (h : Sole s r k) : ∃ l, Sole (s.settlePart k.gid) r l ∧ l.gid = k.gid ∧ SamePart k l := by
  cases hg : s.gang? k.gid with
  | none =>
    refine ⟨k, ?_, rfl, .refl⟩
    unfold State.settlePart
    rw [hg]
    exact h
  | some g =>
    obtain rfl : g = k := h.eq (List.mem_of_find?_eq_some hg) (gang?_gid hg)
    rcases settlePart_cases hg with ⟨hs, -⟩ | ⟨t, l, hs, -, hgangs, hl, hset⟩
    · exact ⟨g, by rw [hs]; exact h, rfl, .refl⟩
    · refine ⟨l, ?_, hl, hset.samePart⟩
      rw [hs]
      exact (h.of_gangs hgangs).putGang hl (hset.samePart.root.trans h.mem.2)

theorem Sole.settleParts {s : State} {r : Nat} {k : Gang} (h : Sole s r k) : ∃ l, Sole ((s.standing r).foldl State.settlePart s) r l ∧ SamePart k l := by
  have hall : ∀ n ∈ s.standing r, n = k.gid := by
    intro n hn
    obtain ⟨m, hm, rfl⟩ := List.mem_map.mp hn
    obtain ⟨hmem, hprop⟩ := List.mem_filter.mp hm
    simp only [Bool.and_eq_true] at hprop
    obtain ⟨⟨hroot, -⟩, -⟩ := hprop
    have hin : m ∈ s.gangs.filter fun m => m.root == r := List.mem_filter.mpr ⟨hmem, hroot⟩
    rw [h.all, List.mem_singleton] at hin
    rw [hin]
  obtain ⟨l, hl, -, hsame⟩ := List.foldlRecOn (motive := fun t : State => ∃ l, Sole t r l ∧ l.gid = k.gid ∧ SamePart k l) (s.standing r) State.settlePart
    ⟨k, h, rfl, .refl⟩ fun t ⟨l, hl, hgid, hsame⟩ n hn => by
      obtain ⟨m, hm, hmg, hml⟩ := hl.settlePart
      rw [hall n hn, ← hgid]
      exact ⟨m, hm, hmg, hsame.trans hml⟩
  exact ⟨l, hl, hsame⟩

end Sys2Proof

/-!
# A commit at a REGANG, and the statement about scheduling (R47, R129)
-/

namespace Sys2Proof

open Machine

/-! ## A commit at the REGANG that all parts have reached (R47, R129) -/

section Awaiting
variable (s : State) (g : Gang)

@[simp] theorem awaiting_gid : (s.awaiting g).gid = g.gid := rfl
@[simp] theorem awaiting_root : (s.awaiting g).root = g.root := rfl
@[simp] theorem awaiting_phase : (s.awaiting g).phase = .parked := rfl
@[simp] theorem awaiting_woken : (s.awaiting g).woken = g.arch.rendezvous.isNone := rfl
@[simp] theorem awaiting_wakeKind : (s.awaiting g).wakeKind = g.wakeKind := rfl
@[simp] theorem awaiting_wakeOp : (s.awaiting g).wakeOp = g.wakeOp := rfl
@[simp] theorem awaiting_wakeOp2 : (s.awaiting g).wakeOp2 = g.wakeOp2 := rfl
@[simp] theorem awaiting_arch : (s.awaiting g).arch = g.arch := rfl
@[simp] theorem awaiting_place : (s.awaiting g).place = g.place := rfl
@[simp] theorem awaiting_pend : (s.awaiting g).pend = g.pend := rfl

end Awaiting

/-- Gangs with one in its place. -/
def placedIn (k : Gang) (gs : List Gang) : List Gang := gs.map fun z => if z.gid = k.gid then k else z

theorem putGang_gangs (s : State) (k : Gang) : (s.putGang k).gangs = placedIn k s.gangs := rfl

/-- Only the last gang put in a place stands there. -/
theorem placedIn_placedIn {a b : Gang} (h : a.gid = b.gid) (gs : List Gang) : placedIn b (placedIn a gs) = placedIn b gs := by
  unfold placedIn
  rw [List.map_map]
  refine List.map_congr_left fun z _ => ?_
  dsimp only [Function.comp_apply]
  by_cases hz : z.gid = a.gid
  · rw [if_pos hz, if_pos h, if_pos (hz.trans h)]
  · rw [if_neg hz]

/-- The gangs that a commit at a REGANG leaves before its parts meet. -/
theorem partsSettled_regang {t : State} {k : Gang} (hkind : k.wakeKind = 3) (hnexts : k.nexts = []) : ∃ u v : State, v.gangs = placedIn (u.awaiting k) t.gangs ∧
    t.partsSettled k.gid k = ((v.tryMerge k.gid).standing k.root).foldl State.settlePart (v.tryMerge k.gid) := by
  refine ⟨(t.putGang k).putGang k, ((t.putGang k).putGang k).putGang (((t.putGang k).putGang k).awaiting k), ?_, ?_⟩
  · rw [putGang_gangs, putGang_gangs, putGang_gangs, placedIn_placedIn rfl, placedIn_placedIn (awaiting_gid _ _).symm]
  · unfold State.partsSettled
    rw [parts_one hnexts, splitInto_cons, parkPart_regang hkind]
    rfl

section Meeting
variable {v : State} {w : Byte} {r : Nat} {x y : Gang} (hpair : Pair v w r x y) (hne : x.gid ≠ y.gid)
  (hnumber : ∀ m ∈ v.gangs, m.gid = x.gid ∨ m.gid = y.gid → m.root = r)
include hpair hne hnumber

/-- One of two parts is left when the other goes. -/
theorem Pair.sole {p q : Gang} (hperm : [p, q].Perm [x, y]) : Sole (v.dropGang q.gid) r p := by
  have hids : p.gid ≠ q.gid ∧ (p.gid = x.gid ∨ p.gid = y.gid) := by
    rcases List.perm_pair.mp hperm with he | he <;> obtain ⟨rfl, rfl⟩ : p = _ ∧ q = _ := by simpa using he
    · exact ⟨hne, .inl rfl⟩
    · exact ⟨hne.symm, .inr rfl⟩
  refine ⟨?_, fun m hm hmg => hnumber m (List.mem_of_mem_filter hm) (by rw [hmg]; exact hids.2)⟩
  have hswap : ((v.dropGang q.gid).gangs.filter fun m => m.root == r) = (v.gangs.filter fun m => m.root == r).filter fun m => m.gid != q.gid := by
    unfold State.dropGang
    dsimp only
    rw [List.filter_filter, List.filter_filter]
    exact List.filter_congr fun m _ => Bool.and_comm _ _
  rw [hswap]
  rcases List.perm_pair.mp (hpair.parts.trans hperm.symm) with he | he
  · rw [he]; simp [hids.1]
  · rw [he]; simp [hids.1]

/-- Two parts that meet become one gang, which has the stacks of both, less their tops. -/
theorem Pair.merges (hfound : v.gang? x.gid = some x) (hres : x.resident = true) (hres' : y.resident = false)
    (hsplit : ∀ k ∈ [x, y], ∀ j, look? k.arch.split j ≠ none → k.arch.slices.getLsbD j = true) (hapart : x.arch.slices &&& y.arch.slices = 0#8) :
    ∃ m, Sole (v.tryMerge x.gid) r m ∧ m.arch.slices = w ∧ ∀ k ∈ [x, y], ∀ j, k.arch.slices.getLsbD j = true → look [] m.arch.split j = (look [] k.arch.split j).tail := by
  obtain ⟨p, q, hperm, hmerge⟩ := hpair.tryMerge hfound hres hres'
  have hmem : ∀ k, k ∈ [p, q] ↔ k ∈ [x, y] := fun k => hperm.mem_iff
  have hboth : ∀ k ∈ [p, q], AwaitsAll w r k := by
    intro k hk
    rcases List.mem_cons.mp ((hmem k).mp hk) with rfl | hk
    · exact hpair.first
    · rw [List.mem_singleton.mp hk]
      exact hpair.second
  have hkind := (hboth p (.head _)).kind
  have hslices : p.arch.slices ||| q.arch.slices = w ∧ p.arch.slices &&& q.arch.slices = 0#8 := by
    rcases List.perm_pair.mp hperm with he | he <;> obtain ⟨rfl, rfl⟩ : p = _ ∧ q = _ := by simpa using he
    · exact ⟨hpair.whole.symm, hapart⟩
    · exact ⟨(BitVec.or_comm _ _).trans hpair.whole.symm, (BitVec.and_comm _ _).trans hapart⟩
  have hnot : ∀ j, ¬ (p.arch.slices.getLsbD j = true ∧ q.arch.slices.getLsbD j = true) := by
    rintro j ⟨hp, hq⟩
    have hbit := congrArg (fun b : Byte => b.getLsbD j) hslices.2
    simp [hp, hq] at hbit
  have hown : ∀ k ∈ [p, q], ∀ j, k.arch.slices.getLsbD j ≠ true → look? k.arch.split j = none := fun k hk j hj => by
    by_contra hc
    exact hj (hsplit k ((hmem k).mp hk) j hc)
  refine ⟨(p.mergedWith q).standsAs x, ?_, ?_, fun k hk j hj => ?_⟩
  · rw [hmerge]
    refine ((hpair.sole hne hnumber hperm).putGang ?_ ?_).of_gangs Quiet.sweep.gangs
    · rw [standsAs_gid, mergedWith_gid hkind]
    · rw [standsAs_root, mergedWith_root hkind, (hboth p (.head _)).root]
  · rw [standsAs_arch, mergedWith_slices hkind, hslices.1]
  · rw [standsAs_arch]
    rcases List.mem_cons.mp ((hmem k).mpr hk) with rfl | hk
    · rw [mergedWith_split hkind (by simp [hj]), hown q (.tail _ (.head _)) j fun hq => hnot j ⟨hj, hq⟩, Option.or_none]
      rfl
    · rw [List.mem_singleton.mp hk] at hj ⊢
      rw [mergedWith_split hkind (by simp [hj]), hown p (.head _) j fun hp => hnot j ⟨hp, hj⟩, Option.none_or]
      rfl

end Meeting

section Regang
variable {s : State} {g h : Gang} {w : Byte} (hg : s.gang? g.gid = some g) (hres : g.resident = true) (hnodup : (s.gangs.map (·.gid)).Nodup)
  (hkind : g.wakeKind = 3) (hheld : g.held = []) (hnexts : g.nexts = []) (hmem : h ∈ s.gangs) (hne : h.gid ≠ g.gid) (hroot : h.root = g.root) (hphase : h.phase = .parked)
  (hwoken : h.woken = false) (hplace : h.place = .landing) (hkind' : h.wakeKind = 3) (hop : h.wakeOp = g.wakeOp)
  (hop2 : h.wakeOp2 &&& 0xFFF#64 = g.wakeOp2 &&& 0xFFF#64) (hdepth : h.arch.depth = g.arch.depth) (hw : g.arch.rendezvous = some w) (hw' : h.arch.rendezvous = some w)
  (hwhole : w = g.arch.slices ||| h.arch.slices) (hapart : g.arch.slices &&& h.arch.slices = 0#8)
  (honly : ∀ k ∈ s.gangs, k.root = g.root → k.gid = g.gid ∨ k.gid = h.gid) (hpend : ∀ p ∈ g.pend ++ h.pend, p.complete = true)
  (hsplit : ∀ k ∈ [g, h], ∀ j, look? k.arch.split j ≠ none → j < 8 ∧ k.arch.slices.getLsbD j = true)

include hg hnodup hmem hne hroot honly in
/-- The task gang is the two gangs. -/
theorem taskGang_pair : (s.gangs.filter fun k => k.root == g.root).Perm [g, h] := by
  have hgmem : g ∈ s.gangs := List.mem_of_find?_eq_some hg
  have hinj := List.inj_on_of_nodup_map hnodup
  refine (List.perm_ext_iff_of_nodup (hnodup.of_map.filter _) ?_).mpr fun k => ⟨fun hk => ?_, fun hk => ?_⟩
  · rw [List.nodup_cons, List.mem_singleton]
    exact ⟨fun he => hne (congrArg Gang.gid he.symm), List.nodup_singleton h⟩
  · obtain ⟨hkmem, hkroot⟩ := List.mem_filter.mp hk
    rcases honly k hkmem (by simpa using hkroot) with hgid | hgid
    · rw [hinj hkmem hgmem hgid]
      exact .head _
    · rw [hinj hkmem hmem hgid]
      exact .tail _ (.head _)
  · rcases List.mem_cons.mp hk with rfl | hk
    · exact List.mem_filter.mpr ⟨hgmem, by simp⟩
    · rw [List.mem_singleton.mp hk]
      exact List.mem_filter.mpr ⟨hmem, by simp [hroot]⟩

include hg hnodup hmem hne hroot honly in
/-- The task gang when one of the two is changed. -/
theorem taskGang_placedIn {x : Gang} {v : State} (hv : v.gangs = placedIn x s.gangs) (hgid : x.gid = g.gid) (hx : x.root = g.root) :
    (v.gangs.filter fun k => k.root == g.root).Perm [x, h] ∧ (∀ m ∈ v.gangs, m.gid = x.gid ∨ m.gid = h.gid → m.root = g.root) ∧ v.gang? x.gid = some x := by
  have hgmem : g ∈ s.gangs := List.mem_of_find?_eq_some hg
  have hinj := List.inj_on_of_nodup_map hnodup
  have hnumber : ∀ m ∈ s.gangs, m.gid = x.gid → m.root = g.root := fun m hm hmg => by rw [hinj hm hgmem (hmg.trans hgid)]
  refine ⟨?_, fun m hm hmg => ?_, ?_⟩
  · rw [hv, ← putGang_gangs, filter_putGang hx hnumber]
    refine ((taskGang_pair hg hnodup hmem hne hroot honly).map _).trans ?_
    rw [List.map_cons, List.map_cons, List.map_nil, if_pos hgid.symm, if_neg (by rw [hgid]; exact hne)]
  · rw [hv] at hm
    obtain ⟨z, hz, rfl⟩ := List.mem_map.mp hm
    by_cases hzx : z.gid = x.gid
    · rw [if_pos hzx]
      exact hx
    · rw [if_neg hzx] at hmg ⊢
      rw [hinj hz hmem (hmg.resolve_left hzx), hroot]
  · refine (congrArg (List.find? _) hv).trans ?_
    refine gang?_putGang (s := s) (k := g) ?_
    rw [hgid]
    exact hg

include hg hres hnodup hkind hheld hnexts hmem hne hroot hphase hwoken hplace hkind' hop hop2 hdepth hw hw' hwhole hapart honly hpend hsplit in
theorem commit_merges : ∃ k, (((s.putGang g).commit g).gangs.filter fun m => m.root == g.root) = [k] ∧ k.arch.slices = w ∧
    ∀ m ∈ [g, h], ∀ j < 8, m.arch.slices.getLsbD j = true → look [] k.arch.split j = (look [] m.arch.split j).tail := by
  obtain ⟨t, hgangs, -, -, hcommit⟩ := afterCommit_nothing hg hheld (by omega)
  obtain ⟨u, v, hv, hsettled⟩ := partsSettled_regang (t := t) (k := t.between ((s.putGang g).committing g)) (by rw [between_wakeKind, committing_wakeKind]; exact hkind)
    (by rw [between_nexts, committing_nexts, hnexts]; rfl)
  rw [between_gid, committing_gid, between_root, committing_root] at hsettled
  rw [hsettled] at hcommit
  have harch : (u.awaiting (t.between ((s.putGang g).committing g))).arch = g.arch.counted := by rw [awaiting_arch, between_arch, committing_arch]
  have hplaceX : (u.awaiting (t.between ((s.putGang g).committing g))).place = g.place := by rw [awaiting_place, between_place, committing_place]
  have hgid : (u.awaiting (t.between ((s.putGang g).committing g))).gid = g.gid := by rw [awaiting_gid, between_gid, committing_gid]
  have hrootX : (u.awaiting (t.between ((s.putGang g).committing g))).root = g.root := by rw [awaiting_root, between_root, committing_root]
  have hvs : v.gangs = placedIn (u.awaiting (t.between ((s.putGang g).committing g))) s.gangs := by
    rw [hv, hgangs, State.leaving, putGang_gangs, putGang_gangs, placedIn_placedIn (by rw [hgid, committing_gid]), placedIn_placedIn hgid.symm]
  have hfirst : AwaitsAll w g.root (u.awaiting (t.between ((s.putGang g).committing g))) := by
    refine ⟨hrootX, awaiting_phase _ _, ?_, ?_, ?_, ?_, ?_⟩
    · rw [awaiting_woken, between_arch, committing_arch, counted_rendezvous, hw]
      rfl
    · rw [awaiting_wakeKind, between_wakeKind, committing_wakeKind, hkind]
    · rw [harch, counted_rendezvous, hw]
    · intro a ha
      unfold Gang.resident at hres
      rw [← hplaceX, ha] at hres
      cases hres
    · rw [awaiting_pend, between_pend, committing_pend]
      exact fun p hp => hpend p (List.mem_append_left _ hp)
  have hop' : h.wakeOp = (u.awaiting (t.between ((s.putGang g).committing g))).wakeOp := by rw [awaiting_wakeOp, between_wakeOp, committing_wakeOp, hop]
  have hop2' : h.wakeOp2 &&& 0xFFF#64 = (u.awaiting (t.between ((s.putGang g).committing g))).wakeOp2 &&& 0xFFF#64 := by
    rw [awaiting_wakeOp2, between_wakeOp2, committing_wakeOp2, hop2]
  generalize u.awaiting (t.between ((s.putGang g).committing g)) = x at *
  obtain ⟨hparts, hnumber, hfound⟩ := taskGang_placedIn hg hnodup hmem hne hroot honly hvs hgid hrootX
  have hsecond : AwaitsAll w g.root h := ⟨hroot, hphase, hwoken, hkind', hw', fun a ha => (by rw [hplace] at ha; cases ha), fun p hp => hpend p (List.mem_append_right _ hp)⟩
  have hpair : Pair v w g.root x h := ⟨hfirst, hsecond, hop', hop2', by rw [harch, counted_depth, hdepth], by rw [harch, counted_slices]; exact hwhole, hparts⟩
  have hsplitX : ∀ k ∈ [x, h], ∀ j, look? k.arch.split j ≠ none → k.arch.slices.getLsbD j = true := by
    intro k hk j hj
    rcases List.mem_cons.mp hk with rfl | hk
    · rw [harch, counted_split] at hj
      rw [harch, counted_slices]
      exact (hsplit g (.head _) j hj).2
    · rw [List.mem_singleton.mp hk] at hj ⊢
      exact (hsplit h (.tail _ (.head _)) j hj).2
  obtain ⟨m, hsole, hslices, hstacks⟩ := hpair.merges (by rw [hgid]; exact hne.symm) hnumber hfound (by unfold Gang.resident; rw [hplaceX]; exact hres)
    (by unfold Gang.resident; rw [hplace]) hsplitX (by rw [harch, counted_slices]; exact hapart)
  rw [hgid] at hsole
  obtain ⟨l, hl, hsame⟩ := hsole.settleParts
  refine ⟨l, ?_, hsame.flow.slices.trans hslices, fun k hk j _ hj => ?_⟩
  · rw [hcommit]
    exact (hl.of_gangs Quiet.sweep.gangs).all
  · rw [hsame.flow.split]
    rcases List.mem_cons.mp hk with rfl | hk
    · have hx := hstacks x (.head _) j (by rw [harch, counted_slices]; exact hj)
      rwa [harch, counted_split] at hx
    · rw [List.mem_singleton.mp hk] at hj ⊢
      exact hstacks h (.tail _ (.head _)) j hj

end Regang

/-! ## The statement about scheduling -/

/-- The part of O56 that speaks of a flight's commit. -/
theorem commitRuns : CommitRuns := by
  intro s g hcur hg hmay hpath hres hlate hrecord hnodup hcount
  have hc : Commits s g := ⟨hcur, hg, hmay, hpath, hres, hlate, hrecord⟩
  refine ⟨fun hkind => ⟨_, hc.exec, commit_handed hg hkind, ?_, ?_, ?_⟩, ?_⟩
  · intro h a p pa bs hheld heff hacc hparts hloc hhost hhome hline hreplica
    exact commit_store hg hkind hheld heff hacc hparts hloc hhost hhome hline hreplica
  · intro h e row col sat m n acc tag vals tso x pa hheld heff hmajor hfmt hn hvals hplace
    exact commit_mst hg hkind hheld heff hmajor hfmt hn hvals hplace
  · exact fun hheld hnexts htwo q hq => commit_split hg hkind hheld hcount hnexts htwo hq
  · intro h w hkind hheld hnexts hmem hne hroot hphase hwoken hplace hkind' hop hop2 hdepth hw hw' hwhole hapart honly hpend hsplit
    obtain ⟨k, hk⟩ := commit_merges hg hres hnodup hkind hheld hnexts hmem hne hroot hphase hwoken hplace hkind' hop hop2 hdepth hw hw' hwhole hapart honly hpend hsplit
    exact ⟨_, k, hc.exec, hk⟩

/-- Settles O56, part by part: the issue of a clause, the events of one gang, a flight's commit, a gather whose time is up, dispatch and admission. -/
theorem schedulingEvents : Obligations.SchedulingEvents :=
  ⟨clauseIssueRuns, gangEventsRun, commitRuns, gatherTimeoutRuns, dispatchRuns, admissionRuns⟩

end Sys2Proof

/-!
# What the instructions of control share (R36, R37, R40)

The gang that issues, maps that take several values, and the forms of a scalar instruction.
-/

namespace Sys2Proof

open Machine

theorem issue_running {s : State} {r : Running} (hr : s.cur = some r) (f : Running → Res) : s.issue f = f r := by
  simp only [State.issue, hr]

/-- An instruction that names no register can use all that it names. -/
theorem usable_none (s : State) (r : Running) (lanes slices : List Nat) : Usable s r { lanes := lanes, slices := slices } :=
  ⟨by simp, by simp, by simp, by simp⟩

/-- A map after values are put at some keys, read where they name one value `x` for the key or none. -/
theorem look_puts_by {α : Type} [DecidableEq α] (d : α) {key : Nat → Nat} {f : Nat → α} {i : Nat} {x : α} (ks : List Nat) (m : List (Nat × α))
    (hx : ∀ k ∈ ks, key k = i → f k = x) :
    look d (ks.foldl (fun m k => put d m (key k) (f k)) m) i = if ∃ k ∈ ks, key k = i then x else look d m i := by
  have hmap : ks.foldl (fun m k => put d m (key k) (f k)) m = (ks.map fun k => (key k, f k)).foldl (fun m e => put d m e.1 e.2) m := by
    rw [List.foldl_map]
  have hmem (v : α) : (i, v) ∈ (ks.map fun k => (key k, f k)) ↔ ∃ k ∈ ks, key k = i ∧ f k = v := by
    simp only [List.mem_map, Prod.mk.injEq]
  rw [hmap]
  split
  next h =>
    obtain ⟨k, hk, hkey⟩ := h
    refine look_puts d _ m i x ((hmem x).2 ⟨k, hk, hkey, hx k hk hkey⟩) fun w hw => ?_
    obtain ⟨j, hj, hjkey, rfl⟩ := (hmem w).1 hw
    exact hx j hj hjkey
  next h =>
    refine look_puts_other d _ m i fun v hv => h ?_
    obtain ⟨k, hk, hkey, -⟩ := (hmem v).1 hv
    exact ⟨k, hk, hkey⟩

/-- Values put at keys of their own. -/
theorem look_puts_own {α : Type} [DecidableEq α] (d : α) (f : Nat → α) (ks : List Nat) (m : List (Nat × α)) (i : Nat) :
    look d (ks.foldl (fun m k => put d m k (f k)) m) i = if i ∈ ks then f i else look d m i := by
  have h := look_puts_by d (key := id) (i := i) (x := f i) ks m fun k _ hk => congrArg f hk
  simpa using h

/-- ILLINS names the word in its clause and the reason (R38). -/
theorem illins_eq (s : State) (r : Running) (n : Nat) :
    s.illins r n = .next (s.raiseAt r 0x0001 (BitVec.ofNat 64 (r.cl.idx % 16 + 16 * n)) false) := by
  rw [State.illins, insInfo, Nat.mul_comm n]
  rfl

end Sys2Proof

/-!
# The other scalar instructions (R40 to R42, R51, R106)

Each writes one scalar in every executing slice; the lemmas here give its value in the spelling of the statement.
-/

namespace Sys2Proof

open Machine

/-! ## The forms of a scalar instruction -/

section
variable {s : State} {r : Running} {i : Instr} {d a : BitVec 5}

/-- An instruction that writes a scalar in each slice writes there what its function, in any spelling, gives. -/
theorem sets_of_scalarOp (hr : s.cur = some r) {srcs : List Nat} {f : Arch → Nat → DWord} {g : Nat → DWord}
    (h : Usable s r { sr := srcs, sw := [d.toNat], slices := r.gang.arch.slicesList })
    (hi : exec i s = s.scalarOp d.toNat srcs f) (hfg : ∀ k, f r.gang.arch k = g k) :
    Sets s r i fun z => ScalarsWritten r.gang.arch z d.toNat r.gang.arch.slicesList g := by
  obtain rfl : f r.gang.arch = g := funext hfg
  obtain ⟨y, hy, hw⟩ := scalarOp_next hr d.toNat d.isLt _ _ h
  exact ⟨y, hi.trans hy, hw⟩

/-- An instruction of the form `sD, sA` writes what its operation, in any spelling, gives. -/
theorem sets_of_scalar1 (hr : s.cur = some r) {f g : DWord → DWord}
    (h : Usable s r { sr := [a.toNat], sw := [d.toNat], slices := r.gang.arch.slicesList })
    (hi : exec i s = s.scalar1 d a f) (hfg : ∀ x, f x = g x) :
    Sets s r i fun z => ScalarsWritten r.gang.arch z d.toNat r.gang.arch.slicesList fun k => g (r.gang.arch.sget k a.toNat) :=
  sets_of_scalarOp hr h hi fun _ => hfg _

/-- The same with a signed immediate as the second operand. -/
theorem sets_of_scalarImm (hr : s.cur = some r) {imm : BitVec 10} {f : DWord → DWord → DWord} {g : DWord → DWord}
    (h : Usable s r { sr := [a.toNat], sw := [d.toNat], slices := r.gang.arch.slicesList })
    (hi : exec i s = s.scalarImm d a imm f) (hfg : ∀ x, f x (imm10 imm) = g x) :
    Sets s r i fun z => ScalarsWritten r.gang.arch z d.toNat r.gang.arch.slicesList fun k => g (r.gang.arch.sget k a.toNat) :=
  sets_of_scalar1 hr h hi hfg

/-- A vote gives every slice one value, of the participating lanes and those of them that have the predicate (R106). -/
theorem sets_of_vote (hr : s.cur = some r) {p : BitVec 7} {f : Word → Word → DWord} {v : DWord}
    (h : Usable s r { sw := [d.toNat], slices := r.gang.arch.slicesList })
    (hi : exec i s = s.vote d p f) (hfv : f r.gang.arch.exec (r.gang.arch.exec &&& r.gang.arch.pmask p.toNat) = v) :
    Sets s r i fun z => ScalarsWritten r.gang.arch z d.toNat r.gang.arch.slicesList fun _ => v :=
  sets_of_scalarOp hr h hi fun _ => hfv

end

/-! ### Counts of bits and comparisons with an immediate -/

/-- One more than the highest index below `n` that has a property, or 0: the rest up to `n` are those passed over from above. -/
theorem foldl_highest (p : Nat → Bool) (n : Nat) :
    (List.range n).foldl (fun h i => if p i = true then i + 1 else h) 0 + (List.range n).findIdx (fun i => p (n - 1 - i)) = n := by
  induction n with
  | zero => rfl
  | succ n ih =>
    rw [List.range_succ, List.foldl_append, ← List.range_succ, List.range_succ_eq_map, List.findIdx_cons]
    cases hp : p n with
    | true => simp [hp]
    | false =>
      have hshift : (List.map Nat.succ (List.range n)).findIdx (fun i => p (n + 1 - 1 - i)) = (List.range n).findIdx fun i => p (n - 1 - i) := by
        rw [List.findIdx_map]
        congr 1
        funext i
        show p (n + 1 - 1 - (i + 1)) = p (n - 1 - i)
        rw [show n + 1 - 1 - (i + 1) = n - 1 - i by omega]
      simp only [List.foldl_cons, List.foldl_nil, hp, Nat.add_sub_cancel, Nat.sub_zero, cond_false, Bool.false_eq_true, if_false] at hshift ⊢
      omega

/-- The leading zeros of a word are the bits passed over, from the highest, before one that is set. -/
theorem leadingZeros_eq_findIdx {n : Nat} (x : BitVec n) : leadingZeros x = (List.range n).findIdx fun i => x.getLsbD (n - 1 - i) := by
  have h := foldl_highest (fun i => x.getLsbD i) n
  unfold leadingZeros
  omega

theorem toInt_imm10 (i : BitVec 10) : (imm10 i).toInt = i.toInt := BitVec.toInt_signExtend_of_le (by decide)

/-! ### Votes -/

theorem eq_and_iff_and_not_eq_zero {n : Nat} (x y : BitVec n) : x = x &&& y ↔ x &&& ~~~y = 0#n := by
  constructor
  · intro h
    rw [h, BitVec.and_assoc, BitVec.and_not_self]
    exact BitVec.and_zero
  · intro h
    calc x = x &&& y ||| x &&& ~~~y := by rw [← BitVec.and_or_distrib_left, BitVec.or_not_self, BitVec.and_allOnes]
      _ = x &&& y := by rw [h, BitVec.or_zero]

theorem popcount_and_pmask (a : Arch) (p : Nat) :
    popcount (a.exec &&& a.pmask p) = (List.range 32).countP fun l => a.exec.getLsbD l && a.pget p l := by
  simp only [popcount, BitVec.getLsbD_and, Arch.pget]

/-- TSLK: the clock of the die where the gang runs drops out of the slack (R261, R266). -/
theorem slack_eq (s : State) (g : Gang) :
    (match s.deadlineOf g with
      | some t => BitVec.ofInt 64 (t - s.dtc g.die)
      | none => BitVec.ofNat 64 (2 ^ 63 - 1)) =
      match (s.inst? g.die g.inst).bind (·.deadline) with
      | some t => BitVec.ofInt 64 ((t : Int) - s.dtc (homeInst g.die g.inst).1 - g.lost)
      | none => BitVec.ofNat 64 (2 ^ 63 - 1) := by
  unfold State.deadlineOf
  cases (s.inst? g.die g.inst).bind (·.deadline) with
  | none => rfl
  | some t =>
    refine congrArg (BitVec.ofInt 64) (show (t : Int) + (s.die g.die).dtcBase - (s.die (homeInst g.die g.inst).1).dtcBase - g.lost - s.dtc g.die =
      (t : Int) - s.dtc (homeInst g.die g.inst).1 - g.lost from ?_)
    simp only [State.dtc, Nat.cast_add]
    ring

/-- Settles O9: each is of the form `sD, sA`, or gives each slice a value of its own (`sets_of_scalarOp`), in another spelling. -/
theorem scalarOthers : Obligations.ScalarOthers := by
  unfold Obligations.ScalarOthers
  intro s r d a i k j c p hr
  refine ⟨fun h => ?_, fun h => ?_⟩
  · simp only [List.forall_mem_cons]
    exact
      ⟨sets_of_scalar1 hr h (exec_sclz s d a) fun x => by rw [leadingZeros_eq_findIdx],
       sets_of_scalar1 hr h (exec_spop s d a) fun _ => rfl,
       sets_of_scalarImm hr h (exec_saddi s d a i) fun _ => rfl,
       sets_of_scalarImm hr h (exec_sandi s d a i) fun _ => rfl,
       sets_of_scalarImm hr h (exec_sori s d a i) fun _ => rfl,
       sets_of_scalarImm hr h (exec_sxori s d a i) fun _ => rfl,
       sets_of_scalar1 hr h (exec_sshli s d a k) fun _ => rfl,
       sets_of_scalar1 hr h (exec_sshri s d a k) fun _ => rfl,
       sets_of_scalar1 hr h (exec_ssrai s d a k) fun _ => rfl,
       sets_of_scalarImm hr h (exec_sslti s d a i) fun x => by rw [flag64_slt, toInt_imm10],
       sets_of_scalarImm hr h (exec_ssltiu s d a i) fun x => flag64_ult x _,
       List.forall_mem_nil _⟩
  · simp only [List.forall_mem_cons]
    exact
      ⟨sets_of_scalarOp hr h (exec_slui s d j) fun _ => rfl,
       sets_of_scalarOp hr h ((exec_sadr s d j).trans (issue_running hr _)) fun _ => rfl,
       sets_of_scalarOp hr h (exec_mget s d) fun _ => rfl,
       sets_of_scalarOp hr h ((exec_tinst s d).trans (issue_running hr _)) fun _ => rfl,
       sets_of_scalarOp hr h ((exec_tstg s d).trans (issue_running hr _)) fun _ => rfl,
       sets_of_scalarOp hr h ((exec_tbud s d c).trans (issue_running hr _)) fun _ => rfl,
       sets_of_scalarOp hr h ((exec_tslk s d).trans (issue_running hr _)) fun _ => slack_eq s r.gang,
       sets_of_vote hr h (exec_vbal s d p) rfl,
       sets_of_vote hr h (exec_vany s d p) rfl,
       sets_of_vote hr h (exec_vall s d p) <| by simp only [eq_and_iff_and_not_eq_zero],
       sets_of_vote hr h (exec_vcnt s d p) <| by rw [popcount_and_pmask],
       List.forall_mem_nil _⟩

end Sys2Proof

/-!
# Branches, calls and returns (R43, R44)
-/

namespace Sys2Proof

open Machine

/-! ## Branches (R43) -/

/-- Where a branch sends a slice: to its target on the condition, else to the next clause (R43). -/
def Machine.Running.branchTo (r : Running) (o : BitVec 18) (c : Nat → Bool) (k : Nat) : DWord :=
  if c k = true then headerPlus r o else r.cl.following

/-- A branch sends each executing slice where its condition, in any spelling, says. -/
theorem exec_of_branch {s : State} {r : Running} (hr : s.cur = some r) {i : Instr} {srcs : List Nat} {o : BitVec 18} {c : Arch → Nat → Bool}
    {c' : Nat → Bool} (h : Usable s r { sr := srcs, slices := r.gang.arch.slicesList }) (hi : exec i s = s.branch srcs o c)
    (hc : ∀ k, c r.gang.arch k = c' k) :
    exec i s = .next { s with cur := some { r with cl := r.cl.withNext r.gang.arch.slicesList (r.branchTo o c') } } := by
  obtain rfl : c r.gang.arch = c' := funext hc
  rw [hi, State.branch, issue_running hr, checked_usable h]
  rfl

theorem bne_eq_decide_ne {n : Nat} (x y : BitVec n) : (x != y) = decide (x ≠ y) := by
  rw [bne_eq, beq_eq_decide, decide_not]

/-- Settles O31: each is a branch on its own condition (`exec_of_branch`). -/
theorem branches : Obligations.Branches := by
  unfold Obligations.Branches
  intro s r x o hr
  have hnone := usable_none s r [] r.gang.arch.slicesList
  refine ⟨?_, ?_, ?_, fun h => ⟨?_, ?_, ?_⟩⟩
  · exact exec_of_branch hr hnone (exec_bra s o) fun _ => rfl
  · exact exec_of_branch hr hnone (exec_bmz s o) fun _ => rfl
  · exact exec_of_branch hr hnone (exec_bmnz s o) fun _ => bne_eq_decide_ne _ _
  · exact exec_of_branch hr h (exec_bz s x o) fun _ => rfl
  · exact exec_of_branch hr h (exec_bnz s x o) fun _ => bne_eq_decide_ne _ _
  · exact exec_of_branch hr h (exec_blt s x o) fun _ => rfl

/-! ## Calls, jumps and returns (R44) -/

/-- CALL and CALLR count the return stack up by one and put the next clause's address on each executing slice's. -/
theorem pushReturn_eq (a : Arch) (back : DWord) : a.pushReturn back =
    { a with depth := a.depth + 1, rstack := a.slicesList.foldl (fun m k => put 0#64 m (k * 16 + a.depth) back) a.rstack } := by
  have hfold (ks : List Nat) (x : Arch) : ks.foldl (fun b k => { b with rstack := put 0#64 b.rstack (k * 16 + a.depth) back }) x =
      { x with rstack := ks.foldl (fun m k => put 0#64 m (k * 16 + a.depth) back) x.rstack } := by
    induction ks generalizing x with
    | nil => rfl
    | cons k ks ih => exact ih _
  exact hfold _ _

theorem look_pushReturn {a : Arch} (hd : a.depth < 16) (back : DWord) {k j : Nat} (hj : j < 16) :
    look 0#64 (a.pushReturn back).rstack (k * 16 + j) =
      if k ∈ a.slicesList ∧ j = a.depth then back else look 0#64 a.rstack (k * 16 + j) := by
  have hplace : (∃ i ∈ a.slicesList, i * 16 + a.depth = k * 16 + j) ↔ k ∈ a.slicesList ∧ j = a.depth := by
    constructor
    · rintro ⟨i, hi, hij⟩
      obtain rfl : i = k := by omega
      exact ⟨hi, by omega⟩
    · rintro ⟨hk, rfl⟩
      exact ⟨k, hk, rfl⟩
  rw [pushReturn_eq]
  simp only [look_puts_by 0#64 (x := back) a.slicesList a.rstack fun _ _ _ => rfl, hplace]

section
variable {s : State} {r : Running}

theorem callTo_full (hd : r.gang.arch.depth = 16) (f : Nat → DWord) : s.callTo r f = s.illins r 5 := by
  rw [State.callTo, if_pos hd]

theorem callTo_room (hd : r.gang.arch.depth ≠ 16) (f : Nat → DWord) : s.callTo r f =
    .next { s with cur := some ⟨{ r.gang with arch := r.gang.arch.pushReturn r.cl.following }, r.cl.withNext r.gang.arch.slicesList f⟩ } := by
  rw [State.callTo, if_neg hd, pushReturn_eq]
  rfl

end

/-- The lowest bit of a word with a property. -/
theorem find?_bitsOf_eq_some {n : Nat} {x : BitVec n} {p : Nat → Bool} {k : Nat} (hk : k ∈ bitsOf x) (hp : p k = true)
    (hlow : ∀ j ∈ bitsOf x, j < k → p j = false) : (bitsOf x).find? p = some k := by
  rw [mem_bitsOf] at hk
  rw [bitsOf, List.find?_filter, List.find?_range_eq_some]
  refine ⟨by simp [hk, hp], List.mem_range.2 (BitVec.lt_of_getLsbD hk), fun j hj => ?_⟩
  by_cases hbit : x.getLsbD j = true
  · simp [hlow j ((mem_bitsOf x j).2 hbit) hj]
  · simp [hbit]

section
variable {s : State} {r : Running} {x : BitVec 5}

/-- Where every target is a multiple of 4, the instruction goes on. -/
theorem aligned_of_multiples (h : ∀ k ∈ r.gang.arch.slicesList, (r.gang.arch.sget k x.toNat).toNat % 4 = 0) (k : Res) :
    s.aligned r x.toNat k = k := by
  have hnone : (r.gang.arch.slicesList.map fun j => field (r.gang.arch.sget j x.toNat) 0 2).find? (· != 0) = none := by
    simp only [List.find?_eq_none, List.mem_map, field_zero]
    rintro _ ⟨j, hj, rfl⟩
    simp [h j hj]
  rw [State.aligned, hnone]

/-- The lowest slice whose target is not a multiple of 4 raises MISALIGN with its low bits (log 68). -/
theorem aligned_raises {k : Nat} (hk : k ∈ r.gang.arch.slicesList) (hodd : (r.gang.arch.sget k x.toNat).toNat % 4 ≠ 0)
    (hlow : ∀ j ∈ r.gang.arch.slicesList, j < k → (r.gang.arch.sget j x.toNat).toNat % 4 = 0) (go : Res) :
    s.aligned r x.toNat go = .next (s.raiseAt r 0x0004 (BitVec.ofNat 64 ((r.gang.arch.sget k x.toNat).toNat % 4)) false) := by
  have hfirst : (r.gang.arch.slicesList.map fun j => field (r.gang.arch.sget j x.toNat) 0 2).find? (· != 0) =
      some ((r.gang.arch.sget k x.toNat).toNat % 4) := by
    rw [List.find?_map, Arch.slicesList, find?_bitsOf_eq_some hk]
    · simp [field_zero]
    · simp [field_zero, hodd]
    · intro j hj hjk
      simp [field_zero, hlow j hj hjk]
  rw [State.aligned, hfirst]
  rfl

/-- JMP goes where each slice's register says, once the targets are seen to be aligned. -/
theorem execJmp_usable (hr : s.cur = some r) (h : Usable s r { sr := [x.toNat], slices := r.gang.arch.slicesList }) :
    execJmp x s = s.aligned r x.toNat (.next (s.goTo r fun k => r.gang.arch.sget k x.toNat)) := by
  rw [execJmp, issue_running hr, checked_usable h]

theorem execCallr_full (hr : s.cur = some r) (hd : r.gang.arch.depth = 16) (h : Usable s r { sr := [x.toNat], slices := r.gang.arch.slicesList }) :
    execCallr x s = s.illins r 5 := by
  rw [execCallr, issue_running hr, checked_usable h, if_pos hd]

theorem execCallr_room (hr : s.cur = some r) (hd : r.gang.arch.depth ≠ 16) (h : Usable s r { sr := [x.toNat], slices := r.gang.arch.slicesList }) :
    execCallr x s = s.aligned r x.toNat (s.callTo r fun k => r.gang.arch.sget k x.toNat) := by
  rw [execCallr, issue_running hr, checked_usable h, if_neg hd]

theorem execRet_room (hr : s.cur = some r) (hd : r.gang.arch.depth ≠ 0) : execRet s =
    .next (s.goTo { r with gang := { r.gang with arch := { r.gang.arch with depth := r.gang.arch.depth - 1 } } }
      fun k => look 0#64 r.gang.arch.rstack (k * 16 + (r.gang.arch.depth - 1))) := by
  rw [execRet, issue_running hr]
  exact if_neg hd

theorem execRet_empty (hr : s.cur = some r) (hd : r.gang.arch.depth = 0) : execRet s = s.illins r 6 := by
  rw [execRet, issue_running hr]
  exact if_pos hd

end

/-- Settles O32: a call pushes the next clause's address (`callTo_room`), and where the targets are aligned a jump goes there. -/
theorem callsAndReturns : Obligations.CallsAndReturns := by
  unfold Obligations.CallsAndReturns
  intro s r x o hr a back leaves pushed aligned
  have hpushed (hd : a.depth < 16) : pushed (a.pushReturn back) := by
    refine ⟨?_, ?_, fun k j hj => look_pushReturn hd back hj⟩ <;> rw [pushReturn_eq]
  refine ⟨fun hd => ⟨_, ?_, hpushed hd⟩, fun hd hx => ⟨_, ?_, hpushed hd⟩, fun hx => ⟨a, ?_, rfl⟩, fun hd => ⟨_, ?_, rfl⟩⟩
  · exact (exec_call s o).trans ((issue_running hr _).trans (callTo_room hd.ne _))
  · exact (exec_callr s x).trans ((execCallr_room hr hd.ne hx.1).trans ((aligned_of_multiples hx.2 _).trans (callTo_room hd.ne _)))
  · exact (exec_jmp s x).trans ((execJmp_usable hr hx.1).trans (aligned_of_multiples hx.2 _))
  · exact (exec_ret s).trans (execRet_room hr hd.ne')

/-- Settles O33: a full or an empty stack and the lowest target that is not aligned (`aligned_raises`) are what traps. -/
theorem callsRaise : Obligations.CallsRaise := by
  unfold Obligations.CallsRaise
  intro s r x o hr
  refine ⟨fun hd => ?_, fun hd h => ?_, fun hd => ?_, fun k hk h hodd hlow => ⟨?_, fun hd => ?_⟩⟩
  · exact (exec_call s o).trans ((issue_running hr _).trans ((callTo_full hd _).trans (illins_eq s r 5)))
  · exact (exec_callr s x).trans ((execCallr_full hr hd h).trans (illins_eq s r 5))
  · exact (exec_ret s).trans ((execRet_empty hr hd).trans (illins_eq s r 6))
  · exact (exec_jmp s x).trans ((execJmp_usable hr h).trans (aligned_raises hk hodd hlow _))
  · exact (exec_callr s x).trans ((execCallr_room hr hd h).trans (aligned_raises hk hodd hlow _))

end Sys2Proof

/-!
# The exec mask, and instructions that end the flight (R47, R49, R50, R52)
-/

namespace Sys2Proof

open Machine

/-! ## The exec mask (R49, R50) -/

theorem getLsbD_sliceMask (k : Nat) {l : Nat} (hl : l < 32) : (sliceMask k).getLsbD l = decide (l / 4 = k) := by
  have hlow : (0xF#32).getLsbD (l - 4 * k) = decide (l - 4 * k < 4) := getLsbD_lowBits (w := 32) 4 _ (by decide)
  simp only [sliceMask, BitVec.getLsbD_shiftLeft, hlow, hl, decide_true, Bool.true_and]
  rw [← decide_not, ← Bool.decide_and, decide_eq_decide]
  omega

/-- Replacing a slice's part of a mask by its part of another. -/
theorem getLsbD_setPart (m w : Word) (k : Nat) {l : Nat} (hl : l < 32) :
    (setPart m k (w.extractLsb' (4 * k) 4)).getLsbD l = if l / 4 = k then w.getLsbD l else m.getLsbD l := by
  simp only [setPart, BitVec.getLsbD_or, BitVec.getLsbD_and, BitVec.getLsbD_not, getLsbD_sliceMask k hl, BitVec.getLsbD_shiftLeft,
    BitVec.getLsbD_setWidth, BitVec.getLsbD_extractLsb', hl, decide_true, Bool.true_and]
  by_cases h : l / 4 = k
  · have hlow : ¬ l < 4 * k := by omega
    simp [h, hlow, show l - 4 * k < 4 by omega, show l - 4 * k < 32 by omega, show 4 * k + (l - 4 * k) = l by omega]
  · by_cases hlow : l < 4 * k
    · simp [h, hlow]
    · simp [h, hlow, show ¬ l - 4 * k < 4 by omega]

/-- Replacing the parts of some slices, each by its part of a word of its own. -/
theorem getLsbD_setParts (w : Nat → Word) (ks : List Nat) (m : Word) {l : Nat} (hl : l < 32) :
    (ks.foldl (fun m k => setPart m k ((w k).extractLsb' (4 * k) 4)) m).getLsbD l = if l / 4 ∈ ks then (w (l / 4)).getLsbD l else m.getLsbD l := by
  induction ks generalizing m with
  | nil => simp
  | cons k ks ih =>
    rw [List.foldl_cons, ih, getLsbD_setPart _ _ _ hl]
    by_cases hin : l / 4 ∈ ks
    · simp [hin]
    · by_cases hk : l / 4 = k <;> simp [hin, hk]

/-- The bit of a lane in the mask that its slice's scalar saved, where the lane is occupied. -/
theorem getLsbD_saved (x : DWord) (occ : Word) {l : Nat} (hl : l < 32) : ((x.setWidth 32) &&& occ).getLsbD l = (x.getLsbD l && occ.getLsbD l) := by
  simp only [BitVec.getLsbD_and, BitVec.getLsbD_setWidth, hl, decide_true, Bool.true_and]

section
variable {s : State} {r : Running} {d a : BitVec 5}

/-- MPOP, MELSE and MSET give each executing slice its part of what their function makes of its scalar, and change nothing else. -/
theorem sets_of_setMask (hr : s.cur = some r) {i : Instr} {f : Word → Word → Word} {g : Nat → Bool}
    (h : Usable s r { sr := [a.toNat], slices := r.gang.arch.slicesList }) (hi : exec i s = s.setMask a.toNat f)
    (hfg : ∀ l < 32, (f ((r.gang.arch.sget (l / 4) a.toNat).setWidth 32) r.gang.arch.exec &&& r.gang.arch.occ).getLsbD l = g l) :
    Sets s r i fun z => (∀ l < 32, z.exec.getLsbD l = if l / 4 ∈ r.gang.arch.slicesList then g l else r.gang.arch.exec.getLsbD l) ∧
      z.bracket = r.gang.arch.bracket ∧ { z with exec := r.gang.arch.exec, bracket := r.gang.arch.bracket } = r.gang.arch := by
  refine ⟨_, hi.trans ((issue_running hr _).trans (checked_usable h _)), fun l hl => ?_, rfl, rfl⟩
  rw [← hfg l hl]
  exact getLsbD_setParts (fun k => f ((r.gang.arch.sget k a.toNat).setWidth 32) r.gang.arch.exec &&& r.gang.arch.occ) _ _ hl

/-- ALLOFF restores each executing slice's part from its scalar and clears the bracket mark. -/
theorem alloff_sets (hr : s.cur = some r) (h : Usable s r { sr := [a.toNat], slices := r.gang.arch.slicesList }) :
    Sets s r (.alloff a) fun z => (∀ l < 32, z.exec.getLsbD l = if l / 4 ∈ r.gang.arch.slicesList
        then (r.gang.arch.sget (l / 4) a.toNat).getLsbD l && r.gang.arch.occ.getLsbD l else r.gang.arch.exec.getLsbD l) ∧
      z.bracket = false ∧ { z with exec := r.gang.arch.exec, bracket := r.gang.arch.bracket } = r.gang.arch := by
  refine ⟨_, (exec_alloff s a).trans ((issue_running hr _).trans (checked_usable h _)), fun l hl => ?_, rfl, rfl⟩
  rw [← getLsbD_saved _ _ hl]
  exact getLsbD_setParts (fun k => (r.gang.arch.sget k a.toNat).setWidth 32 &&& r.gang.arch.occ) _ _ hl

/-- Writing scalars leaves the exec mask. -/
theorem ScalarsWritten.with_exec {x y : Arch} {n : Nat} {ks : List Nat} {f : Nat → DWord} (h : ScalarsWritten x y n ks f) :
    { y with exec := x.exec } = y := by
  have hexec := congrArg Arch.exec h.rest
  rw [← hexec]

/-- MPUSH saves the exec mask in a scalar of each executing slice and narrows it by a predicate. -/
theorem mpush_sets {k : BitVec 7} (hr : s.cur = some r) (h : Usable s r { sw := [d.toNat] }) : Sets s r (.mpush d k) fun z =>
    ScalarsWritten r.gang.arch { z with exec := r.gang.arch.exec } d.toNat r.gang.arch.slicesList (fun _ => r.gang.arch.exec.setWidth 64) ∧
      z.exec = r.gang.arch.exec &&& r.gang.arch.pmask k.toNat := by
  refine ⟨_, (exec_mpush s d k).trans ((issue_running hr _).trans (checked_usable h _)), ?_, rfl⟩
  have hw : ScalarsWritten r.gang.arch (r.gang.arch.mapSlices d.toNat fun _ => r.gang.arch.exec.setWidth 64) d.toNat r.gang.arch.slicesList
      fun _ => r.gang.arch.exec.setWidth 64 := mapSlices_written _ _ _ d.isLt _
  show ScalarsWritten _ { r.gang.arch.mapSlices d.toNat (fun _ => r.gang.arch.exec.setWidth 64) with exec := r.gang.arch.exec } _ _ _
  rw [hw.with_exec]
  exact hw

end

/-- Settles O34: a mask instruction replaces the parts of the executing slices (`getLsbD_setParts`). -/
theorem maskInstructions : Obligations.MaskInstructions := by
  unfold Obligations.MaskInstructions
  intro s r d a k hr
  refine ⟨fun h => mpush_sets hr h, fun h => ?_⟩
  simp only [List.forall_mem_cons]
  refine ⟨?_, ?_, ?_, alloff_sets hr h, List.forall_mem_nil _⟩
  · exact sets_of_setMask hr h (exec_mpop s a) fun l hl => getLsbD_saved _ _ hl
  · exact sets_of_setMask hr h (exec_mset s a) fun l hl => getLsbD_saved _ _ hl
  · refine sets_of_setMask hr h (exec_melse s a) fun l hl => ?_
    rw [BitVec.and_assoc, BitVec.and_comm (~~~_), ← BitVec.and_assoc, BitVec.getLsbD_and, getLsbD_saved _ _ hl]
    simp [hl]

/-! ## Flights that end (R47, R50, R52) -/

/-- Settles O35: each ends the flight of the gang that issues, ALLON once its destination can be used. -/
theorem flightEnds : Obligations.FlightEnds := by
  unfold Obligations.FlightEnds
  intro s r t d hr
  refine ⟨?_, fun h => ?_, ?_⟩
  · exact (exec_regang s t).trans (issue_running hr _)
  · exact (exec_allon s d).trans ((issue_running hr _).trans (checked_usable h _))
  · exact (exec_tend s).trans (issue_running hr _)

end Sys2Proof

/-!
# System registers (R53, R54)
-/

namespace Sys2Proof

open Machine

/-- A number outside R53's table is not assigned. -/
theorem tenantReg_eq_false {n : Nat} (h : n ∉ [0x0, 0x1, 0x2, 0x3, 0x10, 0x11, 0x12, 0x13, 0x14, 0x15, 0x16, 0x17, 0x20, 0x21, 0x30, 0x31, 0x32, 0x40]) :
    tenantReg n = false := by
  simp only [List.mem_cons, List.not_mem_nil, or_false, not_or] at h
  simp only [tenantReg, Bool.or_eq_false_iff, Bool.and_eq_false_iff, decide_eq_false_iff_not, beq_eq_false_iff_ne]
  omega

/-- The assigned numbers but FPCTL's and FPSTAT's. -/
theorem readOnly_assigned {k : BitVec 12} (hk : k ∈ [0x002#12, 0x003#12, 0x010#12, 0x011#12, 0x012#12, 0x013#12, 0x014#12, 0x015#12, 0x016#12, 0x017#12,
    0x020#12, 0x021#12, 0x030#12, 0x031#12, 0x032#12, 0x040#12]) : 2 ≤ k.toNat ∧ tenantReg k.toNat = true := by
  have hall : ([0x002#12, 0x003#12, 0x010#12, 0x011#12, 0x012#12, 0x013#12, 0x014#12, 0x015#12, 0x016#12, 0x017#12, 0x020#12, 0x021#12, 0x030#12,
    0x031#12, 0x032#12, 0x040#12].all fun k => decide (2 ≤ k.toNat) && tenantReg k.toNat) = true := by decide
  simpa using List.all_eq_true.1 hall k hk

/-- PRIVILEGE names the word in its clause and the register (R38). -/
theorem privilege_eq (s : State) (r : Running) (n : Nat) :
    s.privilege r n = .next (s.raiseAt r 0x0005 (BitVec.ofNat 64 (r.cl.idx % 16 + 16 * n)) false) := by
  rw [State.privilege, Nat.mul_comm n]
  rfl

section
variable {s : State} {r : Running} {d a : BitVec 5} {n : BitVec 12}

/-- SYSR of a number that R53 assigns is a scalar instruction that reads no register. -/
theorem execSysr_assigned (hr : s.cur = some r) (hlow : n.toNat < 0x100) (hn : tenantReg n.toNat = true) :
    execSysr d n s = s.scalarOp d.toNat [] fun _ k => s.sysRead r.gang n.toNat k := by
  rw [execSysr, issue_running hr]
  simp [hn, Nat.not_le.2 hlow]

theorem execSysr_unassigned (hr : s.cur = some r) (hlow : n.toNat < 0x100) (hn : tenantReg n.toNat = false) : execSysr d n s = s.illins r 1 := by
  rw [execSysr, issue_running hr]
  simp [hn, hlow]

/-- Firmware's numbers are protected from every other gang. -/
theorem execSysr_protected (hr : s.cur = some r) (hctx : r.gang.ctx ≠ firmware) (hhigh : 0x100 ≤ n.toNat) : execSysr d n s = s.privilege r n.toNat := by
  rw [execSysr, issue_running hr]
  simp [hctx, hhigh, Nat.not_lt.2 hhigh]

theorem execSysw_unassigned (hr : s.cur = some r) (hlow : n.toNat < 0x100) (hn : tenantReg n.toNat = false) : execSysw a n s = s.illins r 1 := by
  rw [execSysw, issue_running hr]
  simp [hn, hlow]

/-- Every assigned number but those of FPCTL and FPSTAT is protected from a gang that is not firmware's. -/
theorem execSysw_protected (hr : s.cur = some r) (hctx : r.gang.ctx ≠ firmware) (htwo : 2 ≤ n.toNat) (hn : n.toNat < 0x100 → tenantReg n.toNat = true) :
    execSysw a n s = s.privilege r n.toNat := by
  have hassigned : (n.toNat < 0x100 && !tenantReg n.toNat) = false := by
    by_cases h : n.toNat < 0x100
    · simp [hn h]
    · simp [h]
  rw [execSysw, issue_running hr]
  simp [hassigned, hctx, htwo]

/-- SYSW of FPCTL: no mode above 4 (R53). -/
theorem execSysw_fpctl (hr : s.cur = some r) (h : Usable s r { sr := [a.toNat], slices := r.gang.arch.slicesList }) : execSysw a 0#12 s =
    if r.gang.arch.slicesList.any fun k => decide (5 ≤ (r.gang.arch.sget k a.toNat).toNat) then s.illins r 2
    else .next (s.setArch r { r.gang.arch with
      fpctl := r.gang.arch.slicesList.foldl (fun m k => put 0#3 m k ((r.gang.arch.sget k a.toNat).setWidth 3)) r.gang.arch.fpctl }) := by
  rw [execSysw, issue_running hr]
  simp only [BitVec.toNat_ofNat, Nat.reducePow, Nat.reduceMod, checked_usable h]
  simp [tenantReg, readOnlyReg]

/-- SYSW of FPSTAT: five flags. -/
theorem execSysw_fpstat (hr : s.cur = some r) (h : Usable s r { sr := [a.toNat], slices := r.gang.arch.slicesList }) : execSysw a 1#12 s =
    if r.gang.arch.slicesList.any fun k => decide (32 ≤ (r.gang.arch.sget k a.toNat).toNat) then s.illins r 2
    else .next (s.setArch r { r.gang.arch with
      fpstat := r.gang.arch.slicesList.foldl (fun m k => put 0#5 m k ((r.gang.arch.sget k a.toNat).setWidth 5)) r.gang.arch.fpstat }) := by
  rw [execSysw, issue_running hr]
  simp only [BitVec.toNat_ofNat, Nat.reducePow, Nat.reduceMod, checked_usable h]
  simp [tenantReg, readOnlyReg]

theorem any_atLeast_eq_false {x : Arch} {m : Nat} (h : ∀ k ∈ x.slicesList, (x.sget k a.toNat).toNat < m) :
    ¬ (x.slicesList.any fun k => decide (m ≤ (x.sget k a.toNat).toNat)) = true := by
  simpa using h

theorem any_atLeast_eq_true {x : Arch} {m : Nat} (h : ∃ k ∈ x.slicesList, m ≤ (x.sget k a.toNat).toNat) :
    (x.slicesList.any fun k => decide (m ≤ (x.sget k a.toNat).toNat)) = true := by
  simpa using h

/-- In a gang that is not firmware's, a handler's FAULT registers are those of the slice's lowest occupied lane (log 64). -/
theorem faultOf_task {g : Gang} (hctx : g.ctx ≠ firmware) (k : Nat) : s.faultOf g k =
    if g.handler = true then ((g.lanes.find? fun e => e.1 / 4 == k).map fun e => e.2.fault).getD ⟨0, 0#64, 0#64⟩ else ⟨0, 0#64, 0#64⟩ := if_neg hctx

/-- SYSR of an assigned number writes what the register, in any spelling, holds for the slice. -/
theorem sets_of_sysRead (hr : s.cur = some r) (h : Usable s r { sw := [d.toNat], slices := r.gang.arch.slicesList }) (hn : n.toNat < 0x100 ∧ tenantReg n.toNat = true)
    {f : Nat → DWord} (hf : ∀ k, s.sysRead r.gang n.toNat k = f k) :
    Sets s r (.sysr d n) fun z => ScalarsWritten r.gang.arch z d.toNat r.gang.arch.slicesList f :=
  sets_of_scalarOp hr h ((exec_sysr s d n).trans (execSysr_assigned hr hn.1 hn.2)) hf

end

/-- Settles O51: an assigned number is read (`sets_of_sysRead`) or written, and any other access traps. -/
theorem systemRegisters : Obligations.SystemRegisters := by
  unfold Obligations.SystemRegisters
  intro s r d a n hr
  refine ⟨fun h hctx hcore => ?_, fun h => ⟨fun hv => ?_, fun hv => ?_, fun hv => ?_, fun hv => ?_⟩, fun hctx hn => ⟨?_, ?_⟩, fun hctx k hk => ?_,
    fun hn hk => ⟨?_, ?_⟩, ?_⟩
  · simp only [List.forall_mem_cons]
    exact
      ⟨sets_of_sysRead hr h (by decide) fun _ => BitVec.ofNat_toNat _ _,
       sets_of_sysRead hr h (by decide) fun _ => rfl,
       sets_of_sysRead hr h (by decide) fun _ => rfl,
       sets_of_sysRead hr h (by decide) fun _ => rfl,
       sets_of_sysRead hr h (by decide) fun _ => if_neg hcore,
       sets_of_sysRead hr h (by decide) fun _ => if_neg hcore,
       sets_of_sysRead hr h (by decide) fun _ => if_neg hcore,
       sets_of_sysRead hr h (by decide) fun _ => if_neg hcore,
       sets_of_sysRead hr h (by decide) fun _ => rfl,
       sets_of_sysRead hr h (by decide) fun _ => if_neg hcore,
       sets_of_sysRead hr h (by decide) fun _ => if_neg hcore,
       sets_of_sysRead hr h (by decide) fun _ => rfl,
       sets_of_sysRead hr h (by decide) fun _ => rfl,
       sets_of_sysRead hr h (by decide) fun _ => rfl,
       sets_of_sysRead hr h (by decide) fun k => congrArg (fun f : FaultInfo => BitVec.ofNat 64 f.code) (faultOf_task hctx k),
       sets_of_sysRead hr h (by decide) fun k => congrArg FaultInfo.info (faultOf_task hctx k),
       sets_of_sysRead hr h (by decide) fun k => congrArg FaultInfo.pc (faultOf_task hctx k),
       sets_of_sysRead hr h (by decide) fun _ => rfl,
       List.forall_mem_nil _⟩
  · exact ⟨_, (exec_sysw s a 0#12).trans ((execSysw_fpctl hr h).trans (if_neg (any_atLeast_eq_false hv))), rfl, look_puts_own _ _ _ _⟩
  · exact (exec_sysw s a 0#12).trans ((execSysw_fpctl hr h).trans ((if_pos (any_atLeast_eq_true hv)).trans (illins_eq s r 2)))
  · exact ⟨_, (exec_sysw s a 1#12).trans ((execSysw_fpstat hr h).trans (if_neg (any_atLeast_eq_false hv))), rfl, look_puts_own _ _ _ _⟩
  · exact (exec_sysw s a 1#12).trans ((execSysw_fpstat hr h).trans ((if_pos (any_atLeast_eq_true hv)).trans (illins_eq s r 2)))
  · exact (exec_sysr s d n).trans ((execSysr_protected hr hctx hn).trans (privilege_eq s r _))
  · exact (exec_sysw s a n).trans ((execSysw_protected hr hctx (by omega) fun hlow => absurd hlow (by omega)).trans (privilege_eq s r _))
  · obtain ⟨htwo, hassigned⟩ := readOnly_assigned hk
    exact (exec_sysw s a k).trans ((execSysw_protected hr hctx htwo fun _ => hassigned).trans (privilege_eq s r _))
  · exact (exec_sysr s d n).trans ((execSysr_unassigned hr hn (tenantReg_eq_false hk)).trans (illins_eq s r 1))
  · exact (exec_sysw s a n).trans ((execSysw_unassigned hr hn (tenantReg_eq_false hk)).trans (illins_eq s r 1))
  · refine (exec_nop s).trans ((issue_running hr _).trans (congrArg Host.Outcome.next ?_))
    rw [State.setRun, ← hr]

end Sys2Proof

/-!
# Words of the spec's examples (R41 to R43, R81, R90, R155, R187, R271, R294)
-/

namespace Sys2Proof

open Machine

/-- Settles O3: each word is its instruction's own, so that it decodes to it (`decode_of_encode`). -/
theorem sampleWordsDecode : Obligations.SampleWordsDecode := by
  unfold Obligations.SampleWordsDecode
  exact ⟨decode_of_encode (by decide) rfl, decode_of_encode (by decide) rfl, decode_of_encode (by decide) rfl, decode_of_encode (by decide) rfl,
    decode_of_encode (by decide) rfl, decode_of_encode (by decide) rfl, decode_of_encode (by decide) rfl, decode_of_encode (by decide) rfl⟩

end Sys2Proof

/-!
# How a rounding chooses (R63)
-/

namespace Sys2Proof

open Machine

/-! ## When the kept part goes up by one -/

section
variable {neg odd : Bool} {r d : Nat}

theorem roundsUp_nearestEven : roundsUp 0 neg odd r d = true ↔ 2 ^ d < 2 * r ∨ 2 * r = 2 ^ d ∧ odd = true := by
  simp only [roundsUp, Bool.or_eq_true, Bool.and_eq_true, decide_eq_true_eq]

theorem roundsUp_towardsZero : roundsUp 1 neg odd r d = false := rfl

theorem roundsUp_upwards : roundsUp 2 neg odd r d = true ↔ neg = false ∧ r ≠ 0 := by
  simp only [roundsUp, Bool.and_eq_true, Bool.not_eq_true', decide_eq_true_eq]

theorem roundsUp_downwards : roundsUp 3 neg odd r d = true ↔ neg = true ∧ r ≠ 0 := by
  simp only [roundsUp, Bool.and_eq_true, decide_eq_true_eq]

theorem roundsUp_nearestAway : roundsUp 4 neg odd r d = true ↔ 2 ^ d ≤ 2 * r := by
  have hpos := Nat.two_pow_pos d
  simp only [roundsUp, Bool.and_eq_true, decide_eq_true_eq]
  omega

end

/-! ## The multiple -/

/-- A rounding to a coarser quantum drops the remainder `r`, and keeps the quotient `j` or the next number. -/
theorem roundTo_coarser {e q : Int} (h : e < q) (mode : Nat) (neg : Bool) (m : Nat) :
    ∃ j r, m = j * 2 ^ (q - e).toNat + r ∧ r < 2 ^ (q - e).toNat ∧ (roundTo mode neg m e q).2 = decide (r ≠ 0) ∧
      (roundTo mode neg m e q).1 = if roundsUp mode neg (j % 2 == 1) r (q - e).toNat = true then j + 1 else j := by
  refine ⟨m / 2 ^ (q - e).toNat, m % 2 ^ (q - e).toNat, (Nat.div_add_mod' _ _).symm, Nat.mod_lt _ (Nat.two_pow_pos _), ?_⟩
  rw [roundTo, if_neg (by omega)]
  exact ⟨rfl, rfl⟩

/-- Settles O18: the quotient's multiple and the next one enclose the number (`roundTo_coarser`), and each mode takes the one that
its rule for going up names. -/
theorem roundingChooses : Obligations.RoundingChooses := by
  unfold Obligations.RoundingChooses
  intro mode neg m e q _ hq
  obtain ⟨j, r, hm, hr, hinexact, hk⟩ := roundTo_coarser hq mode neg m
  have hnext : (j + 1) * 2 ^ (q - e).toNat = j * 2 ^ (q - e).toNat + 2 ^ (q - e).toNat := Nat.succ_mul ..
  dsimp only
  rw [hinexact, hk]
  refine ⟨?_, ?_, ?_, ?_, ?_, ?_⟩
  · have hdvd : 2 ^ (q - e).toNat ∣ m ↔ r = 0 := by
      rw [hm, Nat.dvd_add_right (Nat.dvd_mul_left ..)]
      exact ⟨fun h => Nat.eq_zero_of_dvd_of_lt h hr, fun h => h ▸ Nat.dvd_zero _⟩
    rw [decide_eq_true_iff, hdvd]
  · rintro rfl
    simp only [roundsUp_nearestEven, beq_iff_eq]
    split <;> omega
  · rintro rfl
    simp only [roundsUp_towardsZero, Bool.false_eq_true, if_false]
    omega
  · rintro rfl
    cases neg with
    | false =>
      simp only [roundsUp_upwards, true_and, Bool.false_eq_true, if_false]
      split <;> omega
    | true =>
      simp only [roundsUp_upwards, Bool.true_eq_false, false_and, if_true, if_false]
      omega
  · rintro rfl
    cases neg with
    | false =>
      simp only [roundsUp_downwards, Bool.false_eq_true, false_and, if_false]
      omega
    | true =>
      simp only [roundsUp_downwards, true_and, if_true]
      split <;> omega
  · rintro rfl
    simp only [roundsUp_nearestAway]
    split <;> omega

end Sys2Proof

/-!
# Floating point of two and three sources (R90, R95)

Each instruction writes what its operation gives, and each operation rounds an exact result once.
-/

namespace Sys2Proof

open Machine

/-! ## One rounding -/

section
variable {w f m : Nat} {x y z : Sys2Proof.Num}

theorem fadd_once : (BitVec.ofNat w (fadd f m x y).1, (fadd f m x y).2) = onceRounded w f m (numAdd m x y) := rfl

theorem fmul_once : (BitVec.ofNat w (fmul f m x y).1, (fmul f m x y).2) = onceRounded w f m (numMul x y) := rfl

theorem ffma_once : (BitVec.ofNat w (ffma f m x y z).1, (ffma f m x y z).2) = onceRounded w f m (fused m x y z) := rfl

/-- An exact result that raises no flag has those of its rounding. -/
theorem rnd_once : (BitVec.ofNat w (rnd f m x).1, (rnd f m x).2) = onceRounded w f m (x, 0#5) := by
  rw [onceRounded, BitVec.zero_or]

end

/-! ## The halves of a word (R95) -/

theorem fieldW_low_half (x : Word) : fieldW x 0 16 = x.toNat % 2 ^ 16 := by simp [fieldW]

theorem fieldW_high_half (x : Word) : fieldW x 16 16 = x.toNat / 2 ^ 16 := Nat.mod_eq_of_lt (by have := x.isLt; omega)

/-- A packed operation is its operation on both halves, in any spelling. -/
theorem packed_eq_bothHalves {f : Nat → Nat → Nat → Nat → Nat × Flags} {m : Nat} {g : Nat → Nat → Nat → BitVec 16 × Flags} {x y z : Word}
    (hfg : ∀ x y z, (BitVec.ofNat 16 (f m x y z).1, (f m x y z).2) = g x y z) : packed f m x y z = bothHalves g x y z := by
  obtain rfl := funext₃ hfg
  simp only [packed, bothHalves, fieldW_low_half, fieldW_high_half]

/-! ## The form of an instruction -/

section
variable {s : State} {r : Running} {i : Instr} {g : BitVec 3} {n : BitVec 1} {v : Nat → Word × Flags}

/-- A floating-point instruction writes in each active lane what its function, in any spelling, gives there, and raises the flags. -/
theorem sets_of_floatOp {d : Nat} {vr : List Nat} {f : Arch → Nat → Word × Flags} (hr : s.cur = some r)
    (h : Usable s r { vr := vr, vw := [d], lanes := r.gang.arch.active g n })
    (hi : exec i s = s.floatOp d g n vr f) (hf : ∀ l, f r.gang.arch l = v l) :
    Sets s r i fun z => FloatWritten r.gang.arch z d (r.gang.arch.active g n) v := by
  obtain rfl : f r.gang.arch = v := funext hf
  obtain ⟨y, hy, hw⟩ := floatOp_next hr d g n vr f h
  exact ⟨y, hi.trans hy, hw⟩

variable {d a b : BitVec 6}

/-- The form `vD, vA, vB`. -/
theorem sets_of_float2 {f : Nat → Word → Word → Word × Flags} (hr : s.cur = some r)
    (h : Usable s r { vr := [a.toNat, b.toNat], vw := [d.toNat], lanes := r.gang.arch.active g n }) (hi : exec i s = s.float2 d a b g n f)
    (hf : ∀ l, f (r.gang.arch.mode (l / 4)) (r.gang.arch.vget a.toNat l) (r.gang.arch.vget b.toNat l) = v l) :
    Sets s r i fun z => FloatWritten r.gang.arch z d.toNat (r.gang.arch.active g n) v :=
  sets_of_floatOp hr h hi hf

/-- The form where vD is a source too. -/
theorem sets_of_float3 {f : Nat → Word → Word → Word → Word × Flags} (hr : s.cur = some r)
    (h : Usable s r { vr := [a.toNat, b.toNat, d.toNat], vw := [d.toNat], lanes := r.gang.arch.active g n }) (hi : exec i s = s.float3 d a b g n f)
    (hf : ∀ l, f (r.gang.arch.mode (l / 4)) (r.gang.arch.vget a.toNat l) (r.gang.arch.vget b.toNat l) (r.gang.arch.vget d.toNat l) = v l) :
    Sets s r i fun z => FloatWritten r.gang.arch z d.toNat (r.gang.arch.active g n) v :=
  sets_of_floatOp hr h hi hf

end

/-- Settles O19: each rounds once what it computes exactly (`fadd_once`, `fmul_once`, `rnd_once`), the packed ones in both halves
(`packed_eq_bothHalves`). -/
theorem floatTwoSources : Obligations.FloatTwoSources := by
  unfold Obligations.FloatTwoSources
  intro s r d a b g n hr h
  simp only [List.forall_mem_cons]
  exact
    ⟨sets_of_float2 hr h (exec_fadd s d a b g n) fun _ => fadd_once,
     sets_of_float2 hr h (exec_fsub s d a b g n) fun _ => fadd_once,
     sets_of_float2 hr h (exec_fmul s d a b g n) fun _ => fmul_once,
     sets_of_float2 hr h (exec_fscl s d a b g n) fun _ => rnd_once,
     sets_of_float2 hr h (exec_hadd2 s d a b g n) fun _ => packed_eq_bothHalves fun _ _ _ => fadd_once,
     sets_of_float2 hr h (exec_hsub2 s d a b g n) fun _ => packed_eq_bothHalves fun _ _ _ => fadd_once,
     sets_of_float2 hr h (exec_hmul2 s d a b g n) fun _ => packed_eq_bothHalves fun _ _ _ => fmul_once,
     sets_of_float2 hr h (exec_hmin2 s d a b g n) fun _ => packed_eq_bothHalves fun _ _ _ => rfl,
     sets_of_float2 hr h (exec_hmax2 s d a b g n) fun _ => packed_eq_bothHalves fun _ _ _ => rfl,
     sets_of_float2 hr h (exec_badd2 s d a b g n) fun _ => packed_eq_bothHalves fun _ _ _ => fadd_once,
     sets_of_float2 hr h (exec_bsub2 s d a b g n) fun _ => packed_eq_bothHalves fun _ _ _ => fadd_once,
     sets_of_float2 hr h (exec_bmul2 s d a b g n) fun _ => packed_eq_bothHalves fun _ _ _ => fmul_once,
     List.forall_mem_nil _⟩

/-- Settles O20: each rounds the exact sum once (`ffma_once`), with the destination among its sources. -/
theorem floatThreeSources : Obligations.FloatThreeSources := by
  unfold Obligations.FloatThreeSources
  intro s r d a b g n hr h
  simp only [List.forall_mem_cons]
  exact
    ⟨sets_of_float3 hr h (exec_ffma s d a b g n) fun _ => ffma_once,
     sets_of_float3 hr h (exec_ffms s d a b g n) fun _ => ffma_once,
     sets_of_float3 hr h (exec_hfma2 s d a b g n) fun _ => packed_eq_bothHalves fun _ _ _ => ffma_once,
     sets_of_float3 hr h (exec_bfma2 s d a b g n) fun _ => packed_eq_bothHalves fun _ _ _ => ffma_once,
     List.forall_mem_nil _⟩

end Sys2Proof

/-!
# Conversions (R66, R93, R94)
-/

namespace Sys2Proof

open Machine

/-- Bit 5 of a conversion code says which side is FP32 or, with bit 4, FP64; the low bits name the other side's format (R93). -/
theorem convFormats_eq (c : BitVec 6) :
    convFormats c = if c.getLsbD 5 = true then ((c.extractLsb' 0 4).toNat, if c.getLsbD 4 = true then fFP64 else fFP32)
      else (if c.getLsbD 4 = true then fFP64 else fFP32, (c.extractLsb' 0 4).toNat) := by
  revert c
  decide

/-- The registers that a conversion reads: a pair where its source is FP64. -/
def convSources (src a : Nat) : List Nat := if src = fFP64 then [a, a + 1] else [a]

/-- The value that a conversion reads in a lane (R94). -/
def convValue (src a : Nat) (x : Arch) (l : Nat) : Sys2Proof.Num :=
  if src = fFP64 then floatOf fFP64 (x.dget a l).toNat else valueOf src ((x.vget a l).toNat % 2 ^ narrowBits src)

section
variable {s : State} {d a c : BitVec 6} {g : BitVec 3} {n sat : BitVec 1} {m : BitVec 3}

/-- FCVT to FP64 writes a pair. -/
theorem execFcvt_double (h : (convFormats c).2 = fFP64) :
    execFcvt d a c g n sat m s = s.doubleOp d.toNat g n (convSources (convFormats c).1 a.toNat) fun x l =>
      let y := convert fFP64 m.toNat (sat == 1#1) (convValue (convFormats c).1 a.toNat x l)
      (BitVec.ofNat 64 y.1, y.2) := by
  rw [convFormats_eq] at h ⊢
  unfold execFcvt
  cases hside : c.getLsbD 5 <;> rw [hside] at h <;> exact if_pos h

/-- FCVT to any other format writes a register. -/
theorem execFcvt_single (h : (convFormats c).2 ≠ fFP64) :
    execFcvt d a c g n sat m s = s.floatOp d.toNat g n (convSources (convFormats c).1 a.toNat) fun x l =>
      let y := convert (convFormats c).2 m.toNat (sat == 1#1) (convValue (convFormats c).1 a.toNat x l)
      (narrowWord (convFormats c).2 y.1, y.2) := by
  rw [convFormats_eq] at h ⊢
  unfold execFcvt
  cases hside : c.getLsbD 5 <;> rw [hside] at h <;> exact if_neg h

end

/-- Settles O23: the destination's format says whether the converted value goes to a pair or to a register (`execFcvt_double`,
`execFcvt_single`). -/
theorem fcvtConverts : Obligations.FcvtConverts := by
  unfold Obligations.FcvtConverts
  intro s r d a c g n sat m hr
  refine ⟨fun hdst h => ?_, fun hdst h => sets_of_floatOp hr h ((exec_fcvt ..).trans (execFcvt_single hdst)) fun _ => rfl⟩
  obtain ⟨y, hy, hw⟩ := doubleOp_next hr d.toNat g n _ _ h
  refine ⟨y, ((exec_fcvt ..).trans (execFcvt_double hdst)).trans hy, ?_⟩
  rw [hdst]
  exact hw

end Sys2Proof

/-!
# The vector instructions on words (R79 to R86, R90 to R92, R115)

Each writes one vector register in the active lanes; the lemmas here give its operation in the spelling of the statement.
-/

namespace Sys2Proof

open Machine

/-! ## The forms of a vector instruction -/

section
variable {s : State} {r : Running} {i : Instr} {g : BitVec 3} {n : BitVec 1}

/-- A vector instruction writes in each active lane what its function, in any spelling, gives there. -/
theorem sets_of_vectorOp {d : Nat} {vr sr : List Nat} {f : Arch → Nat → Word} {v : Nat → Word} (hr : s.cur = some r)
    (h : Usable s r { vr := vr, vw := [d], sr := sr, lanes := r.gang.arch.active g n, slices := slicesOf (r.gang.arch.active g n) })
    (hi : exec i s = s.vectorOp d g n vr sr f) (hf : ∀ l, f r.gang.arch l = v l) :
    Sets s r i fun z => VectorWritten r.gang.arch z d (r.gang.arch.active g n) v := by
  obtain rfl : f r.gang.arch = v := funext hf
  obtain ⟨y, hy, hw⟩ := vectorOp_next hr d g n vr sr f h
  exact ⟨y, hi.trans hy, hw⟩

variable {d a b : BitVec 6}

/-- The form `vD, vA`. -/
theorem sets_of_vector1 {f v : Word → Word} (hr : s.cur = some r)
    (h : Usable s r { vr := [a.toNat], vw := [d.toNat], lanes := r.gang.arch.active g n, slices := slicesOf (r.gang.arch.active g n) })
    (hi : exec i s = s.vector1 d a g n f) (hf : ∀ x, f x = v x) :
    Sets s r i fun z => VectorWritten r.gang.arch z d.toNat (r.gang.arch.active g n) fun l => v (r.gang.arch.vget a.toNat l) :=
  sets_of_vectorOp hr h hi fun _ => hf _

/-- The form `vD, vA, vB`. -/
theorem sets_of_vector2 {f v : Word → Word → Word} (hr : s.cur = some r)
    (h : Usable s r { vr := [a.toNat, b.toNat], vw := [d.toNat], lanes := r.gang.arch.active g n, slices := slicesOf (r.gang.arch.active g n) })
    (hi : exec i s = s.vector2 d a b g n f) (hf : ∀ x y, f x y = v x y) :
    Sets s r i fun z => VectorWritten r.gang.arch z d.toNat (r.gang.arch.active g n) fun l =>
      v (r.gang.arch.vget a.toNat l) (r.gang.arch.vget b.toNat l) :=
  sets_of_vectorOp hr h hi fun _ => hf _ _

/-- The form where vD is a source too. -/
theorem sets_of_vector3 {f v : Word → Word → Word → Word} (hr : s.cur = some r)
    (h : Usable s r { vr := [a.toNat, b.toNat, d.toNat], vw := [d.toNat], lanes := r.gang.arch.active g n,
                      slices := slicesOf (r.gang.arch.active g n) })
    (hi : exec i s = s.vector3 d a b g n f) (hf : ∀ x y z, f x y z = v x y z) :
    Sets s r i fun z => VectorWritten r.gang.arch z d.toNat (r.gang.arch.active g n) fun l =>
      v (r.gang.arch.vget a.toNat l) (r.gang.arch.vget b.toNat l) (r.gang.arch.vget d.toNat l) :=
  sets_of_vectorOp hr h hi fun _ => hf _ _ _

/-- The form with a signed immediate and no guard. -/
theorem sets_of_vectorImm {j : BitVec 10} {f : Word → Word → Word} {v : Word → Word} (hr : s.cur = some r)
    (h : Usable s r { vr := [a.toNat], vw := [d.toNat], lanes := r.gang.arch.active 0#3 0#1, slices := slicesOf (r.gang.arch.active 0#3 0#1) })
    (hi : exec i s = s.vectorImm d a j f) (hf : ∀ x, f x (j.signExtend 32) = v x) :
    Sets s r i fun z => VectorWritten r.gang.arch z d.toNat (r.gang.arch.active 0#3 0#1) fun l => v (r.gang.arch.vget a.toNat l) :=
  sets_of_vector1 hr h hi hf

end

/-! ## Operations on words -/

theorem fieldW_low5 (x : Word) : fieldW x 0 5 = x.toNat % 32 := by simp [fieldW]

theorem minS_eq (x y : Word) : minS x y = if x.toInt ≤ y.toInt then x else y := by
  simp only [minS, BitVec.slt_iff_toInt_lt, ← not_le, ite_not]

theorem maxS_eq (x y : Word) : maxS x y = if x.toInt ≤ y.toInt then y else x := by
  simp only [maxS, BitVec.slt_iff_toInt_lt]
  rcases lt_trichotomy x.toInt y.toInt with h | h | h
  · rw [if_pos h, if_pos h.le]
  · rw [BitVec.eq_of_toInt_eq h, ite_self, ite_self]
  · rw [if_neg h.asymm, if_neg h.not_ge]

theorem minU_eq (x y : Word) : minU x y = if x.toNat ≤ y.toNat then x else y := by
  simp only [minU, BitVec.ult_iff_lt, BitVec.lt_def, ← not_le, ite_not]

theorem maxU_eq (x y : Word) : maxU x y = if x.toNat ≤ y.toNat then y else x := by
  simp only [maxU, BitVec.ult_iff_lt, BitVec.lt_def]
  rcases lt_trichotomy x.toNat y.toNat with h | h | h
  · rw [if_pos h, if_pos h.le]
  · rw [BitVec.eq_of_toNat_eq h, ite_self, ite_self]
  · rw [if_neg h.asymm, if_neg h.not_ge]

/-- The reversal of a word gives each bit its mirror image. -/
theorem maskOf_mirrored (x : Word) : (maskOf fun i => x.getLsbD (31 - i)) = x.reverse := by
  apply BitVec.eq_of_getLsbD_eq
  intro i hi
  rw [getLsbD_maskOf, BitVec.getLsbD_reverse, BitVec.getMsbD_eq_getLsbD]

/-- Settles O10: each is of the form `vD, vA, vB` (`sets_of_vector2`), with the operation in another spelling. -/
theorem vectorTwoSources : Obligations.VectorTwoSources := by
  unfold Obligations.VectorTwoSources
  intro s r d a b g n hr h
  simp only [List.forall_mem_cons]
  exact
    ⟨sets_of_vector2 hr h (exec_vadd s d a b g n) fun _ _ => rfl,
     sets_of_vector2 hr h (exec_vsub s d a b g n) fun _ _ => rfl,
     sets_of_vector2 hr h (exec_vmul s d a b g n) fun _ _ => rfl,
     sets_of_vector2 hr h (exec_vmulh s d a b g n) fun _ _ => rfl,
     sets_of_vector2 hr h (exec_vmulhu s d a b g n) fun _ _ => rfl,
     sets_of_vector2 hr h (exec_vand s d a b g n) fun _ _ => rfl,
     sets_of_vector2 hr h (exec_vor s d a b g n) fun _ _ => rfl,
     sets_of_vector2 hr h (exec_vxor s d a b g n) fun _ _ => rfl,
     sets_of_vector2 hr h (exec_vshl s d a b g n) fun x y => by rw [fieldW_low5],
     sets_of_vector2 hr h (exec_vshr s d a b g n) fun x y => by rw [fieldW_low5],
     sets_of_vector2 hr h (exec_vsra s d a b g n) fun x y => by rw [fieldW_low5],
     sets_of_vector2 hr h (exec_vmin s d a b g n) minS_eq,
     sets_of_vector2 hr h (exec_vmax s d a b g n) maxS_eq,
     sets_of_vector2 hr h (exec_vminu s d a b g n) minU_eq,
     sets_of_vector2 hr h (exec_vmaxu s d a b g n) maxU_eq,
     sets_of_vector2 hr h (exec_vabsd s d a b g n) fun _ _ => rfl,
     sets_of_vector2 hr h (exec_fcpys s d a b g n) fun _ _ => rfl,
     sets_of_vector2 hr h (exec_fmin s d a b g n) fun _ _ => rfl,
     sets_of_vector2 hr h (exec_fmax s d a b g n) fun _ _ => rfl,
     sets_of_vector2 hr h (exec_fminn s d a b g n) fun _ _ => rfl,
     sets_of_vector2 hr h (exec_fmaxn s d a b g n) fun _ _ => rfl,
     List.forall_mem_nil _⟩

/-- Settles O11: each is of the form `vD, vA` (`sets_of_vector1`), with the operation in another spelling. -/
theorem vectorOneSource : Obligations.VectorOneSource := by
  unfold Obligations.VectorOneSource
  intro s r d a g n hr h
  simp only [List.forall_mem_cons]
  exact
    ⟨sets_of_vector1 hr h (exec_vpop s d a g n) fun _ => rfl,
     sets_of_vector1 hr h (exec_vclz s d a g n) fun x => by rw [leadingZeros_eq_findIdx],
     sets_of_vector1 hr h (exec_vbrev s d a g n) maskOf_mirrored,
     sets_of_vector1 hr h (exec_vmov s d a g n) fun _ => rfl,
     sets_of_vector1 hr h (exec_fabs s d a g n) fun _ => rfl,
     sets_of_vector1 hr h (exec_fneg s d a g n) fun _ => rfl,
     List.forall_mem_nil _⟩

/-! ## Classes (R92) -/

/-- The class of an FP32 pattern, as R92 numbers them. -/
def fp32Class (x : Word) : Nat :=
  let neg := x.getLsbD 31
  let e := x.toNat / 2 ^ 23 % 256
  let f := x.toNat % 2 ^ 23
  if e = 255 then (if f ≠ 0 then 8 else if neg then 0 else 7)
  else if e = 0 then (if f = 0 then (if neg then 3 else 4) else if neg then 2 else 5)
  else if neg then 1 else 6

theorem fp32ClassIs_fp32Class (x : Word) : fp32ClassIs (fp32Class x) x := by
  have hbound : x.toNat / 2 ^ 23 % 256 < 256 := Nat.mod_lt _ (by decide)
  simp only [fp32Class]
  split_ifs with hmax hfrac hneg hmin hfrac hneg hneg hneg
  · exact ⟨hmax, hfrac⟩
  · exact ⟨hneg, hmax, not_not.1 hfrac⟩
  · exact ⟨hneg, hmax, not_not.1 hfrac⟩
  · exact ⟨hneg, hmin, hfrac⟩
  · exact ⟨hneg, hmin, hfrac⟩
  · exact ⟨hneg, hmin, hfrac⟩
  · exact ⟨hneg, hmin, hfrac⟩
  · exact ⟨hneg, Nat.pos_of_ne_zero hmin, by omega⟩
  · exact ⟨hneg, Nat.pos_of_ne_zero hmin, by omega⟩

/-- The model's mask is the bit of the class. -/
theorem classMask_eq (x : Word) : classMask x.toNat = 2 ^ fp32Class x := by
  have hneg : (x.toNat / 2 ^ 31 % 2 == 1) = x.getLsbD 31 := (Nat.testBit_eq_decide_div_mod_eq).symm
  simp only [classMask, fp32Class, hneg]
  split_ifs <;> rfl

theorem ofNat_two_pow (n k : Nat) : BitVec.ofNat n (2 ^ k) = 1#n <<< k := by
  apply BitVec.eq_of_toNat_eq
  rw [BitVec.toNat_ofNat]
  exact (BitVec.toNat_twoPow n k).symm

/-- Settles O12: the result is the bit of the class that the operand is of (`classMask_eq`, `fp32ClassIs_fp32Class`). -/
theorem fclsClassifies : Obligations.FclsClassifies := by
  unfold Obligations.FclsClassifies
  intro s r d a g n hr h
  refine ⟨fun l => 1#32 <<< fp32Class (r.gang.arch.vget a.toNat l), fun l => ⟨_, fp32ClassIs_fp32Class _, rfl⟩,
    sets_of_vector1 (v := fun x => 1#32 <<< fp32Class x) hr h (exec_fcls s d a g n) fun x => ?_⟩
  rw [classMask_eq, ofNat_two_pow]

/-! ## Forms that read their destination, immediates and the others (R79, R82 to R86, R115) -/

/-- Byte products are natural numbers where the bytes are unsigned. -/
theorem dot4_unsigned (x y z : Word) : dot4 (fun b => (b.toNat : Int)) x y z =
    z + BitVec.ofNat 32 (((List.range 4).map fun i => (x.extractLsb' (8 * i) 8).toNat * (y.extractLsb' (8 * i) 8).toNat).sum) := by
  rw [dot4, ← BitVec.ofInt_natCast, Nat.cast_list_sum, List.map_map]
  simp only [Function.comp_def, Nat.cast_mul]

/-- Settles O13: each is of the form in which vD is a source too (`sets_of_vector3`). -/
theorem vectorThreeSources : Obligations.VectorThreeSources := by
  unfold Obligations.VectorThreeSources
  intro s r d a b g n hr h
  simp only [List.forall_mem_cons]
  exact
    ⟨sets_of_vector3 hr h (exec_vmad s d a b g n) fun _ _ _ => rfl,
     sets_of_vector3 hr h (exec_vdot4 s d a b g n) fun _ _ _ => rfl,
     sets_of_vector3 hr h (exec_vdot4u s d a b g n) dot4_unsigned,
     List.forall_mem_nil _⟩

theorem toInt_signExtend10 (i : BitVec 10) : (i.signExtend 32).toInt = i.toInt := BitVec.toInt_signExtend_of_le (by decide)

/-- The selector of VUNPK is the number of a byte, and 4 more where it is sign-extended (R85). -/
theorem toNat_unpackSelector (u : BitVec 3) : (u.extractLsb' 0 2).toNat = u.toNat % 4 ∧ (u.getLsbD 2 = true ↔ 4 ≤ u.toNat) := by
  revert u
  decide

theorem execVunpk_eq (s : State) (d a : BitVec 6) (u : BitVec 3) :
    execVunpk d a u s = s.vector1 d a 0#3 0#1 fun x =>
      if 4 ≤ u.toNat then (x.extractLsb' (8 * (u.toNat % 4)) 8).signExtend 32 else (x.extractLsb' (8 * (u.toNat % 4)) 8).setWidth 32 := by
  obtain ⟨hbyte, hsign⟩ := toNat_unpackSelector u
  simp only [execVunpk, hbyte, hsign]

/-- Settles O14: each is of the form `vD, vA` without a guard (`sets_of_vectorImm`, `sets_of_vector1`), with the operation in another
spelling. -/
theorem vectorImmediates : Obligations.VectorImmediates := by
  unfold Obligations.VectorImmediates
  intro s r d a i k u hr h
  simp only [List.forall_mem_cons]
  exact
    ⟨sets_of_vectorImm hr h (exec_vaddi s d a i) fun _ => rfl,
     sets_of_vectorImm hr h (exec_vandi s d a i) fun _ => rfl,
     sets_of_vectorImm hr h (exec_vori s d a i) fun _ => rfl,
     sets_of_vectorImm hr h (exec_vxori s d a i) fun _ => rfl,
     sets_of_vector1 hr h (exec_vshli s d a k) fun _ => rfl,
     sets_of_vector1 hr h (exec_vshri s d a k) fun _ => rfl,
     sets_of_vector1 hr h (exec_vsrai s d a k) fun _ => rfl,
     sets_of_vectorImm hr h (exec_vmini s d a i) fun x => by rw [minS_eq, toInt_signExtend10],
     sets_of_vectorImm hr h (exec_vmaxi s d a i) fun x => by rw [maxS_eq, toInt_signExtend10],
     sets_of_vector1 hr h ((exec_vunpk s d a u).trans (execVunpk_eq s d a u)) fun _ => rfl,
     List.forall_mem_nil _⟩

/-- The lanes where VSEL takes vA, by its guard (R79, R82). -/
theorem guard_iff (p : Bool) (n : BitVec 1) : ((p != (n == 1#1)) = true) ↔ (p = true ↔ n = 0#1) := by
  revert p n
  decide

theorem low_word (x : DWord) : x.extractLsb' 0 32 = x.setWidth 32 := (BitVec.setWidth_eq_extractLsb' (by decide)).symm

/-- A random number is a function of the draw for the lane's counter and key (R115). -/
theorem random_eq (s : State) (d a : BitVec 6) (c : BitVec 5) (g : BitVec 3) (n : BitVec 1) (f : Word → Word) :
    s.random d a c g n f = s.vectorOp d.toNat g n [a.toNat, a.toNat + 1] [c.toNat] fun x l =>
      f (rngDraw (x.vget a.toNat l) (x.vget (a.toNat + 1) l) (x.sget (l / 4) c.toNat)) := rfl

/-- Settles O15: each is a vector instruction of its own sources (`sets_of_vectorOp`). -/
theorem vectorOthers : Obligations.VectorOthers := by
  unfold Obligations.VectorOthers
  intro s r d a b c g n i j hr
  simp only [List.forall_mem_cons]
  exact
    ⟨fun h => sets_of_vectorOp hr h (exec_vlane s d g n) fun _ => rfl,
     fun h => sets_of_vectorOp hr h ((exec_vtask s d g n).trans (issue_running hr _)) fun l => by cases look? r.gang.lanes l <;> rfl,
     fun h => sets_of_vectorOp hr h (exec_vbcs s d c g n) fun l => low_word _,
     fun h => sets_of_vectorOp hr h (exec_vreq8 s d a c g n) fun _ => rfl,
     fun h => sets_of_vectorOp hr h (exec_vreq4 s d a c g n) fun _ => rfl,
     fun h => sets_of_vectorOp hr h ((exec_rng s d a c g n).trans (random_eq ..)) fun _ => rfl,
     fun h => sets_of_vectorOp hr h ((exec_rngf s d a c g n).trans (random_eq ..)) fun _ => rfl,
     fun h => sets_of_vectorOp hr h (exec_vmovi s d i) fun _ => rfl,
     fun h => sets_of_vectorOp hr h (exec_vlui s d j) fun _ => rfl,
     fun h => sets_of_vectorOp hr h (exec_vsel s d a b g n) fun l => by simp only [guard_iff],
     List.forall_mem_nil _⟩

end Sys2Proof

/-!
# Compares and predicate logic (R87 to R89)

Each writes a predicate in the lanes of the exec mask; a float compare raises IV besides.
-/

namespace Sys2Proof

open Machine

/-! ## Compares of words and predicate logic -/

section
variable {s : State} {r : Running} {i : Instr}

/-- An instruction into a predicate writes in each active lane what its function, in any spelling, gives there. -/
theorem sets_of_predOp {p : Nat} {vr sr : List Nat} {f : Arch → Nat → Bool} {v : Nat → Bool} (hr : s.cur = some r)
    (h : Usable s r { vr := vr, sr := sr, lanes := r.gang.arch.active 0#3 0#1, slices := slicesOf (r.gang.arch.active 0#3 0#1) })
    (hi : exec i s = s.predOp p vr sr f) (hf : ∀ l, f r.gang.arch l = v l) :
    Sets s r i fun z => PredicateWritten r.gang.arch z p (r.gang.arch.active 0#3 0#1) v := by
  obtain rfl : f r.gang.arch = v := funext hf
  obtain ⟨y, hy, hw⟩ := predOp_next hr p vr sr f h
  exact ⟨y, hi.trans hy, hw⟩

/-- Predicate logic names no register. -/
theorem sets_of_predLogic {p : Nat} {f : Arch → Nat → Bool} (hr : s.cur = some r) (hi : exec i s = s.predLogic p f) :
    Sets s r i fun z => PredicateWritten r.gang.arch z p (r.gang.arch.active 0#3 0#1) (f r.gang.arch) :=
  sets_of_predOp hr (usable_none s r _ _) hi fun _ => rfl

end

/-- A condition code of the integer compares means a condition on words (R87). -/
def IntCondIs (cc : Nat) (P : Word → Word → Prop) : Prop := ∀ x y, intCond cc x y = true ↔ P x y

theorem intCond_eq : IntCondIs 0 fun x y => x = y := fun _ _ => beq_iff_eq
theorem intCond_ne : IntCondIs 1 fun x y => x ≠ y := fun _ _ => bne_iff_ne
theorem intCond_lt : IntCondIs 2 fun x y => x.toInt < y.toInt := fun _ _ => BitVec.slt_iff_toInt_lt
theorem intCond_le : IntCondIs 3 fun x y => x.toInt ≤ y.toInt := fun _ _ => BitVec.sle_iff_toInt_le
theorem intCond_ltu : IntCondIs 4 fun x y => x.toNat < y.toNat := fun _ _ => BitVec.ult_iff_lt
theorem intCond_leu : IntCondIs 5 fun x y => x.toNat ≤ y.toNat := fun _ _ => BitVec.ule_iff_le
theorem intCond_test : IntCondIs 6 fun x y => x &&& y ≠ 0#32 := fun _ _ => bne_iff_ne
theorem intCond_testz : IntCondIs 7 fun x y => x &&& y = 0#32 := fun _ _ => beq_iff_eq

/-- Settles O16: each code is one of the eight conditions (`IntCondIs`), between two vector registers or with the scalar's word. -/
theorem integerCompares : Obligations.IntegerCompares := by
  unfold Obligations.IntegerCompares
  intro s r p a b c hr x act q hq
  have hcond : IntCondIs q.1.toNat q.2 := by
    revert q
    simp only [List.forall_mem_cons]
    exact ⟨intCond_eq, intCond_ne, intCond_lt, intCond_le, intCond_ltu, intCond_leu, intCond_test, intCond_testz, List.forall_mem_nil _⟩
  exact
    ⟨fun h => ⟨_, fun _ => hcond _ _, sets_of_predOp hr h (exec_vcmp s p a b q.1) fun _ => rfl⟩,
     fun h => ⟨_, fun _ => hcond _ _, sets_of_predOp hr h (exec_vcmps s p a c q.1) fun l => by rw [low_word]⟩⟩

/-- Settles O17: each is of the form `pD, pA, pB` or shorter (`sets_of_predLogic`). -/
theorem predicateLogic : Obligations.PredicateLogic := by
  unfold Obligations.PredicateLogic
  intro s r p u v hr
  simp only [List.forall_mem_cons]
  exact
    ⟨sets_of_predLogic hr (exec_pand s p u v),
     sets_of_predLogic hr (exec_por s p u v),
     sets_of_predLogic hr (exec_pxor s p u v),
     sets_of_predLogic hr (exec_pandn s p u v),
     sets_of_predLogic hr (exec_pnot s p u),
     sets_of_predLogic hr (exec_pmov s p u),
     sets_of_predLogic hr (exec_pset s p),
     sets_of_predLogic hr (exec_pclr s p),
     List.forall_mem_nil _⟩

/-! ## Compares of floating-point values -/

/-- Flags raised for lanes, one after another, are all that changes. -/
theorem foldl_raiseFlags_frame (f : Nat → Flags) (ls : List Nat) (x : Arch) :
    { ls.foldl (fun b l => b.raiseFlags (l / 4) (f l)) x with fpstat := x.fpstat } = x := by
  induction ls generalizing x with
  | nil => rfl
  | cons l ls ih =>
    have h := ih (x.raiseFlags (l / 4) (f l))
    exact congrArg (fun y : Arch => { y with fpstat := x.fpstat }) h

/-- A slice takes the flags of its own lanes. -/
theorem stat_foldl_raiseFlags (f : Nat → Flags) (ls : List Nat) (x : Arch) (k : Nat) :
    (ls.foldl (fun b l => b.raiseFlags (l / 4) (f l)) x).stat k = (ls.filter fun l => l / 4 == k).foldl (fun m l => m ||| f l) (x.stat k) := by
  induction ls generalizing x with
  | nil => rfl
  | cons l ls ih =>
    rw [List.foldl_cons, ih, stat_raiseFlags]
    by_cases hk : l / 4 = k
    · rw [if_pos hk.symm, List.filter_cons_of_pos (by simpa using hk), List.foldl_cons]
    · rw [if_neg (Ne.symm hk), List.filter_cons_of_neg (by simpa using hk)]

/-- One flag, raised by some lanes, is there where one of them is. -/
theorem foldl_or_flag (c : Flags) (iv : Nat → Prop) [DecidablePred iv] (ls : List Nat) (m : Flags) :
    ls.foldl (fun m l => m ||| if iv l then c else 0#5) m = if ∃ l ∈ ls, iv l then m ||| c else m := by
  induction ls generalizing m with
  | nil => simp
  | cons l ls ih =>
    rw [List.foldl_cons, ih]
    by_cases hl : iv l
    · by_cases hls : ∃ l ∈ ls, iv l <;> simp [hl, hls, BitVec.or_assoc]
    · simp [hl]

/-- Two values are unordered where one is a NaN (R88). -/
theorem numCmp_eq_none (x y : Sys2Proof.Num) : numCmp x y = none ↔ x = .nan ∨ y = .nan := by
  cases x <;> cases y <;> simp [numCmp]

/-- A condition code of the float compares means a condition on the order of two values, and says whether a NaN raises IV (R88). -/
structure FloatCondIs (cc : Nat) (P : Option Ordering → Prop) (signals : Bool) : Prop where
  holds : ∀ x y, (floatCond cc x y).1 = true ↔ P (numCmp x y)
  flags : ∀ x y, (floatCond cc x y).2 = if signals = true ∧ (x = .nan ∨ y = .nan) then fIV else 0#5

theorem floatCond_eq : FloatCondIs 0 (fun o => o = some .eq) false := ⟨fun _ _ => beq_iff_eq, fun _ _ => by simp [floatCond]⟩
theorem floatCond_ne : FloatCondIs 1 (fun o => o ≠ some .eq) false := ⟨fun _ _ => bne_iff_ne, fun _ _ => by simp [floatCond]⟩
theorem floatCond_lt : FloatCondIs 2 (fun o => o = some .lt) true :=
  ⟨fun _ _ => beq_iff_eq, fun _ _ => by simp [floatCond, ← numCmp_eq_none]⟩
theorem floatCond_le : FloatCondIs 3 (fun o => o = some .lt ∨ o = some .eq) true :=
  ⟨fun _ _ => by simp [floatCond], fun _ _ => by simp [floatCond, ← numCmp_eq_none]⟩
theorem floatCond_un : FloatCondIs 4 (fun o => o = none) false := ⟨fun _ _ => beq_iff_eq, fun _ _ => by simp [floatCond]⟩
theorem floatCond_or : FloatCondIs 5 (fun o => o ≠ none) false := ⟨fun _ _ => bne_iff_ne, fun _ _ => by simp [floatCond]⟩

section
variable {s : State} {r : Running} {i : Instr} {p : Nat} {vr sr : List Nat} {f : Arch → Nat → Bool × Flags}

/-- The float compares (R88): the predicate that they write, and the flags that they raise. -/
theorem floatCmp_next (hr : s.cur = some r)
    (h : Usable s r { vr := vr, sr := sr, lanes := r.gang.arch.active 0#3 0#1, slices := slicesOf (r.gang.arch.active 0#3 0#1) }) :
    ∃ y, s.floatCmp p vr sr f = .next (s.setArch r y) ∧
      PredicateWritten r.gang.arch { y with fpstat := r.gang.arch.fpstat } p (r.gang.arch.active 0#3 0#1) (fun l => (f r.gang.arch l).1) ∧
      ∀ k, y.stat k = ((r.gang.arch.active 0#3 0#1).filter fun l => l / 4 == k).foldl (fun m l => m ||| (f r.gang.arch l).2) (r.gang.arch.stat k) := by
  refine ⟨_, (issue_running hr _).trans (checked_usable h _), ?_, fun k => ?_⟩
  · have hw := pset_written r.gang.arch p fun l => (f r.gang.arch l).1
    rw [← foldl_raiseFlags_frame (fun l => (f r.gang.arch l).2) (r.gang.arch.active 0#3 0#1) (r.gang.arch.pset p r.gang.arch.exec _),
      Arch.pset_fpstat] at hw
    exact hw
  · rw [stat_foldl_raiseFlags, Arch.stat, Arch.pset_fpstat]
    rfl

/-- A float compare writes its condition into a predicate, and IV into the slice of a lane with a NaN where the condition signals. -/
theorem sets_of_floatCmp {cc : Nat} {P : Option Ordering → Prop} {signals : Bool} {x y : Nat → Sys2Proof.Num} (hc : FloatCondIs cc P signals)
    (hr : s.cur = some r)
    (h : Usable s r { vr := vr, sr := sr, lanes := r.gang.arch.active 0#3 0#1, slices := slicesOf (r.gang.arch.active 0#3 0#1) })
    (hi : exec i s = s.floatCmp p vr sr f) (hf : ∀ l, f r.gang.arch l = floatCond cc (x l) (y l)) :
    ∃ v : Nat → Bool, (∀ l, v l = true ↔ P (numCmp (x l) (y l))) ∧
      Sets s r i fun z => PredicateWritten r.gang.arch { z with fpstat := r.gang.arch.fpstat } p (r.gang.arch.active 0#3 0#1) v ∧
        ∀ k, z.stat k = if signals = true ∧ ∃ l ∈ r.gang.arch.active 0#3 0#1, l / 4 = k ∧ (x l = .nan ∨ y l = .nan)
          then r.gang.arch.stat k ||| fIV else r.gang.arch.stat k := by
  obtain ⟨z, hz, hw, hstat⟩ := floatCmp_next hr h
  refine ⟨_, fun l => ?_, z, hi.trans hz, hw, fun k => ?_⟩
  · rw [hf]
    exact hc.holds _ _
  · have hflags l : (f r.gang.arch l).2 = _ := (congrArg Prod.snd (hf l)).trans (hc.flags (x l) (y l))
    simp only [hstat, hflags, foldl_or_flag, List.mem_filter, beq_iff_eq]
    cases signals <;> simp [and_assoc]

end

/-! ## The reserved conditions -/

/-- The opcode map has no instruction under a reserved major. -/
theorem rawDecode_of_reservedMajor {w : Word} (h : reservedMajor w = true) : rawDecode w = none := by
  unfold rawDecode
  split
  case h_42 => rfl
  all_goals next hm => simp [reservedMajor, hm] at h

/-- An instruction with a reserved selector does not decode, for that reason (R36). -/
theorem decode_of_reservedSelector {w : Word} {i : Instr} (h : rawDecode w = some i) (hsel : i.selectorsOk = false) :
    ∃ es, decode w = .error es ∧ DecodeError.reservedSelector ∈ es := by
  have hmajor : ¬ reservedMajor w = true := fun hm => by cases h.symm.trans (rawDecode_of_reservedMajor hm)
  have hwf : ¬ (encode i = some w ∧ i.WellFormed) := by simp [Instr.WellFormed, Instr.wf, hsel]
  refine ⟨decodeErrors w, by simp only [decode, h, if_neg hwf], ?_⟩
  simp [decodeErrors, hmajor, h, hsel]

/-- Settles O24: each code is one of the conditions of the table (`FloatCondIs`), and a code beyond them is a reserved selector. -/
theorem floatCompares : Obligations.FloatCompares := by
  unfold Obligations.FloatCompares
  constructor
  · intro s r p a b u v c hr x act lane pair q hq
    have hcond : FloatCondIs q.1.toNat q.2.1 q.2.2 := by
      revert q
      simp only [List.forall_mem_cons]
      exact ⟨floatCond_eq, floatCond_ne, floatCond_lt, floatCond_le, floatCond_un, floatCond_or, List.forall_mem_nil _⟩
    simp only [List.forall_mem_cons]
    exact
      ⟨fun h => sets_of_floatCmp hcond hr h (exec_fcmp s p a b q.1) fun _ => rfl,
       fun h => sets_of_floatCmp hcond hr h (exec_fcmps s p a c q.1) fun l => by rw [low_word],
       fun h => sets_of_floatCmp hcond hr h (exec_dcmp s p u v q.1) fun _ => rfl,
       List.forall_mem_nil _⟩
  · intro w p a b u v c cc hcc h
    have hsel : decide (cc.toNat ≤ 5) = false := decide_eq_false (by omega)
    obtain h | h | h := h
    · exact decode_of_reservedSelector h hsel
    · exact decode_of_reservedSelector h hsel
    · exact decode_of_reservedSelector h hsel

end Sys2Proof

/-!
# Floating point of one source and of pairs (R90, R96, R97)

Each rounds its value once, in a register or in a pair.
-/

namespace Sys2Proof

open Machine

section
variable {s : State} {r : Running} {i : Instr} {g : BitVec 3} {n : BitVec 1}

/-- The form `vD, vA`. -/
theorem sets_of_float1 {d a : BitVec 6} {f v : Nat → Word → Word × Flags} (hr : s.cur = some r)
    (h : Usable s r { vr := [a.toNat], vw := [d.toNat], lanes := r.gang.arch.active g n }) (hi : exec i s = s.float1 d a g n f)
    (hf : ∀ m x, f m x = v m x) :
    Sets s r i fun z => FloatWritten r.gang.arch z d.toNat (r.gang.arch.active g n) fun l =>
      v (r.gang.arch.mode (l / 4)) (r.gang.arch.vget a.toNat l) :=
  sets_of_floatOp hr h hi fun _ => hf _ _

/-- A special function rounds its value RNE (R97). -/
theorem sets_of_special {d a : BitVec 6} {f : Sys2Proof.Num → Sys2Proof.Num × Flags} (hr : s.cur = some r)
    (h : Usable s r { vr := [a.toNat], vw := [d.toNat], lanes := r.gang.arch.active g n }) (hi : exec i s = s.special d a g n f) :
    Sets s r i fun z => FloatWritten r.gang.arch z d.toNat (r.gang.arch.active g n) fun l =>
      sfuRound (r.gang.arch.mode (l / 4)) (f (f32 (r.gang.arch.vget a.toNat l))) :=
  sets_of_float1 hr h hi fun _ _ => rfl

/-- An FP64 instruction writes in each active lane what its function, in any spelling, gives there for the pairs, and raises the flags (R96). -/
theorem sets_of_double2 {d a b : BitVec 5} {acc : Bool} {f : Nat → Nat → Nat → Nat → Nat × Flags} {v : Nat → DWord × Flags} (hr : s.cur = some r)
    (hi : exec i s = s.double2 d a b g n acc f)
    (h : Usable s r { vr := pairRegs (if acc then [a, b, d] else [a, b]), vw := [pairReg d, pairReg d + 1], lanes := r.gang.arch.active g n })
    (hf : ∀ l, (let bits := fun k => (r.gang.arch.dget (pairReg k) l).toNat
      let y := f (r.gang.arch.mode (l / 4)) (bits a) (bits b) (bits d)
      (BitVec.ofNat 64 y.1, y.2)) = v l) :
    Sets s r i fun z => PairWritten r.gang.arch z (pairReg d) (r.gang.arch.active g n) v := by
  obtain rfl := funext hf
  obtain ⟨y, hy, hw⟩ := doubleOp_next hr (pairReg d) g n _ _ h
  exact ⟨y, hi.trans hy, hw⟩

end

/-- Settles O21: each is of the form `vD, vA` (`sets_of_float1`), the special functions with one rounding (`sets_of_special`). -/
theorem floatOneSource : Obligations.FloatOneSource := by
  unfold Obligations.FloatOneSource
  intro s r d a g n hr h
  simp only [List.forall_mem_cons]
  exact
    ⟨sets_of_float1 hr h (exec_frnd s d a g n) fun _ _ => rfl,
     sets_of_special hr h (exec_exp2 s d a g n),
     sets_of_special hr h (exec_log2 s d a g n),
     sets_of_special hr h (exec_rcp s d a g n),
     sets_of_special hr h (exec_rsq s d a g n),
     sets_of_float1 hr h (exec_sqrt s d a g n) fun _ _ => rfl,
     sets_of_special hr h (exec_sinpi s d a g n),
     sets_of_special hr h (exec_cospi s d a g n),
     sets_of_special hr h (exec_tanh s d a g n),
     List.forall_mem_nil _⟩

/-- Settles O22: each works on pairs (`sets_of_double2`) and rounds once what it computes exactly (`fadd_once`, `fmul_once`, `ffma_once`). -/
theorem doublePairs : Obligations.DoublePairs := by
  unfold Obligations.DoublePairs
  intro s r d a b g n hr
  simp only [List.forall_mem_cons]
  exact
    ⟨fun h => sets_of_double2 hr (exec_dadd s d a b g n) h fun _ => fadd_once,
     fun h => sets_of_double2 hr (exec_dsub s d a b g n) h fun _ => fadd_once,
     fun h => sets_of_double2 hr (exec_dmul s d a b g n) h fun _ => fmul_once,
     fun h => sets_of_double2 hr (exec_dmin s d a b g n) h fun _ => rfl,
     fun h => sets_of_double2 hr (exec_dmax s d a b g n) h fun _ => rfl,
     fun h => sets_of_double2 hr (exec_dfma s d a b g n) h fun _ => ffma_once,
     List.forall_mem_nil _⟩

end Sys2Proof

/-!
# Shuffles, reductions and scans (R105, R107, R108, R110, R111)

Each writes one vector register in the active lanes, from the words of all of them.
-/

namespace Sys2Proof

open Machine

/-! ## The forms of a cross-lane instruction -/

/-- An instruction that checks its registers and then sets those of the gang, where its registers can be used. -/
theorem sets_of_checked {s : State} {r : Running} {i : Instr} {u : Running → Uses} {y : Running → Arch} {P : Arch → Prop} (hr : s.cur = some r)
    (hi : exec i s = s.issue fun r => s.checked r (u r) (.next (s.setArch r (y r)))) (h : Usable s r (u r)) (hy : P (y r)) : Sets s r i P :=
  ⟨y r, hi.trans ((issue_running hr _).trans (checked_usable h _)), hy⟩

/-- Only the values of the lanes that are written matter. -/
theorem VectorWritten.congr {x y : Arch} {d : Nat} {ls : List Nat} {f g : Nat → Word} (h : VectorWritten x y d ls f) (hfg : ∀ l ∈ ls, f l = g l) :
    VectorWritten x y d ls g where
  read j l hl := by
    rw [h.read j l hl]
    split
    next hw => exact hfg l hw.1
    next => rfl
  saved := h.saved
  marks := h.marks
  rest := h.rest

/-- A vector register is written without flags. -/
theorem VectorWritten.fpstat_eq {x y : Arch} {d : Nat} {ls : List Nat} {f : Nat → Word} (h : VectorWritten x y d ls f) : y.fpstat = x.fpstat :=
  have hrest := congrArg Arch.fpstat h.rest
  hrest

/-- The operands of the lanes are what each supplies (R101). -/
theorem gather_eq (x : Arch) (act : List Nat) (a : Nat) (ident : Word) : x.gather act a ident = (List.range 32).map (supplied x act a ident) := by
  simp only [Arch.gather, List.contains_iff_mem]
  rfl

/-- The operands of the lanes below `m`. -/
theorem take_gather (x : Arch) (act : List Nat) (a : Nat) (ident : Word) {m : Nat} (hm : m ≤ 32) :
    (x.gather act a ident).take m = (List.range m).map (supplied x act a ident) := by
  rw [gather_eq, ← List.map_take, List.take_range, min_eq_left hm]

/-- How many lanes a scan combines for a lane: those below it, and itself in the inclusive form (R110). -/
theorem scanned_eq (inclusive : Bool) (l : Nat) : (if inclusive = true then l + 1 else l) = l + inclusive.toNat := by
  cases inclusive <;> rfl

theorem maxS_eq_of_lt (x y : Word) : maxS x y = if x.toInt < y.toInt then y else x := by simp only [maxS, BitVec.slt_iff_toInt_lt]
theorem minS_eq_of_lt (x y : Word) : minS x y = if y.toInt < x.toInt then y else x := by simp only [minS, BitVec.slt_iff_toInt_lt]
theorem maxU_eq_of_lt (x y : Word) : maxU x y = if x.toNat < y.toNat then y else x := by simp only [maxU, BitVec.ult_iff_lt, BitVec.lt_def]
theorem minU_eq_of_lt (x y : Word) : minU x y = if y.toNat < x.toNat then y else x := by simp only [minU, BitVec.ult_iff_lt, BitVec.lt_def]

section
variable {s : State} {r : Running} {i : Instr} {d a : BitVec 6} {g : BitVec 3} {n : BitVec 1}

/-- A shuffle gives each active lane the word of its source lane where that is active, else its own; the source may be in any spelling. -/
theorem sets_of_shuffle {extra : List Nat} {src : Arch → Nat → Int} {from_ : Nat → Int} (hr : s.cur = some r)
    (h : Usable s r { vr := a.toNat :: extra, vw := [d.toNat], lanes := r.gang.arch.active g n })
    (hi : exec i s = s.shuffleLanes d a g n extra src) (hsrc : ∀ l, src r.gang.arch l = from_ l) :
    ∃ f : Nat → Word, (∀ l ∈ r.gang.arch.active g n,
        (∀ j ∈ r.gang.arch.active g n, (j : Int) = from_ l → f l = r.gang.arch.vget a.toNat j) ∧
        ((∀ j ∈ r.gang.arch.active g n, (j : Int) ≠ from_ l) → f l = r.gang.arch.vget a.toNat l)) ∧
      Sets s r i fun z => VectorWritten r.gang.arch z d.toNat (r.gang.arch.active g n) f := by
  obtain rfl := funext hsrc
  refine ⟨_, fun l _ => ⟨fun j hj hjl => ?_, fun hnone => ?_⟩, sets_of_checked hr hi h (mapLanes_written _ _ _ _ (active_lt _ g n))⟩
  · simp [← hjl, hj]
  · refine if_neg fun hin => ?_
    simp only [Bool.and_eq_true, decide_eq_true_eq, List.contains_iff_mem] at hin
    exact hnone _ hin.2 (Int.toNat_of_nonneg hin.1)

/-- A reduction gives every active lane the one combination of what the lanes supply, its operation in any spelling. -/
theorem sets_of_reduce {ident : Word} {f f' : Word → Word → Word} (hr : s.cur = some r)
    (h : Usable s r { vr := [a.toNat], vw := [d.toNat], lanes := r.gang.arch.active g n })
    (hi : exec i s = s.reduce d a g n ident f) (hf : ∀ x y, f x y = f' x y) :
    Sets s r i fun z => VectorWritten r.gang.arch z d.toNat (r.gang.arch.active g n) fun _ =>
      ((List.range 32).map (supplied r.gang.arch (r.gang.arch.active g n) a.toNat ident)).foldl f' ident := by
  obtain rfl := funext₂ hf
  rw [← gather_eq]
  exact sets_of_checked hr hi h (mapLanes_written _ _ _ _ (active_lt _ g n))

/-- A scan gives an active lane the combination of what the lanes below it supply, and itself in the inclusive form. -/
theorem sets_of_scan {ident : Word} {inclusive : Bool} {f f' : Word → Word → Word} (hr : s.cur = some r)
    (h : Usable s r { vr := [a.toNat], vw := [d.toNat], lanes := r.gang.arch.active g n })
    (hi : exec i s = s.scan d a g n ident inclusive f) (hf : ∀ x y, f x y = f' x y) :
    Sets s r i fun z => VectorWritten r.gang.arch z d.toNat (r.gang.arch.active g n) fun l =>
      ((List.range (l + inclusive.toNat)).map (supplied r.gang.arch (r.gang.arch.active g n) a.toNat ident)).foldl f' ident := by
  obtain rfl := funext₂ hf
  refine sets_of_checked hr hi h ((mapLanes_written _ _ _ _ (active_lt _ g n)).congr fun l hl => ?_)
  have hlane := active_lt _ g n l hl
  have hincl := inclusive.toNat_le
  rw [scanned_eq, take_gather _ _ _ _ (by omega)]

/-- A floating-point scan gives each active lane the sum of the lanes below it, and itself in the inclusive form, with the flags to its slice
(R111). -/
theorem sets_of_scanFloat {inclusive : Bool} (hr : s.cur = some r)
    (h : Usable s r { vr := [a.toNat], vw := [d.toNat], lanes := r.gang.arch.active g n })
    (hi : exec i s = s.scanFloat d a g n inclusive) :
    Sets s r i fun z => FloatWritten r.gang.arch z d.toNat (r.gang.arch.active g n) fun l =>
      floatPrefix ((List.range 32).map (supplied r.gang.arch (r.gang.arch.active g n) a.toNat 0x80000000#32)) (l + inclusive.toNat) := by
  simp only [← gather_eq, ← scanned_eq]
  exact sets_of_checked hr hi h (mapFloat_written _ _ _ _ (active_lt _ g n))

end

/-- Settles O25: each is a shuffle from its own source lane (`sets_of_shuffle`). -/
theorem shuffles : Obligations.Shuffles := by
  unfold Obligations.Shuffles
  intro s r d a b k g n hr
  simp only [List.forall_mem_cons]
  exact
    ⟨fun h => sets_of_shuffle hr h (exec_shfl s d a b g n) fun l => by rw [fieldW_low5],
     fun h => sets_of_shuffle hr h (exec_shflx s d a k g n) fun _ => rfl,
     fun h => sets_of_shuffle hr h (exec_shflup s d a k g n) fun _ => rfl,
     fun h => sets_of_shuffle hr h (exec_shfldn s d a k g n) fun _ => rfl,
     fun h => sets_of_shuffle hr h (exec_bcast s d a k g n) fun _ => rfl,
     List.forall_mem_nil _⟩

/-- Settles O26: each is a reduction (`sets_of_reduce`), with its operation in another spelling. -/
theorem reductions : Obligations.Reductions := by
  unfold Obligations.Reductions
  intro s r d a g n hr x act h
  simp only [List.forall_mem_cons]
  exact
    ⟨sets_of_reduce hr h (exec_redAdd s d a g n) fun _ _ => rfl,
     sets_of_reduce hr h (exec_redAnd s d a g n) fun _ _ => rfl,
     sets_of_reduce hr h (exec_redOr s d a g n) fun _ _ => rfl,
     sets_of_reduce hr h (exec_redXor s d a g n) fun _ _ => rfl,
     sets_of_reduce hr h (exec_redMax s d a g n) maxS_eq_of_lt,
     sets_of_reduce hr h (exec_redMin s d a g n) minS_eq_of_lt,
     sets_of_reduce hr h (exec_redMaxu s d a g n) maxU_eq_of_lt,
     sets_of_reduce hr h (exec_redMinu s d a g n) minU_eq_of_lt,
     sets_of_reduce hr h (exec_redFmax s d a g n) fun _ _ => rfl,
     sets_of_reduce hr h (exec_redFmin s d a g n) fun _ _ => rfl,
     List.forall_mem_nil _⟩

/-- Settles O29: each is a scan (`sets_of_scan`, `sets_of_scanFloat`), with its operation in another spelling. -/
theorem scans : Obligations.Scans := by
  unfold Obligations.Scans
  intro s r d a g n hr x act h
  simp only [List.forall_mem_cons]
  exact
    ⟨⟨sets_of_scan hr h (exec_scanAdd s d a g n) fun _ _ => rfl,
      sets_of_scan hr h (exec_scanxAdd s d a g n) fun _ _ => rfl,
      sets_of_scan hr h (exec_scanMax s d a g n) maxS_eq_of_lt,
      sets_of_scan hr h (exec_scanMin s d a g n) minS_eq_of_lt,
      sets_of_scan hr h (exec_scanOr s d a g n) fun _ _ => rfl,
      List.forall_mem_nil _⟩,
     sets_of_scanFloat (inclusive := true) hr h (exec_scanFadd s d a g n),
     sets_of_scanFloat (inclusive := false) hr h (exec_scanxFadd s d a g n),
     List.forall_mem_nil _⟩

/-! ## The tree of sums (R108) -/

/-- A level of the tree over an even number of nodes: its nodes are added in neighbouring pairs. -/
theorem pairUp_map_range (m : Nat) (z : Nat → Word × Flags) :
    pairUp ((List.range (2 * m)).map z) = (List.range m).map fun i => addFlags (z (2 * i)) (z (2 * i + 1)) := by
  induction m generalizing z with
  | zero => rfl
  | succ m ih =>
    rw [Nat.mul_succ, List.range_succ_eq_map, List.range_succ_eq_map, List.range_succ_eq_map]
    simp only [List.map_cons, List.map_map, pairUp]
    exact congrArg (addFlags (z 0) (z 1) :: ·) (ih fun i => z (i + 2))

/-- A node of the tree is the sum of the two beneath it, with their flags and those of its rounding. -/
theorem laneTree_succ (x : Nat → Word) (b k : Nat) : laneTree x b (k + 1) = addFlags (laneTree x b k) (laneTree x (b + 2 ^ k) k) := rfl

/-- The top of the tree over `2^k` neighbouring nodes of level `j` is a node of level `j + k`. -/
theorem treeNode_level (x : Nat → Word) (b j k : Nat) :
    treeNode k ((List.range (2 ^ k)).map fun i => laneTree x (b + i * 2 ^ j) j) = laneTree x b (j + k) := by
  induction k generalizing j with
  | zero => simp [treeNode]
  | succ k ih =>
    have hnode i : addFlags (laneTree x (b + 2 * i * 2 ^ j) j) (laneTree x (b + (2 * i + 1) * 2 ^ j) j) = laneTree x (b + i * 2 ^ (j + 1)) (j + 1) := by
      rw [laneTree_succ]
      congr 2 <;> ring
    rw [treeNode, Nat.pow_succ', pairUp_map_range]
    simp only [hnode]
    rw [ih, Nat.add_assoc, Nat.add_comm 1 k]

/-- The model's tree over all 32 lanes. -/
theorem tree_lanes (x : Nat → Word) : tree ((List.range 32).map x) 0 5 = laneTree x 0 5 := by
  have h := treeNode_level x 0 0 5
  simp only [Nat.pow_zero, Nat.mul_one, Nat.zero_add] at h
  rw [← h, tree, List.drop_zero, List.take_of_length_le (by simp), List.map_map]
  rfl

/-! ## One result's flags for several slices (R104) -/

theorem mem_slicesOf (ls : List Nat) (k : Nat) : k ∈ slicesOf ls ↔ ∃ l ∈ ls, l / 4 = k := by
  rw [slicesOf, List.mem_eraseDups, List.mem_map]

/-- To raise flags in slices is to raise them for their first lanes. -/
theorem flagSlices_eq (x : Arch) (ls : List Nat) (f : Flags) :
    x.flagSlices ls f = ((slicesOf ls).map (4 * ·)).foldl (fun b l => b.raiseFlags (l / 4) f) x := by
  simp only [Arch.flagSlices, List.foldl_map, Nat.mul_div_cancel_left _ (show 0 < 4 by decide)]

theorem flagSlices_frame (x : Arch) (ls : List Nat) (f : Flags) : { x.flagSlices ls f with fpstat := x.fpstat } = x := by
  rw [flagSlices_eq]
  exact foldl_raiseFlags_frame _ _ x

theorem stat_flagSlices (x : Arch) (ls : List Nat) (f : Flags) (k : Nat) :
    (x.flagSlices ls f).stat k = if ∃ l ∈ ls, l / 4 = k then x.stat k ||| f else x.stat k := by
  have hor := foldl_or_flag f (fun _ => True) (((slicesOf ls).map (4 * ·)).filter fun l => l / 4 == k) (x.stat k)
  have hslice : (∃ l ∈ ((slicesOf ls).map (4 * ·)).filter fun l => l / 4 == k, True) ↔ ∃ l ∈ ls, l / 4 = k := by
    simp [← mem_slicesOf]
  rw [flagSlices_eq, stat_foldl_raiseFlags]
  simpa only [if_true, hslice] using hor

/-- Settles O27: the sum is the tree's (`tree_lanes`), and its flags go to the slices of active lanes (`stat_flagSlices`). -/
theorem redFaddSumsByTree : Obligations.RedFaddSumsByTree := by
  unfold Obligations.RedFaddSumsByTree
  intro s r d a g n hr x act sum h
  have hsum : tree (x.gather act a.toNat 0x80000000#32) 0 5 = sum := by rw [gather_eq, tree_lanes]
  have hw := mapLanes_written act d.toNat (fun _ => sum.1) x (active_lt x g n)
  have hstat : (x.mapLanes act d.toNat fun _ => sum.1).fpstat = x.fpstat := hw.fpstat_eq
  refine sets_of_checked hr (exec_redFadd s d a g n) h ?_
  show VectorWritten x { (x.mapLanes act d.toNat fun _ => (tree (x.gather act a.toNat 0x80000000#32) 0 5).1).flagSlices act
    (tree (x.gather act a.toNat 0x80000000#32) 0 5).2 with fpstat := x.fpstat } _ _ _ ∧ _
  rw [hsum]
  constructor
  · rw [← hstat, flagSlices_frame]
    exact hw
  · intro k
    rw [stat_flagSlices, Arch.stat, hstat]
    rfl

end Sys2Proof

/-!
# Pairs of a value and an index (R109, R112 to R114)

The indexed reductions, KSORT and KMERGE order pairs by a key of the value and then by the index, and write a pair of vector registers.
-/

namespace Sys2Proof

open Machine

/-! ## The order of pairs -/

/-- The pair `q` does not beat `p`: the key of `p` is greater, or it is the same and the index of `p` is no higher. -/
def Unbeaten (key : Word → Int) (p q : Word × Word) : Prop := key q.1 < key p.1 ∨ key p.1 = key q.1 ∧ p.2.toNat ≤ q.2.toNat

namespace Unbeaten

variable {key : Word → Int} {p q t : Word × Word}

theorem refl (p : Word × Word) : Unbeaten key p p := .inr ⟨rfl, le_rfl⟩

theorem trans (h : Unbeaten key p q) (h' : Unbeaten key q t) : Unbeaten key p t := by
  simp only [Unbeaten] at *
  omega

theorem total (p q : Word × Word) : Unbeaten key p q ∨ Unbeaten key q p := by
  simp only [Unbeaten]
  omega

end Unbeaten

/-- The better of two pairs, the first where they tie. -/
def better (key : Word → Int) (p q : Word × Word) : Word × Word :=
  if key p.1 < key q.1 || (key p.1 == key q.1 && q.2.ult p.2) then q else p

/-- The better of two is one of them, and neither beats it. -/
theorem better_spec (key : Word → Int) (p q : Word × Word) :
    (better key p q = p ∨ better key p q = q) ∧ Unbeaten key (better key p q) p ∧ Unbeaten key (better key p q) q := by
  simp only [better, Bool.or_eq_true, Bool.and_eq_true, decide_eq_true_eq, beq_iff_eq, BitVec.ult_iff_lt, BitVec.lt_def]
  split
  next h => exact ⟨.inr rfl, h.imp id fun h => ⟨h.1.symm, h.2.le⟩, .refl q⟩
  next h =>
    refine ⟨.inl rfl, .refl p, ?_⟩
    simp only [Unbeaten]
    omega

/-- The best of some pairs is one of them, and none beats it. -/
theorem foldl_better (key : Word → Int) (ps : List (Word × Word)) (p : Word × Word) :
    ps.foldl (better key) p ∈ p :: ps ∧ ∀ q ∈ p :: ps, Unbeaten key (ps.foldl (better key) p) q := by
  induction ps generalizing p with
  | nil => exact ⟨List.mem_singleton_self p, fun q hq => by rw [List.mem_singleton.1 hq]; exact .refl p⟩
  | cons t ps ih =>
    obtain ⟨hmem, hbest⟩ := ih (better key p t)
    obtain ⟨hone, hp, ht⟩ := better_spec key p t
    have hfirst := hbest _ List.mem_cons_self
    refine ⟨?_, ?_⟩
    · obtain h | h := List.mem_cons.1 hmem
      · rw [List.foldl_cons, h]
        obtain hone | hone := hone <;> simp [hone]
      · exact List.mem_cons_of_mem p (List.mem_cons_of_mem t h)
    · simp only [List.forall_mem_cons]
      exact ⟨hfirst.trans hp, hfirst.trans ht, fun q hq => hbest q (List.mem_cons_of_mem _ hq)⟩

/-- The value that other lanes supply has the least key, and what has that key is written as this value is (R101). -/
structure Identity (key : Word → Int) (out : Word → Word) (ident : Word) : Prop where
  least : ∀ w, key ident ≤ key w
  written : ∀ w, key w = key ident → out w = out ident

/-- Of some pairs there is one that no other beats and that is written as the best of them and the identity is. -/
theorem exists_unbeaten {key : Word → Int} {out : Word → Word} {ident : Word} (hident : Identity key out ident) {ps : List (Word × Word)}
    (hne : ps ≠ []) :
    ∃ p ∈ ps, (∀ q ∈ ps, Unbeaten key p q) ∧ out (ps.foldl (better key) (ident, 0xFFFFFFFF#32)).1 = out p.1 ∧
      (ps.foldl (better key) (ident, 0xFFFFFFFF#32)).2 = p.2 := by
  obtain ⟨hmem, hbest⟩ := foldl_better key ps (ident, 0xFFFFFFFF#32)
  generalize ps.foldl (better key) (ident, 0xFFFFFFFF#32) = z at hmem hbest
  obtain rfl | hz := List.mem_cons.1 hmem
  case inr => exact ⟨z, hz, fun q hq => hbest q (List.mem_cons_of_mem _ hq), rfl, rfl⟩
  case inl =>
    -- The identity's pair has the least key and the highest index, so each pair that does not beat it ties with it.
    have htie p (hp : p ∈ ps) : key p.1 = key ident ∧ p.2 = 0xFFFFFFFF#32 := by
      have hle := hident.least p.1
      have hidx := p.2.isLt
      obtain h | ⟨hkey, h⟩ := hbest p (List.mem_cons_of_mem _ hp)
      · exact absurd h (not_lt.2 hle)
      · exact ⟨hkey.symm, BitVec.eq_of_toNat_eq (by simp only [BitVec.toNat_ofNat] at h ⊢; omega)⟩
    obtain ⟨p, hp⟩ := List.exists_mem_of_ne_nil ps hne
    obtain ⟨hkey, hidx⟩ := htie p hp
    refine ⟨p, hp, fun q hq => .inr ⟨?_, ?_⟩, (hident.written _ hkey).symm, hidx.symm⟩
    · rw [hkey, (htie q hq).1]
    · rw [(htie q hq).2, hidx]

/-! ## The key of an FP32 value (R112) -/

/-- Whether an FP32 pattern is a NaN, by its exponent and fraction. -/
theorem isNaN_iff (x : Word) : f32 x = .nan ↔ x.toNat / 2 ^ 23 % 2 ^ 8 = 255 ∧ x.toNat % 2 ^ 23 ≠ 0 := by
  simp only [f32, floatOf, fmtBits]
  split_ifs <;> simp_all

theorem canonWord_eq (x : Word) : canonWord x = if f32 x = .nan then 0x7FC00000#32 else x := by
  have h : isNaNBits fFP32 x.toNat = true ↔ f32 x = .nan := by
    show numIsNaN (f32 x) = true ↔ _
    cases f32 x <;> simp [numIsNaN]
  simp only [canonWord, h]

/-- The key as a number. -/
theorem toNat_fkey (x : Word) :
    (fkey x).toNat = if f32 x = .nan then 2 ^ 32 - 1 else if 2 ^ 31 ≤ x.toNat then 2 ^ 32 - 1 - x.toNat else x.toNat + 2 ^ 31 := by
  have hbits : (x.extractLsb' 23 8 = 0xFF#8 ∧ x.extractLsb' 0 23 ≠ 0#23) ↔ f32 x = .nan := by
    simp only [isNaN_iff, ne_eq, ← BitVec.toNat_inj, BitVec.extractLsb'_toNat, BitVec.toNat_ofNat, Nat.shiftRight_eq_div_pow, Nat.pow_zero, Nat.div_one,
      Nat.reducePow, Nat.reduceMod]
  have hneg : x.getLsbD 31 = true ↔ 2 ^ 31 ≤ x.toNat := by
    rw [BitVec.getLsbD, Nat.testBit_eq_decide_div_mod_eq, decide_eq_true_eq]
    omega
  simp only [fkey, Bool.and_eq_true, decide_eq_true_eq, hbits, hneg]
  split_ifs with hnan hge
  · rfl
  · rw [BitVec.toNat_not]
  · rw [BitVec.toNat_or, Nat.or_comm, Nat.add_comm]
    exact (Nat.two_pow_add_eq_or_of_lt (not_le.1 hge) 1).symm


/-- Only a NaN has the greatest key. -/
theorem isNaN_of_fkey {x : Word} (h : (fkey x).toNat = 2 ^ 32 - 1) : f32 x = .nan := by
  by_contra hnan
  rw [toNat_fkey, if_neg hnan] at h
  rw [isNaN_iff] at hnan
  split at h <;> omega

/-- Minus infinity has the least key. -/
theorem fkey_ge (x : Word) : 2 ^ 23 - 1 ≤ (fkey x).toNat := by
  have hlt := x.isLt
  simp only [toNat_fkey, isNaN_iff]
  split_ifs <;> omega

/-- No other value has it. -/
theorem eq_of_fkey_least {x : Word} (h : (fkey x).toNat = 2 ^ 23 - 1) : x = 0xFF800000#32 := by
  have hlt := x.isLt
  refine BitVec.eq_of_toNat_eq (show x.toNat = 0xFF800000 from ?_)
  simp only [toNat_fkey, isNaN_iff] at h
  split_ifs at h <;> omega

/-! ## The identities (R101) -/

theorem identity_maxi : Identity (fun x => x.toInt) id 0x80000000#32 :=
  ⟨fun _ => BitVec.le_toInt _, fun _ h => BitVec.eq_of_toInt_eq h⟩

theorem identity_mini : Identity (fun x => -x.toInt) id 0x7FFFFFFF#32 :=
  ⟨fun _ => neg_le_neg (Int.le_of_lt_add_one BitVec.toInt_lt), fun _ h => BitVec.eq_of_toInt_eq (neg_inj.1 h)⟩

theorem identity_fmaxi : Identity (fun x => ((fkey x).toNat : Int)) canonWord 0xFF800000#32 :=
  ⟨fun w => Int.ofNat_le.2 (fkey_ge w), fun _ h => congrArg canonWord (eq_of_fkey_least (Int.ofNat_inj.1 h))⟩

theorem identity_fmini : Identity (fun x => -((fkey x).toNat : Int)) canonWord 0x7FC00000#32 :=
  ⟨fun w => neg_le_neg (Int.ofNat_le.2 (Nat.le_sub_one_of_lt (fkey w).isLt)), fun w h => by
    rw [canonWord_eq, if_pos (isNaN_of_fkey (Int.ofNat_inj.1 (neg_inj.1 h)))]
    rfl⟩

/-! ## Writing a pair of registers -/

/-- To raise no flag leaves the flags. -/
theorem foldl_or_zero (ls : List Nat) (m : Flags) : ls.foldl (fun m _ => m ||| 0#5) m = m := by
  simp only [BitVec.or_zero, List.foldl_fixed]

/-- A register written, and then the next, in the same lanes: a pair is written, without flags. -/
theorem pairWritten_of_two {x y z : Arch} {d : Nat} {ls : List Nat} {f f' : Nat → Word} (h : VectorWritten x y d ls f)
    (h' : VectorWritten y z (d + 1) ls f') : PairWritten x z d ls fun l => (f' l ++ f l, 0#5) where
  read j l hl := by
    rw [h'.read j l hl, h.read j l hl, Laws.field_high _ _ _ _ le_rfl, Laws.field_low _ _ _ _ le_rfl, BitVec.extractLsb'_eq_self, BitVec.extractLsb'_eq_self]
    by_cases hj : j = d <;> simp [hj]
  stat k := by
    rw [foldl_or_zero, Arch.stat, h'.fpstat_eq, h.fpstat_eq]
    rfl
  saved := by
    rw [h'.saved, h.saved]
    split <;> rfl
  marks k := by
    rw [h'.marks, h.marks]
    by_cases hk : ∃ l ∈ ls, k = (d + 1) * 32 + l <;> simp [hk, and_or_left, exists_or]
  rest :=
    (congrArg (fun a : Arch => { a with v := x.v, vlive := x.vlive, poison := x.poison, fpstat := x.fpstat }) h'.rest).trans
      (congrArg (fun a : Arch => { a with fpstat := x.fpstat }) h.rest)

/-- Doublewords written in some lanes are written as an FP64 instruction without flags writes them. -/
theorem foldl_dset_eq (x : Arch) (d : Nat) (ls : List Nat) (f : Nat → DWord) :
    ls.foldl (fun b l => b.dset d l (f l)) x = { x.mapDouble ls d fun l => (f l, 0#5) with fpstat := x.fpstat } :=
  List.foldl_hom (fun a : Arch => { a with fpstat := x.fpstat }) fun _ _ => rfl

theorem foldl_dset_written (x : Arch) (d : Nat) {ls : List Nat} (f : Nat → DWord) (hls : ∀ l ∈ ls, l < 32) :
    PairWritten x (ls.foldl (fun b l => b.dset d l (f l)) x) d ls fun l => (f l, 0#5) := by
  have h := mapDouble_written ls d (fun l => (f l, 0#5)) x hls
  rw [foldl_dset_eq]
  exact ⟨h.read, fun k => (foldl_or_zero _ _).symm, h.saved, h.marks, h.rest⟩

/-- A list beside another, no shorter, names for each element the one at its place there. -/
theorem zip_eq_map_getD {α : Type} {ls : List Nat} {q : List α} (hls : ls.Nodup) (hlen : ls.length ≤ q.length) (z : α) :
    ls.zip q = ls.map fun l => (l, q.getD (ls.idxOf l) z) := by
  refine List.ext_getElem (by simpa using hlen) fun i hi _ => ?_
  have hiq : i < q.length := by simp at hi; omega
  simp [hls.idxOf_getElem, hiq]

theorem nodup_active (x : Arch) (g : BitVec 3) (n : BitVec 1) : (x.active g n).Nodup := (nodup_bitsOf _).filter _

/-- Pairs placed in lanes: the value, a NaN as the canonical one, and the index (R113). -/
theorem place_written (x : Arch) (d : Nat) {ls : List Nat} {q : List (Word × Word)} (hls : ls.Nodup) (hlt : ∀ l ∈ ls, l < 32)
    (hlen : ls.length ≤ q.length) :
    PairWritten x (x.place ls d q) d ls fun l =>
      ((q.getD (ls.idxOf l) (0#32, 0#32)).2 ++ canonWord (q.getD (ls.idxOf l) (0#32, 0#32)).1, 0#5) := by
  have hplace : x.place ls d q = ls.foldl (fun b l => b.dset d l
      ((q.getD (ls.idxOf l) (0#32, 0#32)).2 ++ canonWord (q.getD (ls.idxOf l) (0#32, 0#32)).1)) x := by
    simp only [Arch.place, zip_eq_map_getD hls hlen (0#32, 0#32), List.foldl_map, Arch.dset, Laws.field_high _ _ _ _ le_rfl,
      Laws.field_low _ _ _ _ le_rfl, Nat.sub_self, BitVec.extractLsb'_eq_self]
  rw [hplace]
  exact foldl_dset_written x d _ hlt

/-! ## Indexed reductions (R109) -/

theorem setArch_self {s : State} {r : Running} (hr : s.cur = some r) : s.setArch r r.gang.arch = s := by
  show { s with cur := some r } = s
  rw [← hr]

section
variable {s : State} {r : Running} {i : Instr} {d a b : BitVec 6} {g : BitVec 3} {n : BitVec 1}

/-- With no active lane an indexed reduction writes nothing. -/
theorem reduceIdx_inactive {ident : Word} {key : Word → Int} {out : Word → Word} (hr : s.cur = some r)
    (h : Usable s r { vr := [a.toNat, b.toNat], vw := [d.toNat, d.toNat + 1], lanes := r.gang.arch.active g n })
    (hact : r.gang.arch.active g n = []) : s.reduceIdx d a b g n ident key out = .next s := by
  rw [State.reduceIdx, issue_running hr]
  refine (checked_usable h _).trans (congrArg Host.Outcome.next ?_)
  rw [hact]
  exact setArch_self hr

/-- An indexed reduction writes the value and the index of an active lane that no other beats, the value in any spelling. -/
theorem sets_of_reduceIdx {ident : Word} {key : Word → Int} {out : Word → Word} {float : Bool} (hident : Identity key out ident) (hr : s.cur = some r)
    (h : Usable s r { vr := [a.toNat, b.toNat], vw := [d.toNat, d.toNat + 1], lanes := r.gang.arch.active g n })
    (hi : exec i s = s.reduceIdx d a b g n ident key out)
    (hout : ∀ w, out w = if float = true ∧ f32 w = .nan then 0x7FC00000#32 else w) :
    (r.gang.arch.active g n = [] → exec i s = .next s) ∧
    (r.gang.arch.active g n ≠ [] → ∃ l ∈ r.gang.arch.active g n,
      (∀ j ∈ r.gang.arch.active g n, key (r.gang.arch.vget a.toNat j) < key (r.gang.arch.vget a.toNat l) ∨
        key (r.gang.arch.vget a.toNat j) = key (r.gang.arch.vget a.toNat l) ∧
          (r.gang.arch.vget b.toNat l).toNat ≤ (r.gang.arch.vget b.toNat j).toNat) ∧
      Sets s r i fun z => PairWritten r.gang.arch z d.toNat (r.gang.arch.active g n) fun _ =>
        (r.gang.arch.vget b.toNat l ++
          (if float = true ∧ f32 (r.gang.arch.vget a.toNat l) = .nan then 0x7FC00000#32 else r.gang.arch.vget a.toNat l), 0#5)) := by
  refine ⟨fun hact => hi.trans (reduceIdx_inactive hr h hact), fun hact => ?_⟩
  have hlt := active_lt r.gang.arch g n
  obtain ⟨p, hp, hbest, hval, hidx⟩ := exists_unbeaten hident
    (ps := (r.gang.arch.active g n).map fun l => (r.gang.arch.vget a.toNat l, r.gang.arch.vget b.toNat l)) (by simpa using hact)
  obtain ⟨l, hl, rfl⟩ := List.mem_map.1 hp
  refine ⟨l, hl, fun j hj => (hbest _ (List.mem_map_of_mem hj)).imp_right (And.imp_left Eq.symm), ?_⟩
  dsimp only at hval hidx
  rw [← hout, ← hval, ← hidx]
  exact sets_of_checked hr hi h (pairWritten_of_two (mapLanes_written _ _ _ _ hlt) (mapLanes_written _ _ _ _ hlt))

end

/-- Settles O28: each is an indexed reduction with the identity of its order (`sets_of_reduceIdx`). -/
theorem indexedReductions : Obligations.IndexedReductions := by
  unfold Obligations.IndexedReductions
  intro s r d a b g n hr x act h
  rw [List.forall_mem_cons, List.forall_mem_cons, List.forall_mem_cons, List.forall_mem_cons]
  exact
    ⟨sets_of_reduceIdx (float := false) identity_maxi hr h (exec_redMaxi s d a b g n) fun _ => by simp,
     sets_of_reduceIdx (float := false) identity_mini hr h (exec_redMini s d a b g n) fun _ => by simp,
     sets_of_reduceIdx (float := true) identity_fmaxi hr h (exec_redFmaxi s d a b g n) fun _ => by simp [canonWord_eq],
     sets_of_reduceIdx (float := true) identity_fmini hr h (exec_redFmini s d a b g n) fun _ => by simp [canonWord_eq],
     List.forall_mem_nil _⟩

/-! ## KSORT and KMERGE (R112 to R114) -/

/-- The order of sorted pairs is that of the key of FP32 values. -/
theorem precedes_iff (p q : Word × Word) : precedes p q = true ↔ Unbeaten (fun x => ((fkey x).toNat : Int)) p q := by
  simp only [precedes, Unbeaten, Bool.or_eq_true, Bool.and_eq_true, beq_iff_eq, BitVec.ult_iff_lt, BitVec.lt_def, BitVec.ule_iff_le, BitVec.le_def,
    Nat.cast_lt, Nat.cast_inj, BitVec.toNat_inj]

theorem insertPair_eq (p : Word × Word) (ps : List (Word × Word)) : insertPair p ps = ps.orderedInsert (fun p q => precedes p q = true) p := by
  induction ps with
  | nil => rfl
  | cons q ps ih => simp only [insertPair, List.orderedInsert_cons, ih]

theorem sortPairs_eq (ps : List (Word × Word)) : sortPairs ps = ps.insertionSort fun p q => precedes p q = true := by
  have hinsert : insertPair = List.orderedInsert fun p q => precedes p q = true := funext₂ insertPair_eq
  rw [sortPairs, hinsert]
  rfl

theorem sortPairs_perm (ps : List (Word × Word)) : (sortPairs ps).Perm ps := by
  rw [sortPairs_eq]
  exact List.perm_insertionSort _ ps

theorem sortPairs_sorted (ps : List (Word × Word)) :
    (sortPairs ps).Pairwise fun p t => (fkey t.1).toNat < (fkey p.1).toNat ∨ fkey p.1 = fkey t.1 ∧ p.2.toNat ≤ t.2.toNat := by
  have htotal : Std.Total fun p q => precedes p q = true := ⟨fun p q => by simpa only [precedes_iff] using Unbeaten.total p q⟩
  have htrans : IsTrans _ fun p q => precedes p q = true := ⟨fun p q t => by simpa only [precedes_iff] using Unbeaten.trans⟩
  rw [sortPairs_eq]
  refine (List.pairwise_insertionSort _ ps).imp fun h => ?_
  simpa only [precedes_iff, Unbeaten, Nat.cast_lt, Nat.cast_inj, BitVec.toNat_inj] using h

/-- An instruction that sorts pairs, as many as there are active lanes or more, and places them in these lanes. -/
theorem sets_of_placed {s : State} {r : Running} {i : Instr} {d : BitVec 6} {g : BitVec 3} {n : BitVec 1} {vr : List Nat}
    {ps : Running → List (Word × Word)} (hr : s.cur = some r)
    (hi : exec i s = s.issue fun r => s.checked r { vr := vr, vw := [d.toNat, d.toNat + 1], lanes := r.gang.arch.active g n }
      (.next (s.setArch r (r.gang.arch.place (r.gang.arch.active g n) d.toNat (sortPairs (ps r))))))
    (h : Usable s r { vr := vr, vw := [d.toNat, d.toNat + 1], lanes := r.gang.arch.active g n })
    (hlen : (r.gang.arch.active g n).length ≤ (ps r).length) :
    ∃ q : List (Word × Word), q.Perm (ps r) ∧
      q.Pairwise (fun p t => (fkey t.1).toNat < (fkey p.1).toNat ∨ fkey p.1 = fkey t.1 ∧ p.2.toNat ≤ t.2.toNat) ∧
      Sets s r i fun z => PairWritten r.gang.arch z d.toNat (r.gang.arch.active g n) fun l =>
        let p := q.getD ((r.gang.arch.active g n).idxOf l) (0#32, 0#32)
        (p.2 ++ (if f32 p.1 = .nan then 0x7FC00000#32 else p.1), 0#5) := by
  have hperm := sortPairs_perm (ps r)
  refine ⟨sortPairs (ps r), hperm, sortPairs_sorted _, sets_of_checked hr hi h ?_⟩
  simp only [← canonWord_eq]
  exact place_written _ _ (nodup_active _ g n) (active_lt _ g n) (hperm.length_eq ▸ hlen)

/-- Settles O30: each sorts its pairs and places them (`sets_of_placed`). -/
theorem sortAndMerge : Obligations.SortAndMerge := by
  unfold Obligations.SortAndMerge
  intro s r d a b g n hr
  simp only [List.forall_mem_cons]
  exact
    ⟨fun h => sets_of_placed hr (exec_ksort s d a b g n) h (by simp [Arch.pairsOf]),
     fun h => sets_of_placed hr (exec_kmerge s d a b g n) h (by simp [Arch.pairsOf]),
     List.forall_mem_nil _⟩

end Sys2Proof

/-!
# The passes of a gang (R119)
-/

namespace Sys2Proof

open Machine

/-- A gang takes the lanes of its slices over the good lanes of its port, rounded up. -/
theorem passesOn_eq {slices : Byte} {good : Nat} (hgood : 0 < good) :
    passesOn slices good = (4 * ((List.range 8).countP fun k => slices.getLsbD k)) ⌈/⌉ good := by
  rw [passesOn, if_neg hgood.ne']
  rfl

/-- NOP takes one cycle for each pass (R54, R140). -/
theorem issueCycles_nop (passes : Nat) : issueCycles 0xCC000003#32 passes = passes := Nat.one_mul passes

/-- Settles O7: the passes are a quotient rounded up (`passesOn_eq`) of at most 32 lanes, and NOP costs one cycle of each (`issueCycles_nop`). -/
theorem passesOfAGang : Obligations.PassesOfAGang := by
  unfold Obligations.PassesOfAGang
  intro s r p hplace g m passes hlow hhigh
  have hgood : 0 < g := by omega
  have hpasses : passes = (4 * m) ⌈/⌉ g := passesOn_eq hgood
  have hslices : m ≤ 8 := List.countP_le_length
  refine ⟨?_, ?_, ?_, ?_⟩
  · rw [hpasses, Nat.mul_comm _ g]
    exact (ceilDiv_le_iff_le_mul hgood).1 le_rfl
  · have hround := Nat.div_mul_le_self (4 * m + g - 1) g
    rw [hpasses, Nat.ceilDiv_eq_add_pred_div]
    omega
  · rw [hpasses]
    exact (ceilDiv_le_iff_le_mul hgood).2 (by omega)
  · rw [State.wordCost, hplace]
    exact issueCycles_nop _

end Sys2Proof

/-!
# Vector stores and atomics at their issue (R127, R128, R155, R158)
-/

namespace Sys2Proof

open Machine

/-! ## The vector stores (R155) -/

/-- Parts at the addresses of some lanes stand nowhere yet. -/
theorem laneParts_unplaced (act : List Nat) (addr : Nat → DWord) (size : Nat) : ∀ p ∈ act.map fun l => partAt l (addr l) size, p.loc = none := by
  intro p hp
  obtain ⟨l, -, rfl⟩ := List.mem_map.1 hp
  rfl

section
variable {s : State} {r : Running}

/-- A vector store is under way, with an entry for each line that it names (R128). -/
theorem vectorStore_issues (hr : s.cur = some r) (d size : Nat) (vr sr : List Nat) (addr : Arch → Nat → DWord) :
    let x := r.gang.arch
    let act := bitsOf x.exec
    let parts := act.map fun l => partAt l (addr x l) size
    Usable s r { vr := (if size = 8 then [d, d + 1] else [d]) ++ vr, sr := sr, lanes := act, slices := slicesOf act } → Issuable s r 1 parts →
    ∃ q n, s.vectorStore d size vr sr addr = .next { s with cur := some q, nextId := n } ∧
      EffectIssued s r .store parts (linesNamed parts)
        (fun id => .store id (act.map fun l => if size = 8 then bytesOf 8 (x.dget d l) else bytesOf size (zext64 (x.vget d l)))) (fun _ => []) q := by
  dsimp only
  intro hu h
  simp only [State.vectorStore, State.issue, hr, checked_usable hu]
  exact store_issues (laneParts_unplaced _ _ _) h

/-- So is a store with an index or one address. -/
theorem storeLanes_issues (hr : s.cur = some r) (d size : Nat) (b : BitVec 5) (g : BitVec 1) (i o : BitVec 5) :
    let x := r.gang.arch
    let act := bitsOf x.exec
    let parts := act.map fun l => partAt l (x.laneAddr b g i (o.toNat * size) l) size
    Usable s r { vr := (if size = 8 then [d, d + 1] else [d]) ++ indexRegs g i, sr := [b.toNat], lanes := act, slices := slicesOf act } →
    Issuable s r 1 parts →
    ∃ q n, s.storeLanes d b g i o size = .next { s with cur := some q, nextId := n } ∧
      EffectIssued s r .store parts (linesNamed parts)
        (fun id => .store id (act.map fun l => if size = 8 then bytesOf 8 (x.dget d l) else bytesOf size (zext64 (x.vget d l)))) (fun _ => []) q :=
  vectorStore_issues hr d size (indexRegs g i) [b.toNat] fun x l => x.laneAddr b g i (o.toNat * size) l

end

/-- Settles O38: the forms with an index or one address are stores by lanes (`storeLanes_issues`), VSTS.W one at strided addresses
(`vectorStore_issues`). -/
theorem vectorStores : Obligations.VectorStores := by
  unfold Obligations.VectorStores
  intro s r d k b i o g hr x act at_ index
  refine ⟨?_, storeLanes_issues hr (2 * k.toNat) 8 b g i o,
    vectorStore_issues hr d.toNat 4 [] [b.toNat, i.toNat] fun x l => x.stridedAddr b i o l⟩
  simp only [List.forall_mem_cons]
  exact ⟨storeLanes_issues hr d.toNat 1 b g i o, storeLanes_issues hr d.toNat 2 b g i o, storeLanes_issues hr d.toNat 4 b g i o, List.forall_mem_nil _⟩

/-! ## The atomics (R158) -/

section
variable {s : State} {r : Running}

/-- An atomic that is issued is under way, held after the flight's earlier effects, its destination pending until the old values come. -/
theorem atomic_issues {minor order scope d cnt entries : Nat} {act : List Nat} {parts : List APart} {data : List (DWord × DWord)}
    (hnone : ∀ p ∈ parts, p.loc = none) (h : Issuable s r 3 parts) :
    ∃ q n, s.fresh.2.startAccess r ⟨s.nextId, r.pc, r.cl.idx, .atomic, parts, false, false⟩ (fun t r =>
        .next (t.holding (r.pend s.nextId 0 d cnt act 0 []) entries (.atomic minor order scope s.nextId data s.nextId))) =
          .next { s with cur := some q, nextId := n } ∧
      EffectIssued s r .atomic parts entries (fun id => .atomic minor order scope id data id) (fun id => [⟨id, 0, d, cnt, act, 0, []⟩]) q := by
  obtain ⟨ps, ready, used, rs, t, hplaced, hreqs, hstart⟩ :=
    startAccess_issuable (s := s.fresh.2) (a := ⟨s.nextId, r.pc, r.cl.idx, .atomic, parts, false, false⟩) hnone h
  rw [show s.fresh.2.makeReqs _ _ = ([], s.fresh.2) from rfl, ite_self, Prod.mk.injEq] at hreqs
  obtain ⟨rfl, rfl⟩ := hreqs
  have hatomic := hstart fun t r => .next (t.holding (r.pend s.nextId 0 d cnt act 0 []) entries (.atomic minor order scope s.nextId data s.nextId))
  rw [List.append_nil, pend_eq] at hatomic
  exact ⟨_, s.nextId + 2, hatomic, rfl, ⟨ps, ready, false, ⟨hplaced.same, hplaced.placed, hplaced.all⟩, rfl⟩, rfl, rfl, rfl⟩

/-- The address of an atomic is a vector's with no displacement. -/
theorem laneAddr_zero (x : Arch) (b : BitVec 5) (g : BitVec 1) (i : BitVec 5) (l : Nat) :
    x.laneAddr b g i 0 l = x.sget (l / 4) b.toNat + (if g = 1#1 then (x.vget i.toNat l).setWidth 64 else 0#64) :=
  BitVec.add_zero _

theorem atomicOp_issues (hr : s.cur = some r) (minor d : Nat) (b : BitVec 5) (g : BitVec 1) (i : BitVec 5) (o : BitVec 2) (c : BitVec 3) :
    let x := r.gang.arch
    let act := bitsOf x.exec
    let cnt := if 11 ≤ minor then 2 else 1
    let parts := act.map fun l => partAt l (x.sget (l / 4) b.toNat + (if g = 1#1 then (x.vget i.toNat l).setWidth 64 else 0#64)) (atomicSize minor)
    Usable s r { vr := (if minor = 13 then [d, d + 1, d + 2, d + 3] else if minor = 9 || 11 ≤ minor then [d, d + 1] else [d]) ++ indexRegs g i,
                 vw := (List.range cnt).map (d + ·), sr := [b.toNat], lanes := act, slices := slicesOf act } →
    Issuable s r 3 parts →
    ∃ q n, s.atomicOp minor d b g i o c = .next { s with cur := some q, nextId := n } ∧
      EffectIssued s r .atomic parts (linesNamed parts)
        (fun id => .atomic minor o.toNat c.toNat id (act.map fun l =>
          if 11 ≤ minor then (x.dget d l, x.dget (d + 2) l) else (zext64 (x.vget d l), zext64 (x.vget (d + 1) l))) id)
        (fun id => [⟨id, 0, d, cnt, act, 0, []⟩]) q := by
  dsimp only
  intro hu h
  simp only [State.atomicOp, State.issue, hr, checked_usable hu, laneAddr_zero]
  exact atomic_issues (laneParts_unplaced _ _ _) h

end

/-- Settles O40: each is the atomic of its number on a register or a pair (`atomicOp_issues`). -/
theorem atomicsAreHeld : Obligations.AtomicsAreHeld := by
  unfold Obligations.AtomicsAreHeld
  intro s r d k b i g o c hr x act index parts
  have hword := fun minor => atomicOp_issues hr minor d.toNat b g i o c
  have hpair := fun minor => atomicOp_issues hr minor (2 * k.toNat) b g i o c
  simp only [List.forall_mem_cons]
  exact ⟨⟨hword 0, hword 1, hword 2, hword 3, hword 4, hword 5, hword 6, hword 7, hword 8, hword 9, hword 10, List.forall_mem_nil _⟩,
    hpair 11, hpair 12, hpair 13, List.forall_mem_nil _⟩

end Sys2Proof

/-!
# Taking an exception (R131, R289, R290, R293)
-/

namespace Sys2Proof

open Machine

/-! ## What discarding a flight and ending its tasks leave as it was -/

/-- Memory, the effects on their way, the issuing port, the fault rings, and where the faults of instances are told are as they were. -/
structure Muted (s t : State) : Prop extends Still s t where
  cur : t.cur = s.cur
  ring : ∀ c, (t.ctx c).ring = (s.ctx c).ring
  told : ∀ d i, (t.inst? d i).map (fun j => (j.handler, j.stages)) = (s.inst? d i).map fun j => (j.handler, j.stages)

namespace Muted

variable {s t u : State}

theorem refl : Muted s s := ⟨.refl, rfl, fun _ => rfl, fun _ _ => rfl⟩

theorem trans (h : Muted s t) (h' : Muted t u) : Muted s u :=
  ⟨h.toStill.trans h'.toStill, h'.cur.trans h.cur, fun c => (h'.ring c).trans (h.ring c), fun d i => (h'.told d i).trans (h.told d i)⟩

theorem onDie {d : Nat} {f : Die → Die} (hf : ∀ x, (f x).insts = x.insts) : Muted s (s.onDie d f) := by
  refine ⟨⟨rfl, rfl⟩, rfl, fun _ => rfl, fun e i => ?_⟩
  have hinsts : ((s.onDie d f).die (homeInst e i).1).insts = (s.die (homeInst e i).1).insts := by
    rw [die_onDie]
    split
    next h => rw [hf, h]
    next => rfl
  rw [State.inst?, hinsts, State.inst?]

theorem onCore {d c : Nat} {f : Core → Core} : Muted s (s.onCore d c f) := onDie fun _ => rfl

theorem onInst {d n : Nat} {f : Inst → Inst} (hf : ∀ i, (f i).handler = i.handler ∧ (f i).stages = i.stages) : Muted s (s.onInst d n f) := by
  refine ⟨⟨rfl, rfl⟩, rfl, fun _ => rfl, fun e i => ?_⟩
  rw [State.inst?, State.onInst, die_onDie, State.inst?]
  split
  next h =>
    rw [alter?, look?_put?, h]
    split
    next h' => rw [h', Option.map_map]; exact congrArg (Option.map · _) (funext fun j => by simp [hf])
    next => rfl
  next => rfl

theorem onCtx {c : Nat} {f : Ctx → Ctx} (hf : ∀ x, (f x).ring = x.ring) : Muted s (s.onCtx c f) := by
  refine ⟨⟨rfl, rfl⟩, rfl, fun e => ?_, fun _ _ => rfl⟩
  rw [State.ctx, State.onCtx_pkg, look_put]
  split
  next h => rw [hf, h]
  next => rfl

theorem setGangs {gs : List Gang} : Muted s { s with gangs := gs } := ⟨⟨rfl, rfl⟩, rfl, fun _ => rfl, fun _ _ => rfl⟩

theorem setGroup {id : DWord} {g : Group} : Muted s (s.setGroup id g) := onDie fun _ => rfl

theorem groupCheck {id : DWord} : Muted s (s.groupCheck id) := by
  unfold State.groupCheck
  split
  · exact refl
  · split
    · exact setGroup
    · split
      · exact setGroup.trans setGangs
      · exact refl

theorem leave {id : DWord} {me : TaskId} : Muted s (s.leave id me) := by
  unfold State.leave
  split
  · exact refl
  · split
    · exact setGroup.trans groupCheck
    · exact refl

theorem trapDone_told (i : Inst) : i.trapDone.handler = i.handler ∧ i.trapDone.stages = i.stages := by
  unfold Inst.trapDone
  split
  · split <;> exact ⟨rfl, rfl⟩
  · exact ⟨rfl, rfl⟩

theorem endTask {d inst stage ctx num : Nat} {area : Option Nat} {trap : Bool} : Muted s (s.endTask d inst stage ctx num area trap) := by
  unfold State.endTask
  extract_lets s0 me s1
  have h0 : Muted s s0 := by
    unfold s0
    split
    · exact onCtx fun _ => rfl
    · exact refl
  have h1 : Muted s s1 := foldl_keeps (fun _ _ h => h.trans leave) _ h0
  refine h1.trans (onInst fun i => ?_)
  dsimp only
  split
  · exact trapDone_told _
  · exact ⟨rfl, rfl⟩

theorem endTasks {d inst stage ctx : Nat} {ts : List (Nat × Option Nat × Bool)} : Muted s (s.endTasks d inst stage ctx ts) :=
  foldl_keeps (fun _ _ h => h.trans endTask) _ refl

theorem discard {n : Nat} : Muted s (s.discard n) := by
  cases hg : s.gang? n with
  | none => rw [State.discard, hg]; exact refl
  | some g =>
    have hslots : Muted s (s.freeSlots g) :=
      foldl_keeps (fun _ _ h => h.trans (onDie fun _ => rfl)) _ (foldl_keeps (fun _ _ h => h.trans (onDie fun _ => rfl)) _ refl)
    have hnote : ∀ t : State, Muted t (t.noteSample g true) := by
      intro t
      unfold State.noteSample
      split
      · exact refl
      · exact onDie fun _ => rfl
    rw [discard_eq hg]
    exact ((hslots.trans onCore).trans (hnote _)).trans setGangs

/-- The handler and stages of an `Inst`, by which its faults are told, are the same. -/
theorem told_some {d n : Nat} {i : Inst} (h : Muted s t) (hi : s.inst? d n = some i) :
    ∃ j, t.inst? d n = some j ∧ j.handler = i.handler ∧ j.stages = i.stages := by
  have htold := h.told d n
  rw [hi, Option.map_some, Option.map_eq_some_iff] at htold
  obtain ⟨j, hj, heq⟩ := htold
  exact ⟨j, hj, (Prod.mk.inj heq).1, (Prod.mk.inj heq).2⟩

/-- Where there is no handler there is none after. -/
theorem noHandler {d n : Nat} (h : Muted s t) (hi : ∀ i ∈ s.inst? d n, i.handler = 0xFF) : ∀ j ∈ t.inst? d n, j.handler = 0xFF := by
  intro j hj
  have htold := h.told d n
  rw [Option.mem_def.1 hj, Option.map_some, eq_comm, Option.map_eq_some_iff] at htold
  obtain ⟨i, hmem, heq⟩ := htold
  exact (Prod.mk.inj heq).1 ▸ hi i hmem

end Muted

/-! ## Lanes that retire at once (R52, R289) -/

theorem vacate_muted (s : State) (n : Nat) (lanes : Word) : Muted s (s.vacate n lanes) := by
  unfold State.vacate
  split
  · exact Muted.refl
  · dsimp only
    split <;> exact Muted.setGangs

/-- A gang whose lanes are all vacated is gone, or holds lanes that no port has. -/
theorem vacate_lanes {s : State} {n : Nat} {h : Gang} (hgang : (s.vacate n 0xFFFFFFFF#32).gang? n = some h) : ∀ e ∈ h.lanes, 32 ≤ e.1 := by
  unfold State.vacate at hgang
  cases hg : s.gang? n with
  | none => rw [hg] at hgang; dsimp only at hgang; rw [hg] at hgang; cases hgang
  | some g =>
    rw [hg] at hgang
    dsimp only at hgang
    split at hgang
    · exact absurd (List.mem_of_find?_eq_some hgang) (by simp [State.dropGang, gang?_gid hgang])
    · rw [gang?_onGang hg (by intro _; rfl)] at hgang
      rw [← Option.some.inj hgang]
      intro e he
      have hlane := (List.mem_filter.1 he).2
      rw [show (0xFFFFFFFF#32 : Word) = BitVec.allOnes 32 from rfl, BitVec.getLsbD_allOnes] at hlane
      simpa using hlane

theorem retire_muted {s : State} {n : Nat} {lanes : Word} : Muted s (s.retire n lanes) := by
  unfold State.retire
  split
  · exact Muted.refl
  · exact Muted.endTasks.trans (vacate_muted _ _ _)

theorem retire_lanes {s : State} {n : Nat} {h : Gang} (hgang : (s.retire n 0xFFFFFFFF#32).gang? n = some h) : ∀ e ∈ h.lanes, 32 ≤ e.1 := by
  unfold State.retire at hgang
  split at hgang
  next hg => rw [hg] at hgang; cases hgang
  next => exact vacate_lanes hgang

theorem retire_discard_muted (s : State) (n : Nat) : Muted s ((s.discard n).retire n 0xFFFFFFFF#32) := Muted.discard.trans retire_muted

/-! ## Where a record goes (R289) -/

section
variable {s : State} {src : Sender} {d inst stage root flight : Nat} {rec_ : Rec} {after : List Nat} {handler : Bool}

/-- A record that is sent leaves memory, the effects on their way, the issuing port and the gangs. -/
theorem send_quiet : Quiet s (s.send src d inst stage root flight rec_ after handler) ∧ (s.send src d inst stage root flight rec_ after handler).cur = s.cur := by
  unfold State.send
  dsimp only
  split <;> exact ⟨⟨⟨rfl, rfl⟩, rfl⟩, rfl⟩

/-- It stands in a window of its sender towards its queue. -/
theorem send_window : ∃ w ∈ ((s.send src d inst stage root flight rec_ after handler).die d).windows, w.src = src ∧ w.inst = inst ∧ w.stage = stage ∧
    ∃ e ∈ w.entries, e.record = rec_ := by
  unfold State.send
  dsimp only
  split
  next h =>
    obtain ⟨q, hq, hmine⟩ := List.any_eq_true.1 h
    rw [die_onDie_same]
    refine ⟨_, List.mem_map_of_mem hq, ?_⟩
    rw [if_pos hmine]
    simp only [Bool.and_eq_true, beq_iff_eq] at hmine
    exact ⟨hmine.1.1, hmine.1.2, hmine.2, _, List.mem_append_right _ List.mem_cons_self, rfl⟩
  next =>
    rw [die_onDie_same]
    exact ⟨_, List.mem_append_right _ List.mem_cons_self, rfl, rfl, rfl, _, List.mem_cons_self, rfl⟩

end

section
variable {s : State} {d slot ctx root : Nat} {own : Bool} {f : FaultInfo} {words : List Word}

theorem report_quiet : Quiet s (s.report d slot ctx own root f words) ∧ (s.report d slot ctx own root f words).cur = s.cur := by
  unfold State.report State.reportList
  split
  · split
    · exact ⟨⟨⟨rfl, rfl⟩, rfl⟩, rfl⟩
    · exact send_quiet
  · exact ⟨⟨⟨rfl, rfl⟩, rfl⟩, rfl⟩

/-- A handler's own record, or one where there is no handler, goes to the host. -/
theorem report_toHost (h : own = true ∨ ∀ i ∈ s.inst? d slot, i.handler = 0xFF) : s.report d slot ctx own root f words = s.toHost ctx words := by
  unfold State.report State.reportList
  cases hi : s.inst? d slot with
  | none => rfl
  | some i =>
    refine if_pos ?_
    rcases h with h | h
    · simp [h]
    · simp [h i hi]

/-- Else it goes to the handler's stage, as many of its words as that stage takes. -/
theorem report_toHandler {i : Inst} (hi : s.inst? d slot = some i) (hown : own = false) (hhandler : i.handler ≠ 0xFF) :
    ∃ w ∈ ((s.report d slot ctx own root f words).die (homeInst d slot).1).windows, w.src = .die ∧ w.inst = (homeInst d slot).2 ∧ w.stage = i.handler ∧
      ∃ e ∈ w.entries, e.record.fault = some f ∧ e.record.words = words.take (((i.stages[i.handler]?).map (·.args)).getD 16) := by
  unfold State.report State.reportList
  rw [hi]
  dsimp only
  rw [if_neg (by simp [hown, hhandler])]
  obtain ⟨w, hw, hsrc, hinst, hstage, e, he, hrec⟩ := send_window
  exact ⟨w, hw, hsrc, hinst, hstage, e, he, by rw [hrec], by rw [hrec]⟩

end

/-! ## Faults of the flight class (R289) -/

theorem toHost_ring (s : State) (c : Nat) (words : List Word) : ((s.toHost c words).ctx c).ring = (s.ctx c).ring ++ [words] := by
  rw [State.ctx, State.toHost, State.onCtx_pkg, look_put_same]

/-- The record of a flight's fault (R290; DEDUCED, log 20). -/
def Machine.State.flightRecord (s : State) (g : Gang) (f : FaultInfo) (site : DWord) (k : Nat) : List Word :=
  recordWords f 0 g.stage g.inst g.lowTask g.anchor.occ g.anchor.exec g.anchor.flightid site k 0 0 0#64 ((s.time + (s.die g.die).dtcBase) % 2 ^ 32)

section
variable {s : State} {g : Gang} {f : FaultInfo} {site : DWord} {k : Nat}

/-- TRAP takes its exception with its code at its own address, the gang off its port and its cycles charged first (R131). -/
theorem trap_takes {r : Running} {c : BitVec 12} (hr : s.cur = some r) :
    exec (.trap c) s = .next ((({ s with cur := none, gangs := s.gangs ++ [r.gang] } : State).chargeClause r).takeFault r.gang.gid
      ⟨0x0006, c.setWidth 64, r.cl.addr + BitVec.ofNat 64 (4 * r.cl.idx)⟩ false 0#64 0) := by
  rw [exec_trap, execTrap, issue_running hr, BitVec.ofNat_toNat]
  rfl

/-- What the class of a fault brings, where no poison is consumed and no pair differs (R131, R289). -/
theorem takeFault_class (hg : s.gang? g.gid = some g) (hpair : f.code ≠ codePairnomaj) : s.takeFault g.gid f false site k =
    if g.ctx = firmware then s.firmwareFault g.gid f
    else if f.code = codePage then s.parkForService g.gid f
    else s.endFlight g.gid f site k := by
  unfold State.takeFault
  simp only [hg, hpair, Bool.and_false, decide_false, Bool.or_false, Bool.false_eq_true, if_false]

/-- No fault but a pair's without a majority touches memory, the committed effects on their way or the issuing port. -/
theorem takeFault_still (hg : s.gang? g.gid = some g) (hcode : f.code ≠ 0x0052) :
    let t := s.takeFault g.gid f false site k
    t.mem = s.mem ∧ t.drain = s.drain ∧ t.cur = s.cur := by
  have hdiscard : Muted s (s.discard g.gid) := Muted.discard
  have h : Still s (s.takeFault g.gid f false site k) ∧ (s.takeFault g.gid f false site k).cur = s.cur := by
    rw [takeFault_class hg hcode]
    split
    · unfold State.firmwareFault
      rw [hg]
      dsimp only
      split <;> exact ⟨⟨hdiscard.mem, hdiscard.drain⟩, hdiscard.cur⟩
    split
    · unfold State.parkForService
      rw [hg]
      exact ⟨⟨hdiscard.mem, hdiscard.drain⟩, hdiscard.cur⟩
    unfold State.endFlight
    rw [hg]
    have hretire := retire_discard_muted s g.gid
    exact ⟨hretire.toStill.trans report_quiet.1.toStill, report_quiet.2.trans hretire.cur⟩
  exact ⟨h.1.mem, h.1.drain, h.2⟩

variable (hg : s.gang? g.gid = some g) (hctx : g.ctx ≠ firmware) (hpage : f.code ≠ 0x0010) (hpair : f.code ≠ 0x0052)
include hg hctx hpage hpair

/-- Such a fault discards the flight, retires every lane and reports it. -/
theorem takeFault_reports : s.takeFault g.gid f false site k =
    ((s.discard g.gid).retire g.gid 0xFFFFFFFF#32).report g.die g.inst g.ctx g.handler g.root f (s.flightRecord g f site k) := by
  rw [takeFault_class hg hpair, if_neg hctx, if_neg (show f.code ≠ codePage from hpage), State.endFlight, hg]
  rfl

theorem takeFault_lanes : ∀ h ∈ (s.takeFault g.gid f false site k).gang? g.gid, ∀ e ∈ h.lanes, 32 ≤ e.1 := by
  intro h hgang
  rw [takeFault_reports hg hctx hpage hpair, report_quiet.1.gang?] at hgang
  exact retire_lanes hgang

theorem takeFault_toHost (hhost : g.handler = true ∨ ∀ i ∈ s.inst? g.die g.inst, i.handler = 0xFF) :
    ((s.takeFault g.gid f false site k).ctx g.ctx).ring = (s.ctx g.ctx).ring ++ [s.flightRecord g f site k] := by
  have hmuted := retire_discard_muted s g.gid
  rw [takeFault_reports hg hctx hpage hpair, report_toHost (hhost.imp_right (hmuted.noHandler · )), toHost_ring, hmuted.ring]

theorem takeFault_toHandler {i : Inst} (hi : s.inst? g.die g.inst = some i) (hown : g.handler = false) (hhandler : i.handler ≠ 0xFF) :
    ∃ w ∈ ((s.takeFault g.gid f false site k).die (homeInst g.die g.inst).1).windows, w.src = .die ∧ w.inst = (homeInst g.die g.inst).2 ∧
      w.stage = i.handler ∧ ∃ e ∈ w.entries, e.record.fault = some f ∧
        e.record.words = (s.flightRecord g f site k).take (((i.stages[i.handler]?).map (·.args)).getD 16) := by
  have hmuted := retire_discard_muted s g.gid
  obtain ⟨j, hj, hjhandler, hjstages⟩ := hmuted.told_some hi
  rw [takeFault_reports hg hctx hpage hpair, ← hjhandler, ← hjstages]
  exact report_toHandler hj hown (hjhandler ▸ hhandler)

end

/-! ## Firmware's own faults (R293) -/

section
variable {s : State} {g : Gang} {f : FaultInfo} {consumed : Bool} {site : DWord} {k : Nat}

/-- Firmware's first fault discards its flight; the gang goes on at CCVEC, and the die holds the fault. -/
theorem takeFault_firmware (hg : s.gang? g.gid = some g) (hctx : g.ctx = firmware) (hhandler : g.handler = false) :
    s.takeFault g.gid f consumed site k =
      ((s.discard g.gid).onDie g.die fun x => { x.setSysreg 0x107 g.anchor.pc with ccFault := f }).onGang g.gid
        fun h => { h with handler := true, arch := { h.arch with pc := (s.die g.die).sysreg 0x106 } } := by
  unfold State.takeFault State.firmwareFault
  simp [hg, hctx, hhandler]

/-- That gang is the one whose flight is discarded, as the handler at CCVEC. -/
theorem gang?_takeFault_firmware (hg : s.gang? g.gid = some g) (hctx : g.ctx = firmware) (hhandler : g.handler = false) :
    (s.takeFault g.gid f consumed site k).gang? g.gid =
      some { s.discarded g with handler := true, arch := { g.anchor with pc := (s.die g.die).sysreg 0x106 } } := by
  rw [takeFault_firmware hg hctx hhandler, ← (discarded_discarded s g).arch]
  exact gang?_onGang (discard_still hg).2 fun _ => rfl

/-- Where its anchor lies in the core it runs there on its port, nothing of the flight held or pending, the registers for its return set. -/
theorem takeFault_firmware_runs (hg : s.gang? g.gid = some g) (hctx : g.ctx = firmware) (hhandler : g.handler = false) {p : Nat}
    (hplace : g.place = .port p) (hanchor : g.anchorAt = none) :
    let t := s.takeFault g.gid f consumed site k
    (∃ h, t.gang? g.gid = some h ∧ h.handler = true ∧ h.phase = .run ∧ h.held = [] ∧ h.pend = [] ∧ h.anchor = g.anchor ∧
      h.arch = { g.anchor with pc := look 0#64 (s.die g.die).sysregs 0x106 }) ∧
    look 0#64 (t.die g.die).sysregs 0x107 = g.anchor.pc ∧ (t.die g.die).ccFault = f := by
  have hk := discarded_discarded s g
  refine ⟨⟨_, gang?_takeFault_firmware hg hctx hhandler, rfl, ((discarded_resident s hplace).1 hanchor).1, hk.held, hk.pend, ?_, rfl⟩, ?_⟩
  · unfold State.discarded
    rw [hanchor, hplace]
    rfl
  · have hdie : (s.takeFault g.gid f consumed site k).die g.die =
        { ((s.discard g.gid).die g.die).setSysreg 0x107 g.anchor.pc with ccFault := f } := by
      rw [takeFault_firmware hg hctx hhandler]
      exact die_onDie_same (s.discard g.gid) g.die fun x => { x.setSysreg 0x107 g.anchor.pc with ccFault := f }
    rw [hdie]
    exact ⟨look_put_same _ _ _ _, rfl⟩

/-- Where that lies in the spill area the gang is parked until the record is read back (R137, R146). -/
theorem takeFault_firmware_parks (hg : s.gang? g.gid = some g) (hctx : g.ctx = firmware) (hhandler : g.handler = false) {p : Nat}
    (hplace : g.place = .port p) {a : Nat} (hanchor : g.anchorAt = some a) :
    ∃ h, (s.takeFault g.gid f consumed site k).gang? g.gid = some h ∧ h.phase = .parked :=
  ⟨_, gang?_takeFault_firmware hg hctx hhandler, ((discarded_resident s hplace).2 a hanchor).1⟩

end

/-- Refutes O53: of a firmware gang that is on a port while its anchor lies in the spill area the statement says that it goes on at CCVEC
at once, but it is parked until that record is read back (`takeFault_firmware_parks`). The machine itself never spills an anchor of
firmware, which no premise says; the other clauses hold (`trap_takes`, `takeFault_still`, `takeFault_lanes`, `takeFault_toHost`,
`takeFault_toHandler`), and this one does where the anchor lies in the core (`takeFault_firmware_runs`). -/
theorem not_exceptionsTaken : ¬ Obligations.ExceptionsTaken := by
  unfold Obligations.ExceptionsTaken
  intro h
  let g : Gang := { firmwareGang 1 0 0 0 0#64 with anchorAt := some 0 }
  let s : State := { State.reset with gangs := [g] }
  have hg : s.gang? g.gid = some g := rfl
  obtain ⟨-, -, hfirmware⟩ := h.2 s g ⟨0x0006, 0#64, 0#64⟩ 0#64 0 hg
  obtain ⟨⟨k, hk, -, hrun, -⟩, -⟩ := hfirmware rfl rfl ⟨0, rfl⟩
  obtain ⟨k', hk', hparked⟩ := takeFault_firmware_parks hg rfl rfl (p := 0) rfl (a := 0) rfl
  rw [Option.some.inj (hk.symm.trans hk'), hparked] at hrun
  cases hrun

end Sys2Proof

/-!
# Vector loads and tile moves at their issue, and what atomics leave (R155, R156, R158)
-/

namespace Sys2Proof

open Machine

/-! ## The vector loads (R155) -/

section
variable {s : State} {r : Running}

/-- A vector load is under way, its register or pair pending. -/
theorem vectorLoad_issues (hr : s.cur = some r) (d size : Nat) (sx : Bool) (vr sr : List Nat) (addr : Arch → Nat → DWord) :
    let x := r.gang.arch
    let act := bitsOf x.exec
    let cnt := if size = 8 then 2 else 1
    let parts := act.map fun l => partAt l (addr x l) size
    Usable s r { vr := vr, vw := (List.range cnt).map (d + ·), sr := sr, lanes := act, slices := slicesOf act } → Issuable s r 0 parts →
    ∃ q n, s.vectorLoad d size sx vr sr addr = .next { s with cur := some q, nextId := n } ∧
      LoadIssued s r 0 d cnt parts (act.map fun l => ⟨true, (List.range cnt).map fun i => (d + i) * 32 + l, sx⟩) q := by
  dsimp only
  intro hu h
  simp only [State.vectorLoad, State.issue, hr, checked_usable hu]
  exact load_issues (laneParts_unplaced _ _ _) h

/-- So is a load with an index or one address. -/
theorem loadLanes_issues (hr : s.cur = some r) (d size : Nat) (sx : Bool) (b : BitVec 5) (g : BitVec 1) (i o : BitVec 5) :
    let x := r.gang.arch
    let act := bitsOf x.exec
    let cnt := if size = 8 then 2 else 1
    let parts := act.map fun l => partAt l (x.laneAddr b g i (o.toNat * size) l) size
    Usable s r { vr := indexRegs g i, vw := (List.range cnt).map (d + ·), sr := [b.toNat], lanes := act, slices := slicesOf act } → Issuable s r 0 parts →
    ∃ q n, s.loadLanes d b g i o size sx = .next { s with cur := some q, nextId := n } ∧
      LoadIssued s r 0 d cnt parts (act.map fun l => ⟨true, (List.range cnt).map fun i => (d + i) * 32 + l, sx⟩) q :=
  vectorLoad_issues hr d size sx (indexRegs g i) [b.toNat] fun x l => x.laneAddr b g i (o.toNat * size) l

/-- The load of one word for all lanes is under way; with no acting slice it has no part. -/
theorem broadcastLoad_issues (hr : s.cur = some r) (d : BitVec 6) (b o : BitVec 5) :
    let x := r.gang.arch
    let act := bitsOf x.exec
    let parts := x.first?.toList.map fun k => partAt (act.headD 0) (x.scalarAddr b o 4 k) 4
    Usable s r { vw := [d.toNat], sr := [b.toNat], slices := x.first?.toList } → Issuable s r 0 parts →
    ∃ q n, execVldbW d b o s = .next { s with cur := some q, nextId := n } ∧
      LoadIssued s r 0 d.toNat 1 parts (x.first?.toList.map fun _ => ⟨true, act.map fun l => d.toNat * 32 + l, false⟩) q := by
  dsimp only
  intro hu h
  simp only [execVldbW, State.issue, hr, checked_usable hu, ← List.headD_eq_head?_getD]
  cases hfirst : r.gang.arch.first? with
  | none => exact load_issues (List.forall_mem_nil _) (List.forall_mem_nil _)
  | some k =>
    rw [hfirst] at h
    exact load_issues (List.forall_mem_singleton.2 rfl) h

end

/-- Settles O37: the forms with an index or one address are loads by lanes (`loadLanes_issues`), VLDS.W one at strided addresses
(`vectorLoad_issues`), VLDB.W one of a word for all (`broadcastLoad_issues`). -/
theorem vectorLoads : Obligations.VectorLoads := by
  unfold Obligations.VectorLoads
  intro s r d k b i o g hr x act at_ index
  refine ⟨?_, loadLanes_issues hr (2 * k.toNat) 8 false b g i o,
    vectorLoad_issues hr d.toNat 4 false [] [b.toNat, i.toNat] fun x l => x.stridedAddr b i o l, broadcastLoad_issues hr d b o⟩
  have hload := fun size sx => loadLanes_issues hr d.toNat size sx b g i o
  simp only [List.forall_mem_cons]
  exact ⟨hload 1 true, hload 1 false, hload 2 true, hload 2 false, hload 4 false, List.forall_mem_nil _⟩

/-! ## The tile moves (R156) -/

section
variable {s : State} {r : Running} {i : BitVec 5} {ws : List (Nat × Nat × DWord)}

/-- The parts of a tile move stand nowhere yet. -/
theorem tileWords_unplaced (ws : List (Nat × Nat × DWord)) : ∀ p ∈ ws.map fun w => partAt w.1 w.2.2 4, p.loc = none := by
  intro p hp
  obtain ⟨w, -, rfl⟩ := List.mem_map.1 hp
  rfl

/-- The checks of a tile move pass where every pitch is a multiple of 4 and every word, aligned, is found in a scratchpad. -/
theorem tileChecked_issuable {st : Bool} (h : ∀ w ∈ ws, (r.gang.arch.sget (w.1 / 4) i.toNat).toNat % 4 = 0 ∧ inScratch w.2.2 = true)
    (hi : Issuable s r (bit st) (ws.map fun w => partAt w.1 w.2.2 4)) (k : Res) : s.tileChecked r i ws st k = k := by
  have hpart : ∀ w ∈ ws, w.2.2.toNat % 4 = 0 ∧ ∀ c f, s.find r.gang.die r.gang.core r.gang.inst r.gang.ctx w.2.2 (bit st) ≠ .bad c f :=
    fun w hw => hi _ (List.mem_map_of_mem hw)
  have haligned : (ws.find? fun w => field (r.gang.arch.sget (w.1 / 4) i.toNat) 0 2 != 0 || field w.2.2 0 2 != 0) = none := by
    simp only [List.find?_eq_none, field_zero, Bool.or_eq_true, bne_iff_ne, not_or, not_not]
    exact fun w hw => ⟨(h w hw).1, (hpart w hw).1⟩
  unfold State.tileChecked
  rw [haligned, List.findSome?_eq_none_iff.2]
  intro w hw
  rw [(h w hw).2]
  cases hf : s.find r.gang.die r.gang.core r.gang.inst r.gang.ctx w.2.2 (bit st) with
  | bad c f => exact absurd hf ((hpart w hw).2 c f)
  | miss v => rfl
  | at_ l tso => rfl

variable {h : BitVec 1} {b o : BitVec 5} {turn : Bool}

/-- A tile load is under way, half of the vector registers pending. -/
theorem tileLoad_issues (hr : s.cur = some r) :
    let x := r.gang.arch
    let ws := x.tileParts (32 * h.toNat) b i o turn
    Usable s r { vw := (List.range 32).map (32 * h.toNat + ·), sr := [b.toNat, i.toNat], lanes := bitsOf x.exec, slices := x.acting } →
    (∀ w ∈ ws, (x.sget (w.1 / 4) i.toNat).toNat % 4 = 0 ∧ inScratch w.2.2 = true) → Issuable s r 0 (ws.map fun w => partAt w.1 w.2.2 4) →
    ∃ q n, s.tileLoad h b i o turn = .next { s with cur := some q, nextId := n } ∧
      LoadIssued s r 0 (32 * h.toNat) 32 (ws.map fun w => partAt w.1 w.2.2 4) (ws.map fun w => ⟨true, [w.2.1 * 32 + w.1], false⟩) q := by
  dsimp only
  intro hu hplace hi
  simp only [State.tileLoad, State.issue, hr, checked_usable hu, tileChecked_issuable (st := false) hplace hi]
  exact load_issues (tileWords_unplaced _) hi

/-- A tile store is under way, with the 32 entries that R128 gives it. -/
theorem tileStore_issues (hr : s.cur = some r) :
    let x := r.gang.arch
    let ws := x.tileParts (32 * h.toNat) b i o turn
    Usable s r { vr := (List.range 32).map (32 * h.toNat + ·), sr := [b.toNat, i.toNat], lanes := bitsOf x.exec, slices := x.acting } →
    (∀ w ∈ ws, (x.sget (w.1 / 4) i.toNat).toNat % 4 = 0 ∧ inScratch w.2.2 = true) → Issuable s r 1 (ws.map fun w => partAt w.1 w.2.2 4) →
    ∃ q n, s.tileStore h b i o turn = .next { s with cur := some q, nextId := n } ∧
      EffectIssued s r .store (ws.map fun w => partAt w.1 w.2.2 4) 32
        (fun id => .store id (ws.map fun w => bytesOf 4 (zext64 (x.vget w.2.1 w.1)))) (fun _ => []) q := by
  dsimp only
  intro hu hplace hi
  simp only [State.tileStore, State.issue, hr, checked_usable hu, tileChecked_issuable (st := true) hplace hi]
  exact store_issues (tileWords_unplaced _) hi

end

/-- Settles O39: each is the tile load or store by rows or turned (`tileLoad_issues`, `tileStore_issues`). -/
theorem tileMoves : Obligations.TileMoves := by
  unfold Obligations.TileMoves
  intro s r h b i o hr
  simp only [List.forall_mem_cons]
  exact ⟨⟨tileLoad_issues (turn := false) hr, tileLoad_issues (turn := true) hr, List.forall_mem_nil _⟩,
    tileStore_issues (turn := false) hr, tileStore_issues (turn := true) hr, List.forall_mem_nil _⟩

/-! ## The atomics (R158) -/

/-- The low word of a word in a doubleword is the word. -/
theorem setWidth_zext64 (m : Word) : (zext64 m).setWidth 32 = m := by
  rw [zext64, BitVec.setWidth_setWidth_of_le m (by decide), BitVec.setWidth_eq]

/-- Settles O41: an operation on words is made on the low words (`setWidth_zext64`), its comparison in another spelling. -/
theorem atomicResults : Obligations.AtomicResults := by
  unfold Obligations.AtomicResults
  intro m v x n y z
  refine ⟨?_, rfl, ?_, rfl⟩
  · change ∀ e ∈ (_ : List (Nat × Word)), atomicNew e.1 (zext64 m) (zext64 v) (zext64 x) = zext64 e.2
    simp only [List.forall_mem_cons, atomicNew, setWidth_zext64, minS_eq, maxS_eq, minU_eq, maxU_eq, apply_ite zext64, true_and]
    exact ⟨rfl, List.forall_mem_nil _⟩
  · simp only [atomicNew, BitVec.ult_iff_lt, BitVec.lt_def]

end Sys2Proof

/-!
# Accesses that are not aligned (R149, R156, R157)

The lowest lane whose address is not a multiple of the access's size is named, and nothing of the access is placed.
-/

namespace Sys2Proof

open Machine

/-- MISALIGN at an access, which writes where `st` is 1, for a lane and its address, with `n` numbers given out by then (R157). -/
def Machine.State.misaligned (s : State) (r : Running) (st n l : Nat) (va : DWord) : Res :=
  .next (State.raiseAt { s with nextId := s.nextId + n } r 0x0004 (BitVec.ofNat 64 (st * 2 ^ 61 + l * 2 ^ 56 + va.toNat % 2 ^ 56)) false)

/-- The first of some addresses that is not a multiple of a size is a lane's. -/
def FirstMisaligned (size : Nat) (as : List (Nat × DWord)) (l : Nat) (va : DWord) : Prop :=
  as.find? (fun a => decide (a.2.toNat % size ≠ 0)) = some (l, va)

/-- FAULTINFO of an access names the lane and the address. -/
theorem raise_misaligned {s : State} {r : Running} {st : Bool} {l : Nat} (hl : l < 32) (va : DWord) :
    s.raise r codeMisalign (accessInfo 0 st l va) = s.misaligned r (bit st) 0 l va := by
  rw [accessInfo, field_zero, Nat.mod_eq_of_lt hl, Nat.zero_mul, Nat.zero_add]
  rfl

/-- The lanes of an exec mask are the 32 of a gang. -/
theorem lt_of_mem_bitsOf {n : Nat} {x : BitVec n} {l : Nat} (h : l ∈ bitsOf x) : l < n := List.mem_range.1 (List.mem_filter.1 h).1

/-- The first lane of an acting slice is one of them. -/
theorem firstLane_lt {x : Arch} {k : Nat} (h : k ∈ x.acting) : 4 * k < 32 := by
  have hk : k < 8 := lt_of_mem_bitsOf (List.mem_filter.1 h).1
  omega

section
variable {s : State} {r : Running} {ks : List Nat} {lane : Nat → Nat} {addr : Nat → DWord} {size l : Nat} {va : DWord}
  (hlane : ∀ k ∈ ks, lane k < 32) (h : FirstMisaligned size (ks.map fun k => (lane k, addr k)) l va)
include h

/-- The address that is found belongs to one of the parts. -/
theorem FirstMisaligned.find :
    ∃ k, ks.find? (fun k => (addr k).toNat % size != 0) = some k ∧ k ∈ ks ∧ lane k = l ∧ addr k = va := by
  rw [FirstMisaligned, List.find?_map, Option.map_eq_some_iff] at h
  obtain ⟨k, hk, he⟩ := h
  obtain ⟨rfl, rfl⟩ := Prod.mk.inj he
  refine ⟨k, ?_, List.mem_of_find?_eq_some hk, rfl, rfl⟩
  simpa only [Function.comp_def, bne, beq_eq_decide, ne_eq, decide_not] using hk

include hlane

/-- An access that is not aligned in some lane raises MISALIGN for the first such. -/
theorem startAccess_misaligned {a : Access} {st : Bool} (hst : (a.kind.needs != 0) = st) (hparts : a.parts = ks.map fun k => partAt (lane k) (addr k) size)
    (k : State → Running → Res) : s.startAccess r a k = s.misaligned r (bit st) 0 l va := by
  obtain ⟨j, hj, hmem, rfl, rfl⟩ := h.find
  have hfind : (a.parts.find? fun p => p.va.toNat % p.size != 0) = some (partAt (lane j) (addr j) size) := by
    rw [hparts, List.find?_map]
    exact congrArg (Option.map _) hj
  unfold State.startAccess
  rw [hfind]
  dsimp only
  rw [partInfo, hst]
  exact raise_misaligned (hlane j hmem) _

theorem load_misaligned {file reg cnt : Nat} {dests : List Dest} :
    s.load r file reg cnt (ks.map fun k => partAt (lane k) (addr k) size) dests = s.misaligned r 0 1 l va :=
  startAccess_misaligned (s := s.fresh.2) (a := ⟨s.nextId, r.pc, r.cl.idx, .load s.nextId dests, _, false, false⟩) hlane h rfl rfl
    fun t r => .next (t.setRun (r.pend s.nextId file reg cnt (awaited dests) 0 []))

theorem store_misaligned {entries : Nat} {data : List (List Byte)} {wide : Bool} :
    s.store r entries (ks.map fun k => partAt (lane k) (addr k) size) data wide = s.misaligned r 1 1 l va :=
  startAccess_misaligned (s := s.fresh.2) (a := ⟨s.nextId, r.pc, r.cl.idx, .store, _, false, wide⟩) hlane h rfl rfl
    fun t r => .next (t.holding r entries (.store s.nextId data))

end

/-! ## Each form of access -/

section
variable {s : State} {r : Running} {l : Nat} {va : DWord} (hr : s.cur = some r)
include hr

theorem scalarLoad_misaligned {d b o : BitVec 5} {size : Nat} {sx : Bool}
    (hu : Usable s r { sr := [b.toNat], sw := [d.toNat], slices := r.gang.arch.acting })
    (h : FirstMisaligned size (r.gang.arch.acting.map fun k => (4 * k, r.gang.arch.scalarAddr b o size k)) l va) :
    s.scalarLoad d b o size sx = s.misaligned r 0 1 l va := by
  simp only [State.scalarLoad, State.issue, hr, checked_usable hu]
  exact load_misaligned (fun _ => firstLane_lt) h

theorem scalarStore_misaligned {d b o : BitVec 5} {size : Nat}
    (hu : Usable s r { sr := [b.toNat, d.toNat], slices := r.gang.arch.acting })
    (h : FirstMisaligned size (r.gang.arch.acting.map fun k => (4 * k, r.gang.arch.scalarAddr b o size k)) l va) :
    s.scalarStore d b o size = s.misaligned r 1 1 l va := by
  simp only [State.scalarStore, State.issue, hr, checked_usable hu]
  exact store_misaligned (fun _ => firstLane_lt) h

theorem vectorLoad_misaligned (d size : Nat) (sx : Bool) (vr sr : List Nat) (addr : Arch → Nat → DWord)
    (hu : Usable s r { vr := vr, vw := (List.range (if size = 8 then 2 else 1)).map (d + ·), sr := sr, lanes := bitsOf r.gang.arch.exec,
                       slices := slicesOf (bitsOf r.gang.arch.exec) })
    (h : FirstMisaligned size ((bitsOf r.gang.arch.exec).map fun l => (l, addr r.gang.arch l)) l va) :
    s.vectorLoad d size sx vr sr addr = s.misaligned r 0 1 l va := by
  simp only [State.vectorLoad, State.issue, hr, checked_usable hu]
  exact load_misaligned (fun _ => lt_of_mem_bitsOf) h

theorem vectorStore_misaligned (d size : Nat) (vr sr : List Nat) (addr : Arch → Nat → DWord)
    (hu : Usable s r { vr := (if size = 8 then [d, d + 1] else [d]) ++ vr, sr := sr, lanes := bitsOf r.gang.arch.exec,
                       slices := slicesOf (bitsOf r.gang.arch.exec) })
    (h : FirstMisaligned size ((bitsOf r.gang.arch.exec).map fun l => (l, addr r.gang.arch l)) l va) :
    s.vectorStore d size vr sr addr = s.misaligned r 1 1 l va := by
  simp only [State.vectorStore, State.issue, hr, checked_usable hu]
  exact store_misaligned (fun _ => lt_of_mem_bitsOf) h

theorem loadLanes_misaligned (d size : Nat) (sx : Bool) (b : BitVec 5) (g : BitVec 1) (i o : BitVec 5) :
    Usable s r { vr := indexRegs g i, vw := (List.range (if size = 8 then 2 else 1)).map (d + ·), sr := [b.toNat], lanes := bitsOf r.gang.arch.exec,
                 slices := slicesOf (bitsOf r.gang.arch.exec) } →
    FirstMisaligned size ((bitsOf r.gang.arch.exec).map fun l => (l, r.gang.arch.laneAddr b g i (o.toNat * size) l)) l va →
    s.loadLanes d b g i o size sx = s.misaligned r 0 1 l va :=
  vectorLoad_misaligned hr d size sx (indexRegs g i) [b.toNat] fun x l => x.laneAddr b g i (o.toNat * size) l

theorem storeLanes_misaligned (d size : Nat) (b : BitVec 5) (g : BitVec 1) (i o : BitVec 5) :
    Usable s r { vr := (if size = 8 then [d, d + 1] else [d]) ++ indexRegs g i, sr := [b.toNat], lanes := bitsOf r.gang.arch.exec,
                 slices := slicesOf (bitsOf r.gang.arch.exec) } →
    FirstMisaligned size ((bitsOf r.gang.arch.exec).map fun l => (l, r.gang.arch.laneAddr b g i (o.toNat * size) l)) l va →
    s.storeLanes d b g i o size = s.misaligned r 1 1 l va :=
  vectorStore_misaligned hr d size (indexRegs g i) [b.toNat] fun x l => x.laneAddr b g i (o.toNat * size) l

theorem broadcastLoad_misaligned {d : BitVec 6} {b o : BitVec 5}
    (hu : Usable s r { vw := [d.toNat], sr := [b.toNat], slices := r.gang.arch.first?.toList })
    (h : FirstMisaligned 4 (r.gang.arch.first?.toList.map fun k => ((bitsOf r.gang.arch.exec).headD 0, r.gang.arch.scalarAddr b o 4 k)) l va) :
    execVldbW d b o s = s.misaligned r 0 1 l va := by
  simp only [execVldbW, State.issue, hr, checked_usable hu, ← List.headD_eq_head?_getD]
  cases hfirst : r.gang.arch.first? with
  | none =>
    rw [hfirst] at h
    cases h
  | some k =>
    rw [hfirst] at h
    refine load_misaligned (ks := [k]) (fun _ _ => ?_) h
    cases hact : bitsOf r.gang.arch.exec with
    | nil => decide
    | cons j js => exact lt_of_mem_bitsOf (hact ▸ List.mem_cons_self)

theorem atomicOp_misaligned (minor d : Nat) (b : BitVec 5) (g : BitVec 1) (i : BitVec 5) (o : BitVec 2) (c : BitVec 3)
    (hu : Usable s r { vr := (if minor = 13 then [d, d + 1, d + 2, d + 3] else if minor = 9 || 11 ≤ minor then [d, d + 1] else [d]) ++ indexRegs g i,
                       vw := (List.range (if 11 ≤ minor then 2 else 1)).map (d + ·), sr := [b.toNat], lanes := bitsOf r.gang.arch.exec,
                       slices := slicesOf (bitsOf r.gang.arch.exec) })
    (h : FirstMisaligned (atomicSize minor) ((bitsOf r.gang.arch.exec).map fun l =>
      (l, r.gang.arch.sget (l / 4) b.toNat + if g = 1#1 then (r.gang.arch.vget i.toNat l).setWidth 64 else 0#64)) l va) :
    s.atomicOp minor d b g i o c = s.misaligned r 1 1 l va := by
  simp only [State.atomicOp, State.issue, hr, checked_usable hu, laneAddr_zero]
  exact startAccess_misaligned (s := s.fresh.2) (a := ⟨s.nextId, r.pc, r.cl.idx, .atomic, _, false, false⟩) (fun _ => lt_of_mem_bitsOf) h rfl rfl _

theorem waita_misaligned {d a : BitVec 5}
    (hu : Usable s r { sr := [a.toNat, d.toNat], slices := r.gang.arch.first?.toList })
    (h : FirstMisaligned 4 (r.gang.arch.first?.toList.map fun k => (4 * k, r.gang.arch.sget k a.toNat)) l va) :
    execWaita d a s = s.misaligned r 0 1 l va := by
  simp only [execWaita, State.issue, hr, checked_usable hu]
  cases hfirst : r.gang.arch.first? with
  | none =>
    rw [hfirst] at h
    cases h
  | some k =>
    rw [hfirst] at h
    have hk : k ∈ r.gang.arch.acting := List.mem_of_head? hfirst
    exact startAccess_misaligned (ks := [k]) (s := s.fresh.2) (a := ⟨s.nextId, r.pc, r.cl.idx, .watch, _, false, true⟩)
      (List.forall_mem_singleton.2 (firstLane_lt hk)) h rfl rfl _

theorem cpy_misaligned {d a : BitVec 5} {q : BitVec 2}
    (hu : Usable s r { sr := [a.toNat], sw := if d = 0#5 then [] else [d.toNat], slices := r.gang.arch.acting })
    (h : FirstMisaligned 64 (r.gang.arch.acting.map fun k => (4 * k, r.gang.arch.sget k a.toNat)) l va) :
    execCpy d a q s = s.misaligned r 0 0 l va := by
  obtain ⟨k, hfind, hmem, rfl, rfl⟩ := h.find
  simp only [execCpy, State.issue, hr, checked_usable hu, field_zero]
  rw [show (r.gang.arch.acting.find? fun k => (r.gang.arch.sget k a.toNat).toNat % 2 ^ 6 != 0) = some k from hfind]
  exact raise_misaligned (firstLane_lt hmem) _

end

section
variable {s : State} {r : Running} {l : Nat} {va : DWord} {i b o : BitVec 5} {h : BitVec 1} {turn : Bool}

/-- A tile move raises MISALIGN for the first word in lane order whose pitch or address is not a multiple of 4. -/
theorem tileChecked_misaligned {ws : List (Nat × Nat × DWord)} {st : Bool} (hlane : ∀ w ∈ ws, w.1 < 32)
    (hfind : (ws.map fun w => (w.1, w.2.2)).find? (fun a => decide ((r.gang.arch.sget (a.1 / 4) i.toNat).toNat % 4 ≠ 0 ∨ a.2.toNat % 4 ≠ 0)) = some (l, va))
    (k : Res) : s.tileChecked r i ws st k = s.misaligned r (bit st) 0 l va := by
  rw [List.find?_map, Option.map_eq_some_iff] at hfind
  obtain ⟨w, hw, he⟩ := hfind
  obtain ⟨rfl, rfl⟩ := Prod.mk.inj he
  have hfirst : (ws.find? fun w => field (r.gang.arch.sget (w.1 / 4) i.toNat) 0 2 != 0 || field w.2.2 0 2 != 0) = some w := by
    simpa only [Function.comp_def, field_zero, bne, beq_eq_decide, ne_eq, decide_not, Bool.decide_or, Nat.reducePow] using hw
  unfold State.tileChecked
  rw [hfirst]
  exact raise_misaligned (hlane w (List.mem_of_find?_eq_some hw)) _

/-- The words of a tile move are those of the exec mask's lanes. -/
theorem tileParts_lane {x : Arch} {d : Nat} {w : Nat × Nat × DWord} (hw : w ∈ x.tileParts d b i o turn) : w.1 < 32 := by
  obtain ⟨j, hj, hjw⟩ := List.mem_flatMap.1 hw
  obtain ⟨k, -, rfl⟩ := List.mem_map.1 hjw
  exact lt_of_mem_bitsOf hj

/-- The lanes and addresses of a tile move's words, lane by lane. -/
theorem tileParts_places (x : Arch) (d : Nat) : (x.tileParts d b i o turn).map (fun w => (w.1, w.2.2)) =
    (bitsOf x.exec).flatMap fun j => (List.range 32).map fun k =>
      (j, x.sget (j / 4) b.toNat + BitVec.ofNat 64 (o.toNat * 4) + BitVec.ofNat 64 (if turn = true then j else k) * x.sget (j / 4) i.toNat +
        BitVec.ofNat 64 (4 * (if turn = true then k else j))) := by
  rw [Arch.tileParts, List.map_flatMap]
  simp only [List.map_map]
  cases turn <;> rfl

variable (hr : s.cur = some r) (hfind : ((bitsOf r.gang.arch.exec).flatMap fun j => (List.range 32).map fun k =>
      (j, r.gang.arch.sget (j / 4) b.toNat + BitVec.ofNat 64 (o.toNat * 4) + BitVec.ofNat 64 (if turn = true then j else k) * r.gang.arch.sget (j / 4) i.toNat +
        BitVec.ofNat 64 (4 * (if turn = true then k else j)))).find?
    (fun a => decide ((r.gang.arch.sget (a.1 / 4) i.toNat).toNat % 4 ≠ 0 ∨ a.2.toNat % 4 ≠ 0)) = some (l, va))
include hr hfind

theorem tileLoad_misaligned
    (hu : Usable s r { vw := (List.range 32).map (32 * h.toNat + ·), sr := [b.toNat, i.toNat], lanes := bitsOf r.gang.arch.exec, slices := r.gang.arch.acting }) :
    s.tileLoad h b i o turn = s.misaligned r 0 0 l va := by
  simp only [State.tileLoad, State.issue, hr, checked_usable hu]
  exact tileChecked_misaligned (st := false) (fun _ => tileParts_lane) ((congrArg _ (tileParts_places _ _)).trans hfind) _

theorem tileStore_misaligned
    (hu : Usable s r { vr := (List.range 32).map (32 * h.toNat + ·), sr := [b.toNat, i.toNat], lanes := bitsOf r.gang.arch.exec, slices := r.gang.arch.acting }) :
    s.tileStore h b i o turn = s.misaligned r 1 0 l va := by
  simp only [State.tileStore, State.issue, hr, checked_usable hu]
  exact tileChecked_misaligned (st := true) (fun _ => tileParts_lane) ((congrArg _ (tileParts_places _ _)).trans hfind) _

end

/-- Settles O42: each form of access raises MISALIGN for the first address that is not a multiple of its size. -/
theorem misalignedAccessRaises : Obligations.MisalignedAccessRaises := by
  unfold Obligations.MisalignedAccessRaises
  intro s r d e k b i o g h u c l va hr x act acting index offset lanes scalars strided bad raises
  have hload := fun size sx => loadLanes_misaligned (l := l) (va := va) hr d.toNat size sx b g i o
  have hstore := fun size => storeLanes_misaligned (l := l) (va := va) hr d.toNat size b g i o
  have hatomic := fun minor => atomicOp_misaligned (l := l) (va := va) hr minor d.toNat b g i u c
  have hpair := fun minor => atomicOp_misaligned (l := l) (va := va) hr minor (2 * k.toNat) b g i u c
  simp only [List.forall_mem_cons]
  refine ⟨fun hu => ⟨scalarLoad_misaligned hr hu, scalarLoad_misaligned hr hu, scalarLoad_misaligned hr hu, scalarLoad_misaligned hr hu,
      scalarLoad_misaligned hr hu, List.forall_mem_nil _⟩,
    fun hu => ⟨scalarStore_misaligned hr hu, scalarStore_misaligned hr hu, scalarStore_misaligned hr hu, List.forall_mem_nil _⟩,
    fun hu => ⟨hload 2 true hu, hload 2 false hu, hload 4 false hu, List.forall_mem_nil _⟩,
    loadLanes_misaligned hr (2 * k.toNat) 8 false b g i o,
    fun hu => ⟨hstore 2 hu, hstore 4 hu, List.forall_mem_nil _⟩,
    storeLanes_misaligned hr (2 * k.toNat) 8 b g i o,
    vectorLoad_misaligned hr d.toNat 4 false [] [b.toNat, i.toNat] fun x l => x.stridedAddr b i o l,
    vectorStore_misaligned hr d.toNat 4 [] [b.toNat, i.toNat] fun x l => x.stridedAddr b i o l,
    broadcastLoad_misaligned hr,
    ⟨hatomic 0, hatomic 1, hatomic 2, hatomic 3, hatomic 4, hatomic 5, hatomic 6, hatomic 7, hatomic 8, hatomic 9, hatomic 10, List.forall_mem_nil _⟩,
    ⟨hpair 11, hpair 12, hpair 13, List.forall_mem_nil _⟩,
    waita_misaligned hr, cpy_misaligned hr, ?_⟩
  intro turn hfind
  cases turn with
  | false => exact ⟨tileLoad_misaligned (turn := false) hr hfind, tileStore_misaligned (turn := false) hr hfind⟩
  | true => exact ⟨tileLoad_misaligned (turn := true) hr hfind, tileStore_misaligned (turn := true) hr hfind⟩

end Sys2Proof

/-!
# Fences, queue fences and waits (R160 to R163)
-/

namespace Sys2Proof

open Machine

/-- The low bits of a doubleword as a doubleword. -/
theorem ofNat_field_zero (x : DWord) (n : Nat) : BitVec.ofNat 64 (field x 0 n) = (x.extractLsb' 0 n).setWidth 64 := by
  apply BitVec.eq_of_toNat_eq
  rw [field_zero, BitVec.toNat_setWidth, BitVec.extractLsb'_toNat, BitVec.toNat_ofNat, Nat.shiftRight_zero]

section
variable {s : State} {r : Running} {d a : BitVec 5} (hr : s.cur = some r)
include hr

/-- WAITA watches the word that the first acting slice names, and ends the flight. -/
theorem execWaita_some {k : Nat} (hu : Usable s r { sr := [a.toNat, d.toNat], slices := r.gang.arch.first?.toList })
    (hfirst : r.gang.arch.first? = some k) :
    execWaita d a s = s.fresh.2.startAccess r ⟨s.nextId, r.pc, r.cl.idx, .watch, [partAt (4 * k) (r.gang.arch.sget k a.toNat) 4], false, true⟩
      fun t r' => .next (t.endBy r' 2 (r.gang.arch.sget k a.toNat) (((r.gang.arch.sget k d.toNat).extractLsb' 0 32).setWidth 64)) := by
  rw [execWaita, issue_running hr, checked_usable hu, hfirst, ← ofNat_field_zero]
  rfl

/-- With no acting slice it only ends the flight. -/
theorem execWaita_none (hu : Usable s r { sr := [a.toNat, d.toNat], slices := r.gang.arch.first?.toList }) (hfirst : r.gang.arch.first? = none) :
    execWaita d a s = .next (s.endBy r 0 0#64 0#64) := by
  rw [execWaita, issue_running hr, checked_usable hu, hfirst]
  rfl

/-- WAITQ ends the flight until the queue has come to the number that the first acting slice names. -/
theorem execWaitq_some {q : BitVec 3} {k : Nat} (hu : Usable s r { sr := [d.toNat], slices := r.gang.arch.first?.toList })
    (hfirst : r.gang.arch.first? = some k) :
    execWaitq d q s = .next (s.endBy r 7 (q.setWidth 64) (((r.gang.arch.sget k d.toNat).extractLsb' 0 63).setWidth 64)) := by
  rw [execWaitq, issue_running hr, checked_usable hu, hfirst, ← ofNat_field_zero, ← BitVec.ofNat_toNat]

/-- With no acting slice it only ends the flight. -/
theorem execWaitq_none {q : BitVec 3} (hu : Usable s r { sr := [d.toNat], slices := r.gang.arch.first?.toList }) (hfirst : r.gang.arch.first? = none) :
    execWaitq d q s = .next (s.endBy r 0 0#64 0#64) := by
  rw [execWaitq, issue_running hr, checked_usable hu, hfirst]
  rfl

/-- A wait on a word is under way: the flight has ended, and its access is placed as far as its page is there. -/
theorem waita_issues {k : Nat} (hu : Usable s r { sr := [a.toNat, d.toNat], slices := r.gang.arch.first?.toList })
    (hfirst : r.gang.arch.first? = some k) (h : Issuable s r 0 [partAt (4 * k) (r.gang.arch.sget k a.toNat) 4]) :
    Issues s (.waita d a) fun p => p.cl = { r.cl with ended := true } ∧ p.gang.wakeKind = 2 ∧ p.gang.wakeOp = r.gang.arch.sget k a.toNat ∧
      p.gang.wakeOp2 = ((r.gang.arch.sget k d.toNat).extractLsb' 0 32).setWidth 64 ∧ p.gang.arch = r.gang.arch ∧ p.gang.held = r.gang.held ∧
      ∃ ps ready, PartsPlaced s r 0 [partAt (4 * k) (r.gang.arch.sget k a.toNat) 4] ps ready ∧
        p.gang.accs = withAccess r.gang.accs ⟨s.nextId, r.pc, r.cl.idx, .watch, ps, ready, true⟩ := by
  obtain ⟨ps, ready, used, rs, t, hplaced, hreqs, hstart⟩ := startAccess_issuable (s := s.fresh.2) (r := r)
    (a := ⟨s.nextId, r.pc, r.cl.idx, .watch, [partAt (4 * k) (r.gang.arch.sget k a.toNat) 4], false, true⟩) (List.forall_mem_singleton.2 rfl) h
  rw [show s.fresh.2.makeReqs _ _ = ([], s.fresh.2) from rfl, ite_self, Prod.mk.injEq] at hreqs
  obtain ⟨rfl, rfl⟩ := hreqs
  have hwatch := hstart fun t r' => .next (t.endBy r' 2 (r.gang.arch.sget k a.toNat) (((r.gang.arch.sget k d.toNat).extractLsb' 0 32).setWidth 64))
  rw [List.append_nil] at hwatch
  exact ⟨_, _, (execWaita_some hr hu hfirst).trans hwatch, rfl, rfl, rfl, rfl, rfl, rfl, ps, ready, ⟨hplaced.same, hplaced.placed, hplaced.all⟩, rfl⟩

end

/-- Settles O43: each holds its effect or ends the flight at once, WAITA with its access under way (`waita_issues`). -/
theorem fencesAndWaits : Obligations.FencesAndWaits := by
  unfold Obligations.FencesAndWaits
  intro s r c m d a q hr x first holds ends
  refine ⟨issue_running hr _, issue_running hr _, issue_running hr _, issue_running hr _, fun hu => ?_, execWaita_none hr,
    fun k hu hfirst h => waita_issues hr hu hfirst h, fun hu => ?_⟩
  · obtain hfirst | ⟨k, hfirst⟩ := Option.eq_none_or_eq_some first
    · rw [hfirst]
      exact execWaitq_none hr hu hfirst
    · rw [hfirst]
      exact execWaitq_some hr hu hfirst
  · refine ⟨_, _, (issue_running hr _).trans (checked_usable hu _), ?_⟩
    simp only [pend_scalar]
    exact ⟨rfl, rfl⟩

end Sys2Proof

/-!
# Reads at issue, and the copy commands made of what they give (R164, R165)
-/

namespace Sys2Proof

open Machine

/-! ## Reads at issue (R165) -/

/-- A read of `m` bytes at an address of a gang goes through: the address is found at a place of this package that can be read at once, with no
byte of it poisoned or under another owner's key. -/
structure ReadPlaced (s : State) (d c inst ctx : Nat) (l : Loc) (tso : Bool) (m : Nat) (a : DWord) : Prop where
  found : s.find d c inst ctx a 0 = .at_ l tso
  clean : s.badN d inst l m = false
  here : ∀ p b, l ≠ .fabric p b
  pinned : s.pinned d inst l = true
  plain : ∀ bs, bs.length ≤ m → s.seal d c ctx a.toNat l bs = bs

theorem ReadsPlaced.read {s : State} {r : Running} {at_ : Nat → Loc} {tso : Nat → Bool} {n m : Nat} {reads : List DWord} {as : List (Nat × DWord)}
    (h : ReadsPlaced s r at_ tso n reads m as) {e : Nat × DWord} (he : e ∈ as) :
    ReadPlaced s r.gang.die r.gang.core r.gang.inst r.gang.ctx (at_ e.1) (tso e.1) m e.2 := by
  obtain ⟨-, -, -, hplaced⟩ := h
  obtain ⟨hfound, hclean, hhere, hpinned, hplain⟩ := hplaced e he
  exact ⟨hfound, hclean, hhere, hpinned, hplain⟩

section
variable {s : State} {r : Running}

/-- An address that the TLBs have fills none of them. -/
theorem findNow_found {d c inst ctx kind : Nat} {a : DWord} {l : Loc} {tso : Bool} (h : s.find d c inst ctx a kind = .at_ l tso) :
    s.findNow d c inst ctx a kind = (.at_ l tso, s) := by
  refine Prod.ext (findNow_of_find h) ?_
  unfold State.find at h
  unfold State.findNow
  cases hregion : regionOf a with
  | global =>
    rw [hregion] at h
    dsimp only at h ⊢
    unfold State.translate
    cases htlb : s.tlb? d c ctx a.toNat with
    | none => rw [htlb] at h; cases h
    | some x => rfl
  | _ => rfl

/-- Accesses that are all placed need nothing. -/
theorem settleAccesses_ready : ∀ {as : List Access}, (∀ a ∈ as, a.ready = true) → s.settleAccesses r as = .inr (s, r)
  | [], _ => rfl
  | a :: as, h => by
    rw [State.settleAccesses, if_pos (h a List.mem_cons_self)]
    exact settleAccesses_ready fun b hb => h b (.tail _ hb)

/-- Reads that go through wait for nothing. -/
theorem withPlaced_of_reads {at_ : Nat → Loc} {tso : Nat → Bool} {n m : Nat} {reads : List DWord} {as : List (Nat × DWord)}
    (h : ReadsPlaced s r at_ tso n reads m as) (k : State → Running → Res) : s.withPlaced r reads n k = k s r := by
  obtain ⟨hready, hlines, hloads, -⟩ := h
  have hopen : (r.gang.accs.filter fun a => !a.ready) = [] := by
    simp only [List.filter_eq_nil_iff, Bool.not_eq_true', Bool.not_eq_false]
    exact hready
  unfold State.withPlaced
  dsimp only
  rw [hopen, List.flatMap_eq_nil_iff.2 hlines, settleAccesses_ready hready]
  dsimp only
  rw [List.flatMap_eq_nil_iff.2 hloads]
  rfl

/-- The gang at issue after reads at some places, with the pages it has used. -/
def Machine.Running.afterReads (r : Running) (s : State) (used : List Nat) (ls : List Loc) : Running :=
  { r with gang := { r.gang with used := used, causal := vectorSeen s r.gang.causal ls } }

/-- What a block breaks by itself depends on where the gang is. -/
theorem blockErrors_congr {g h : Gang} (hdie : g.die = h.die) (hcore : g.core = h.core) (b : Block) : s.blockErrors g b = s.blockErrors h b := by
  unfold State.blockErrors
  rw [hdie, hcore]

/-- What a block breaks does not depend on what was read. -/
theorem blockFault_afterReads (used : List Nat) (ls : List Loc) (k : Nat) (b : Block) :
    s.blockFault (r.afterReads s used ls) k b = s.blockFault r k b := by
  have herrors : s.blockErrors (r.afterReads s used ls).gang b = s.blockErrors r.gang b := blockErrors_congr rfl rfl b
  unfold State.blockFault
  dsimp only
  rw [herrors]
  rfl

/-- A read that goes through gives the bytes as the flight sees them, and the vector of what was written to a host line. -/
theorem readNow_placed {l : Loc} {tso : Bool} {m : Nat} {a : DWord} (h : ReadPlaced s r.gang.die r.gang.core r.gang.inst r.gang.ctx l tso m a) :
    ∃ used, s.readNow r a m = (.bytes (r.gang.seen s.nextId l (s.readN r.gang.die r.gang.inst l m)) false, s,
      r.afterReads s used [l]) := by
  have hfabric : s.fabricRead l = (none, s) := by
    cases l with
    | fabric p b => exact absurd rfl (h.here p b)
    | phys pa | scratch c o | acc o => rfl
  have hpin : s.pinFor r.gang.die r.gang.inst l = s := by
    cases l with
    | scratch c o => rw [State.pinFor, if_pos h.pinned]
    | phys pa | acc o | fabric p b => rfl
  have hread : s.readAt r.gang.die r.gang.inst l m = (s.readN r.gang.die r.gang.inst l m, s) := by
    cases l with
    | fabric p b => exact absurd rfl (h.here p b)
    | phys pa | scratch c o | acc o => rfl
  have hseal := h.plain (s.readN r.gang.die r.gang.inst l m) (by simp [State.readN])
  refine ⟨if regionOf a == .global then (a.toNat / 4096 :: r.gang.used).eraseDups else r.gang.used, ?_⟩
  unfold State.readNow
  dsimp only
  rw [findNow_found h.found]
  dsimp only
  rw [hfabric]
  dsimp only
  rw [hpin, hread]
  dsimp only
  rw [hseal, h.clean]
  rfl

/-- The blocks of some slices, read one after another. -/
theorem readBlocks_placed {a : Nat} {at_ : Nat → Loc} {tso : Nat → Bool} :
    ∀ (ks : List Nat) (r : Running) (bs : List (Nat × Block)),
      (∀ k ∈ ks, ReadPlaced s r.gang.die r.gang.core r.gang.inst r.gang.ctx (at_ k) (tso k) 64 (r.gang.arch.sget k a)) →
      ∃ used, ∀ f, s.readBlocks r a ks bs f = f s (r.afterReads s used (ks.map at_))
        (bs ++ ks.map fun k => (k, blockOf (r.gang.seen s.nextId (at_ k) (s.readN r.gang.die r.gang.inst (at_ k) 64)))) := by
  intro ks
  induction ks with
  | nil =>
    intro r bs _
    refine ⟨r.gang.used, fun f => ?_⟩
    simp only [List.map_nil, List.append_nil]
    rfl
  | cons k ks ih =>
    intro r bs h
    obtain ⟨used, hread⟩ := readNow_placed (h k List.mem_cons_self)
    obtain ⟨used', hrest⟩ := ih (r.afterReads s used [at_ k])
      (bs ++ [(k, blockOf (r.gang.seen s.nextId (at_ k) (s.readN r.gang.die r.gang.inst (at_ k) 64)))]) fun j hj => h j (.tail _ hj)
    refine ⟨used', fun f => ?_⟩
    rw [State.readBlocks, hread]
    refine (hrest f).trans ?_
    rw [List.append_assoc]
    rfl

/-! ## The commands of a CPY (R164, R165) -/

/-- The command of a block and its slice, with the node that the block's follow-on names. -/
def cpyOf (x : Arch) (q tag : Nat) (b : Nat × Block) : Eff := .cpy q b.2 (if b.2.follow = 0 then 0 else x.nget b.2.nodeReg) tag b.1

/-- Hold the command of a block under a number of its own. -/
def holdCpy (q tag : Nat) (acc : State × Running) (b : Nat × Block) : State × Running :=
  (acc.1.fresh.2, acc.2.hold acc.1.fresh.1 1 (cpyOf acc.2.gang.arch q tag b))

/-- Commands of slices at the end of the held stream, the first under number `n`. -/
def Machine.Running.withCpys (r : Running) (q tag n : Nat) (bs : List (Nat × Block)) : Running :=
  { r with gang := { r.gang with
    held := r.gang.held ++ (bs.zipIdx n).map fun e => ⟨e.2, r.pc, r.cl.idx, 1, cpyOf r.gang.arch q tag e.1⟩ } }

/-- The commands stand in the held stream under numbers in a row. -/
theorem foldl_holdCpy (q tag : Nat) : ∀ (bs : List (Nat × Block)) (s : State) (r : Running),
    bs.foldl (holdCpy q tag) (s, r) = ({ s with nextId := s.nextId + bs.length }, r.withCpys q tag s.nextId bs) := by
  intro bs
  induction bs with
  | nil =>
    intro s r
    simp only [Running.withCpys, List.zipIdx_nil, List.map_nil, List.append_nil]
    rfl
  | cons b bs ih =>
    intro s r
    refine (ih s.fresh.2 (r.hold s.nextId 1 (cpyOf r.gang.arch q tag b))).trans ?_
    rw [List.length_cons, Nat.add_comm bs.length, ← Nat.add_assoc, Running.withCpys, Running.withCpys, List.zipIdx_cons, List.map_cons,
      ← List.singleton_append, ← List.append_assoc]
    rfl

/-- The destination of a CPY is pending, unless it is s0 (R165). -/
theorem ite_pend_scalar (r : Running) (tag cnt left : Nat) (d : BitVec 5) (lanes : List Nat) (vals : List Deliv) :
    (if d = 0#5 then r else r.pend tag 1 d.toNat cnt lanes left vals) =
      { r with gang := { r.gang with pend := r.gang.pend ++ if d = 0#5 then [] else [⟨tag, 1, d.toNat, cnt, lanes, left, vals⟩] } } := by
  by_cases h : d = 0#5
  · rw [if_pos h, if_pos h, List.append_nil]
  · rw [if_neg h, pend_scalar]

/-- A CPY whose blocks can be read and break no rule holds their commands. -/
theorem cpy_issues {d a : BitVec 5} {q : BitVec 2} {at_ : Nat → Loc} {tso : Nat → Bool} (hr : s.cur = some r)
    (hu : Usable s r { sr := [a.toNat], sw := if d = 0#5 then [] else [d.toNat], slices := r.gang.arch.acting })
    (hreads : ReadsPlaced s r at_ tso 64 (r.gang.arch.acting.map fun k => r.gang.arch.sget k a.toNat) 64
      (r.gang.arch.acting.map fun k => (k, r.gang.arch.sget k a.toNat)))
    (block : Nat → Block) (hblock : ∀ k, block k = blockOf (r.gang.seen s.nextId (at_ k) (s.readN r.gang.die r.gang.inst (at_ k) 64)))
    (hk : ∀ k ∈ r.gang.arch.acting, (r.gang.arch.sget k a.toNat).toNat % 64 = 0 ∧ s.blockFault r k (block k) = none) :
    ∃ used, execCpy d a q s = .next { s with
      nextId := s.nextId + 1 + r.gang.arch.acting.length
      cur := some { r with gang := { r.gang with
        used := used
        causal := vectorSeen s r.gang.causal (r.gang.arch.acting.map at_)
        held := r.gang.held ++ r.gang.arch.acting.zipIdx.map fun e =>
          ⟨s.nextId + 1 + e.2, r.pc, r.cl.idx, 1, cpyOf r.gang.arch q.toNat s.nextId (e.1, block e.1)⟩
        pend := r.gang.pend ++ if d = 0#5 then [] else [⟨s.nextId, 1, d.toNat, 1, r.gang.arch.acting.map fun k => 4 * k, 0, []⟩] } } } := by
  have haligned : (r.gang.arch.acting.find? fun k => field (r.gang.arch.sget k a.toNat) 0 6 != 0) = none := by
    simp only [List.find?_eq_none, field_zero, bne_iff_ne, ne_eq, not_not]
    exact fun k hk' => (hk k hk').1
  have hplaced : ∀ k ∈ r.gang.arch.acting,
      ReadPlaced s r.gang.die r.gang.core r.gang.inst r.gang.ctx (at_ k) (tso k) 64 (r.gang.arch.sget k a.toNat) :=
    fun k hk => hreads.read (List.mem_map_of_mem hk)
  have hfault : ∀ used ls, ((r.gang.arch.acting.map fun k => (k, block k)).findSome? fun b => s.blockFault (r.afterReads s used ls) b.1 b.2) = none := by
    intro used ls
    simp only [List.findSome?_eq_none_iff, List.forall_mem_map, blockFault_afterReads]
    exact fun k hk' => (hk k hk').2
  obtain ⟨used, hblocks⟩ := readBlocks_placed r.gang.arch.acting r [] hplaced
  simp only [← hblock, List.nil_append] at hblocks
  have hheld := foldl_holdCpy q.toNat s.nextId (r.gang.arch.acting.map fun k => (k, block k)) s.fresh.2 (r.afterReads s used (r.gang.arch.acting.map at_))
  refine ⟨used, ?_⟩
  rw [execCpy, issue_running hr]
  dsimp only
  rw [checked_usable hu, haligned]
  dsimp only
  rw [withPlaced_of_reads hreads, hblocks, hfault]
  change (fun held : State × Running => Host.Outcome.next (held.1.setRun (if d = 0#5 then held.2
    else held.2.pend s.nextId 1 d.toNat 1 (r.gang.arch.acting.map (4 * ·)) 0 []))) (List.foldl (holdCpy q.toNat s.nextId) _ _) = _
  rw [hheld]
  dsimp only
  rw [ite_pend_scalar, List.length_map, Running.withCpys, List.zipIdx_map, List.zipIdx_eq_map_add, List.map_map, List.map_map]
  rfl

end

/-- Settles O44: the blocks are read one after another (`readBlocks_placed`), and their commands held (`foldl_holdCpy`). -/
theorem cpyIssuesCommands : Obligations.CpyIssuesCommands := by
  unfold Obligations.CpyIssuesCommands
  intro s r d a q at_ tso hr x act block hu hreads hk
  obtain ⟨used, hcpy⟩ := cpy_issues (q := q) hr hu hreads block (fun _ => rfl) hk
  exact ⟨_, _, hcpy, rfl, rfl⟩

end Sys2Proof

/-!
# Barriers whose members' effects are on their way (R241, R249, R308)
-/

namespace Sys2Proof

open Machine

section
variable {s : State} {g : Gang}

/-- A gang that is on no port is left as it is. -/
theorem settlePart_away (hg : s.gang? g.gid = some g) (hres : g.resident = false) : s.settlePart g.gid = s := by
  have hstays : s.stays g = none := by
    unfold State.stays
    unfold Gang.resident at hres
    split at hres
    · cases hres
    · rfl
  simp [State.settlePart, hg, hstays, hres]

/-- Anything of the gang's tasks in the drain holds its arrival at a barrier back. -/
theorem execGbarArrival_underway (hg : s.gang? g.gid = some g) (hway : s.underway g false = true) :
    exec (.gbarArrival g.gid) s = .fault (.notEnabled "GBAR_ARRIVAL") := by
  simp [execGbarArrival, hg, hway]

/-- Where none are underway, the arrival is counted. -/
theorem execGbarArrival_visible (hcur : s.cur = none) (hg : s.gang? g.gid = some g) (hphase : g.phase = .parked) (hkind : g.wakeKind = 5)
    (hhit : g.hit = false) (hwoken : g.woken = false) (hway : s.underway g false = false) :
    exec (.gbarArrival g.gid) s = .next ((s.arrive g).settlePart g.gid) := by
  simp [execGbarArrival, hcur, hg, hphase, hkind, hhit, hwoken, hway]

/-- A gang whose group is gone then waits no longer: the clause of O57 with the guard it lacks. -/
theorem execGbarArrival_groupGone (hcur : s.cur = none) (hg : s.gang? g.gid = some g) (hphase : g.phase = .parked) (hkind : g.wakeKind = 5)
    (hhit : g.hit = false) (hwoken : g.woken = false) (hres : g.resident = false) (hway : s.underway g false = false)
    (hgone : s.group? g.wakeOp = none) :
    exec (.gbarArrival g.gid) s = .next (s.putGang { g with hit := true, woken := true }) := by
  have harrive : s.arrive g = s.putGang { g with hit := true, woken := true } := by simp [State.arrive, hgone]
  have hput : (s.putGang { g with hit := true, woken := true }).gang? g.gid = some { g with hit := true, woken := true } :=
    gang?_putGang (g := { g with hit := true, woken := true }) hg
  rw [execGbarArrival_visible hcur hg hphase hkind hhit hwoken hway, harrive]
  exact congrArg Host.Outcome.next (settlePart_away (g := { g with hit := true, woken := true }) hput hres)

/-- The two notions agree while every effect in the drain has a number of its own. -/
theorem underway_eq_false_of_behind (heffs : ∀ o ∈ s.drain, o.effs ≠ []) (hbehind : s.behind g = []) : s.underway g false = false := by
  simp only [State.behind, List.flatMap_eq_nil_iff, List.mem_filter] at hbehind
  simp only [State.underway, List.any_eq_false]
  intro o ho hway
  simp only [Bool.and_eq_true] at hway hbehind
  exact heffs o ho (hbehind o ⟨ho, hway.1⟩)

end

/-- Refutes O57: the clause of GBAR_ARRIVAL asks only that no numbered effect of the gang's tasks is on its way (`State.behind`), but the
event waits while anything of theirs stands in the drain (`State.underway`). An effect performed at its home on another die stays there
without its number until its own die's replica is up to date (`State.performedAway`), as in the state below: the barrier's group is gone,
and the arrival is refused all the same. With nothing underway that clause holds (`execGbarArrival_groupGone`). -/
theorem not_effectEvents : ¬ Obligations.EffectEvents := by
  unfold Obligations.EffectEvents
  intro h
  let g : Gang := { firmwareGang 1 0 0 0 0#64 with ctx := 0, core := 0, inst := 0, place := .landing, phase := .parked, wakeKind := 5 }
  let stored : Cargo := .acts [.write ⟨.phys (2 ^ 36), 0x1000#64, [0x2a#8], false⟩]
  let o : Out := ⟨7, [7], [], ⟨0, 0, 0, 0, g.root, 0, [0], [0], 0, false⟩, true, false, [1, 0, 0, 0], stored, [], false, [], []⟩
  let s : State := State.performedAway { State.reset with gangs := [g], drain := [o], msgs := [(4, [⟨[0, 1, 0, 0], [(7, stored)]⟩])] } o
  have hg : s.gang? g.gid = some g := rfl
  have hbehind : s.behind g = [] := by decide
  have hway : s.underway g false = true := by decide
  obtain ⟨-, -, hparked, -⟩ := h s rfl
  obtain ⟨hbarrier, -⟩ := hparked g hg rfl
  obtain ⟨hgone, -⟩ := hbarrier rfl rfl rfl rfl hbehind
  have hgroup : s.group? g.wakeOp = none := by decide
  have hnext := hgone hgroup
  rw [execGbarArrival_underway hg hway] at hnext
  cases hnext

end Sys2Proof

/-!
# Graph instructions act once for the gang (R178, R181)

Each takes its scalars from the lowest acting slice, finds the nodes that its registers hold, and does nothing where no slice acts.
-/

namespace Sys2Proof

open Machine

/-- A change of one core, with another gang at issue and other numbers given out, is all that `CoreSet` speaks of. -/
theorem coreSet_onCore (s : State) (d c : Nat) (f : Core → Core) (q : Option Running) (n : Nat) :
    CoreSet s { s.onCore d c f with cur := q, nextId := n } d c (f (s.core d c)) := by
  have hdie (e : Nat) : State.die { s.onCore d c f with cur := q, nextId := n } e = if e = d then (s.die d).onCore c f else s.die e :=
    die_onDie s d e fun x => x.onCore c f
  refine ⟨fun e b => ?_, fun e => ?_, rfl⟩
  · rw [State.core, hdie]
    split
    next h =>
      subst h
      simp only [Die.core, Die.onCore, look_put, State.core, true_and, eq_comm (a := c)]
    next h => rw [if_neg fun h' => h h'.1, State.core]
  · rw [hdie]
    split
    next h => subst h; rfl
    next => rfl

/-- A sparse leaf, which may be an operand of no node but a product (R188, R208). -/
def SparseLeaf (x : Node) : Prop := ∃ e r0 c0 tr, x.op = .leaf e r0 c0 tr ∧ isSparse e.fmt = true

/-- A sparse leaf is a bad factor on a side exactly where its view is not turned as that side wants it (R188). -/
theorem sparseBad_eq_true_iff {x : Node} {right : Bool} :
    sparseBad x right = true ↔ ∃ e r0 c0 tr, x.op = .leaf e r0 c0 tr ∧ isSparse e.fmt = true ∧ tr ≠ right := by
  unfold sparseBad
  cases x.op with
  | leaf e r0 c0 tr =>
    rw [Bool.and_eq_true, bne_iff_ne]
    constructor
    · exact fun h => ⟨e, r0, c0, tr, rfl, h⟩
    · rintro ⟨_, _, _, _, ⟨⟩, h⟩
      exact h
  | _ => simp

theorem sparseBad_eq_false {x : Node} {right : Bool} (h : ∀ e r0 c0 tr, x.op = .leaf e r0 c0 tr → isSparse e.fmt = true → tr = right) :
    sparseBad x right = false := by
  rw [Bool.eq_false_iff, ne_eq, sparseBad_eq_true_iff]
  rintro ⟨e, r0, c0, tr, hop, hsparse, hne⟩
  exact hne (h e r0 c0 tr hop hsparse)

theorem sparse_eq_true_iff {x : Node} : x.sparse = true ↔ SparseLeaf x := by
  rw [Node.sparse, Bool.or_eq_true, sparseBad_eq_true_iff, sparseBad_eq_true_iff]
  constructor
  · rintro (⟨e, r0, c0, tr, hop, hsparse, -⟩ | ⟨e, r0, c0, tr, hop, hsparse, -⟩) <;> exact ⟨e, r0, c0, tr, hop, hsparse⟩
  · rintro ⟨e, r0, c0, tr, hop, hsparse⟩
    cases tr with
    | false => exact .inr ⟨e, r0, c0, false, hop, hsparse, nofun⟩
    | true => exact .inl ⟨e, r0, c0, true, hop, hsparse, nofun⟩

section
variable {s : State} {r : Running} {n : BitVec 4} {X : Node} {f : Nat → Node → Res}

theorem NodeIn.node (h : NodeIn s r n X) : look? (s.core r.gang.die r.gang.core).nodes (r.gang.arch.nget n.toNat) = some X := by
  obtain ⟨-, hnode⟩ := h
  exact hnode

/-- A node that a register holds is what an instruction goes on with (R181). -/
theorem withNode_nodeIn (h : NodeIn s r n X) : s.withNode r n f = f (r.gang.arch.nget n.toNat) X := by
  obtain ⟨hheld, hnode⟩ := h
  simp only [State.withNode, if_neg hheld, hnode]

/-- An empty register is BADNODE (R181). -/
theorem withNode_empty (h : r.gang.arch.nget n.toNat = 0) : s.withNode r n f = .next (s.raiseAt r 0x0021 (BitVec.ofNat 64 n.toNat) false) := by
  simp only [State.withNode, if_pos h]
  rfl

theorem withDense_nodeIn (h : NodeIn s r n X) (hdense : ¬ SparseLeaf X) : s.withDense r n f = f (r.gang.arch.nget n.toNat) X := by
  rw [State.withDense, withNode_nodeIn h, if_neg (mt sparse_eq_true_iff.1 hdense)]

/-- A sparse leaf is BADATTR (R188). -/
theorem withDense_sparse (h : NodeIn s r n X) (hsparse : SparseLeaf X) :
    s.withDense r n f = .next (s.raiseAt r 0x0028 (BitVec.ofNat 64 n.toNat) false) := by
  rw [State.withDense, withNode_nodeIn h, if_pos (sparse_eq_true_iff.2 hsparse)]
  rfl

end

section
variable {s : State} {r : Running} (hr : s.cur = some r)
include hr

/-- The gang at issue as it stands is no change. -/
theorem setRun_running : s.setRun r = s := by
  rw [State.setRun, ← hr]

theorem graph_acting {srcs : List Nat} {j : Nat} {f : Running → Nat → Res} (hj : r.gang.arch.first? = some j)
    (hu : Usable s r { sr := srcs, slices := [j] }) : s.graph srcs f = f r j := by
  have hu' : Usable s r { sr := srcs, slices := r.gang.arch.first?.toList } := by rwa [hj]
  rw [State.graph, issue_running hr, checked_usable hu', hj]

theorem graph_idle {srcs : List Nat} {f : Running → Nat → Res} (hnone : r.gang.arch.first? = none) (hu : Usable s r { sr := srcs }) :
    s.graph srcs f = .next s := by
  have hu' : Usable s r { sr := srcs, slices := r.gang.arch.first?.toList } := by rwa [hnone]
  rw [State.graph, issue_running hr, checked_usable hu', hnone]
  exact congrArg Host.Outcome.next (setRun_running hr)

end
end Sys2Proof

/-!
# Appends (R178, R183 to R190)
-/

namespace Sys2Proof

open Machine

/-- A view that lies in its tensor has the extent asked for, 0 running to the end (R183). -/
theorem viewExtent_eq_inr {total origin ext : Nat} (hpos : 0 < if ext = 0 then total - origin else ext)
    (hfit : origin + (if ext = 0 then total - origin else ext) ≤ total) :
    viewExtent total origin ext = .inr (if ext = 0 then total - origin else ext) := by
  simp only [viewExtent, Nat.ne_of_gt hpos, Nat.not_lt.2 hfit, decide_false, Bool.or_self, Bool.false_eq_true, if_false]

/-- Bits from a place to the word's end that are 0 give a field of 0 there. -/
theorem field_eq_zero {x : DWord} {lo : Nat} (h : x.toNat / 2 ^ lo = 0) (n : Nat) : field x lo n = 0 := by
  rw [field, h, Nat.zero_mod]

/-- Where the quota has room, an instruction that appends adds its node and no more (R178). -/
theorem append_appends {s : State} {r : Running} {i : Instr} {d : BitVec 4} {op : NodeOp} {rows cols fmt : Nat}
    (hroom : s.nodeRoom r.gang = true) (hi : exec i s = s.append r d.toNat op rows cols fmt) : Appends s r i d op rows cols fmt := by
  rw [State.append, if_pos hroom] at hi
  exact ⟨_, hi, rfl, coreSet_onCore s _ _ _ _ _, rfl⟩

section
variable {s : State} {r : Running} {j : Nat} {d n m : BitVec 4} {a : BitVec 5} {X Y : Node}
  (hr : s.cur = some r) (hj : r.gang.arch.first? = some j)
include hr hj

section
variable (hroom : s.nodeRoom r.gang = true)
include hroom

/-- MLEAF: a view of a bound tensor, turned with T (R183). -/
theorem mleaf_appends {k : BitVec 8} {t : BitVec 1} {e : TDesc} {r0 c0 rows cols : Nat} (hu : Usable s r { sr := [a.toNat], slices := [j] })
    (he : s.bound r.gang k.toNat = some e) (hr0 : field (r.gang.arch.sget j a.toNat) 0 16 = r0) (hc0 : field (r.gang.arch.sget j a.toNat) 16 16 = c0)
    (hrows : viewExtent e.rows r0 (field (r.gang.arch.sget j a.toNat) 32 16) = .inr rows)
    (hcols : viewExtent e.cols c0 (field (r.gang.arch.sget j a.toNat) 48 16) = .inr cols) :
    Appends s r (.mleaf d a k t) d (.leaf e r0 c0 (t == 1#1)) (if t = 1#1 then cols else rows) (if t = 1#1 then rows else cols) e.fmt := by
  refine append_appends hroom ((exec_mleaf s d a k t).trans ((graph_acting hr hj hu).trans ?_))
  simp only [he, hr0, hc0, hrows, hcols]
  split <;> rfl

/-- MCONST: zeros, one value throughout, or the identity (R184). -/
theorem mconst_appends {u : BitVec 1} {kind : BitVec 2} (hu : Usable s r { sr := [a.toNat], slices := [j] })
    (hrows : 0 < field (r.gang.arch.sget j a.toNat) 32 16) (hcols : 0 < field (r.gang.arch.sget j a.toNat) 48 16)
    (hpat : kind = 1#2 ∨ (r.gang.arch.sget j a.toNat).toNat % 2 ^ 32 = 0) :
    Appends s r (.mconst d a u kind) d (.const kind.toNat (u == 1#1) ((r.gang.arch.sget j a.toNat).setWidth 32))
      (field (r.gang.arch.sget j a.toNat) 32 16) (field (r.gang.arch.sget j a.toNat) 48 16) (if u = 1#1 then fINT32 else fFP32) := by
  refine append_appends hroom ((exec_mconst s d a u kind).trans ((graph_acting hr hj hu).trans ?_))
  rw [← field_zero] at hpat
  have hok : (decide (field (r.gang.arch.sget j a.toNat) 32 16 = 0) || decide (field (r.gang.arch.sget j a.toNat) 48 16 = 0) ||
      (kind != 1#2 && field (r.gang.arch.sget j a.toNat) 0 32 != 0)) = false := by
    obtain h | h := hpat <;> simp [h, Nat.ne_of_gt hrows, Nat.ne_of_gt hcols]
  simp only [hok, BitVec.setWidth_eq_extractLsb' (show 32 ≤ 64 by decide)]
  rfl

/-- MTRI: the operand with the elements beyond a diagonal filled (R185). -/
theorem mtri_appends (hu : Usable s r { sr := [a.toNat], slices := [j] }) (hX : NodeIn s r n X) (hdense : ¬ SparseLeaf X)
    (htop : (r.gang.arch.sget j a.toNat).toNat / 2 ^ 35 = 0) (hfill : field (r.gang.arch.sget j a.toNat) 33 2 ≠ 3)
    (hint : field (r.gang.arch.sget j a.toNat) 33 2 = 1 → classOf X.fmt ≠ 1) :
    Appends s r (.mtri d n a) d (.tri (r.gang.arch.nget n.toNat) ((r.gang.arch.sget j a.toNat).setWidth 32).toInt
      (field (r.gang.arch.sget j a.toNat) 32 1) (field (r.gang.arch.sget j a.toNat) 33 2)) X.rows X.cols X.fmt := by
  refine append_appends hroom ((exec_mtri s d n a).trans ((graph_acting hr hj hu).trans ((withDense_nodeIn hX hdense).trans ?_)))
  have hok : (field (r.gang.arch.sget j a.toNat) 35 29 != 0 || decide (field (r.gang.arch.sget j a.toNat) 33 2 = 3) ||
      (decide (field (r.gang.arch.sget j a.toNat) 33 2 = 1) && decide (classOf X.fmt = 1))) = false := by
    simpa [field_eq_zero htop, hfill] using hint
  simp only [hok, BitVec.setWidth_eq_extractLsb' (show 32 ≤ 64 by decide)]
  rfl

/-- MSCL: a factor for every element (R186). -/
theorem mscl_appends (hu : Usable s r { sr := [a.toNat], slices := [j] }) (hX : NodeIn s r n X) (hdense : ¬ SparseLeaf X)
    (htop : (r.gang.arch.sget j a.toNat).toNat / 2 ^ 32 = 0) :
    Appends s r (.mscl d n a) d (.scl (r.gang.arch.nget n.toNat) ((r.gang.arch.sget j a.toNat).setWidth 32)) X.rows X.cols
      (if classOf X.fmt = 2 then fFP64 else fFP32) := by
  refine append_appends hroom ((exec_mscl s d n a).trans ((graph_acting hr hj hu).trans ((withDense_nodeIn hX hdense).trans ?_)))
  simp only [field_eq_zero htop, BitVec.setWidth_eq_extractLsb' (show 32 ≤ 64 by decide)]
  rfl

/-- MMUL: rows of the left factor, columns of the right, in the class of both (R187, R188). -/
theorem mmul_appends {t u p : BitVec 1} {q : BitVec 2} (hX : NodeIn s r n X) (hY : NodeIn s r m Y) (hclass : classOf X.fmt = classOf Y.fmt)
    (hq : q.toNat = if classOf X.fmt = 1 then 1 else 0) (hsat : classOf X.fmt = 2 → t = 0#1) (hinner : X.cols = Y.rows)
    (hleft : sparseBad X false = false) (hright : sparseBad Y true = false) :
    Appends s r (.mmul d n m t u p q) d (.mul (r.gang.arch.nget n.toNat) (r.gang.arch.nget m.toNat) (p == 1#1) (u == 1#1) (t == 1#1))
      X.rows Y.cols (classType (classOf X.fmt)) := by
  refine append_appends hroom ((exec_mmul s d n m t u p q).trans ((graph_acting hr hj (usable_none s r [] [j])).trans
    ((withNode_nodeIn hX).trans ((withNode_nodeIn hY).trans ?_))))
  have hok : (classOf X.fmt != classOf Y.fmt || q.toNat != (if classOf X.fmt = 1 then 1 else 0) || (decide (classOf X.fmt = 2) && decide (t = 1#1)) ||
      sparseBad X false) = false := by
    by_cases h : classOf X.fmt = 2
    · simp [← hclass, hq, hleft, hsat h]
    · simp [← hclass, hq, hleft, h]
  simp only [hok, hright, hinner, bne_self_eq_false, Bool.false_eq_true, if_false]

/-- MEADD, MESUB and MEMUL: two operands of one shape and class (R189). -/
theorem elementwise_appends {i : Instr} {op : Nat} {p : BitVec 1} (hi : exec i s = s.elementwise op d n m p) (hX : NodeIn s r n X)
    (hY : NodeIn s r m Y) (hdenseX : ¬ SparseLeaf X) (hdenseY : ¬ SparseLeaf Y) (hclass : classOf X.fmt = classOf Y.fmt) (hrows : X.rows = Y.rows)
    (hcols : X.cols = Y.cols) :
    Appends s r i d (.ew op (r.gang.arch.nget n.toNat) (r.gang.arch.nget m.toNat) (p == 1#1)) X.rows X.cols (classType (classOf X.fmt)) := by
  refine append_appends hroom (hi.trans ((graph_acting hr hj (usable_none s r [] [j])).trans
    ((withNode_nodeIn hX).trans ((withNode_nodeIn hY).trans ?_))))
  rw [← sparse_eq_true_iff] at hdenseX hdenseY
  simp only [hdenseX, hdenseY, hclass, hrows, hcols, bne_self_eq_false, Bool.false_eq_true, if_false]

/-- MTRN: the operand turned (R187). -/
theorem mtrn_appends (hX : NodeIn s r n X) (hdense : ¬ SparseLeaf X) :
    Appends s r (.mtrn d n) d (.trn (r.gang.arch.nget n.toNat)) X.cols X.rows X.fmt :=
  append_appends hroom ((exec_mtrn s d n).trans ((graph_acting hr hj (usable_none s r [] [j])).trans (withDense_nodeIn hX hdense)))

/-- MCVT: the operand in a dense format; an 8-bit float only rounded RNE (R190, R65). -/
theorem mcvt_appends {t : BitVec 1} {rm : BitVec 3} {f : BitVec 6} (hX : NodeIn s r n X) (hdense : ¬ SparseLeaf X) (hq4 : isQ4 f.toNat = false)
    (hsparse : isSparse f.toNat = false) (hmode : f.toNat = fE4M3 ∨ f.toNat = fE5M2 → rm = 0#3) :
    Appends s r (.mcvt d n t rm f) d (.cvt (r.gang.arch.nget n.toNat) f.toNat rm.toNat (t == 1#1)) X.rows X.cols f.toNat := by
  refine append_appends hroom ((exec_mcvt s d n t rm f).trans ((graph_acting hr hj (usable_none s r [] [j])).trans
    ((withDense_nodeIn hX hdense).trans (if_neg ?_))))
  simpa [hq4, hsparse] using hmode

/-- MACT: a function of each element, which but for RELU must be of the Float class (R190). -/
theorem mact_appends {w : BitVec 4} (hX : NodeIn s r n X) (hdense : ¬ SparseLeaf X) (hw : w = 0#4 ∨ classOf X.fmt = 0) :
    Appends s r (.mact d n w) d (.act (r.gang.arch.nget n.toNat) w.toNat) X.rows X.cols (classType (classOf X.fmt)) := by
  refine append_appends hroom ((exec_mact s d n w).trans ((graph_acting hr hj (usable_none s r [] [j])).trans
    ((withDense_nodeIn hX hdense).trans (if_neg ?_))))
  obtain h | h := hw <;> simp [h]

end

/-- A sparse leaf may be the operand of no append but a product (R188). -/
theorem unary_sparse {t : BitVec 1} {rm : BitVec 3} {f : BitVec 6} {w : BitVec 4} (hX : NodeIn s r n X) (hsparse : SparseLeaf X) :
    ∀ i ∈ ([.mtri d n a, .mscl d n a, .mtrn d n, .mcvt d n t rm f, .mact d n w] : List Instr), Usable s r { sr := [a.toNat], slices := [j] } →
      exec i s = .next (s.raiseAt r 0x0028 (BitVec.ofNat 64 n.toNat) false) := by
  have hnone := usable_none s r [] [j]
  simp only [List.forall_mem_cons]
  exact
    ⟨fun hu => (exec_mtri s d n a).trans ((graph_acting hr hj hu).trans (withDense_sparse hX hsparse)),
     fun hu => (exec_mscl s d n a).trans ((graph_acting hr hj hu).trans (withDense_sparse hX hsparse)),
     fun _ => (exec_mtrn s d n).trans ((graph_acting hr hj hnone).trans (withDense_sparse hX hsparse)),
     fun _ => (exec_mcvt s d n t rm f).trans ((graph_acting hr hj hnone).trans (withDense_sparse hX hsparse)),
     fun _ => (exec_mact s d n w).trans ((graph_acting hr hj hnone).trans (withDense_sparse hX hsparse)), List.forall_mem_nil _⟩

/-- The first empty register of an elementwise node is BADNODE; where neither is empty, the first that holds a sparse leaf is BADATTR
(R181, R188). -/
theorem elementwise_raises {i : Instr} {op : Nat} {p : BitVec 1} (hi : exec i s = s.elementwise op d n m p) :
    (NodeIn s r n X → NodeIn s r m Y → (SparseLeaf X → exec i s = .next (s.raiseAt r 0x0028 (BitVec.ofNat 64 n.toNat) false)) ∧
      (¬ SparseLeaf X → SparseLeaf Y → exec i s = .next (s.raiseAt r 0x0028 (BitVec.ofNat 64 m.toNat) false))) ∧
    (r.gang.arch.nget n.toNat = 0 → exec i s = .next (s.raiseAt r 0x0021 (BitVec.ofNat 64 n.toNat) false)) ∧
    (NodeIn s r n X → r.gang.arch.nget m.toNat = 0 → exec i s = .next (s.raiseAt r 0x0021 (BitVec.ofNat 64 m.toNat) false)) := by
  rw [hi, State.elementwise, graph_acting hr hj (usable_none s r [] [j])]
  refine ⟨fun hX hY => ⟨fun hsparse => ?_, fun hdense hsparse => ?_⟩, withNode_empty, fun hX hm => (withNode_nodeIn hX).trans (withNode_empty hm)⟩
  · rw [withNode_nodeIn hX, withNode_nodeIn hY, if_pos (sparse_eq_true_iff.2 hsparse)]
    rfl
  · rw [withNode_nodeIn hX, withNode_nodeIn hY, if_neg (mt sparse_eq_true_iff.1 hdense), if_pos (sparse_eq_true_iff.2 hsparse)]
    rfl

end

/-- Settles O46: an instruction comes to its operation where a slice acts (`graph_acting`), the operation to one append where its checks pass
(`append_appends`) or to the first operand at fault (`unary_sparse`, `elementwise_raises`). -/
theorem graphAppends : Obligations.GraphAppends := by
  unfold Obligations.GraphAppends
  intro s r d n m a k t p u q kind rm f w X Y hr hroom x act id wide sparse
  refine ⟨fun j hj => ⟨fun hu => ⟨?_, fun hrows hcols hpat => mconst_appends hr hj hroom hu hrows hcols hpat,
      fun hX hdense htop hfill hint => mtri_appends hr hj hroom hu hX hdense htop hfill hint,
      fun hX hdense htop => mscl_appends hr hj hroom hu hX hdense htop⟩,
    fun hX hY hclass => ⟨fun hq hsat hinner hleft hright =>
        mmul_appends hr hj hroom hX hY hclass hq hsat hinner (sparseBad_eq_false hleft) (sparseBad_eq_false hright),
      fun hdenseX hdenseY hrows hcols =>
        ⟨elementwise_appends hr hj hroom (exec_meadd s d n m p) hX hY hdenseX hdenseY hclass hrows hcols,
         elementwise_appends hr hj hroom (exec_mesub s d n m p) hX hY hdenseX hdenseY hclass hrows hcols,
         elementwise_appends hr hj hroom (exec_memul s d n m p) hX hY hdenseX hdenseY hclass hrows hcols⟩⟩,
    unary_sparse hr hj, ?_,
    fun hX hdense => ⟨mtrn_appends hr hj hroom hX hdense, mcvt_appends hr hj hroom hX hdense, mact_appends hr hj hroom hX hdense⟩⟩, fun hact => ?_⟩
  · intro e he rows cols hrows hrfit hcols hcfit
    exact mleaf_appends hr hj hroom hu he rfl rfl (viewExtent_eq_inr hrows hrfit) (viewExtent_eq_inr hcols hcfit)
  · simp only [List.forall_mem_cons]
    exact ⟨elementwise_raises hr hj (exec_meadd s d n m p), elementwise_raises hr hj (exec_mesub s d n m p),
      elementwise_raises hr hj (exec_memul s d n m p), List.forall_mem_nil _⟩
  · have hfirst : r.gang.arch.first? = none := List.head?_eq_none_iff.2 hact
    have hnone := usable_none s r [] []
    simp only [List.forall_mem_cons]
    exact ⟨⟨graph_idle hr hfirst hnone, graph_idle hr hfirst hnone, graph_idle hr hfirst hnone, graph_idle hr hfirst hnone, graph_idle hr hfirst hnone,
        graph_idle hr hfirst hnone, graph_idle hr hfirst hnone, List.forall_mem_nil _⟩,
      fun hu => ⟨graph_idle hr hfirst hu, graph_idle hr hfirst hu, graph_idle hr hfirst hu, graph_idle hr hfirst hu, List.forall_mem_nil _⟩⟩

end Sys2Proof

/-!
# Tensor identifiers (R176)
-/

namespace Sys2Proof

open Machine

section
variable {s : State} {r : Running} {k : Nat} {d a : BitVec 5} {t : BitVec 8} (hr : s.cur = some r)
include hr

/-- TNREL holds an empty binding. -/
theorem execTnrel_acting (hk : r.gang.arch.first? = some k) : execTnrel t s = .next (s.rebind r ⟨t.toNat, none, false⟩) := by
  rw [execTnrel, issue_running hr, hk]
  rfl

theorem execTnrel_idle (hnone : r.gang.arch.first? = none) : execTnrel t s = .next s := by
  rw [execTnrel, issue_running hr, hnone]
  exact congrArg Host.Outcome.next (setRun_running hr)

/-- TNDEF, where the bytes at its aligned address can be read and break no rule of R175, holds the binding of what they say. -/
theorem execTndef_acting {at_ : Nat → Loc} {tso : Nat → Bool} (hk : r.gang.arch.first? = some k)
    (hu : Usable s r { sr := [a.toNat], slices := [k] }) (halign : (r.gang.arch.sget k a.toNat).toNat % 32 = 0)
    (hreads : ReadsPlaced s r at_ tso 32 [r.gang.arch.sget k a.toNat] 32 [(k, r.gang.arch.sget k a.toNat)])
    (herrors : descErrors (r.gang.seen s.nextId (at_ k) (s.readN r.gang.die r.gang.inst (at_ k) 32)) = []) :
    ∃ used, execTndef a t s = .next (s.rebind (r.afterReads s used [at_ k])
      ⟨t.toNat, some (descOf (r.gang.seen s.nextId (at_ k) (s.readN r.gang.die r.gang.inst (at_ k) 32))), true⟩) := by
  have hu' : Usable s r { sr := [a.toNat], slices := r.gang.arch.first?.toList } := by rwa [hk]
  have hfield : field (r.gang.arch.sget k a.toNat) 0 5 = 0 := (field_zero _ 5).trans halign
  obtain ⟨used, hread⟩ := readNow_placed (hreads.read List.mem_cons_self)
  refine ⟨used, ?_⟩
  rw [execTndef, issue_running hr]
  dsimp only
  rw [checked_usable hu', hk]
  dsimp only
  rw [hfield, if_neg (by decide), withPlaced_of_reads hreads, hread]
  dsimp only
  rw [herrors]
  rfl

theorem execTndef_idle (hnone : r.gang.arch.first? = none) (hu : Usable s r { sr := [a.toNat] }) : execTndef a t s = .next s := by
  have hu' : Usable s r { sr := [a.toNat], slices := r.gang.arch.first?.toList } := by rwa [hnone]
  rw [execTndef, issue_running hr]
  dsimp only
  rw [checked_usable hu', hnone]
  exact congrArg Host.Outcome.next (setRun_running hr)

/-- TNGET gives the BASE of what the gang sees bound, 0 where that is nothing, unless the flight's own TNDEF bound it. -/
theorem execTnget_acting (hk : r.gang.arch.first? = some k) (hown : ∀ b ∈ r.gang.ownBind t.toNat, b.isDef = false)
    (hu : Usable s r { sw := [d.toNat] }) :
    execTnget d t s = .next (s.setArch r (r.gang.arch.mapSlices d.toNat fun _ => ((s.bound r.gang t.toNat).map (·.base)).getD 0#64)) := by
  have hdef : (r.gang.ownBind t.toNat).any (·.isDef) = false := by
    cases h : r.gang.ownBind t.toNat with
    | none => rfl
    | some b => exact hown b h
  rw [execTnget, issue_running hr, hdef, Bool.and_false, if_neg Bool.false_ne_true, checked_usable hu, hk]
  rfl

theorem execTnget_idle (hnone : r.gang.arch.first? = none) (hu : Usable s r { sw := [d.toNat] }) : execTnget d t s = .next s := by
  rw [execTnget, issue_running hr, hnone, if_neg (by simp), checked_usable hu]
  exact congrArg Host.Outcome.next (setRun_running hr)

end

/-- Settles O45: a TNDEF's descriptor is read as a block is (`readNow_placed`), and TNGET sees the flight's own bindings first (`State.bound`). -/
theorem tensorIdentifiers : Obligations.TensorIdentifiers := by
  unfold Obligations.TensorIdentifiers
  intro s r d a t hr x act binds seen
  refine ⟨fun k hk => ⟨?_, ⟨_, _, execTnrel_acting hr hk, rfl, rfl⟩,
    fun hown hu => ⟨_, execTnget_acting hr hk hown hu, mapSlices_written _ _ _ d.isLt _⟩⟩, fun hact => ?_⟩
  · intro at_ tso hu halign hreads bs herrors
    obtain ⟨used, hexec⟩ := execTndef_acting (t := t) hr hk hu halign hreads herrors
    exact ⟨_, _, hexec, rfl, rfl⟩
  · have hfirst : r.gang.arch.first? = none := List.head?_eq_none_iff.2 hact
    exact ⟨execTnrel_idle hr hfirst, execTndef_idle hr hfirst, execTnget_idle hr hfirst⟩

end Sys2Proof

/-!
# What forces and asks (R192 to R196)
-/

namespace Sys2Proof

open Machine

/-- The node status has each field of R196 in its place. -/
theorem nodeStatus_fields {s : State} {g : Gang} {id : Nat} {X : Node} (hrows : 0 < X.rows ∧ X.rows ≤ 2 ^ 16) (hcols : 0 < X.cols ∧ X.cols ≤ 2 ^ 16)
    (hfmt : X.fmt < 64) :
    (s.nodeStatus g id X).toNat / 2 ^ 48 = X.cols - 1 ∧ (s.nodeStatus g id X).toNat / 2 ^ 32 % 2 ^ 16 = X.rows - 1 ∧
      (s.nodeStatus g id X).toNat / 2 ^ 16 % 2 ^ 16 = X.fmt ∧ (s.nodeStatus g id X).toNat / 16 % 2 ^ 12 = X.sticky.toNat ∧
      ((s.nodeStatus g id X).toNat % 16 = 4 ↔ X.op = .mat) := by
  obtain ⟨state, hst, hlt, hmat⟩ : ∃ state, s.nodeStatus g id X = BitVec.ofNat 64 (state + X.sticky.toNat * 16 + X.fmt * 2 ^ 16 +
      (X.rows - 1) * 2 ^ 32 + (X.cols - 1) * 2 ^ 48) ∧ state < 16 ∧ (state = 4 ↔ X.op = .mat) := by
    refine ⟨_, rfl, ?_⟩
    by_cases hop : X.op = .mat
    · simp [hop]
    · rw [if_neg (by simpa using hop)]
      split
      · exact ⟨by decide, by simp [hop]⟩
      · split
        · exact ⟨by decide, by simp [hop]⟩
        · exact ⟨by decide, by simp [hop]⟩
  have hsticky : X.sticky.toNat < 2 ^ 7 := X.sticky.isLt
  rw [hst, BitVec.toNat_ofNat, Nat.mod_eq_of_lt (by omega), ← hmat]
  omega

/-- An MST sends the evaluation of its node to the matrix queue and holds the store of its value. -/
def sendMst (acc id node : Nat) (e : TDesc) (row col : Nat) (X : Node) (sat : Bool) (s : State) (r : Running) : Res :=
  .next ((s.request4 r id node .store).1.holding (s.request4 r id node .store).2 1 (.mst e row col sat X.rows X.cols acc id []))

/-- The access of a store that is issued is placed as far as its pages are there. -/
theorem startStore_issuable {s : State} {r : Running} {id : Nat} {parts : List APart} {wide : Bool} (hnone : ∀ p ∈ parts, p.loc = none)
    (h : Issuable s r 1 parts) :
    ∃ ps ready used, PartsPlaced s r 1 parts ps ready ∧ ∀ k, s.startAccess r ⟨id, r.pc, r.cl.idx, .store, parts, false, wide⟩ k =
      k s { r with gang := { r.gang with accs := withAccess r.gang.accs ⟨id, r.pc, r.cl.idx, .store, ps, ready, wide⟩, used := used } } := by
  let a : Access := ⟨id, r.pc, r.cl.idx, .store, parts, false, wide⟩
  obtain ⟨ps, ready, used, rs, t, hplaced, hreqs, hstart⟩ := startAccess_issuable (s := s) (r := r) (a := a) hnone h
  rw [makeReqs_store _ _ { a with parts := ps, ready := ready } rfl, ite_self, Prod.mk.injEq] at hreqs
  obtain ⟨rfl, rfl⟩ := hreqs
  simp only [List.append_nil] at hstart
  exact ⟨ps, ready, used, hplaced, hstart⟩

/-- The registers of an MRD: a pair for a Double node (R193). -/
theorem mrdRegs_of_node {s : State} {r : Running} {n : BitVec 4} {X : Node}
    (h : look? (s.core r.gang.die r.gang.core).nodes (r.gang.arch.nget n.toNat) = some X) (v : Nat) :
    s.mrdRegs r v n = if X.fmt = fFP64 then [v, v + 1] else [v] := by
  rw [State.mrdRegs, h]

/-- The registers of an MRD are no odd pair where one register or an even pair is named, or no slice acts (R193). -/
theorem not_oddPair {regs : List Nat} {v : Nat} {first : Option Nat} (h : (regs.length = 2 → v % 2 = 0) ∨ first = none) :
    ¬ (decide (regs.length = 2) && decide (v % 2 = 1) && first.isSome) = true := by
  simp only [Bool.and_eq_true, decide_eq_true_eq, not_and]
  rintro ⟨hpair, hodd⟩ hacting
  obtain heven | rfl := h
  · exact absurd (heven hpair) (by omega)
  · exact Bool.false_ne_true hacting

section
variable {s : State} {r : Running} {j : Nat} {n : BitVec 4} {a : BitVec 5} {X : Node} (hr : s.cur = some r)
include hr

/-- With no acting slice an MRD does nothing. -/
theorem execMrd_idle {v : BitVec 6} {regs : List Nat} (hnone : r.gang.arch.first? = none) (hregs : s.mrdRegs r v.toNat n = regs)
    (hu : Usable s r { vw := regs, sr := [a.toNat] }) : execMrd v n a s = .next s := by
  have hu' : Usable s r { vw := regs, sr := [a.toNat], slices := r.gang.arch.first?.toList } := by rwa [hnone]
  rw [execMrd, issue_running hr]
  dsimp only
  rw [hregs, if_neg (not_oddPair (.inr hnone)), checked_usable hu', hnone]
  exact congrArg Host.Outcome.next (setRun_running hr)

/-- MSTAT gives the scalars a snapshot of the node that the register holds, 0 where it holds none. -/
theorem execMstat_acting {d : BitVec 5} (hact : r.gang.arch.first? ≠ none) (hu : Usable s r { sw := [d.toNat] }) :
    execMstat n d s = .next (s.setArch r (r.gang.arch.mapSlices d.toNat fun _ =>
      ((look? (s.core r.gang.die r.gang.core).nodes (r.gang.arch.nget n.toNat)).map (s.nodeStatus r.gang (r.gang.arch.nget n.toNat))).getD 0#64)) := by
  rw [execMstat, issue_running hr, checked_usable hu, if_neg (by simpa using hact)]
  dsimp only
  cases look? (s.core r.gang.die r.gang.core).nodes (r.gang.arch.nget n.toNat) <;> rfl

theorem execMstat_idle {d : BitVec 5} (hnone : r.gang.arch.first? = none) (hu : Usable s r { sw := [d.toNat] }) : execMstat n d s = .next s := by
  rw [execMstat, issue_running hr, checked_usable hu, if_pos (by rw [hnone]; rfl)]
  exact congrArg Host.Outcome.next (setRun_running hr)

section
variable (hj : r.gang.arch.first? = some j)
include hj

/-- An MRD of an empty register is BADNODE (R181). -/
theorem execMrd_empty {v : BitVec 6} (hempty : r.gang.arch.nget n.toNat = 0) (hnone : look? (s.core r.gang.die r.gang.core).nodes 0 = none)
    (hu : Usable s r { vw := [v.toNat], sr := [a.toNat], slices := [j] }) :
    execMrd v n a s = .next (s.raiseAt r 0x0021 (BitVec.ofNat 64 n.toNat) false) := by
  have hu' : Usable s r { vw := [v.toNat], sr := [a.toNat], slices := r.gang.arch.first?.toList } := by rwa [hj]
  have hregs : s.mrdRegs r v.toNat n = [v.toNat] := by rw [State.mrdRegs, hempty, hnone]
  rw [execMrd, issue_running hr]
  dsimp only
  rw [hregs, if_neg (not_oddPair (.inl (by simp))), checked_usable hu', hj]
  exact withNode_empty hempty

section
variable (hX : NodeIn s r n X)
include hX

/-- FORCE sends its evaluation to the matrix queue. -/
theorem execForce_acting : execForce n s =
    .next ((s.fresh.2.request4 r s.nextId (r.gang.arch.nget n.toNat) .force).1.setRun { r with gang := { r.gang with evals := s.nextId :: r.gang.evals } }) :=
  (graph_acting hr hj (usable_none s r [] [j])).trans (withNode_nodeIn hX)

/-- MDROP empties its register. -/
theorem execMdrop_acting : execMdrop n s = .next (s.setArch r (r.gang.arch.nset n.toNat 0)) :=
  (graph_acting hr hj (usable_none s r [] [j])).trans (withNode_nodeIn hX)

/-- MACC holds its command, with the counter that S[a] names unless it is s0. -/
theorem execMacc_acting {slot : BitVec 6} {sat int : BitVec 1} (hu : Usable s r { sr := [a.toNat], slices := [j] })
    (hslot : slot.toNat < ((s.inst? r.gang.die r.gang.inst).map (·.accslots)).getD 0) (hfmt : X.fmt = if int = 1#1 then fINT32 else fFP32)
    (hrows : X.rows ≤ 32) (hcols : X.cols ≤ 32) :
    execMacc n slot a sat int s = .next (s.holding r 1 (.macc (r.gang.arch.nget n.toNat) slot.toNat (int == 1#1) (sat == 1#1)
      (if a = 0#5 then none else some (r.gang.arch.sget j a.toNat)))) := by
  rw [execMacc, graph_acting hr hj hu, withNode_nodeIn hX]
  simp only [Nat.not_le.2 hslot, hfmt, Nat.not_lt.2 hrows, Nat.not_lt.2 hcols, bne_self_eq_false, decide_false, Bool.or_self, Bool.false_eq_true, if_false]

/-- MRD sends its evaluation to the matrix queue, its registers pending. -/
theorem execMrd_acting {v : BitVec 6} {regs : List Nat} {row col width : Nat} (hregs : s.mrdRegs r v.toNat n = regs)
    (heven : regs.length = 2 → v.toNat % 2 = 0) (hu : Usable s r { vw := regs, sr := [a.toNat], slices := [j] })
    (htop : (r.gang.arch.sget j a.toNat).toNat / 2 ^ 53 = 0) (hrow : field (r.gang.arch.sget j a.toNat) 0 32 = row)
    (hcol : field (r.gang.arch.sget j a.toNat) 32 16 = col) (hwidth : field (r.gang.arch.sget j a.toNat) 48 5 + 1 = width)
    (hrows : row < X.rows) (hcols : col + width ≤ X.cols) :
    execMrd v n a s = .next ((s.fresh.2.request4 r s.nextId (r.gang.arch.nget n.toNat)
        (.read s.nextId v.toNat row col width (bitsOf r.gang.arch.exec))).1.setRun
      { r with gang := { r.gang with
        evals := s.nextId :: r.gang.evals
        pend := r.gang.pend ++ [⟨s.nextId, 0, v.toNat, regs.length, [], 1, []⟩] } }) := by
  have hu' : Usable s r { vw := regs, sr := [a.toNat], slices := r.gang.arch.first?.toList } := by rwa [hj]
  rw [execMrd, issue_running hr]
  dsimp only
  rw [hregs, if_neg (not_oddPair (.inl heven)), checked_usable hu', hj]
  dsimp only
  rw [withNode_nodeIn hX]
  simp only [field_eq_zero htop, hrow, hcol, hwidth, Nat.not_le.2 hrows, Nat.not_lt.2 hcols, bne_self_eq_false, Bool.false_eq_true, if_false]
  rfl

section
variable {k : BitVec 8} {sat : BitVec 1} {e : TDesc} {row col : Nat} (hu : Usable s r { sr := [a.toNat], slices := [j] })
  (he : s.bound r.gang k.toNat = some e) (htop : (r.gang.arch.sget j a.toNat).toNat / 2 ^ 32 = 0)
  (hrow : field (r.gang.arch.sget j a.toNat) 0 16 = row) (hcol : field (r.gang.arch.sget j a.toNat) 16 16 = col) (hq4 : isQ4 e.fmt = false)
  (hsparse : isSparse e.fmt = false) (hscale : e.scale = 0) (hrows : row + X.rows ≤ e.rows) (hcols : col + X.cols ≤ e.cols)
include hu he htop hrow hcol hq4 hsparse hscale hrows hcols

/-- An MST into granted slots of the accumulators sends its evaluation and holds its store. -/
theorem execMst_accum {off : Nat} (hoff : accumOff e.base = some off)
    (hgranted : ∀ i < X.rows, off + 128 * (row + i) < ((s.inst? r.gang.die r.gang.inst).map (·.accslots)).getD 0 * 4096) :
    execMst n k a sat s = sendMst s.nextId (s.nextId + 1) (r.gang.arch.nget n.toNat) e row col X (sat == 1#1) s.fresh.2.fresh.2 r := by
  have hfind : ((List.range X.rows).find? fun i =>
      decide (((s.inst? r.gang.die r.gang.inst).map (·.accslots)).getD 0 * 4096 ≤ off + 128 * (row + i))) = none := by
    simpa using hgranted
  rw [execMst, graph_acting hr hj hu, withNode_nodeIn hX, he]
  simp only [field_eq_zero htop, hrow, hcol, hq4, hsparse, hscale, Nat.not_lt.2 hrows, Nat.not_lt.2 hcols, hoff, hfind, bne_self_eq_false, Bool.or_self,
    Bool.false_eq_true, if_false]
  rfl

/-- One into memory also starts the access of its pages. -/
theorem execMst_memory (hoff : accumOff e.base = none) :
    execMst n k a sat s = s.fresh.2.fresh.2.startAccess r
      ⟨s.nextId, r.pc, r.cl.idx, .store, (mstPages e row col X.rows X.cols).map fun p => partAt 0 p 1, false, false⟩
      (sendMst s.nextId (s.nextId + 1) (r.gang.arch.nget n.toNat) e row col X (sat == 1#1)) := by
  rw [execMst, graph_acting hr hj hu, withNode_nodeIn hX, he]
  simp only [field_eq_zero htop, hrow, hcol, hq4, hsparse, hscale, Nat.not_lt.2 hrows, Nat.not_lt.2 hcols, hoff, bne_self_eq_false, Bool.or_self,
    Bool.false_eq_true, if_false]
  rfl

end

end

end

end

/-- Settles O47: each acts once for the gang (`graph_acting`); what it sends goes to the core's queue alone (`coreSet_onCore`), and an MST's
pages are placed as those of a store (`startAccess_issuable`). -/
theorem forcesAndReads : Obligations.ForcesAndReads := by
  unfold Obligations.ForcesAndReads
  intro s r n v d a k slot sat int j X hr g x act node c y pc badnode
  refine ⟨fun hj hX => ⟨⟨_, execForce_acting hr hj hX, rfl, coreSet_onCore s _ _ _ _ _, rfl⟩, ⟨_, execMdrop_acting hr hj hX, rfl⟩, ?_, ?_,
      fun hu hslot hfmt hrows hcols => execMacc_acting hr hj hX hu hslot hfmt hrows hcols, ?_, ?_⟩,
    fun hj hempty => ?_, fun hact hnode hu => ?_, fun hact => ?_⟩
  · intro regs row col width heven hu htop hrows hcols
    have hpair : regs.length = 2 → v.toNat % 2 = 0 := by
      intro hlength
      by_cases hfmt : X.fmt = fFP64
      · exact heven hfmt
      · simp [regs, hfmt] at hlength
    exact ⟨_, execMrd_acting hr hj hX (mrdRegs_of_node hX.node v.toNat) hpair hu htop (field_zero _ _) rfl rfl hrows hcols, rfl,
      coreSet_onCore s _ _ _ _ _, rfl⟩
  · intro e hu he row col parts slots htop hq4 hsparse hscale hrows hcols hplace
    cases hoff : accumOff e.base with
    | some off =>
      rw [hoff] at hplace
      exact ⟨_, _, execMst_accum hr hj hX hu he htop (field_zero _ _) rfl hq4 hsparse hscale hrows hcols hoff hplace, rfl, rfl,
        coreSet_onCore s _ _ _ _ _, rfl, rfl, rfl, rfl⟩
    | none =>
      rw [hoff] at hplace
      obtain ⟨ps, ready, used, hplaced, hstart⟩ := startStore_issuable (s := s.fresh.2.fresh.2) (id := s.nextId) (wide := false)
        (by simp only [parts, List.forall_mem_map]; exact fun _ _ => rfl) hplace
      exact ⟨_, _, (execMst_memory hr hj hX hu he htop (field_zero _ _) rfl hq4 hsparse hscale hrows hcols hoff).trans (hstart _), rfl, rfl,
        coreSet_onCore s _ _ _ _ _, rfl, ⟨ps, ready, ⟨hplaced.same, hplaced.placed, hplaced.all⟩, rfl⟩, rfl, rfl⟩
  · intro hu
    have hexec := execMstat_acting (d := d) (n := n) hr (by rw [show r.gang.arch.first? = some j from hj]; exact nofun) hu
    rw [hX.node] at hexec
    exact ⟨_, hexec, mapSlices_written _ _ _ d.isLt _⟩
  · intro st hrows hrpos hcols hcpos hfmt
    exact nodeStatus_fields ⟨hrpos, hrows⟩ ⟨hcpos, hcols⟩ hfmt
  · have hnone := usable_none s r [] [j]
    exact ⟨(graph_acting hr hj hnone).trans (withNode_empty hempty), (graph_acting hr hj hnone).trans (withNode_empty hempty),
      fun hu => ⟨(graph_acting hr hj hu).trans (withNode_empty hempty), (graph_acting hr hj hu).trans (withNode_empty hempty)⟩,
      fun hlook hu => execMrd_empty hr hj hempty hlook hu⟩
  · have hexec := execMstat_acting (d := d) (n := n) hr (mt List.head?_eq_none_iff.1 hact) hu
    rw [show look? (s.core r.gang.die r.gang.core).nodes (r.gang.arch.nget n.toNat) = none from hnode] at hexec
    exact ⟨_, hexec, mapSlices_written _ _ _ d.isLt _⟩
  · have hfirst : r.gang.arch.first? = none := List.head?_eq_none_iff.2 hact
    have hnone := usable_none s r [] []
    exact ⟨graph_idle hr hfirst hnone, graph_idle hr hfirst hnone, fun hu => ⟨graph_idle hr hfirst hu, graph_idle hr hfirst hu⟩,
      fun hnode hu => execMrd_idle hr hfirst (mrdRegs_of_node hnode v.toNat) hu, execMstat_idle hr hfirst⟩

end Sys2Proof

/-!
# New identifiers (R238, R240, R274)

A table is searched once round from an open start, so a free slot is found exactly where there is one; its generation is the next.
-/

namespace Sys2Proof

open Machine

/-! ## Free slots -/

section
variable {α : Type} {n : Nat} {m : List (Nat × α)} {used : α → Bool}

/-- A slot that the search gives is one of the table's and is free. -/
theorem freeSlot_some (hn : 0 < n) {fuel k slot : Nat} (h : freeSlot n m used k fuel = some slot) :
    slot < n ∧ ∀ x ∈ look? m slot, used x = false := by
  induction fuel generalizing k with
  | zero => exact absurd h (by simp [freeSlot])
  | succ fuel ih =>
    have hlt : k % n < n := Nat.mod_lt k hn
    rw [freeSlot] at h
    split at h
    next hnone =>
      obtain rfl := Option.some.inj h
      exact ⟨hlt, by simp [hnone]⟩
    next x hx =>
      split at h
      next => exact ih h
      next hfree =>
        obtain rfl := Option.some.inj h
        exact ⟨hlt, by simpa [hx] using hfree⟩

/-- The search passes used slots only. -/
theorem freeSlot_none {fuel k : Nat} (h : freeSlot n m used k fuel = none) : ∀ i < fuel, ∃ x, look? m ((k + i) % n) = some x ∧ used x = true := by
  induction fuel generalizing k with
  | zero => simp
  | succ fuel ih =>
    rw [freeSlot] at h
    split at h
    next => exact absurd h (by simp)
    next x hx =>
      split at h
      next hused =>
        intro i hi
        cases i with
        | zero => exact ⟨x, hx, hused⟩
        | succ i => simpa only [Nat.add_right_comm k 1 i, Nat.add_assoc] using ih h i (by omega)
      next => exact absurd h (by simp)

/-- Every slot is met on the way round. -/
theorem exists_add_mod_eq {k j : Nat} (hj : j < n) : ∃ i < n, (k + i) % n = j := by
  have hk : k % n < n := Nat.mod_lt k (by omega)
  refine ⟨(j + (n - k % n)) % n, Nat.mod_lt _ (by omega), ?_⟩
  have hsum : k % n + (j + (n - k % n)) = j + n := by omega
  rw [Nat.add_mod_mod, ← Nat.mod_add_mod, hsum, Nat.add_mod_right, Nat.mod_eq_of_lt hj]

/-- Once round, the search fails exactly where every slot is used. -/
theorem freeSlot_eq_none_iff (hn : 0 < n) (k : Nat) :
    freeSlot n m used k n = none ↔ ∀ j < n, ∃ x, look? m j = some x ∧ used x = true := by
  constructor
  · intro h j hj
    obtain ⟨i, hi, hslot⟩ := exists_add_mod_eq (k := k) hj
    rw [← hslot]
    exact freeSlot_none h i hi
  · intro h
    cases hfound : freeSlot n m used k n with
    | none => rfl
    | some slot =>
      obtain ⟨hlt, hfree⟩ := freeSlot_some hn hfound
      obtain ⟨x, hx, hused⟩ := h slot hlt
      exact absurd hused (by simp [hfree x hx])

/-- A table with a free slot gives one. -/
theorem exists_freeSlot (hn : 0 < n) (k : Nat) {j : Nat} (hj : j < n) (hfree : ∀ x ∈ look? m j, used x = false) :
    ∃ slot, freeSlot n m used k n = some slot := by
  cases hfound : freeSlot n m used k n with
  | some slot => exact ⟨slot, rfl⟩
  | none =>
    obtain ⟨x, hx, hused⟩ := (freeSlot_eq_none_iff hn k).1 hfound j hj
    exact absurd hused (by simp [hfree x hx])

end

/-! ## Generations and identifiers -/

theorem nextGen_pos (gen bits : Nat) : 0 < nextGen gen bits := by
  rw [nextGen]
  split <;> omega

theorem nextGen_lt (gen : Nat) {bits : Nat} (hbits : 0 < bits) : nextGen gen bits < 2 ^ bits := by
  have htop : 2 ≤ 2 ^ bits := Nat.le_self_pow hbits.ne' 2
  have hlt : (gen + 1) % 2 ^ bits < 2 ^ bits := Nat.mod_lt _ (by omega)
  simp only [nextGen]
  split <;> omega

/-- The generation after one in range is one more, and after the greatest it is 1 (R238). -/
theorem nextGen_eq {gen bits : Nat} (h : gen < 2 ^ bits) : nextGen gen bits = if gen + 1 < 2 ^ bits then gen + 1 else 1 := by
  rw [nextGen]
  split
  next hzero =>
    split
    next hlt => exact absurd hzero (by rw [Nat.mod_eq_of_lt hlt]; omega)
    next => rfl
  next hpos =>
    split
    next hlt => exact Nat.mod_eq_of_lt hlt
    next hge =>
      have htop : gen + 1 = 2 ^ bits := by omega
      exact absurd (by rw [htop, Nat.mod_self]) hpos

theorem makeId_of_lt {low : Nat} (h : low < 2 ^ 32) (die ctx : Nat) :
    makeId low die ctx = BitVec.ofNat 64 (low + die % 4 * 2 ^ 32 + ctx % 64 * 2 ^ 34) := by
  rw [makeId, Nat.mod_eq_of_lt h]

/-- The number and the choice that a new identifier takes. -/
theorem pick_fresh (s : State) {n : Nat} (hn : 1 < n) :
    s.fresh.2.pick n = (Config.choose s.free % n, { s with nextId := s.nextId + 1, free := s.free + 1 }) :=
  if_neg (Nat.not_le.2 hn)

/-! ## DEPNEW and GNEW -/

/-- The count that a DEPNEW asks for: 0 where no slice acts (R274). -/
def depCount (x : Arch) (a : Nat) : Nat :=
  match x.first? with
  | some k => field (x.sget k a) 0 32
  | none => 0

/-- The slot that a DEPNEW takes. -/
def newCounterSlot (s : State) (r : Running) (a : Nat) : Option Nat :=
  if depCount r.gang.arch a = 0 then none
  else freeSlot 16384 (s.die r.gang.die).counters (fun c => c.live) (Config.choose s.free % 16384) 16384

/-- The slot that a GNEW reserves. -/
def newGroupSlot (s : State) (r : Running) : Option Nat :=
  freeSlot 4096 (s.die r.gang.die).groups (fun g => g.live || g.reserved) (Config.choose s.free % 4096) 4096

/-- The generation that the holder of a slot before, if any, leaves to the next. -/
def genAfter (last : Option Nat) (bits : Nat) : Nat := nextGen (last.getD 0) bits

/-- An identifier delivered to every executing slice is pending, unless it goes to s0 (R55). -/
def idPending (s : State) (r : Running) (d : BitVec 5) (id : DWord) : List Pend :=
  if d = 0#5 then [] else [⟨s.nextId, 1, d.toNat, 1, [], 0, r.gang.arch.scalarDeliv d.toNat id⟩]

/-- Of the machine only one die and the issuing gang change, and the numbers given out. -/
def onlyDie (s : State) (d : Nat) (y : Die) (q : Running) : State :=
  { s.setDie d y with cur := some q, nextId := s.nextId + 1, free := s.free + 1 }

theorem die_onlyDie (s : State) (d e : Nat) (y : Die) (q : Running) : (onlyDie s d y q).die e = if e = d then y else s.die e :=
  die_onDie s d e fun _ => y

/-- The table after a DEPNEW. -/
def withCounter (y : Die) (slot gen ctx count : Nat) : Die :=
  { y with counters := put? y.counters slot (some ⟨gen, ctx, true, count, none, false, 0#32⟩) }

/-- The table after a GNEW. -/
def withGroup (y : Die) (slot gen ctx inst : Nat) : Die :=
  { y with groups := put? y.groups slot (some ⟨gen, ctx, inst, true, false, [], [], 0, false, 0#32⟩) }

section
variable {s : State} {r : Running} {d a : BitVec 5} (hr : s.cur = some r)
include hr

section
variable (hu : Usable s r { sr := [a.toNat], sw := [d.toNat], slices := r.gang.arch.first?.toList })
include hu

theorem execDepnew_none (hnone : newCounterSlot s r a.toNat = none) :
    execDepnew d a s = .next { s with
      nextId := s.nextId + 1
      free := s.free + 1
      cur := some { r with gang := { r.gang with pend := r.gang.pend ++ idPending s r d 0#64 } } } := by
  rw [execDepnew, issue_running hr, checked_usable hu]
  dsimp only
  rw [pick_fresh s (by decide)]
  simp only [pend_scalar]
  split
  next => rfl
  next slot hslot => exact absurd (hnone.symm.trans hslot) nofun

theorem execDepnew_some {slot : Nat} (hsome : newCounterSlot s r a.toNat = some slot) {gen : Nat}
    (hgen : genAfter ((look? (s.die r.gang.die).counters slot).map (·.gen)) 18 = gen) {id : DWord}
    (hid : makeId (slot + gen * 2 ^ 14) r.gang.die r.gang.ctx = id) :
    execDepnew d a s = .next (onlyDie s r.gang.die (withCounter (s.die r.gang.die) slot gen r.gang.ctx (depCount r.gang.arch a.toNat))
      { r with gang := { r.gang with cresv := id :: r.gang.cresv, pend := r.gang.pend ++ idPending s r d id } }) := by
  subst hgen hid
  rw [execDepnew, issue_running hr, checked_usable hu]
  dsimp only
  rw [pick_fresh s (by decide)]
  simp only [pend_scalar]
  split
  next hslot => exact absurd (hsome.symm.trans hslot) nofun
  next j hslot =>
    obtain rfl := Option.some.inj (hsome.symm.trans hslot)
    rfl

end

section
variable (hu : Usable s r { sw := [d.toNat] })
include hu

theorem execGnew_none (hnone : newGroupSlot s r = none) :
    execGnew d s = .next { s with
      nextId := s.nextId + 1
      free := s.free + 1
      cur := some { r with gang := { r.gang with pend := r.gang.pend ++ idPending s r d 0#64 } } } := by
  rw [execGnew, issue_running hr, checked_usable hu]
  dsimp only
  rw [pick_fresh s (by decide)]
  simp only [pend_scalar]
  split
  next => rfl
  next slot hslot => exact absurd (hnone.symm.trans hslot) nofun

theorem execGnew_some {slot : Nat} (hsome : newGroupSlot s r = some slot) {gen : Nat}
    (hgen : genAfter ((look? (s.die r.gang.die).groups slot).map (·.gen)) 20 = gen) {id : DWord}
    (hid : makeId (slot + gen * 2 ^ 12) r.gang.die r.gang.ctx = id) :
    execGnew d s = .next (onlyDie s r.gang.die (withGroup (s.die r.gang.die) slot gen r.gang.ctx r.gang.inst)
      { r with gang := { r.gang with gresv := id :: r.gang.gresv, pend := r.gang.pend ++ idPending s r d id,
                                     held := r.gang.held ++ [⟨s.nextId, r.pc, r.cl.idx, 1, .gnew id⟩] } }) := by
  subst hgen hid
  rw [execGnew, issue_running hr, checked_usable hu]
  dsimp only
  rw [pick_fresh s (by decide)]
  simp only [pend_scalar]
  split
  next hslot => exact absurd (hsome.symm.trans hslot) nofun
  next j hslot =>
    obtain rfl := Option.some.inj (hsome.symm.trans hslot)
    rfl

end
end

/-- The generation that follows is one of the range, one more than the last, and after the greatest it is 1 (R238). -/
theorem exists_genAfter (last : Option Nat) {bits : Nat} (hbits : 0 < bits) :
    ∃ gen, genAfter last bits = gen ∧ (last.getD 0 < 2 ^ bits → gen = if last.getD 0 + 1 < 2 ^ bits then last.getD 0 + 1 else 1) ∧
      0 < gen ∧ gen < 2 ^ bits :=
  ⟨_, rfl, nextGen_eq, nextGen_pos _ _, nextGen_lt _ hbits⟩

/-- A change of one die is no change of another's, and the machine is else as it was. -/
theorem onlyDie_spec (s : State) (d : Nat) (y : Die) (q : Running) :
    (onlyDie s d y q).nextId = s.nextId + 1 ∧ (onlyDie s d y q).free = s.free + 1 ∧
      { onlyDie s d y q with cur := s.cur, dies := s.dies, nextId := s.nextId, free := s.free } = s ∧
      (∀ e, (onlyDie s d y q).die e = if e = d then y else s.die e) ∧ (onlyDie s d y q).cur = some q :=
  ⟨rfl, rfl, rfl, fun e => die_onlyDie s d e y q, rfl⟩

theorem die_ite (s : State) (d e : Nat) : s.die e = if e = d then s.die d else s.die e := by
  split
  next h => rw [h]
  next => rfl

/-- Settles O49: a slot is found exactly where one is free (`freeSlot_eq_none_iff`), and it takes the next generation (`exists_genAfter`). -/
theorem newIdentifiers : Obligations.NewIdentifiers := by
  unfold Obligations.NewIdentifiers
  intro s r d a hr x y first count deliver after identifier only
  have hcount : depCount x a.toNat = count := by
    simp only [depCount, field_zero]
    rfl
  refine ⟨fun hu => ⟨fun hnone => ?_, fun k hk hpos hfree => ?_⟩, fun hu => ⟨fun hnone => ?_, fun k hk hfree => ?_⟩⟩
  · have hslot : newCounterSlot s r a.toNat = none := by
      rw [newCounterSlot, hcount]
      obtain hzero | hfull := hnone
      · rw [if_pos hzero]
      · rw [(freeSlot_eq_none_iff (by decide) _).2 hfull, ite_self]
    exact ⟨_, execDepnew_none hr hu hslot, rfl, rfl, rfl, die_ite s _, rfl⟩
  · obtain ⟨slot, hfound⟩ := exists_freeSlot (by decide) (Config.choose s.free % 16384) hk hfree
    obtain ⟨hlt, hslotFree⟩ := freeSlot_some (by decide) hfound
    have hslot : newCounterSlot s r a.toNat = some slot := by rw [newCounterSlot, hcount, if_neg hpos, hfound]
    obtain ⟨gen, hgen, hnext, hgenPos, hgenLt⟩ := exists_genAfter ((look? y.counters slot).map (·.gen)) (bits := 18) (by decide)
    have hexec := execDepnew_some hr hu hslot hgen (makeId_of_lt (by omega) _ _)
    rw [show depCount r.gang.arch a.toNat = count from hcount] at hexec
    exact ⟨_, hexec, slot, gen, hlt, hslotFree, hnext, hgenPos, hgenLt, onlyDie_spec _ _ _ _⟩
  · have hslot : newGroupSlot s r = none := (freeSlot_eq_none_iff (by decide) _).2 (by simpa using hnone)
    exact ⟨_, execGnew_none hr hu hslot, rfl, rfl, rfl, die_ite s _, rfl⟩
  · obtain ⟨slot, hslot⟩ := exists_freeSlot (used := fun g : Group => g.live || g.reserved) (by decide) (Config.choose s.free % 4096) hk (by simpa using hfree)
    obtain ⟨hlt, hslotFree⟩ := freeSlot_some (by decide) hslot
    obtain ⟨gen, hgen, hnext, hgenPos, hgenLt⟩ := exists_genAfter ((look? y.groups slot).map (·.gen)) (bits := 20) (by decide)
    exact ⟨_, execGnew_some hr hu hslot hgen (makeId_of_lt (by omega) _ _), slot, gen, hlt, by simpa using hslotFree, hnext, hgenPos, hgenLt,
      onlyDie_spec _ _ _ _⟩

end Sys2Proof

/-!
# Groups at issue (R239 to R241)

The identifiers of an instruction are checked lane by lane, and the first that may not be used is reported (log 42).
-/

namespace Sys2Proof

open Machine

/-- Why a lane's identifier may not be used: the reason reported with it, and for a join the fifth membership too (R240, R245). -/
def laneFault (s : State) (g : Gang) (join : Bool) (p : Nat × DWord) : Option (Nat × DWord) :=
  match s.groupFault g p.2 with
  | some n => some (n, p.2)
  | none =>
    if ((s.group? p.2).map (·.failed)).getD false then some (8, p.2)
    else if join && !(s.groupsOf g p.1).contains p.2 && decide (4 ≤ (s.groupsOf g p.1).length) then some (5, p.2)
    else none

/-- An identifier names a live group of the gang's die and context that has not failed. -/
def GoodGroup (s : State) (g : Gang) (id : DWord) : Prop :=
  idDie id = g.die ∧ idCtx id = g.ctx ∧ ∃ q, s.group? id = some q ∧ q.failed = false

/-- A lane's task is of the group, or has room for one more. -/
def JoinFits (s : State) (g : Gang) (p : Nat × DWord) : Prop := p.2 ∈ s.groupsOf g p.1 ∨ (s.groupsOf g p.1).length < 4

/-- A group that has failed is POISON, every other reason PROT (R245). -/
def reported (s : State) (r : Running) (n : Nat) (id : DWord) : Res :=
  if n = 8 then s.raisePoison r (form3 8 id) else s.raise r codeProt (form3 n id)

/-! ## The check of one lane -/

section
variable {s : State} {g : Gang} {join : Bool} {p : Nat × DWord}

theorem laneFault_die (hdie : idDie p.2 ≠ g.die) : laneFault s g join p = some (2, p.2) := by
  rw [laneFault, State.groupFault, if_pos (bne_iff_ne.2 hdie)]

section
variable (hdie : idDie p.2 = g.die)
include hdie

theorem laneFault_ctx (hctx : idCtx p.2 ≠ g.ctx) : laneFault s g join p = some (3, p.2) := by
  rw [laneFault, State.groupFault, if_neg (by simpa using hdie), if_pos (bne_iff_ne.2 hctx)]

section
variable (hctx : idCtx p.2 = g.ctx)
include hctx

theorem laneFault_dead (hdead : s.group? p.2 = none) : laneFault s g join p = some (1, p.2) := by
  simp [laneFault, State.groupFault, hdie, hctx, hdead]

theorem groupFault_live {q : Group} (hlive : s.group? p.2 = some q) : s.groupFault g p.2 = none := by
  simp [State.groupFault, hdie, hctx, hlive]

theorem laneFault_failed {q : Group} (hlive : s.group? p.2 = some q) (hfailed : q.failed = true) : laneFault s g join p = some (8, p.2) := by
  simp [laneFault, groupFault_live hdie hctx hlive, hlive, hfailed]

end
end

theorem laneFault_good (hgood : GoodGroup s g p.2) (hfits : join = true → JoinFits s g p) : laneFault s g join p = none := by
  obtain ⟨hdie, hctx, q, hlive, hfailed⟩ := hgood
  rw [laneFault, groupFault_live hdie hctx hlive]
  cases join with
  | false => simp [hlive, hfailed]
  | true =>
    obtain hmem | hroom := hfits rfl
    · simp [hlive, hfailed, hmem]
    · simp [hlive, hfailed, hroom]

theorem laneFault_full (hgood : GoodGroup s g p.2) (hfits : ¬ JoinFits s g p) : laneFault s g true p = some (5, p.2) := by
  obtain ⟨hdie, hctx, q, hlive, hfailed⟩ := hgood
  obtain ⟨hmem, hroom⟩ := not_or.1 hfits
  simp [laneFault, groupFault_live hdie hctx hlive, hlive, hfailed, hmem, Nat.le_of_not_lt hroom]

end

/-! ## The check of all lanes -/

section
variable {s : State} {r : Running}

theorem reported_prot {n : Nat} (hn : n ≠ 8) (id : DWord) :
    reported s r n id = .next (s.raiseAt r 0x0011 (BitVec.ofNat 64 (3 * 2 ^ 62 + n * 2 ^ 58 + id.toNat % 2 ^ 40)) false) := by
  rw [reported, if_neg hn, form3_eq]
  rfl

theorem reported_failed (id : DWord) :
    reported s r 8 id = .next (s.raiseAt r 0x0013 (BitVec.ofNat 64 (3 * 2 ^ 62 + 8 * 2 ^ 58 + id.toNat % 2 ^ 40)) true) := by
  rw [reported, if_pos rfl, form3_eq]
  rfl

variable {join : Bool} {ps : List (Nat × DWord)} (hmade : s.makings r.gang (ps.map (·.2)) = [])
include hmade

/-- With no making of its groups on its way, an instruction goes on where every lane may (R240). -/
theorem groupChecked_good (h : ∀ p ∈ ps, laneFault s r.gang join p = none) (k : Res) : s.groupChecked r join ps k = k := by
  have hnone : ps.findSome? (laneFault s r.gang join) = none := List.findSome?_eq_none_iff.2 h
  rw [State.groupChecked, hmade]
  split
  next hmaking => exact absurd hmaking (by decide)
  next =>
    split
    next _ hsome => exact absurd (hnone.symm.trans hsome) nofun
    next _ _ _ hsome => exact absurd (hnone.symm.trans hsome) nofun
    next => rfl

/-- The first lane that may not is reported. -/
theorem groupChecked_reports {before after : List (Nat × DWord)} {p : Nat × DWord} {n : Nat} (hps : ps = before ++ p :: after)
    (hbefore : ∀ q ∈ before, laneFault s r.gang join q = none) (hp : laneFault s r.gang join p = some (n, p.2)) (k : Res) :
    s.groupChecked r join ps k = reported s r n p.2 := by
  have hfirst : ps.findSome? (laneFault s r.gang join) = some (n, p.2) := by
    rw [hps, List.findSome?_append, List.findSome?_eq_none_iff.2 hbefore, Option.none_or, List.findSome?_cons, hp]
  rw [State.groupChecked, hmade]
  split
  next hmaking => exact absurd hmaking (by decide)
  next =>
    split
    next id hsome =>
      obtain ⟨rfl, rfl⟩ := Prod.mk.inj (Option.some.inj (hfirst.symm.trans hsome))
      rfl
    next m id hpoison hsome =>
      obtain ⟨rfl, rfl⟩ := Prod.mk.inj (Option.some.inj (hfirst.symm.trans hsome))
      rw [reported, if_neg hpoison]
    next hnone => exact absurd (hfirst.symm.trans hnone) nofun

end

/-- An instruction reports an identifier that names no live group of the gang's die and context, or one that has failed, in the order of log 42. -/
def Refuses (s : State) (r : Running) (i : Instr) (id : DWord) : Prop :=
  let prot := fun (reason : Nat) => exec i s = .next (s.raiseAt r 0x0011 (BitVec.ofNat 64 (3 * 2 ^ 62 + reason * 2 ^ 58 + id.toNat % 2 ^ 40)) false)
  (idDie id ≠ r.gang.die → prot 2) ∧
  (idDie id = r.gang.die → idCtx id ≠ r.gang.ctx → prot 3) ∧
  (idDie id = r.gang.die → idCtx id = r.gang.ctx → s.group? id = none → prot 1) ∧
  (∀ q, idDie id = r.gang.die → idCtx id = r.gang.ctx → s.group? id = some q → q.failed = true →
    exec i s = .next (s.raiseAt r 0x0013 (BitVec.ofNat 64 (3 * 2 ^ 62 + 8 * 2 ^ 58 + id.toNat % 2 ^ 40)) true))

theorem refuses_of_reported {s : State} {r : Running} {i : Instr} {join : Bool} {p : Nat × DWord}
    (h : ∀ n, laneFault s r.gang join p = some (n, p.2) → exec i s = reported s r n p.2) : Refuses s r i p.2 :=
  ⟨fun hdie => (h 2 (laneFault_die hdie)).trans (reported_prot (by decide) _),
   fun hdie hctx => (h 3 (laneFault_ctx hdie hctx)).trans (reported_prot (by decide) _),
   fun hdie hctx hdead => (h 1 (laneFault_dead hdie hctx hdead)).trans (reported_prot (by decide) _),
   fun _ hdie hctx hlive hfailed => (h 8 (laneFault_failed hdie hctx hlive hfailed)).trans (reported_failed _)⟩

/-! ## The instructions -/

/-- A slice's part of a mask is empty where no lane of the slice is in it. -/
theorem extract_part_eq_zero_iff (m : Word) (k : Nat) : m.extractLsb' (4 * k) 4 = 0#4 ↔ ∀ l < 32, l / 4 = k → m.getLsbD l = false := by
  constructor
  · intro h l _ hk
    have hbit : (m.extractLsb' (4 * k) 4).getLsbD (l % 4) = m.getLsbD (4 * k + l % 4) := by
      rw [BitVec.getLsbD_extractLsb', decide_eq_true (Nat.mod_lt l (by decide)), Bool.true_and]
    rw [h, BitVec.getLsbD_zero, show 4 * k + l % 4 = l by omega] at hbit
    exact hbit.symm
  · intro h
    apply BitVec.eq_of_getLsbD_eq
    intro j hj
    rw [BitVec.getLsbD_extractLsb', BitVec.getLsbD_zero, decide_eq_true hj, Bool.true_and]
    by_cases hl : 4 * k + j < 32
    · exact h _ hl (by omega)
    · exact BitVec.getLsbD_of_ge m _ (Nat.le_of_not_lt hl)

theorem and_sliceMask_eq_zero_iff (m : Word) (k : Nat) : m &&& sliceMask k = 0#32 ↔ ∀ l < 32, l / 4 = k → m.getLsbD l = false := by
  constructor
  · intro h l hl hk
    have hbit : (m &&& sliceMask k).getLsbD l = (m.getLsbD l && decide (l / 4 = k)) := by rw [BitVec.getLsbD_and, getLsbD_sliceMask k hl]
    rw [h, BitVec.getLsbD_zero, decide_eq_true hk, Bool.and_true] at hbit
    exact hbit.symm
  · intro h
    apply BitVec.eq_of_getLsbD_eq
    intro l hl
    rw [BitVec.getLsbD_and, getLsbD_sliceMask k hl, BitVec.getLsbD_zero]
    by_cases hk : l / 4 = k
    · rw [h l hl hk, Bool.false_and]
    · rw [decide_eq_false hk, Bool.and_false]

/-- The two tests for a lane of a slice agree. -/
theorem and_sliceMask_bne (m : Word) (k : Nat) : (m &&& sliceMask k != 0#32) = (m.extractLsb' (4 * k) 4 != 0#4) := by
  rw [Bool.eq_iff_iff, bne_iff_ne, bne_iff_ne, ne_eq, ne_eq, and_sliceMask_eq_zero_iff, extract_part_eq_zero_iff]

section
variable {s : State} {r : Running} {d a : BitVec 5} (hr : s.cur = some r)
include hr

theorem execGjoin_usable (hu : Usable s r { sr := [a.toNat], slices := slicesOf (bitsOf r.gang.arch.exec) }) :
    execGjoin a s = s.groupChecked r true (r.gang.arch.laneIds a.toNat) (.next (s.holding r 1 (.gjoin (r.gang.arch.laneIds a.toNat)))) := by
  have hlanes : (r.gang.arch.laneIds a.toNat).map (·.1) = bitsOf r.gang.arch.exec := by simp [Arch.laneIds, Function.comp_def]
  rw [execGjoin, issue_running hr]
  dsimp only
  rw [hlanes, checked_usable hu]

theorem execGleave_usable (hu : Usable s r { sr := [a.toNat], slices := slicesOf (bitsOf r.gang.arch.exec) }) :
    execGleave a s = s.groupChecked r false (r.gang.arch.laneIds a.toNat) (.next (s.holding r 1 (.gleave (r.gang.arch.laneIds a.toNat)))) := by
  have hlanes : (r.gang.arch.laneIds a.toNat).map (·.1) = bitsOf r.gang.arch.exec := by simp [Arch.laneIds, Function.comp_def]
  rw [execGleave, issue_running hr]
  dsimp only
  rw [hlanes, checked_usable hu]

section
variable {id : DWord} (hid : r.gang.arch.sget r.gang.arch.lead a.toNat = id)
include hid

theorem execGbar_usable (hu : Usable s r { sr := [a.toNat], slices := [r.gang.arch.lead] }) :
    execGbar a s = s.groupChecked r false [(4 * r.gang.arch.lead, id)] (.next (s.endBy r 5 id r.pc)) := by
  rw [execGbar, issue_running hr, checked_usable hu, hid]

/-- With no change of the group on its way, its member count is pending, 0 of one that is not live (R240). -/
theorem execGsize_usable (hu : Usable s r { sr := [a.toNat], sw := [d.toNat], slices := [r.gang.arch.lead] })
    (hchanges : s.changes r.gang [id] = []) :
    execGsize d a s = .next { s with
      nextId := s.nextId + 1
      cur := some { r with gang := { r.gang with
        pend := r.gang.pend ++ idPending s r d (BitVec.ofNat 64 (((s.group? id).map fun q => q.members.length).getD 0)) } } } := by
  rw [execGsize, issue_running hr, checked_usable hu, hid]
  dsimp only
  rw [hchanges, if_neg (by decide), pend_scalar]
  cases s.group? id <;> rfl

end
end

/-- Settles O50: the identifiers are checked lane by lane (`groupChecked_good`, `groupChecked_reports`). -/
theorem groupInstructions : Obligations.GroupInstructions := by
  unfold Obligations.GroupInstructions
  intro s r d a hr x pc ps lead id good fits holds reports refused
  have hlead : x.lead = lead := by
    simp only [Arch.lead, and_sliceMask_bne]
    rfl
  have hid : r.gang.arch.sget r.gang.arch.lead a.toNat = id := congrArg (x.sget · a.toNat) hlead
  refine ⟨fun hu hmade => ⟨fun hgood => ?_, fun hgood => ?_, ?_⟩, ?_, ?_⟩
  · exact (execGleave_usable hr hu).trans (groupChecked_good hmade (fun p hp => laneFault_good (hgood p hp) Bool.noConfusion) _)
  · exact (execGjoin_usable hr hu).trans (groupChecked_good hmade (fun p hp => laneFault_good (hgood p hp).1 fun _ => (hgood p hp).2) _)
  · intro before p after hps hbefore
    have hnone (join : Bool) : ∀ q ∈ before, laneFault s r.gang join q = none :=
      fun q hq => laneFault_good (hbefore q hq).1 fun _ => (hbefore q hq).2
    have hjoin (n : Nat) (hp : laneFault s r.gang true p = some (n, p.2)) : exec (.gjoin a) s = reported s r n p.2 :=
      (execGjoin_usable hr hu).trans (groupChecked_reports hmade hps (hnone true) hp _)
    have hleave (n : Nat) (hp : laneFault s r.gang false p = some (n, p.2)) : exec (.gleave a) s = reported s r n p.2 :=
      (execGleave_usable hr hu).trans (groupChecked_reports hmade hps (hnone false) hp _)
    simp only [List.forall_mem_cons]
    refine ⟨⟨refuses_of_reported hjoin, fun hgood hfull _ => ?_⟩, ⟨refuses_of_reported hleave, nofun⟩, List.forall_mem_nil _⟩
    exact (hjoin 5 (laneFault_full hgood hfull)).trans (reported_prot (by decide) _)
  · intro hu hmade
    rw [← hlead] at hu
    have hexec := execGbar_usable hr hid hu
    exact ⟨refuses_of_reported (p := (4 * x.lead, id)) fun n hp => hexec.trans (groupChecked_reports hmade rfl (List.forall_mem_nil _) hp _),
      fun hgood => hexec.trans (groupChecked_good hmade (List.forall_mem_singleton.2 (laneFault_good (p := (4 * x.lead, id)) hgood Bool.noConfusion)) _)⟩
  · intro hu hchanges
    rw [← hlead] at hu
    exact execGsize_usable hr hid hu hchanges

end Sys2Proof

/-!
# The wait-for graphs that a die builds (R297)

A build goes over the die's own instances; those that it knows of other dies, by numbers from 1024 (log 16), are of their own dies' builds.
-/

namespace Sys2Proof

open Machine

/-! ## What reports of deadlocks leave as it was -/

/-- Gangs, memory, time, the instances and the graphs are as they were, and no record leaves a fault ring. -/
structure Told (s t : State) : Prop where
  gangs : t.gangs = s.gangs
  mem : t.mem = s.mem
  time : t.time = s.time
  insts : ∀ e, (t.die e).insts = (s.die e).insts
  dtcBase : ∀ e, (t.die e).dtcBase = (s.die e).dtcBase
  lastGraph : ∀ e, (t.die e).lastGraph = (s.die e).lastGraph
  ring : ∀ c w, w ∈ (s.ctx c).ring → w ∈ (t.ctx c).ring

namespace Told

variable {s t u : State}

theorem refl : Told s s := ⟨rfl, rfl, rfl, fun _ => rfl, fun _ => rfl, fun _ => rfl, fun _ _ => id⟩

theorem trans (h : Told s t) (h' : Told t u) : Told s u :=
  ⟨h'.gangs.trans h.gangs, h'.mem.trans h.mem, h'.time.trans h.time, fun e => (h'.insts e).trans (h.insts e),
   fun e => (h'.dtcBase e).trans (h.dtcBase e), fun e => (h'.lastGraph e).trans (h.lastGraph e), fun c w hw => h'.ring c w (h.ring c w hw)⟩

theorem inst? (h : Told s t) (d slot : Nat) : t.inst? d slot = s.inst? d slot := by
  rw [State.inst?, h.insts, State.inst?]

theorem dtc (h : Told s t) (d : Nat) : t.dtc d = s.dtc d := by
  rw [State.dtc, h.time, h.dtcBase, State.dtc]

/-- A change of one die's windows. -/
theorem onDie {d : Nat} {f : Die → Die} (hf : ∀ x, (f x).insts = x.insts ∧ (f x).dtcBase = x.dtcBase ∧ (f x).lastGraph = x.lastGraph) :
    Told s (s.onDie d f) := by
  have hdie {α : Type} (p : Die → α) (hp : ∀ x, p (f x) = p x) (e : Nat) : p ((s.onDie d f).die e) = p (s.die e) := by
    rw [die_onDie]
    split
    next h => rw [hp, h]
    next => rfl
  exact ⟨rfl, rfl, rfl, hdie (·.insts) fun x => (hf x).1, hdie (·.dtcBase) fun x => (hf x).2.1, hdie (·.lastGraph) fun x => (hf x).2.2,
    fun _ _ => id⟩

theorem send {src : Sender} {d inst stage root flight : Nat} {rec_ : Rec} {after : List Nat} {handler : Bool} :
    Told s (s.send src d inst stage root flight rec_ after handler) := by
  unfold State.send
  dsimp only
  split
  · exact onDie fun _ => ⟨rfl, rfl, rfl⟩
  · exact trans (t := s.fresh.2) ⟨rfl, rfl, rfl, fun _ => rfl, fun _ => rfl, fun _ => rfl, fun _ _ => id⟩ (onDie fun _ => ⟨rfl, rfl, rfl⟩)

theorem ring_toHost (s : State) (ctx c : Nat) (words : List Word) :
    ((s.toHost ctx words).ctx c).ring = if ctx = c then (s.ctx c).ring ++ [words] else (s.ctx c).ring := by
  rw [State.toHost, State.ctx, State.onCtx_pkg, look_put]
  split
  next h => rw [h]
  next => rfl

theorem toHost {ctx : Nat} {words : List Word} : Told s (s.toHost ctx words) := by
  refine ⟨rfl, rfl, rfl, fun _ => rfl, fun _ => rfl, fun _ => rfl, fun c w hw => ?_⟩
  rw [ring_toHost]
  split
  · exact List.mem_append_left _ hw
  · exact hw

theorem instanceRecord {d slot task stage : Nat} {f : FaultInfo} {trap : Bool} : Told s (s.instanceRecord d slot f task stage trap) := by
  unfold State.instanceRecord
  split
  · exact refl
  · unfold State.reportList
    split
    · split
      · exact toHost
      · exact send
    · exact toHost

theorem deadlock {d slot : Nat} : Told s (s.deadlock d slot) := instanceRecord

theorem deadlocks {d : Nat} (dead : List (Nat × Inst)) : Told s (dead.foldl (fun u e => u.deadlock d e.1) s) :=
  foldl_keeps (fun _ _ h => h.trans deadlock) dead refl

end Told

/-! ## The task that a report names -/

/-- The earlier of two tasks, the first where they have one number. -/
def lowerTask (m e : Nat × Nat × Nat) : Nat × Nat × Nat := if e.1 < m.1 then e else m

/-- The lowest of some tasks is one of them. -/
theorem lowerTask_foldl (es : List (Nat × Nat × Nat)) (m : Nat × Nat × Nat) :
    (es.foldl lowerTask m = m ∨ es.foldl lowerTask m ∈ es) ∧ (es.foldl lowerTask m).1 ≤ m.1 ∧ ∀ e ∈ es, (es.foldl lowerTask m).1 ≤ e.1 := by
  induction es generalizing m with
  | nil => simp
  | cons e es ih =>
    obtain ⟨hmem, hle, hall⟩ := ih (lowerTask m e)
    have hfirst : (lowerTask m e = m ∨ lowerTask m e = e) ∧ (lowerTask m e).1 ≤ m.1 ∧ (lowerTask m e).1 ≤ e.1 := by
      unfold lowerTask
      split
      next h => exact ⟨.inr rfl, h.le, le_rfl⟩
      next h => exact ⟨.inl rfl, le_rfl, Nat.le_of_not_lt h⟩
    obtain ⟨hone, hleM, hleE⟩ := hfirst
    rw [List.foldl_cons]
    refine ⟨?_, hle.trans hleM, List.forall_mem_cons.2 ⟨hle.trans hleE, hall⟩⟩
    obtain h | h := hmem
    · rw [h]
      obtain h' | h' := hone
      · exact .inl h'
      · rw [h']
        exact .inr List.mem_cons_self
    · exact .inr (List.mem_cons_of_mem _ h)

/-- The tasks of some gangs, each with what its gang waits for and its stage. -/
def tasksOf (gs : List Gang) : List (Nat × Nat × Nat) := gs.flatMap fun g => g.taskNums.map fun n => (n, g.wakeKind, g.stage)

theorem mem_tasksOf {gs : List Gang} {n kind stage : Nat} :
    (n, kind, stage) ∈ tasksOf gs ↔ ∃ g ∈ gs, n ∈ g.taskNums ∧ g.wakeKind = kind ∧ g.stage = stage := by
  simp only [tasksOf, List.mem_flatMap, List.mem_map, Prod.mk.injEq]
  constructor
  · rintro ⟨g, hg, m, hm, rfl, rfl, rfl⟩
    exact ⟨g, hg, hm, rfl, rfl⟩
  · rintro ⟨g, hg, hn, rfl, rfl⟩
    exact ⟨g, hg, n, hn, rfl, rfl, rfl⟩

/-- The lowest task of some gangs, `2 ^ 32` where they have none. -/
def lowestTask (gs : List Gang) : Nat × Nat × Nat := (tasksOf gs).foldl lowerTask (2 ^ 32, 0, 0)

theorem lowestTask_spec {gs : List Gang} (hlt : ∀ g ∈ gs, ∀ n ∈ g.taskNums, n < 2 ^ 32) (hsome : ∃ g ∈ gs, g.taskNums ≠ []) :
    ∃ g ∈ gs, ∃ low ∈ g.taskNums, lowestTask gs = (low, g.wakeKind, g.stage) ∧ ∀ h ∈ gs, ∀ n ∈ h.taskNums, low ≤ n := by
  obtain ⟨hmem, -, hall⟩ := lowerTask_foldl (tasksOf gs) (2 ^ 32, 0, 0)
  have hle (h : Gang) (hh : h ∈ gs) (n : Nat) (hn : n ∈ h.taskNums) : (lowestTask gs).1 ≤ n :=
    hall (n, h.wakeKind, h.stage) (mem_tasksOf.2 ⟨h, hh, hn, rfl, rfl⟩)
  have hin : lowestTask gs ∈ tasksOf gs := by
    refine hmem.resolve_left fun htop => ?_
    obtain ⟨g, hg, hne⟩ := hsome
    obtain ⟨n, hn⟩ := List.exists_mem_of_ne_nil _ hne
    have hfirst : (lowestTask gs).1 = 2 ^ 32 := congrArg Prod.fst htop
    have hlow := hle g hg n hn
    have hsmall := hlt g hg n hn
    omega
  obtain ⟨g, hg, hlow, hkind, hstage⟩ := mem_tasksOf.1 hin
  exact ⟨g, hg, (lowestTask gs).1, hlow, Prod.ext rfl (Prod.ext hkind.symm hstage.symm), hle⟩

/-- What DEADLOCK of an instance names: the gangs that are parked, and the lowest of their tasks (R297). -/
theorem deadlock_eq (s : State) (d slot : Nat) :
    let gs := s.gangs.filter fun g => g.isOf (d, slot) && g.phase == .parked
    s.deadlock d slot = s.instanceRecord d slot
      ⟨0x0060, BitVec.ofNat 64 (gs.length % 2 ^ 16 + (lowestTask gs).2.1 * 2 ^ 16 + (lowestTask gs).1 % 2 ^ 32 * 2 ^ 32), 0#64⟩
      ((lowestTask gs).1 % 2 ^ 32) (lowestTask gs).2.2 := by
  intro gs
  have hlow : gs.foldl (fun (m : Nat × Nat × Nat) g => g.taskNums.foldl (fun m n => if n < m.1 then (n, g.wakeKind, g.stage) else m) m) (2 ^ 32, 0, 0) =
      lowestTask gs := by
    simp only [lowestTask, tasksOf, List.foldl_flatMap, List.foldl_map]
    rfl
  rw [State.deadlock, hlow]
  rfl

/-- Where an instance has no handler, the record of its deadlock comes to its context's fault ring. -/
theorem deadlock_ring {s : State} {d slot : Nat} {i : Inst} (hi : s.inst? d slot = some i) (hhandler : i.handler = 0xFF) :
    let parked := s.gangs.filter fun g => g.isOf (d, slot) && g.phase == .parked
    (∀ g ∈ parked, ∀ n ∈ g.taskNums, n < 2 ^ 32) → (∃ g ∈ parked, g.taskNums ≠ []) →
      ∃ g ∈ parked, ∃ low ∈ g.taskNums, (∀ h ∈ parked, ∀ n ∈ h.taskNums, low ≤ n) ∧
        recordWords ⟨0x0060, BitVec.ofNat 64 (parked.length % 2 ^ 16 + g.wakeKind * 2 ^ 16 + low * 2 ^ 32), 0#64⟩ 2 g.stage slot low 0#32 0#32 0#64 0#64
          0 0 0 0#64 (s.dtc d % 2 ^ 32) ∈ ((s.deadlock d slot).ctx i.ctx).ring := by
  intro parked hlt hsome
  obtain ⟨g, hg, low, hlow, hlowest, hle⟩ := lowestTask_spec hlt hsome
  have hrecord : s.deadlock d slot = s.toHost i.ctx (recordWords
      ⟨0x0060, BitVec.ofNat 64 (parked.length % 2 ^ 16 + g.wakeKind * 2 ^ 16 + low * 2 ^ 32), 0#64⟩ 2 g.stage slot low 0#32 0#32 0#64 0#64 0 0 0 0#64
      (s.dtc d % 2 ^ 32)) := by
    rw [deadlock_eq]
    simp only [show lowestTask (s.gangs.filter fun g => g.isOf (d, slot) && g.phase == .parked) = (low, g.wakeKind, g.stage) from hlowest,
      Nat.mod_eq_of_lt (hlt g hg low hlow), State.instanceRecord, State.reportList, hi, hhandler, decide_true, Bool.true_or, if_true]
    rfl
  refine ⟨g, hg, low, hlow, hle, ?_⟩
  rw [hrecord, Told.ring_toHost, if_pos rfl]
  exact List.mem_append_right _ (List.mem_singleton.2 rfl)

/-! ## A build -/

/-- Values for some keys, read at a key. -/
theorem look?_filterMap_keys {α : Type} (f : Nat → Option α) (ks : List Nat) (i : Nat) :
    look? (ks.filterMap fun k => (f k).map fun x => (k, x)) i = if i ∈ ks then f i else none := by
  induction ks with
  | nil => rfl
  | cons k ks ih =>
    rw [List.filterMap_cons]
    cases hk : f k with
    | none =>
      simp only [Option.map_none, ih, List.mem_cons]
      by_cases h : i = k
      · simp [h, hk]
      · simp [h]
    | some x =>
      simp only [Option.map_some, look?, ih, List.mem_cons]
      by_cases h : i = k
      · simp [h, hk]
      · simp [h, Ne.symm h]

/-- The entry of the first of two maps that has one. -/
theorem look?_append {α : Type} (m n : List (Nat × α)) (i : Nat) : look? (m ++ n) i = (look? m i).or (look? n i) := by
  induction m with
  | nil => rfl
  | cons e m ih =>
    rw [List.cons_append, look?, look?, ih]
    split <;> rfl

theorem mem_of_look? {α : Type} {m : List (Nat × α)} {i : Nat} {x : α} (h : look? m i = some x) : (i, x) ∈ m := by
  induction m with
  | nil => cases h
  | cons e m ih =>
    rw [look?] at h
    split at h
    next hk =>
      obtain rfl := Option.some.inj h
      exact hk ▸ List.mem_cons_self
    next => exact List.mem_cons_of_mem _ (ih h)

/-- The graphs of a die's build: those of its instances' contexts, and of its instances' handlers. -/
def graphsBuilt (s : State) (d : Nat) : List (Nat × List Nat) :=
  ((s.die d).insts.map fun e => e.2.ctx).eraseDups.filterMap (fun c => (s.stalled c).map fun gs => (c, s.graphOf gs)) ++
    (s.die d).insts.filterMap fun e => (s.stalledHandler d e.1 e.2).map fun gs => (1000 + e.1, s.graphOf gs)

/-- A context with an instance of the die has its graph there. -/
theorem look?_graphsBuilt {s : State} {d slot : Nat} {i : Inst} {gs : List Gang} (hi : look? (s.die d).insts slot = some i)
    (hstalled : s.stalled i.ctx = some gs) : look? (graphsBuilt s d) i.ctx = some (s.graphOf gs) := by
  have hctx : i.ctx ∈ ((s.die d).insts.map fun e => e.2.ctx).eraseDups :=
    List.mem_eraseDups.2 (List.mem_map.2 ⟨(slot, i), mem_of_look? hi, rfl⟩)
  have hkeys := look?_filterMap_keys (fun c => (s.stalled c).map s.graphOf) ((s.die d).insts.map fun e => e.2.ctx).eraseDups i.ctx
  simp only [Option.map_map, Function.comp_def, if_pos hctx, hstalled, Option.map_some] at hkeys
  rw [graphsBuilt, look?_append, hkeys, Option.some_or]

/-- The instances that a build finds deadlocked. -/
def deadlocked (s : State) (d : Nat) : List (Nat × Inst) :=
  let same := ((graphsBuilt s d).filter fun e => look? (s.die d).lastGraph e.1 == some e.2).map Prod.fst
  (s.die d).insts.filter fun e => (same.contains e.2.ctx && s.hasTasks d e.1) || same.contains (1000 + e.1) ||
    s.gangs.any fun g => g.isOf (d, e.1) && s.stuckMeeting g

/-- An instance of the die with tasks is deadlocked where its context's graph is the last build's. -/
theorem mem_deadlocked {s : State} {d slot : Nat} {i : Inst} {gs : List Gang} (hi : look? (s.die d).insts slot = some i)
    (hstalled : s.stalled i.ctx = some gs) (hlast : look? (s.die d).lastGraph i.ctx = some (s.graphOf gs)) (htasks : s.hasTasks d slot = true) :
    (slot, i) ∈ deadlocked s d := by
  have hsame : i.ctx ∈ ((graphsBuilt s d).filter fun e => look? (s.die d).lastGraph e.1 == some e.2).map Prod.fst :=
    List.mem_map.2 ⟨(i.ctx, s.graphOf gs), List.mem_filter.2 ⟨mem_of_look? (look?_graphsBuilt hi hstalled), by simp [hlast]⟩, rfl⟩
  refine List.mem_filter.2 ⟨mem_of_look? hi, ?_⟩
  simp only [List.contains_iff_mem.2 hsame, htasks, Bool.and_self, Bool.true_or]

/-- A state with the graphs of a build. -/
def withGraphs (s : State) (d : Nat) : State := s.onDie d fun x => { x with lastGraph := graphsBuilt s d }

theorem inst?_withGraphs (s : State) (d e slot : Nat) : (withGraphs s d).inst? e slot = s.inst? e slot := by
  rw [State.inst?, withGraphs, die_onDie, State.inst?]
  split
  next h => rw [h]
  next => rfl

theorem dtc_withGraphs (s : State) (d : Nat) : (withGraphs s d).dtc d = s.dtc d := by
  rw [State.dtc, withGraphs, die_onDie_same, State.onDie_time, State.dtc]

theorem execWaitforBuild_eq (s : State) (d : Nat) :
    exec (.waitforBuild d) s = .next ((deadlocked s d).foldl (fun u e => u.deadlock d e.1) (withGraphs s d)) := rfl

/-- A die with no instance builds no graph, whatever other dies hold. -/
theorem execWaitforBuild_empty {s : State} {d : Nat} (h : (s.die d).insts = []) :
    exec (.waitforBuild d) s = .next (s.setDie d { s.die d with lastGraph := [] }) := by
  have hgraphs : graphsBuilt s d = [] := by rw [graphsBuilt, h]; rfl
  have hdead : deadlocked s d = [] := by rw [deadlocked, h]; rfl
  rw [execWaitforBuild_eq, hdead, withGraphs, hgraphs]
  rfl

/-- Of the contexts of the die's own instances the build keeps the graphs, and reports a deadlock where one is as it was: the clause of O54
with the guard it lacks. -/
theorem execWaitforBuild_own (s : State) (d : Nat) :
    ∃ t, exec (.waitforBuild d) s = .next t ∧ t.gangs = s.gangs ∧ t.mem = s.mem ∧
      ∀ slot i gs, slot < 1024 → s.inst? d slot = some i → s.stalled i.ctx = some gs → look? (t.die d).lastGraph i.ctx = some (s.graphOf gs) ∧
        let parked := s.gangs.filter fun g => g.isOf (d, slot) && g.phase == .parked
        (look? (s.die d).lastGraph i.ctx = some (s.graphOf gs) → s.hasTasks d slot = true → i.handler = 0xFF →
          (∀ g ∈ parked, ∀ n ∈ g.taskNums, n < 2 ^ 32) → (∃ g ∈ parked, g.taskNums ≠ []) →
          ∃ g ∈ parked, ∃ low ∈ g.taskNums, (∀ h ∈ parked, ∀ n ∈ h.taskNums, low ≤ n) ∧
            recordWords ⟨0x0060, BitVec.ofNat 64 (parked.length % 2 ^ 16 + g.wakeKind * 2 ^ 16 + low * 2 ^ 32), 0#64⟩ 2 g.stage slot low 0#32 0#32
              0#64 0#64 0 0 0 0#64 (s.dtc d % 2 ^ 32) ∈ (t.ctx i.ctx).ring) := by
  have htold : Told (withGraphs s d) ((deadlocked s d).foldl (fun u e => u.deadlock d e.1) (withGraphs s d)) := .deadlocks _
  refine ⟨_, execWaitforBuild_eq s d, htold.gangs, htold.mem, fun slot i gs hslot hinst hstalled => ?_⟩
  have hi : look? (s.die d).insts slot = some i := by rwa [State.inst?, homeInst, if_pos hslot] at hinst
  refine ⟨?_, fun hlast htasks hhandler hlt hsome => ?_⟩
  · rw [htold.lastGraph, withGraphs, die_onDie_same]
    exact look?_graphsBuilt hi hstalled
  · obtain ⟨before, after, hdead⟩ := List.append_of_mem (mem_deadlocked hi hstalled hlast htasks)
    rw [hdead, List.foldl_append, List.foldl_cons]
    have hbefore : Told (withGraphs s d) (before.foldl (fun u e => u.deadlock d e.1) (withGraphs s d)) := .deadlocks _
    generalize before.foldl (fun u e => u.deadlock d e.1) (withGraphs s d) = u at hbefore
    have hinstU : u.inst? d slot = some i := by rw [hbefore.inst?, inst?_withGraphs, hinst]
    have hring := deadlock_ring hinstU hhandler
    rw [show u.gangs = s.gangs from hbefore.gangs, hbefore.dtc, dtc_withGraphs] at hring
    obtain ⟨g, hg, low, hlow, hle, hrecord⟩ := hring hlt hsome
    exact ⟨g, hg, low, hlow, hle, (Told.deadlocks after).ring _ _ hrecord⟩

/-! ## An instance of another die -/

/-- An instance of context 0 that holds and is granted nothing. -/
def idleInstance : Inst :=
  { ctx := 0, order := 0, nstages := 1, handler := 0xFF, policy := 0, arrays := 0, param := 0#64, key := 0#64, sppages := 0, accslots := 0,
    itiles := 0, gnodes := 0, landbytes := 0, gspill := 0, stages := [], deadline := none, issue := 0, array := 0, copy := 0,
    accounts := false, overruns := 0#4, trap := none, queues := [], inflight := [], nextTask := [], retained := [], errFlags := [],
    cls := 0, compute := 0, memory := 0, whole := false, launchAddr := none, cfgmis := false, scratch := [], acc := [], pinned := [], tried := [] }

/-- A gang of context 0 on die 1 that waits at a barrier. -/
def waitingGang : Gang := { firmwareGang 1 0 1 0 0#64 with ctx := 0, core := 0, inst := 0, place := .landing, phase := .parked, wakeKind := 5 }

/-- Die 1 has that instance in its slot 0; die 0 has none, and knows it as 1280 (log 16). -/
def waitingElsewhere : State :=
  { State.reset with gangs := [waitingGang], dies := [(0, Die.reset), (1, { Die.reset with insts := [(0, idleInstance)] }), (2, Die.reset), (3, Die.reset)] }

/-- Refutes O54: the clause of WAITFOR_BUILD speaks of every number under which the die knows an instance, those of other dies among them
(from 1024, log 16), but a build goes over the die's own instances. In `waitingElsewhere` die 0 builds no graph (`execWaitforBuild_empty`, as
the same clause says), while all tasks of the context of its instance 1280 wait. For the die's own instances the clause holds
(`execWaitforBuild_own`). -/
theorem not_registerEvents : ¬ Obligations.RegisterEvents := by
  unfold Obligations.RegisterEvents
  intro h
  obtain ⟨-, -, -, -, -, -, -, -, -, -, -, -, -, -, -, -, -, -, hbuild⟩ := h waitingElsewhere 0 0 0 0#64 0#16
  obtain ⟨t, hnext, -, -, -, hgraphs⟩ := hbuild
  have hnone : (waitingElsewhere.die 0).insts = [] := rfl
  have hinst : waitingElsewhere.inst? 0 1280 = some idleInstance := rfl
  have hstalled : waitingElsewhere.stalled idleInstance.ctx = some [waitingGang] := by decide
  obtain ⟨hlook, -⟩ := hgraphs 1280 idleInstance [waitingGang] hinst hstalled
  rw [Host.Outcome.next.inj (hnext.symm.trans (execWaitforBuild_empty hnone))] at hlook
  cases hlook

end Sys2Proof

/-!
# Enqueues, launches and dependence counters (R271, R273, R275)

The records of an instruction are read one after another, each as the flight with the earlier ones held sees it, and stand in the held stream
under numbers in a row.
-/

namespace Sys2Proof

open Machine

/-! ## Effects held in a row (R127, R128) -/

/-- The effects of an instruction of a clause in the held stream, the first under number `n`: they take the buffer entries of the first. -/
def Machine.Clause.heldFrom (c : Clause) (n entries : Nat) : List Eff → List Held
  | [] => []
  | e :: es => ⟨n, c.addr + BitVec.ofNat 64 (4 * c.idx), c.idx, entries, e⟩ :: c.heldFrom (n + 1) 0 es

/-- The gang at issue with those effects held. -/
def Machine.Running.holdAll (r : Running) (n entries : Nat) (es : List Eff) : Running :=
  { r with gang := { r.gang with held := r.gang.held ++ r.cl.heldFrom n entries es } }

theorem heldFrom_zero (c : Clause) (es : List Eff) (n : Nat) :
    c.heldFrom n 0 es = (es.zipIdx n).map fun e => ⟨e.2, c.addr + BitVec.ofNat 64 (4 * c.idx), c.idx, 0, e.1⟩ := by
  induction es generalizing n with
  | nil => rfl
  | cons e es ih => rw [Clause.heldFrom, ih, List.zipIdx_cons, List.map_cons]

/-- One entry goes with the first effect, none with the others. -/
theorem heldFrom_one (c : Clause) (es : List Eff) (n : Nat) :
    c.heldFrom n 1 es = es.zipIdx.map fun e => ⟨n + e.2, c.addr + BitVec.ofNat 64 (4 * c.idx), c.idx, if e.2 = 0 then 1 else 0, e.1⟩ := by
  cases es with
  | nil => rfl
  | cons e es =>
    rw [Clause.heldFrom, heldFrom_zero, List.zipIdx_cons, List.map_cons, List.zipIdx_eq_map_add (i := n + 1), List.zipIdx_eq_map_add (i := 0 + 1),
      List.map_map, List.map_map]
    refine congrArg (List.cons _) (List.map_congr_left fun p _ => ?_)
    simp only [Function.comp_apply]
    rw [if_neg (by omega), show n + 1 + p.2 = n + (0 + 1 + p.2) by omega]

/-- An effect that goes to a queue, a table or an engine hides no byte of memory from its flight (R56). -/
theorem seen_hold {e : Eff} (he : Handed e) (r : Running) (n entries before : Nat) (l : Loc) (raw : List Byte) :
    (r.hold n entries e).gang.seen before l raw = r.gang.seen before l raw := by
  unfold Gang.seen
  simp only [Running.hold, List.filter_append, List.foldl_append]
  by_cases h : n < before
  · rw [List.filter_cons_of_pos (by simpa using h)]
    cases e with
    | enq _ _ | launch _ _ _ | cpy _ _ _ _ _ | depsig _ | deparm _ _ _ => rfl
    | _ => exact False.elim he
  · rw [List.filter_cons_of_neg (by simpa using h)]
    rfl

/-! ## Records read at issue (R271) -/

section
variable {s : State}

/-- The word at a place as a gang sees it. -/
def Machine.State.wordSeen (s : State) (g : Gang) (before : Nat) (l : Loc) : Word :=
  BitVec.ofNat 32 (natOfBytes (g.seen before l (s.readN g.die g.inst l 4)))

/-- The record of a slice as a gang sees it: its words, with zeros behind them. -/
def Machine.State.recordSeen (s : State) (g : Gang) (n args : Nat) (at_ : Nat → Loc) (before k : Nat) : List Word :=
  padWords ((List.range n).map fun i => s.wordSeen g before (at_ (16 * k + i))) args

/-- A number given out changes nothing that a read goes through. -/
theorem ReadPlaced.numbered {d c inst ctx : Nat} {l : Loc} {tso : Bool} {m : Nat} {a : DWord} (h : ReadPlaced s d c inst ctx l tso m a) (n : Nat) :
    ReadPlaced { s with nextId := n } d c inst ctx l tso m a := by
  have hsame : SameButChecks s { s with nextId := n } fun e => (s.die e).pathChecks := ⟨fun _ => rfl, rfl, rfl, rfl, rfl, rfl, rfl⟩
  refine ⟨h.found, ?_, h.here, h.pinned, fun bs hbs => ?_⟩
  · rw [hsame.badN, h.clean]
  · rw [hsame.sealed, h.plain bs hbs]

/-- Words at an address, read one after another. -/
theorem readWords_placed {lane : Nat} : ∀ (n : Nat) (at_ : Nat → Loc) (tso : Nat → Bool) (va : DWord) (r : Running) (ws : List Word),
    (∀ i < n, ReadPlaced s r.gang.die r.gang.core r.gang.inst r.gang.ctx (at_ i) (tso i) 4 (va + BitVec.ofNat 64 (4 * i))) →
    ∃ used, ∀ f, s.readWords r lane va n ws f =
      f s (r.afterReads s used ((List.range n).map at_)) (ws ++ (List.range n).map fun i => s.wordSeen r.gang s.nextId (at_ i)) := by
  intro n
  induction n with
  | zero =>
    intro at_ tso va r ws _
    refine ⟨r.gang.used, fun f => ?_⟩
    simp only [List.range_zero, List.map_nil, List.append_nil]
    rfl
  | succ n ih =>
    intro at_ tso va r ws h
    have hfirst := h 0 (Nat.succ_pos n)
    rw [show va + BitVec.ofNat 64 (4 * 0) = va by simp] at hfirst
    obtain ⟨used, hread⟩ := readNow_placed hfirst
    obtain ⟨used', hrest⟩ := ih (fun i => at_ (i + 1)) (fun i => tso (i + 1)) (va + 4#64) (r.afterReads s used [at_ 0])
      (ws ++ [s.wordSeen r.gang s.nextId (at_ 0)]) fun i hi => by
        have hnext := h (i + 1) (Nat.succ_lt_succ hi)
        rwa [show va + BitVec.ofNat 64 (4 * (i + 1)) = va + 4#64 + BitVec.ofNat 64 (4 * i) by
          rw [Nat.mul_add, Nat.add_comm, BitVec.ofNat_add, ← BitVec.add_assoc]] at hnext
    refine ⟨used', fun f => ?_⟩
    rw [State.readWords, hread, List.range_succ_eq_map, List.map_cons, List.map_cons, List.map_map, List.map_map]
    refine (hrest f).trans ?_
    rw [List.append_assoc]
    rfl

/-- An effect held after some reads, then others after more reads. -/
theorem holdAll_cons (r : Running) (used used' : List Nat) (ls ls' : List Loc) (m entries : Nat) (e : Eff) (es : List Eff) :
    (((r.afterReads s used ls).hold m entries e).afterReads s used' ls').holdAll (m + 1) 0 es =
      (r.afterReads s used' (ls ++ ls')).holdAll m entries (e :: es) := by
  simp only [Running.holdAll, Running.afterReads, Running.hold, Running.pc, Clause.heldFrom, vectorSeen, List.foldl_append, List.append_assoc,
    List.singleton_append]

/-- The records of some slices are read in their order, and an effect made of each is held. -/
theorem holdRecords_placed {a n args : Nat} {e : List Word → Eff} (he : ∀ ws, Handed (e ws)) {at_ : Nat → Loc} {tso : Nat → Bool} :
    ∀ (ks : List Nat) (m entries : Nat) (r : Running),
      (∀ k ∈ ks, ∀ i < n, ReadPlaced s r.gang.die r.gang.core r.gang.inst r.gang.ctx (at_ (16 * k + i)) (tso (16 * k + i)) 4
        (r.gang.arch.sget k a + BitVec.ofNat 64 (4 * i))) →
      ∃ used, State.holdRecords { s with nextId := m } r a n args e entries ks = .next { s with
        nextId := m + ks.length
        cur := some ((r.afterReads s used (ks.flatMap fun k => (List.range n).map fun i => at_ (16 * k + i))).holdAll m entries
          ((ks.zipIdx m).map fun p => e (s.recordSeen r.gang n args at_ p.2 p.1))) } := by
  intro ks
  induction ks with
  | nil =>
    intro m entries r _
    refine ⟨r.gang.used, ?_⟩
    rw [Running.holdAll, List.zipIdx_nil, List.map_nil, Clause.heldFrom, List.append_nil]
    rfl
  | cons k ks ih =>
    intro m entries r h
    obtain ⟨used, hwords⟩ := readWords_placed (s := { s with nextId := m }) (lane := 4 * k) n (fun i => at_ (16 * k + i)) (fun i => tso (16 * k + i))
      (r.gang.arch.sget k a) r [] fun i hi => (h k List.mem_cons_self i hi).numbered m
    let q := (r.afterReads s used ((List.range n).map fun i => at_ (16 * k + i))).hold m entries (e (s.recordSeen r.gang n args at_ m k))
    obtain ⟨used', hrest⟩ := ih (m + 1) 0 q fun j hj => h j (.tail _ hj)
    have hseen : ∀ before j, s.recordSeen q.gang n args at_ before j = s.recordSeen r.gang n args at_ before j := by
      intro before j
      unfold State.recordSeen State.wordSeen
      simp only [q, seen_hold (he _)]
      rfl
    refine ⟨used', ?_⟩
    rw [State.holdRecords, hwords]
    refine hrest.trans ?_
    simp only [hseen]
    rw [List.flatMap_cons, List.zipIdx_cons, List.map_cons, ← holdAll_cons (used := used), List.length_cons, Nat.add_comm ks.length, ← Nat.add_assoc]

end

/-! ## The instructions -/

section
variable {s : State} {r : Running} {st : Stage} (hr : s.cur = some r)

/-- A stage of the pipeline that takes the words (R271). -/
theorem recordArgs_eq {stage n : Nat} (hctx : r.gang.ctx ≠ firmware) (hst : (s.inst? r.gang.die r.gang.inst).bind (fun i => i.stages[stage]?) = some st)
    (hn : n ≤ st.args) : s.recordArgs r.gang stage n = some st.args := by
  rw [State.recordArgs, hst]
  dsimp only
  rw [if_pos (by simp [hn, hctx])]

theorem recordAligned_eq {a : Nat} {ks : List Nat} (h : ∀ k ∈ ks, (r.gang.arch.sget k a).toNat % 4 = 0) (k : Res) :
    s.recordAligned r a ks k = k := by
  have hnone : (ks.find? fun k => field (r.gang.arch.sget k a) 0 2 != 0) = none := by
    simp only [List.find?_eq_none, field_zero, bne_iff_ne, ne_eq, not_not]
    exact h
  rw [State.recordAligned, hnone]

/-- The words of a slice's record with their numbers and addresses. -/
def wordAddrs (x : Arch) (a n k : Nat) : List (Nat × DWord) :=
  (List.range n).map fun i => (16 * k + i, x.sget k a + BitVec.ofNat 64 (4 * i))

/-- Records that can be read are held, each as an effect made of it. -/
theorem records_hold {a n args : Nat} {e : List Word → Eff} (he : ∀ ws, Handed (e ws)) {at_ : Nat → Loc} {tso : Nat → Bool} {ks : List Nat}
    (halign : ∀ k ∈ ks, (r.gang.arch.sget k a).toNat % 4 = 0)
    (hreads : ReadsPlaced s r at_ tso (4 * n) (ks.map fun k => r.gang.arch.sget k a) 4 (ks.flatMap (wordAddrs r.gang.arch a n))) :
    ∃ used, s.recordAligned r a ks (s.withPlaced r (ks.map fun k => r.gang.arch.sget k a) (4 * n) fun s r => s.holdRecords r a n args e 1 ks) =
      .next { s with
        nextId := s.nextId + ks.length
        cur := some ((r.afterReads s used ((ks.flatMap (wordAddrs r.gang.arch a n)).map fun w => at_ w.1)).holdAll s.nextId 1
          (ks.zipIdx.map fun p => e (s.recordSeen r.gang n args at_ (s.nextId + p.2) p.1))) } := by
  obtain ⟨used, hheld⟩ := holdRecords_placed (s := s) (args := args) he (at_ := at_) (tso := tso) ks s.nextId 1 r fun k hk i hi =>
    hreads.read (e := (16 * k + i, _)) (List.mem_flatMap.2 ⟨k, hk, List.mem_map.2 ⟨i, List.mem_range.2 hi, rfl⟩⟩)
  refine ⟨used, ?_⟩
  rw [recordAligned_eq halign, withPlaced_of_reads hreads]
  refine hheld.trans ?_
  rw [List.zipIdx_eq_map_add (i := s.nextId), List.map_map, List.map_flatMap]
  simp only [wordAddrs, List.map_map]
  rfl
  
/-- An instruction that holds effects after some reads does no more: the pages that it used apart, the gang has them and what it saw. -/
theorem issues_of_holdAll {i : Instr} {used : List Nat} {ls : List Loc} {es : List Eff} {n : Nat}
    (h : exec i s = .next { s with nextId := n, cur := some ((r.afterReads s used ls).holdAll s.nextId 1 es) }) :
    Issues s i fun p => p.cl = r.cl ∧ { p.gang with used := r.gang.used } = { r.gang with
      causal := vectorSeen s r.gang.causal ls
      held := r.gang.held ++ es.zipIdx.map fun e => ⟨s.nextId + e.2, r.cl.addr + BitVec.ofNat 64 (4 * r.cl.idx), r.cl.idx, if e.2 = 0 then 1 else 0, e.1⟩ } := by
  refine ⟨_, _, h, rfl, ?_⟩
  rw [← heldFrom_one]
  rfl

theorem hold_holdAll (r : Running) (m entries : Nat) (e : Eff) (es : List Eff) :
    (r.hold m entries e).holdAll (m + 1) 0 es = r.holdAll m entries (e :: es) := by
  simp only [Running.holdAll, Running.hold, Running.pc, Clause.heldFrom, List.append_assoc, List.singleton_append]

/-- Hold an effect of a lane under a number of its own, with some buffer entries. -/
def holdLane (entries : Nat → Nat) (e : Nat → Eff) (acc : State × Running) (l : Nat) : State × Running :=
  (acc.1.fresh.2, acc.2.hold acc.1.fresh.1 (entries l) (e l))

theorem foldl_holdLane_zero {entries : Nat → Nat} (e : Nat → Eff) : ∀ (ls : List Nat) (s : State) (r : Running), (∀ l ∈ ls, entries l = 0) →
    ls.foldl (holdLane entries e) (s, r) = ({ s with nextId := s.nextId + ls.length }, r.holdAll s.nextId 0 (ls.map e)) := by
  intro ls
  induction ls with
  | nil =>
    intro s r _
    rw [Running.holdAll, List.map_nil, Clause.heldFrom, List.append_nil]
    rfl
  | cons l ls ih =>
    intro s r h
    rw [List.foldl_cons, holdLane, ih _ _ fun j hj => h j (.tail _ hj), h l List.mem_cons_self, List.map_cons, ← hold_holdAll, List.length_cons,
      Nat.add_comm ls.length, ← Nat.add_assoc]
    rfl

/-- The effects of different lanes, of which the first takes an entry. -/
theorem foldl_holdLane_first (e : Nat → Eff) {ls : List Nat} (hls : ls.Nodup) (s : State) (r : Running) :
    ls.foldl (holdLane (fun l => if ls.head? == some l then 1 else 0) e) (s, r) =
      ({ s with nextId := s.nextId + ls.length }, r.holdAll s.nextId 1 (ls.map e)) := by
  cases ls with
  | nil =>
    rw [Running.holdAll, List.map_nil, Clause.heldFrom, List.append_nil]
    rfl
  | cons l ls =>
    have hrest : ∀ j ∈ ls, (if (l :: ls).head? == some j then 1 else 0) = 0 := by
      intro j hj
      have hne : l ≠ j := fun h => (List.nodup_cons.1 hls).1 (h ▸ hj)
      simp [hne]
    have hfirst : (if (l :: ls).head? == some l then 1 else 0) = 1 := by simp
    rw [List.foldl_cons, holdLane, foldl_holdLane_zero e ls _ _ hrest, hfirst, List.map_cons, ← hold_holdAll, List.length_cons,
      Nat.add_comm ls.length, ← Nat.add_assoc]
    rfl

include hr

section
variable {a d : BitVec 5} {n g : BitVec 4} (hctx : r.gang.ctx ≠ firmware)
  (hst : (s.inst? r.gang.die r.gang.inst).bind (fun i => i.stages[g.toNat]?) = some st) (hn : n.toNat + 1 ≤ st.args)
include hctx hst hn

theorem execEnq_holds {at_ : Nat → Loc} {tso : Nat → Bool} (hu : Usable s r { sr := [a.toNat], slices := r.gang.arch.acting })
    (halign : ∀ k ∈ r.gang.arch.acting, (r.gang.arch.sget k a.toNat).toNat % 4 = 0)
    (hreads : ReadsPlaced s r at_ tso (4 * (n.toNat + 1)) (r.gang.arch.acting.map fun k => r.gang.arch.sget k a.toNat) 4
      (r.gang.arch.acting.flatMap (wordAddrs r.gang.arch a.toNat (n.toNat + 1)))) :
    ∃ used, execEnq a n g s = .next { s with
      nextId := s.nextId + r.gang.arch.acting.length
      cur := some ((r.afterReads s used ((r.gang.arch.acting.flatMap (wordAddrs r.gang.arch a.toNat (n.toNat + 1))).map fun w => at_ w.1)).holdAll s.nextId 1
        (r.gang.arch.acting.zipIdx.map fun p => .enq g.toNat (s.recordSeen r.gang (n.toNat + 1) st.args at_ (s.nextId + p.2) p.1))) } := by
  rw [execEnq, issue_running hr]
  dsimp only
  rw [checked_usable hu, recordArgs_eq hctx hst hn]
  exact records_hold (e := fun ws => .enq g.toNat ws) (fun _ => trivial) halign hreads

theorem execEnqv_holds {lanes : List Nat} (hlanes : lanes = bitsOf r.gang.arch.exec)
    (hu : Usable s r { vr := (List.range (n.toNat + 1)).map (a.toNat + ·), lanes := lanes }) :
    execEnqv a n g s = .next { s with
      nextId := s.nextId + lanes.length
      cur := some (r.holdAll s.nextId 1 (lanes.map fun l => .enq g.toNat
        (padWords (((List.range (n.toNat + 1)).map (a.toNat + ·)).map fun v => r.gang.arch.vget v l) st.args))) } := by
  have hnodup : lanes.Nodup := hlanes ▸ nodup_bitsOf _
  rw [execEnqv, issue_running hr]
  dsimp only
  rw [← hlanes, checked_usable hu, recordArgs_eq hctx hst hn]
  exact congrArg (fun held : State × Running => Host.Outcome.next (held.1.setRun held.2)) (foldl_holdLane_first _ hnodup s r)

theorem execDeparm_holds {k : Nat} {c : Counter} {at_ : Nat → Loc} {tso : Nat → Bool} (hk : r.gang.arch.first? = some k)
    (hu : Usable s r { sr := [d.toNat, a.toNat], slices := [k] }) (hid : idCtx (r.gang.arch.sget k d.toNat) = r.gang.ctx)
    (hc : s.counter? (r.gang.arch.sget k d.toNat) = some c) (harmed : c.armed = none) (hfired : c.fired = false)
    (halign : (r.gang.arch.sget k a.toNat).toNat % 4 = 0)
    (hreads : ReadsPlaced s r at_ tso (4 * (n.toNat + 1)) [r.gang.arch.sget k a.toNat] 4 (wordAddrs r.gang.arch a.toNat (n.toNat + 1) k)) :
    ∃ used, execDeparm d a n g s = .next { s with
      nextId := s.nextId + 1
      cur := some ((r.afterReads s used ((wordAddrs r.gang.arch a.toNat (n.toNat + 1) k).map fun w => at_ w.1)).holdAll s.nextId 1
        [.deparm (r.gang.arch.sget k d.toNat) g.toNat (s.recordSeen r.gang (n.toNat + 1) st.args at_ s.nextId k)]) } := by
  have hu' : Usable s r { sr := [d.toNat, a.toNat], slices := r.gang.arch.first?.toList } := by rwa [hk]
  have hfree : s.armFault r.gang.ctx (r.gang.arch.sget k d.toNat) = none := by
    simp [State.armFault, hid, hc, harmed, hfired]
  have hflat : [k].flatMap (wordAddrs r.gang.arch a.toNat (n.toNat + 1)) = wordAddrs r.gang.arch a.toNat (n.toNat + 1) k := List.flatMap_singleton _ _
  obtain ⟨used, hheld⟩ := records_hold (args := st.args) (e := fun ws => .deparm (r.gang.arch.sget k d.toNat) g.toNat ws) (fun _ => trivial)
    (ks := [k]) (a := a.toNat) (fun j hj => by rwa [List.mem_singleton.1 hj]) (hflat.symm ▸ hreads)
  rw [hflat] at hheld
  refine ⟨used, ?_⟩
  rw [execDeparm, issue_running hr]
  dsimp only
  rw [checked_usable hu', hk]
  dsimp only
  rw [recordArgs_eq hctx hst hn, hfree]
  exact hheld

end

theorem execDeparm_idle {a d : BitVec 5} {n g : BitVec 4} (hnone : r.gang.arch.first? = none)
    (hu : Usable s r { sr := [d.toNat, a.toNat], slices := r.gang.arch.first?.toList }) : execDeparm d a n g s = .next s := by
  rw [execDeparm, issue_running hr]
  dsimp only
  rw [checked_usable hu, hnone]
  exact congrArg Host.Outcome.next (setRun_running hr)

theorem execLaunch_idle {a d : BitVec 5} {t : BitVec 3} (hnone : r.gang.arch.first? = none)
    (hu : Usable s r { sr := [a.toNat], sw := [d.toNat], slices := r.gang.arch.first?.toList }) : execLaunch d a t s = .next s := by
  rw [execLaunch, issue_running hr]
  dsimp only
  rw [checked_usable hu, hnone]
  exact congrArg Host.Outcome.next (setRun_running hr)

/-- LAUNCH holds its request under the tag of its answer, which is pending (R273). -/
theorem execLaunch_holds {a d : BitVec 5} {t : BitVec 3} {k : Nat} (hk : r.gang.arch.first? = some k)
    (hu : Usable s r { sr := [a.toNat], sw := [d.toNat], slices := r.gang.arch.first?.toList }) :
    execLaunch d a t s = .next { s with
      nextId := s.nextId + 1
      cur := some { r with gang := { r.gang with
        held := r.gang.held ++ [⟨s.nextId, r.pc, r.cl.idx, 1, .launch (r.gang.arch.sget k a.toNat) (if t.toNat = 4 then r.gang.die else t.toNat) s.nextId⟩]
        pend := r.gang.pend ++ if d = 0#5 then [] else [⟨s.nextId, 1, d.toNat, 1, [], 1, []⟩] } } } := by
  rw [execLaunch, issue_running hr]
  dsimp only
  rw [checked_usable hu, hk]
  dsimp only
  rw [pend_scalar]
  rfl

/-- DEPSIG holds one signal for each active lane (R275). -/
theorem execDepsig_holds {a : BitVec 5} {m : BitVec 12} {lanes : List Nat} (hlanes : lanes = bitsOf r.gang.arch.exec)
    (hu : Usable s r { sr := [a.toNat], slices := slicesOf lanes }) (hid : ∀ l ∈ lanes, idCtx (r.gang.arch.sget (l / 4) a.toNat) = r.gang.ctx) :
    execDepsig a m s = .next (s.holding r 1 (.depsig (lanes.map fun l => (r.gang.arch.sget (l / 4) a.toNat, m.toNat)))) := by
  have hown : ((lanes.map fun l => r.gang.arch.sget (l / 4) a.toNat).find? fun id => idCtx id != r.gang.ctx) = none := by
    simp only [List.find?_eq_none, List.forall_mem_map, bne_iff_ne, ne_eq, not_not]
    exact hid
  rw [execDepsig, issue_running hr]
  dsimp only
  rw [← hlanes, checked_usable hu, hown]
  dsimp only
  rw [List.map_map]
  rfl

theorem execDepwait_idle {a : BitVec 5} (hnone : r.gang.arch.first? = none)
    (hu : Usable s r { sr := [a.toNat], slices := r.gang.arch.first?.toList }) : execDepwait a s = .next (s.endBy r 0 0#64 0#64) := by
  rw [execDepwait, issue_running hr]
  dsimp only
  rw [checked_usable hu, hnone]
  rfl

/-- DEPWAIT ends the flight on the counter of the gang's own context (R275). -/
theorem execDepwait_ends {a : BitVec 5} {k : Nat} (hk : r.gang.arch.first? = some k)
    (hu : Usable s r { sr := [a.toNat], slices := r.gang.arch.first?.toList }) (hid : idCtx (r.gang.arch.sget k a.toNat) = r.gang.ctx) :
    execDepwait a s = .next (s.endBy r 6 (r.gang.arch.sget k a.toNat) r.pc) := by
  rw [execDepwait, issue_running hr]
  dsimp only
  rw [checked_usable hu, hk]
  dsimp only
  rw [hid, if_neg (by simp)]

end

/-- Settles O48: the records are read one after another and held (`holdRecords_placed`), those of lanes without a read
(`foldl_holdLane_first`). -/
theorem enqueuesAndSignals : Obligations.EnqueuesAndSignals := by
  unfold Obligations.EnqueuesAndSignals
  intro s r d a n g m t st at_ tso hr hctx hst hn x pc act lanes first padded addrs record holds ends
  refine ⟨fun hu halign hreads => ?_, fun hu => ?_, fun hu => ⟨fun hnone => ?_, fun k hk => ?_⟩, fun hu hid => ?_,
    fun hu => ⟨fun hnone => ?_, fun k hk hid => ?_⟩, fun hu => ⟨fun hnone => ?_, fun k c hk hid hc harmed hfired halign hreads => ?_⟩⟩
  · obtain ⟨used, hexec⟩ := execEnq_holds hr hctx hst hn hu halign hreads
    exact issues_of_holdAll hexec
  · exact issues_of_holdAll (used := r.gang.used) (ls := []) (execEnqv_holds hr hctx hst hn rfl hu)
  · exact execLaunch_idle hr hnone hu
  · exact ⟨_, _, execLaunch_holds hr hk hu, rfl, rfl⟩
  · exact issues_of_holdAll (used := r.gang.used) (ls := []) (execDepsig_holds hr rfl hu hid)
  · exact execDepwait_idle hr hnone hu
  · exact execDepwait_ends hr hk hu hid
  · exact execDeparm_idle hr hnone hu
  · have hu' : Usable s r { sr := [d.toNat, a.toNat], slices := [k] } := by rwa [hk] at hu
    obtain ⟨used, hexec⟩ := execDeparm_holds hr hctx hst hn hk hu' hid hc harmed hfired halign hreads
    exact issues_of_holdAll hexec

end Sys2Proof

/-!
# What the device's own writes leave of the package and of memory (R307, R314)
-/

namespace Sys2Proof

open Machine

/-! ## The package -/

section
variable (s : State)

@[simp] theorem setBytes_pkg : ∀ (bs : List Byte) (s : State) (a : Nat), (s.setBytes a bs).pkg = s.pkg
  | [], _, _ => rfl
  | _ :: bs, s, a => setBytes_pkg bs (s.setByte a _) (a + 1)

@[simp] theorem announce_pkg (d : Nat) (vec : List Nat) (sends : Nat → List (Nat × Cargo)) : (s.announce d vec sends).pkg = s.pkg := by
  refine foldl_keeps (P := fun t : State => t.pkg = s.pkg) (fun t e ht => ?_) _ rfl
  split
  · exact ht
  · exact ht

@[simp] theorem refresh_pkg (a : Nat) (bs : List Byte) : (s.refresh a bs).pkg = s.pkg := by
  refine foldl_keeps (P := fun t : State => t.pkg = s.pkg) (fun t h ht => ?_) _ rfl
  dsimp only
  split
  · exact ht
  · rw [announce_pkg, ht]

@[simp] theorem device_pkg (a : Nat) (bs : List Byte) : (s.device a bs).pkg = s.pkg := by
  rw [State.device, refresh_pkg, setBytes_pkg]

@[simp] theorem markRunning_pkg (c : Nat) (on : Bool) : (s.markRunning c on).pkg = s.pkg := device_pkg _ _ _

theorem zeroHeaders_pkg (base stop : Nat) : ∀ (n pos : Nat) (s : State), (s.zeroHeaders base stop n pos).2.pkg = s.pkg
  | 0, _, _ => rfl
  | n + 1, pos, s => by
    unfold State.zeroHeaders
    split
    · rfl
    · split
      · rw [zeroHeaders_pkg base stop n, device_pkg]
      · rfl

theorem putSample_pkg (d type : Nat) (body : List DWord) : (s.putSample d type body).pkg = s.pkg := by
  unfold State.putSample
  extract_lets x base size head seq len wrap s1 pos
  have h1 : s1.pkg = s.pkg := by
    unfold s1
    split
    · exact device_pkg _ _ _
    · rfl
  have h2 := (zeroHeaders_pkg base (pos + len) (len / 8 + 1) pos s1).trans h1
  split
  next stop s2 hs2 =>
  rw [hs2] at h2
  dsimp only at h2 ⊢
  split <;> simp [h2]

theorem mark_pkg (d : Nat) : (s.mark d).pkg = s.pkg := by
  unfold State.mark State.sample
  dsimp only
  split
  · rfl
  · split
    · split
      · rw [putSample_pkg, State.onDie_pkg]
      · rfl
    · exact putSample_pkg _ _ _ _

@[simp] theorem markAll_pkg : s.markAll.pkg = s.pkg :=
  foldl_keeps (P := fun t : State => t.pkg = s.pkg) (fun t d ht => (mark_pkg t d).trans ht) _ rfl

end

/-! ## Memory -/

/-- Bytes that are written stand where they were put. -/
theorem byte_setBytes_inside (bs : List Byte) : ∀ (s : State) (a k : Nat), k < bs.length → (s.setBytes a bs).byte (a + k) = bs.getD k 0#8 := by
  induction bs with
  | nil => intro s a k h; exact absurd h (Nat.not_lt_zero k)
  | cons b bs ih =>
    intro s a k h
    rw [State.setBytes]
    cases k with
    | zero => rw [byte_setBytes_other _ _ _ _ (Or.inl (Nat.lt_succ_self (a + 0))), Nat.add_zero, byte_setByte, if_pos rfl, List.getD_cons_zero]
    | succ k => rw [show a + (k + 1) = a + 1 + k by omega, ih _ _ k (Nat.lt_of_succ_lt_succ h), List.getD_cons_succ]

/-- What the device writes is in memory as the bytes are. -/
theorem byte_device (s : State) (a q : Nat) (bs : List Byte) : (s.device a bs).byte q = (s.setBytes a bs).byte q := by
  rw [State.byte, device_mem]
  rfl

/-- A context's entry has its running bit as it is marked, and nothing else is written (R314). -/
theorem markRunning_marks (s : State) (c : Nat) (on : Bool) : ((s.markRunning c on).byte (s.entryAddr c + 85)).getLsbD 1 = on ∧
    ∀ a, a ≠ s.entryAddr c + 85 → (s.markRunning c on).byte a = s.byte a := by
  have hbyte (a : Nat) : (s.markRunning c on).byte a =
      if s.entryAddr c + 85 = a then (s.byte (s.entryAddr c + 85) &&& 0xFD#8) ||| (if on then 2#8 else 0#8) else s.byte a := by
    rw [State.markRunning, byte_device, State.setBytes, State.setBytes, byte_setByte]
  refine ⟨?_, fun a ha => by rw [hbyte, if_neg (Ne.symm ha)]⟩
  rw [hbyte, if_pos rfl, BitVec.getLsbD_or, BitVec.getLsbD_and, show (0xFD#8).getLsbD 1 = false from rfl, Bool.and_false, Bool.false_or]
  cases on <;> rfl

end Sys2Proof

/-!
# The commands of CTXCTL (R314, R316, R320)
-/

namespace Sys2Proof

open Machine

/-! ## The check that all commands share -/

section
variable {s : State} {c : Nat}

theorem ctx_congr {t : State} (h : t.pkg = s.pkg) (c : Nat) : t.ctx c = s.ctx c := by rw [State.ctx, h, State.ctx]

@[simp] theorem ctx_onCtx (f : Ctx → Ctx) : (s.onCtx c f).ctx c = f (s.ctx c) := by rw [State.ctx, State.onCtx_pkg, look_put_same]

@[simp] theorem ctx_useKeys (mask : DWord) (up : Bool) (k : Nat) : (s.useKeys mask up).ctx k = s.ctx k := rfl
@[simp] theorem ctx_onDie (d : Nat) (f : Die → Die) (k : Nat) : (s.onDie d f).ctx k = s.ctx k := rfl
@[simp] theorem ctx_zeroSequences (n k : Nat) : (s.zeroSequences n).ctx k = s.ctx k := rfl
@[simp] theorem ctx_unfused (n k : Nat) : (s.unfused n).ctx k = s.ctx k := rfl
@[simp] theorem ctx_markRunning (n : Nat) (on : Bool) (k : Nat) : (s.markRunning n on).ctx k = s.ctx k := ctx_congr (markRunning_pkg _ _ _) k
@[simp] theorem ctx_markAll (k : Nat) : s.markAll.ctx k = s.ctx k := ctx_congr (markAll_pkg _) k

/-- A command goes through with an answer in the context's CTXCTL and a state of which `P` holds (R314, R315). -/
def CtxAnswers (s : State) (c : Nat) (i : Instr) (v : Byte) (P : State → Prop) : Prop :=
  ∃ t, exec i s = .next t ∧ look 0#8 t.pkg.ctxctl c = v ∧ P t

/-- The answer is a command's last act. -/
theorem answers_setCtxctl {i : Instr} {u : State} {v : Byte} {P : State → Prop} (h : exec i s = .next (u.setCtxctl c v)) (hP : P (u.setCtxctl c v)) :
    CtxAnswers s c i v P :=
  ⟨_, h, look_put_same _ _ _ _, hP⟩

/-- A command of CTXCTL, with the states of its context in which it is legal (R314). -/
inductive CtxCommand (c : Nat) : Instr → List Nat → Prop
  | start : CtxCommand c (.ctxctlStart c) [0]
  | switchOut : CtxCommand c (.ctxctlSwitchOut c) [1]
  | resume : CtxCommand c (.ctxctlResume c) [3]
  | stop : CtxCommand c (.ctxctlEnd c) [1, 3]

theorem ctxCommand_of_mem {e : Instr × List Nat}
    (he : e ∈ ([(.ctxctlStart c, [0]), (.ctxctlSwitchOut c, [1]), (.ctxctlResume c, [3]), (.ctxctlEnd c, [1, 3])] : List (Instr × List Nat))) :
    CtxCommand c e.1 e.2 := by
  simp only [List.mem_cons, List.not_mem_nil, or_false] at he
  obtain rfl | rfl | rfl | rfl := he
  · exact .start
  · exact .switchOut
  · exact .resume
  · exact .stop

/-- Each command makes the shared check with its own condition. -/
theorem CtxCommand.exec_eq {i : Instr} {runs : List Nat} (h : CtxCommand c i runs) :
    ∃ name legal k, exec i s = s.command c name legal k ∧ ((s.ctx c).run < 4 → (s.ctx c).run ≠ 2 → (s.ctx c).run ∉ runs → legal = false) := by
  cases h with
  | start | switchOut | resume => exact ⟨_, _, _, rfl, fun _ _ h => by simpa using h⟩
  | stop =>
    refine ⟨_, _, _, rfl, fun hlt hne h => ?_⟩
    simp only [List.mem_cons, List.not_mem_nil, or_false] at h
    simp only [bne_eq_false_iff_eq]
    omega

variable (hcur : s.cur = none) (hc : c < 64) (hready : s.pkg.ready = true)
include hcur hc hready

/-- A command gets to its own work unless another is in progress or it is not legal. -/
theorem command_eq (name : String) (legal : Bool) (k : State) : s.command c name legal k =
    if s.inProgress c then .next (s.setCtxctl c 0x86#8) else if !legal then .next (s.setCtxctl c 0x82#8) else .next k := by
  rw [State.command, if_neg]
  simp [hcur, hready, Nat.not_le.2 hc]

theorem CtxCommand.exec_busy {i : Instr} {runs : List Nat} (h : CtxCommand c i runs) (hrun : (s.ctx c).run = 2) :
    exec i s = .next (s.setCtxctl c 0x86#8) := by
  obtain ⟨name, legal, k, hexec, -⟩ := h.exec_eq (s := s)
  rw [hexec, command_eq hcur hc hready, if_pos (by simp [State.inProgress, hrun])]

theorem CtxCommand.exec_illegal {i : Instr} {runs : List Nat} (h : CtxCommand c i runs) (hlt : (s.ctx c).run < 4) (hne : (s.ctx c).run ≠ 2)
    (hrun : (s.ctx c).run ∉ runs) : exec i s = .next (s.setCtxctl c 0x82#8) := by
  obtain ⟨name, legal, k, hexec, hlegal⟩ := h.exec_eq (s := s)
  rw [hexec, command_eq hcur hc hready, if_neg (by simp [State.inProgress, hne]), hlegal hlt hne hrun]
  rfl

theorem command_legal (hne : (s.ctx c).run ≠ 2) (name : String) (k : State) : s.command c name true k = .next k := by
  rw [command_eq hcur hc hready, if_neg (by simp [State.inProgress, hne])]
  rfl

end

/-! ## The entry (R314) -/

section
variable {s : State} {c : Nat} {k : State}

theorem withEntry_unreadable (h : s.entryReadable c = false) : s.withEntry c k = s.setCtxctl c 0x83#8 := by simp [State.withEntry, h]

theorem withEntry_malformed (h : s.entryReadable c = true) (hok : s.entryOk (s.entryBytes c) = false) :
    s.withEntry c k = s.setCtxctl c 0x84#8 := by simp [State.withEntry, h, hok]

theorem withEntry_ok (h : s.entryReadable c = true) (hok : s.entryOk (s.entryBytes c) = true) : s.withEntry c k = k := by
  simp [State.withEntry, h, hok]

theorem withEntry_withEntry : s.withEntry c (s.withEntry c k) = s.withEntry c k := by
  cases h : s.entryReadable c with
  | false => rw [withEntry_unreadable h, withEntry_unreadable h]
  | true =>
    cases hok : s.entryOk (s.entryBytes c) with
    | false => rw [withEntry_malformed h hok, withEntry_malformed h hok]
    | true => rw [withEntry_ok h hok]

/-- START makes the check of the entry itself. -/
theorem withEntry_startContext : s.withEntry c (s.startContext c) = s.startContext c := by
  obtain ⟨k, hk⟩ : ∃ k, s.startContext c = s.withEntry c k := ⟨_, rfl⟩
  rw [hk, withEntry_withEntry]

/-- So does RESUME. -/
theorem withEntry_resume : s.withEntry c (s.resume c) = s.resume c := by
  obtain ⟨k, hk⟩ : ∃ k, s.resume c = s.withEntry c k := ⟨_, rfl⟩
  rw [hk, withEntry_withEntry]

/-- A command that is legal checks its entry before anything else. -/
theorem execCtxctlStart_legal (hcur : s.cur = none) (hc : c < 64) (hready : s.pkg.ready = true) (hrun : (s.ctx c).run = 0) :
    exec (.ctxctlStart c) s = .next (s.withEntry c (s.startContext c)) := by
  have hlegal : ((s.ctx c).run == 0) = true := by simp [hrun]
  rw [withEntry_startContext, ← command_legal hcur hc hready (by omega) "CTXCTL_START", ← hlegal]
  rfl

theorem execCtxctlSwitchOut_legal (hcur : s.cur = none) (hc : c < 64) (hready : s.pkg.ready = true) (hrun : (s.ctx c).run = 1) :
    exec (.ctxctlSwitchOut c) s = .next (s.withEntry c (s.switchOut c)) := by
  have hlegal : ((s.ctx c).run == 1) = true := by simp [hrun]
  rw [← command_legal hcur hc hready (by omega) "CTXCTL_SWITCH_OUT", ← hlegal]
  rfl

theorem execCtxctlResume_legal (hcur : s.cur = none) (hc : c < 64) (hready : s.pkg.ready = true) (hrun : (s.ctx c).run = 3) :
    exec (.ctxctlResume c) s = .next (s.withEntry c (s.resume c)) := by
  have hlegal : ((s.ctx c).run == 3) = true := by simp [hrun]
  rw [withEntry_resume, ← command_legal hcur hc hready (by omega) "CTXCTL_RESUME", ← hlegal]
  rfl

theorem execCtxctlEnd_legal (hcur : s.cur = none) (hc : c < 64) (hready : s.pkg.ready = true) (hrun : (s.ctx c).run = 1 ∨ (s.ctx c).run = 3) :
    exec (.ctxctlEnd c) s = .next (s.withEntry c (s.endContext c)) := by
  have hlegal : ((s.ctx c).run != 0) = true := by simp only [bne_iff_ne]; omega
  rw [← command_legal hcur hc hready (by omega) "CTXCTL_END", ← hlegal]
  rfl

/-- A command on a context that runs or is out gets no further than an entry that it cannot use. -/
theorem exec_withEntry (hcur : s.cur = none) (hc : c < 64) (hready : s.pkg.ready = true) (hrun : (s.ctx c).run = 1 ∨ (s.ctx c).run = 3) {i : Instr}
    (hi : i ∈ ([.ctxctlSwitchOut c, .ctxctlResume c, .ctxctlEnd c] : List Instr)) (hout : i = .ctxctlSwitchOut c → (s.ctx c).run = 1)
    (hresume : i = .ctxctlResume c → (s.ctx c).run = 3) : ∃ k, exec i s = .next (s.withEntry c k) := by
  simp only [List.mem_cons, List.not_mem_nil, or_false] at hi
  obtain rfl | rfl | rfl := hi
  · exact ⟨_, execCtxctlSwitchOut_legal hcur hc hready (hout rfl)⟩
  · exact ⟨_, execCtxctlResume_legal hcur hc hready (hresume rfl)⟩
  · exact ⟨_, execCtxctlEnd_legal hcur hc hready hrun⟩

section
variable {i : Instr} {v : Byte} {P : State → Prop} (hexec : exec i s = .next (s.withEntry c k))
include hexec

theorem answers_unreadable (h : s.entryReadable c = false) (hP : P (s.setCtxctl c 0x83#8)) : CtxAnswers s c i 0x83#8 P :=
  answers_setCtxctl (hexec.trans (congrArg _ (withEntry_unreadable h))) hP

theorem answers_malformed (h : s.entryReadable c = true) (hok : s.entryOk (s.entryBytes c) = false) (hP : P (s.setCtxctl c 0x84#8)) :
    CtxAnswers s c i 0x84#8 P :=
  answers_setCtxctl (hexec.trans (congrArg _ (withEntry_malformed h hok))) hP

/-- Where the entry is in order the command's own work gives the answer. -/
theorem answers_ok {u : State} (h : s.entryReadable c = true) (hok : s.entryOk (s.entryBytes c) = true) (hk : k = u.setCtxctl c v)
    (hP : P (u.setCtxctl c v)) : CtxAnswers s c i v P :=
  answers_setCtxctl (hexec.trans (congrArg _ ((withEntry_ok h hok).trans hk))) hP

end

/-! ## What each command does -/

/-- A context as its entry gives it when it starts: what of its earlier use is still to be told stays (R314, R317). -/
def Machine.Ctx.started (x : Ctx) (bs : List Byte) : Ctx :=
  { ctxOf bs with compHeld := x.compHeld, ring := x.ring, completions := x.completions, produced := x.produced }

theorem startContext_eq (h : s.entryReadable c = true) (hok : s.entryOk (s.entryBytes c) = true) : s.startContext c =
    ((((s.onCtx c fun x => x.started (s.entryBytes c)).zeroSequences c).useKeys (ctxOf (s.entryBytes c)).keymask true).markRunning c true).setCtxctl c 0#8 := by
  rw [State.startContext, if_neg (by simp [h]), if_neg (by simp [hok])]
  rfl

/-- A start writes only the running bit of the entry. -/
theorem startContext_ok (h : s.entryReadable c = true) (hok : s.entryOk (s.entryBytes c) = true) :
    ∃ u : State, s.startContext c = u.setCtxctl c 0#8 ∧ u.ctx c = (s.ctx c).started (s.entryBytes c) ∧
      (u.byte (s.entryAddr c + 85)).getLsbD 1 = true ∧ ∀ a, a ≠ s.entryAddr c + 85 → u.byte a = s.byte a := by
  refine ⟨_, startContext_eq h hok, ?_, ?_⟩
  · rw [ctx_markRunning, ctx_useKeys, ctx_zeroSequences, ctx_onCtx]
  · exact markRunning_marks (((s.onCtx c fun x => x.started (s.entryBytes c)).zeroSequences c).useKeys (ctxOf (s.entryBytes c)).keymask true) c true

/-- A switch-out begins a drain that the context's timer bounds (R278, R320). -/
theorem switchOut_drains : ∃ u : State, s.switchOut c = u.setCtxctl c 2#8 ∧
    u.ctx c = { s.ctx c with run := 2, drainEnd := some (s.time + (if (s.ctx c).ptimer = 0 then 20 else (s.ctx c).ptimer) * 1000) } := by
  refine ⟨_, rfl, ?_⟩
  rw [ctx_markAll, ctx_unfused, ctx_onCtx, Ctx.timer]

/-- Images of a context that move to other cores leave the contexts as they are (R320). -/
theorem rehomes_ctxs (s : State) (c : Nat) : (s.rehomes c).pkg.ctxs = s.pkg.ctxs := by
  refine foldl_keeps (P := fun t : State => t.pkg.ctxs = s.pkg.ctxs) (fun t d ht => ?_) _ rfl
  refine foldl_keeps (P := fun t : State => t.pkg.ctxs = s.pkg.ctxs) (fun u a hu => ?_) _ ht
  have hpick : ∀ n, (u.pick n).2.pkg.ctxs = s.pkg.ctxs := fun n => by
    unfold State.pick
    split <;> exact hu
  split
  · exact hu
  · dsimp only
    split
    · exact hpick _
    · exact hu

theorem resume_unsaved (h : s.entryReadable c = true) (hok : s.entryOk (s.entryBytes c) = true) (hsave : s.saveOk c = false) :
    s.resume c = s.setCtxctl c 0x85#8 := by
  unfold State.resume
  rw [if_neg (by simp [h]), if_neg (by simp [hok])]
  dsimp only
  rw [if_pos (by simp [hsave])]

/-- A context without instances has no image that a die lacks room for. -/
theorem noInstances (hnone : ∀ e ∈ s.dies, ∀ i ∈ e.2.insts, i.2.ctx ≠ c) (d : Nat) : (s.die d).insts.all (fun i => i.2.ctx != c) = true := by
  simp only [List.all_eq_true, bne_iff_ne]
  cases hd : look? s.dies d with
  | none => simp [State.die, look, hd, Die.reset]
  | some x =>
    have hmem : (d, x) ∈ s.dies := mem_of_look? hd
    simpa [State.die, look, hd] using hnone _ hmem

/-- A context that comes back without instances is as its entry gives it, and goes on with its chain and what is still to be told (R320). -/
theorem resume_ok (h : s.entryReadable c = true) (hok : s.entryOk (s.entryBytes c) = true) (hsave : s.saveOk c = true)
    (hnone : ∀ e ∈ s.dies, ∀ i ∈ e.2.insts, i.2.ctx ≠ c) (hsaved : (s.ctx c).saved = []) :
    ∃ u : State, s.resume c = u.setCtxctl c 0#8 ∧ u.ctx c = (s.ctx c).restored (s.entryBytes c) := by
  unfold State.resume
  rw [if_neg (by simp [h]), if_neg (by simp [hok])]
  dsimp only
  rw [if_neg (by simp [hsave]), hsaved, if_neg, List.foldl_nil, List.foldl_nil]
  · refine ⟨_, rfl, ?_⟩
    rw [ctx_markRunning, ctx_markAll, ctx_useKeys, ctx_useKeys, State.ctx, rehomes_ctxs]
    exact ctx_onCtx _
  · have hfits (d : Nat) : ((s.onCtx c fun x => x.restored (s.entryBytes c)).die d).insts.all (fun i => i.2.ctx != c) = true := noInstances (s := s) hnone d
    simp [hfits]

/-- An ended context has no tensors and is not started (R314). -/
theorem endContext_ends : ∃ u : State, s.endContext c = u.setCtxctl c 0#8 ∧ (u.ctx c).run = 0 ∧ (u.ctx c).tensors = [] := by
  refine ⟨_, rfl, ?_, ?_⟩ <;> rw [ctx_markRunning, ctx_onCtx]

end
end Sys2Proof

/-!
# What ends a drain (R277, R278, R320)
-/

namespace Sys2Proof

open Machine

section
variable {s : State} {c : Nat}

theorem pick_pkg (n : Nat) : (s.pick n).2.pkg = s.pkg := by unfold State.pick; split <;> rfl

theorem pick_mem (n : Nat) : (s.pick n).2.mem = s.mem := by unfold State.pick; split <;> rfl

theorem saveImage_pkg (slacks : List (Nat × Int)) : (s.saveImage c slacks).2.pkg = s.pkg := by
  unfold State.saveImage
  exact pick_pkg (s := s) _

theorem saveImage_mem (slacks : List (Nat × Int)) : (s.saveImage c slacks).2.mem = s.mem := by
  unfold State.saveImage
  exact pick_mem (s := s) _

/-- An image begins with its length, a doubleword. -/
theorem saveImage_length (slacks : List (Nat × Int)) : 8 ≤ (s.saveImage c slacks).1.length := by
  unfold State.saveImage
  dsimp only
  rw [List.length_append, List.length_append, List.length_append, bytesN_length]
  omega

/-- A context goes out by writing its image in its save area: it is out then, and its entry says so. -/
theorem switchedOut_eq (s : State) (c : Nat) : ∃ (u : State) (slacks : List (Nat × Int)) (image : List Byte),
    u.pkg = s.pkg ∧ u.mem = s.mem ∧ 8 ≤ image.length ∧
    s.switchedOut c = (((u.device (u.saveAddr c) image).onCtx c fun x =>
      { x with run := 3, drainEnd := none, saved := slacks, image := image }).markRunning c false).setCtxctl c 0#8 := by
  unfold State.switchedOut
  extract_lets slacks t
  split
  next image u hu =>
  refine ⟨u, slacks, image, ?_, ?_, ?_, rfl⟩
  · exact (congrArg (State.pkg ∘ Prod.snd) hu).symm.trans (saveImage_pkg slacks)
  · exact (congrArg (State.mem ∘ Prod.snd) hu).symm.trans (saveImage_mem slacks)
  · exact (saveImage_length slacks).trans_eq (congrArg (List.length ∘ Prod.fst) hu)

/-- What a context is once it is out, and what that has written: its image and its entry's running bit. -/
theorem switchedOut_out (s : State) (c : Nat) : ∃ u : State, s.switchedOut c = u.setCtxctl c 0#8 ∧ (u.ctx c).run = 3 ∧ (u.ctx c).drainEnd = none ∧
    8 ≤ (u.ctx c).image.length ∧
    (∀ k < (u.ctx c).image.length, s.saveAddr c + k ≠ s.entryAddr c + 85 → u.byte (s.saveAddr c + k) = (u.ctx c).image.getD k 0#8) ∧
    (u.byte (s.entryAddr c + 85)).getLsbD 1 = false ∧
    ∀ a, a ≠ s.entryAddr c + 85 → ¬ (s.saveAddr c ≤ a ∧ a < s.saveAddr c + (u.ctx c).image.length) → u.byte a = s.byte a := by
  obtain ⟨u, slacks, image, hpkg, hmem, hlength, heq⟩ := switchedOut_eq s c
  have hsave : u.saveAddr c = s.saveAddr c := by rw [State.saveAddr, ctx_congr hpkg, State.saveAddr]
  rw [hsave] at heq
  generalize hw : (u.device (s.saveAddr c) image).onCtx c (fun x => { x with run := 3, drainEnd := none, saved := slacks, image := image }) = w at heq
  have hentry : w.entryAddr c = s.entryAddr c := by
    rw [← hw, State.entryAddr, State.onCtx_pkg, device_pkg, hpkg, State.entryAddr]
  have hbyte (a : Nat) : w.byte a = (u.setBytes (s.saveAddr c) image).byte a := by
    rw [← hw, ← byte_device]
    rfl
  have hctx : (w.markRunning c false).ctx c =
      { (u.device (s.saveAddr c) image).ctx c with run := 3, drainEnd := none, saved := slacks, image := image } := by
    rw [ctx_markRunning, ← hw, ctx_onCtx]
  obtain ⟨hbit, hrest⟩ := markRunning_marks w c false
  rw [hentry] at hbit hrest
  refine ⟨_, heq, ?_⟩
  rw [hctx]
  refine ⟨rfl, rfl, hlength, fun k hk hne => ?_, hbit, fun a hne hout => ?_⟩
  · rw [hrest _ hne, hbyte, byte_setBytes_inside _ _ _ _ hk]
  · rw [hrest _ hne, hbyte, byte_setBytes_other _ _ _ _ (by dsimp only at hout; omega), State.byte, hmem, State.byte]

variable (hcur : s.cur = none) (hrun : (s.ctx c).run = 2)
include hcur hrun

theorem execContextDrainDone_drained (h : s.drained c = true) : exec (.contextDrainDone c) s = .next (s.switchedOut c) :=
  if_pos (by simp [hcur, hrun, h])

/-- A drain whose timer has run out resets the context, which is then out too (R278). -/
theorem execPreemptTimeout_due {n : Nat} (hend : (s.ctx c).drainEnd = some n) (hn : n ≤ s.time) :
    ∃ u : State, exec (.preemptTimeout c) s = .next (u.switchedOut c) := by
  have hreset : exec (.preemptTimeout c) s = .next (s.resetContext c) := if_pos (by simp [hcur, hrun, hend, hn])
  refine ⟨_, hreset.trans (congrArg Host.Outcome.next (if_neg ?_))⟩
  simp [hrun]

end
end Sys2Proof

/-!
# The launch chain (R316)
-/

namespace Sys2Proof

open Machine

section
variable {s : State} {c : Nat}

theorem stopChain_stops (a : Nat) : ((s.stopChain c a).ctx c).chainStop = true := by
  rw [State.stopChain, State.toHost, ctx_onCtx, ctx_onCtx]

/-- A record that is presented is the chain's last one read. -/
theorem present_chainSeq (a : Nat) (bs : List Byte) : ((s.present c a bs).ctx c).chainSeq = numAt bs 8 8 := by
  unfold State.present
  dsimp only
  split
  · rw [ctx_onDie, ctx_onCtx]
  · split
    · rw [ctx_onCtx, ctx_onCtx]
    · rw [ctx_onCtx, ctx_congr (pick_pkg _), ctx_onCtx]

/-- It is a launch request on its die, where it has one. -/
theorem present_die {a d : Nat} {bs : List Byte} (h : s.chainDie c (numAt bs 24 1) = some d) : ((s.present c a bs).die d).vestibule =
    (s.die d).vestibule ++ [⟨c, BitVec.ofNat 64 (numAt bs 16 8), 0, some (BitVec.ofNat 64 a), false, [0, 0, 0, 0], none, [], s.time⟩] := by
  unfold State.present
  dsimp only
  rw [h]
  dsimp only
  rw [die_onDie_same]
  rfl

variable (hcur : s.cur = none) (hrun : (s.ctx c).run = 1) (hstop : (s.ctx c).chainStop = false)
  (hseq : (s.ctx c).chainSeq < (look 0#64 s.pkg.tails c).toNat) (hwants : s.chainWants c = [])
include hcur hrun hstop hseq hwants

theorem chainRecord_enabled : ¬ (s.cur.isSome || !s.chainOpen c || !(s.chainWants c).isEmpty) = true := by
  simp [State.chainOpen, hcur, hrun, hstop, hseq, hwants]

/-- A chain with a record to read stops there or gets on by one. -/
theorem execChainRecord_goesOn : ∃ t, exec (.chainRecord c) s = .next t ∧ ((t.ctx c).chainStop = true ∨ (t.ctx c).chainSeq = (s.ctx c).chainSeq + 1) := by
  rw [exec_chainRecord]
  unfold execChainRecord
  extract_lets x next
  rw [if_neg (chainRecord_enabled hcur hrun hstop hseq hwants)]
  clear_value next
  split
  · exact ⟨_, rfl, .inl (stopChain_stops _)⟩
  · exact ⟨_, rfl, .inl (stopChain_stops _)⟩
  · split
    · exact ⟨_, rfl, .inl (stopChain_stops _)⟩
    · split
      next hnum => exact ⟨_, rfl, .inr ((present_chainSeq _ _).trans hnum)⟩
      next => exact ⟨_, rfl, .inl (stopChain_stops _)⟩

/-- The first record of a chain that can be read and has its number is presented. -/
theorem execChainRecord_first {bs : List Byte} (hfirst : (s.ctx c).chainSeq = 0) (hne : (s.ctx c).chainNext.toNat ≠ 0)
    (halign : (s.ctx c).chainNext.toNat % 64 = 0) (hread : s.readable? 0 c (s.ctx c).chainNext.toNat 64 [] = some bs) (hnum : numAt bs 8 8 = 1) :
    exec (.chainRecord c) s = .next (s.present c (s.ctx c).chainNext.toNat bs) := by
  rw [exec_chainRecord]
  unfold execChainRecord
  dsimp only
  rw [if_neg (chainRecord_enabled hcur hrun hstop hseq hwants), if_pos hfirst]
  split
  next h => cases h
  next h => exact absurd (Option.some.inj h) hne
  next a _ h =>
    rw [← Option.some.inj h, if_pos halign, hread]
    dsimp only
    rw [if_pos (by rw [hnum, hfirst])]

end
end Sys2Proof

/-!
# Bring-up and attestation (R319, R322, R323)
-/

namespace Sys2Proof

open Machine

section
variable {s : State} {f : Fuses}

theorem execBringUp_unsigned (hready : s.pkg.ready = false) (hpart : ofPart f = true) (hsigned : f.signedBy ≠ f.vendorKey) :
    exec (.bringUp f) s = .next s := by
  rw [exec_bringUp, execBringUp, if_neg (by simp [hready, hpart]), if_pos hsigned]

/-- The firmware's gangs that bring-up starts, one on each die, with two numbers each. -/
def firmwareGangs (s : State) (f : Fuses) : List Gang :=
  [0, 1, 2, 3].map fun d => firmwareGang (s.nextId + 2 * d) (s.nextId + 2 * d + 1) d (s.nextId + 2 * d) f.ccEntry

/-- The package after bring-up by firmware that its vendor has signed. -/
theorem execBringUp_signed (hready : s.pkg.ready = false) (hpart : ofPart f = true) (hsigned : f.signedBy = f.vendorKey) :
    exec (.bringUp f) s = .next { s with
      gangs := s.gangs ++ firmwareGangs s f
      free := s.free + 512
      nextId := s.nextId + 8
      pkg := { s.pkg with grade := f.grade, stepping := f.stepping, ready := true }
      dies := s.dies.map fun e => (e.1, e.2.broughtUp e.1 s.free f) } := by
  have hgangs : s.gangs ++ firmwareGangs s f = s.gangs ++ [firmwareGang s.nextId (s.nextId + 1) 0 s.nextId f.ccEntry] ++
      [firmwareGang (s.nextId + 2) (s.nextId + 3) 1 (s.nextId + 2) f.ccEntry] ++ [firmwareGang (s.nextId + 4) (s.nextId + 5) 2 (s.nextId + 4) f.ccEntry] ++
      [firmwareGang (s.nextId + 6) (s.nextId + 7) 3 (s.nextId + 6) f.ccEntry] := by
    simp [firmwareGangs]
  rw [exec_bringUp, execBringUp, if_neg (by simp [hready, hpart]), if_neg (by simp [hsigned]), hgangs]
  rfl

/-- A die that the package has is brought up by its fuses (R322). -/
theorem die_broughtUp {d : Nat} (h : look? s.dies d ≠ none) (free : Nat) :
    look Die.reset (s.dies.map fun e => (e.1, e.2.broughtUp e.1 free f)) d = (s.die d).broughtUp d free f := by
  obtain ⟨x, hx⟩ := Option.ne_none_iff_exists'.1 h
  have hlook : look? (s.dies.map fun e => (e.1, e.2.broughtUp e.1 free f)) d = some (x.broughtUp d free f) := by
    rw [← Option.map_some (f := fun x : Die => x.broughtUp d free f), ← hx]
    exact look?_mapEntries (fun d (x : Die) => x.broughtUp d free f) _ _
  rw [look, hlook, State.die, look, hx]
  rfl

/-- The logical core map has the sites that passed their scan, each under its own number. -/
theorem mem_coremap_broughtUp (x : Die) (d free k : Nat) : (k, k) ∈ (x.broughtUp d free f).coremap ↔ k ∈ sitesOf f d ∧ (d, k) ∉ f.failed := by
  simp [Die.broughtUp]

theorem execAttestationRequest_ready (hready : s.pkg.ready = true) (nonce : BitVec 256) : exec (.attestationRequest nonce) s =
    .next { s with pkg := { s.pkg with reports := s.pkg.reports ++ [s.reportBody nonce ++ Config.attest (s.reportBody nonce)] } } := by
  rw [exec_attestationRequest, execAttestationRequest, if_pos hready]
  rfl

/-- A report begins with the nonce that asked for it (R319). -/
theorem report_take_nonce (nonce : BitVec 256) (rest : List Byte) :
    (s.reportBody nonce ++ rest).take 32 = (List.range 32).map fun i => nonce.extractLsb' (8 * i) 8 := by
  rw [State.reportBody, List.append_assoc, List.append_assoc]
  exact List.take_left' (by simp)

end

/-- Settles O55: each command makes the shared check and that of its entry (`CtxCommand.exec_eq`, `exec_withEntry`), and its last act is its
answer (`answers_setCtxctl`); a drain ends with the image in the save area (`switchedOut_out`). -/
theorem contextEvents : Obligations.ContextEvents := by
  unfold Obligations.ContextEvents
  intro s c fuses nonce hcur x entry bs answers commands
  refine ⟨fun hc hready => ⟨fun hrun e he => ?_, fun hlt hne e he hnot => ?_, fun hrun => ⟨fun h => ?_, fun h hok => ?_, fun h hok => ?_⟩,
    fun hrun h i hi hout hres => ?_, fun hrun h hok i hi hout hres => ?_, fun hrun h hok => ?_,
    fun hrun h hok => ⟨fun hsave => ?_, fun hsave hnone hsaved => ?_⟩, fun hrun h hok => ?_⟩, fun hrun hdrained => ?_, fun n hrun hend hn => ?_,
    fun hrun hstop hseq hwants => ⟨?_, fun rec_ d hfirst hne halign hread hnum hd => ?_⟩,
    fun hready hpart hsigned => ?_, fun hready hpart hsigned => ?_, fun hready => ?_⟩
  · exact answers_setCtxctl (CtxCommand.exec_busy hcur hc hready (ctxCommand_of_mem he) hrun) rfl
  · exact answers_setCtxctl (CtxCommand.exec_illegal hcur hc hready (ctxCommand_of_mem he) hlt hne hnot) rfl
  · exact answers_unreadable (execCtxctlStart_legal hcur hc hready hrun) h rfl
  · exact answers_malformed (execCtxctlStart_legal hcur hc hready hrun) h hok rfl
  · obtain ⟨u, hu, hctx, hbit, hrest⟩ := startContext_ok h hok
    exact answers_ok (execCtxctlStart_legal hcur hc hready hrun) h hok hu ⟨hctx, hbit, hrest⟩
  · obtain ⟨k, hk⟩ := exec_withEntry hcur hc hready hrun hi hout hres
    exact answers_unreadable hk h rfl
  · obtain ⟨k, hk⟩ := exec_withEntry hcur hc hready hrun hi hout hres
    exact answers_malformed hk h hok rfl
  · obtain ⟨u, hu, hctx⟩ := switchOut_drains (s := s) (c := c)
    exact answers_ok (execCtxctlSwitchOut_legal hcur hc hready hrun) h hok hu hctx
  · exact answers_ok (execCtxctlResume_legal hcur hc hready hrun) h hok (resume_unsaved h hok hsave) rfl
  · obtain ⟨u, hu, hctx⟩ := resume_ok h hok hsave hnone hsaved
    exact answers_ok (execCtxctlResume_legal hcur hc hready hrun) h hok hu hctx
  · obtain ⟨u, hu, hends⟩ := endContext_ends (s := s) (c := c)
    exact answers_ok (execCtxctlEnd_legal hcur hc hready hrun) h hok hu hends
  · obtain ⟨u, hu, hout⟩ := switchedOut_out s c
    exact answers_setCtxctl ((execContextDrainDone_drained hcur hrun hdrained).trans (congrArg _ hu)) hout
  · obtain ⟨w, hw⟩ := execPreemptTimeout_due hcur hrun hend hn
    obtain ⟨u, hu, hout, -⟩ := switchedOut_out w c
    exact answers_setCtxctl (hw.trans (congrArg _ hu)) hout
  · exact execChainRecord_goesOn hcur hrun hstop hseq hwants
  · refine ⟨_, execChainRecord_first hcur hrun hstop hseq hwants hfirst hne halign hread hnum, (present_chainSeq _ _).trans hnum, ?_⟩
    rw [present_die hd, BitVec.ofNat_toNat, BitVec.setWidth_eq]
  · exact execBringUp_unsigned hready hpart hsigned
  · refine ⟨_, execBringUp_signed hready hpart hsigned, rfl, rfl, rfl, rfl, fun d _ hd => ?_, _, rfl, rfl⟩
    have hdie := die_broughtUp (f := fuses) hd s.free
    exact ⟨congrArg Die.sites hdie, congrArg Die.permits hdie, fun k => (congrArg ((k, k) ∈ Die.coremap ·) hdie).to_iff.trans (mem_coremap_broughtUp _ d _ k)⟩
  · exact ⟨_, _, execAttestationRequest_ready hready nonce, rfl, report_take_nonce nonce _⟩

end Sys2Proof

/-!
# The package right after power-good (R315, R323)
-/

namespace Sys2Proof

open Machine

/-- Every die is as a die at power-good, those of the package by their entry and the others for want of one. -/
theorem die_reset (d : Nat) : State.reset.die d = Die.reset := by
  unfold State.die State.reset look
  simp only [look?]
  split_ifs <;> rfl

/-- Settles O59: no context has an entry, memory lists no byte and no line, and every die is one at power-good (`die_reset`). -/
theorem resetState : Obligations.ResetState := by
  unfold Obligations.ResetState
  refine ⟨⟨rfl, rfl⟩, rfl, rfl, rfl, rfl, fun _ => rfl, fun _ => ⟨rfl, rfl⟩, fun d n => ?_⟩
  rw [die_reset]
  exact ⟨rfl, rfl⟩

end Sys2Proof

/-!
# Writes at their home, and what their report leaves (R161, R247, R307, R318)
-/

namespace Sys2Proof

open Machine

/-! ## Memory -/

/-- Read after write of bytes. -/
theorem byte_setBytes (s : State) (p q : Nat) (bs : List Byte) :
    (s.setBytes p bs).byte q = if p ≤ q ∧ q < p + bs.length then bs.getD (q - p) 0#8 else s.byte q := by
  split
  next h =>
    obtain ⟨k, rfl⟩ := Nat.exists_eq_add_of_le h.1
    rw [byte_setBytes_inside bs s p k (by omega), Nat.add_sub_cancel_left]
  next h => exact byte_setBytes_other bs s p q (by omega)

/-- Bytes that are written at a physical place are written in memory. -/
theorem writeN_phys (d inst : Nat) : ∀ (bs : List Byte) (s : State) (pa : Nat), s.writeN d inst (.phys pa) bs = s.setBytes pa bs
  | [], _, _ => rfl
  | b :: bs, s, pa => writeN_phys d inst bs (s.setByte pa b) (pa + 1)

/-- What bytes make of memory depends on memory alone. -/
theorem setBytes_mem {s t : State} (h : t.mem = s.mem) : ∀ (pa : Nat) (bs : List Byte), (t.setBytes pa bs).mem = (s.setBytes pa bs).mem
  | _, [] => h
  | pa, b :: bs => setBytes_mem (s := s.setByte pa b) (t := t.setByte pa b) (congrArg (put unlisted · pa b) h) (pa + 1) bs

theorem fillL2_mem (s : State) (pa : Nat) : (s.fillL2 pa).mem = s.mem := by unfold State.fillL2; split <;> rfl

/-! ## The replicas and counters of the dies -/

/-- The package, the effects on their way, and what the dies have applied and hold of other dies are as they were. -/
structure SameReplicas (s t : State) : Prop where
  pkg : t.pkg = s.pkg
  drain : t.drain = s.drain
  applied : ∀ e, (t.die e).applied = (s.die e).applied
  replicas : ∀ e, (t.die e).replicas = (s.die e).replicas
  pendingFill : ∀ e, (t.die e).pendingFill = (s.die e).pendingFill

namespace SameReplicas

variable {s t u : State}

theorem refl : SameReplicas s s := ⟨rfl, rfl, fun _ => rfl, fun _ => rfl, fun _ => rfl⟩

theorem trans (h : SameReplicas s t) (h' : SameReplicas t u) : SameReplicas s u :=
  ⟨h'.pkg.trans h.pkg, h'.drain.trans h.drain, fun e => (h'.applied e).trans (h.applied e), fun e => (h'.replicas e).trans (h.replicas e),
   fun e => (h'.pendingFill e).trans (h.pendingFill e)⟩

theorem onDie {d : Nat} {f : Die → Die} (hf : ∀ x, (f x).applied = x.applied ∧ (f x).replicas = x.replicas ∧ (f x).pendingFill = x.pendingFill) :
    SameReplicas s (s.onDie d f) := by
  have hdie {α : Type} (p : Die → α) (hp : ∀ x, p (f x) = p x) (e : Nat) : p ((s.onDie d f).die e) = p (s.die e) := by
    rw [die_onDie]
    split
    next h => rw [hp, h]
    next => rfl
  exact ⟨rfl, rfl, hdie (·.applied) fun x => (hf x).1, hdie (·.replicas) fun x => (hf x).2.1, hdie (·.pendingFill) fun x => (hf x).2.2⟩

theorem onGang {n : Nat} {f : Gang → Gang} : SameReplicas s (s.onGang n f) := ⟨rfl, rfl, fun _ => rfl, fun _ => rfl, fun _ => rfl⟩

theorem replicates (h : SameReplicas s t) (e line : Nat) : (t.die e).replicates line = (s.die e).replicates line := by
  rw [Die.replicates, h.replicas, h.pendingFill, Die.replicates]

theorem setBytes : ∀ (bs : List Byte) (s : State) (pa : Nat), SameReplicas s (s.setBytes pa bs)
  | [], _, _ => refl
  | b :: bs, s, pa => trans (t := s.setByte pa b) ⟨rfl, rfl, fun _ => rfl, fun _ => rfl, fun _ => rfl⟩ (setBytes bs (s.setByte pa b) (pa + 1))

theorem dropL1 {d line but : Nat} : SameReplicas s (s.dropL1 d line but) := onDie fun _ => ⟨rfl, rfl, rfl⟩

theorem fillL2 {pa : Nat} : SameReplicas s (s.fillL2 pa) := by
  unfold State.fillL2
  split
  · exact refl
  · exact onDie fun _ => ⟨rfl, rfl, rfl⟩

/-- A report of watched words counts them and notes them in the gangs that watch. -/
theorem reportWatched (before t : State) : SameReplicas t (before.reportWatched t) := by
  refine foldl_keeps (P := SameReplicas t) (fun u g hu => ?_) _ refl
  dsimp only
  split
  · exact hu
  · split
    · exact hu
    · refine hu.trans ?_
      split
      · refine trans ?_ onGang
        exact onDie fun _ => ⟨rfl, rfl, rfl⟩
      · exact onDie fun _ => ⟨rfl, rfl, rfl⟩

end SameReplicas

theorem reportWatched_mem (before t : State) : (before.reportWatched t).mem = t.mem := by
  refine foldl_keeps (P := fun u : State => u.mem = t.mem) (fun u g hu => ?_) _ rfl
  dsimp only
  split
  · exact hu
  · split
    · exact hu
    · split <;> exact hu

/-! ## A store at its home (R247, R318) -/

/-- A line that nobody has written through another key takes the write's key and keeps its bytes (log 53). -/
theorem tagLine_own {s : State} {pa tag : Nat} (hown : look 0 s.owners (pa / 64) = 0 ∨ look 0 s.owners (pa / 64) = tag) :
    ∃ os, s.tagLine pa tag = { s with owners := os } := by
  unfold State.tagLine
  dsimp only
  split
  next => exact ⟨s.owners, rfl⟩
  next h =>
    have hnone : look 0 s.owners (pa / 64) = 0 := hown.resolve_right fun htag => h (by simp [htag])
    rw [if_pos hnone]
    exact ⟨_, rfl⟩

/-- A store at its home writes its bytes in memory, and leaves what the dies hold of other dies. -/
theorem storeAt_phys {s : State} {w : Who} {pa : Nat} {va : DWord} (bs : List Byte)
    (hown : look 0 s.owners (pa / 64) = 0 ∨ look 0 s.owners (pa / 64) = s.ownerTag w va) :
    SameReplicas s (s.storeAt w (.phys pa) va bs) ∧ (s.storeAt w (.phys pa) va bs).mem = (s.setBytes pa bs).mem := by
  obtain ⟨os, htag⟩ := tagLine_own (s := s.keepOld pa bs) (pa := pa) (tag := s.ownerTag w va) hown
  unfold State.storeAt
  dsimp only
  rw [htag, writeN_phys]
  have hkept : SameReplicas s { s.keepOld pa bs with owners := os } := ⟨rfl, rfl, fun _ => rfl, fun _ => rfl, fun _ => rfl⟩
  have hfill : (State.fillL2 { s.keepOld pa bs with owners := os } pa).mem = s.mem := fillL2_mem _ _
  exact ⟨((hkept.trans .fillL2).trans (.setBytes _ _ _)).trans .dropL1, setBytes_mem hfill pa bs⟩

/-! ## Writes that are performed at their home (R247, R283, R307) -/

/-- A write is done at its home, and its line's poison goes where it was written whole. -/
def Machine.State.written (s : State) (w : Who) (x : Write) (pa : Nat) (clears : Bool) : State :=
  let t := s.storeAt w (.phys pa) x.va x.bytes
  if clears then t.setPoison pa false else t

theorem written_phys {s : State} {w : Who} {x : Write} {pa : Nat} (clears : Bool)
    (hown : look 0 s.owners (pa / 64) = 0 ∨ look 0 s.owners (pa / 64) = s.ownerTag w x.va) :
    SameReplicas s (s.written w x pa clears) ∧ (s.written w x pa clears).mem = (s.setBytes pa x.bytes).mem := by
  obtain ⟨hsame, hmem⟩ := storeAt_phys x.bytes hown
  unfold State.written
  dsimp only
  split
  · exact ⟨hsame.trans ⟨rfl, rfl, fun _ => rfl, fun _ => rfl, fun _ => rfl⟩, hmem⟩
  · exact ⟨hsame, hmem⟩

/-- Whether another die than a write's home holds a replica of its line. -/
def Machine.State.heldBeside (s : State) (h pa : Nat) (bs : List Byte) : Bool :=
  [0, 1, 2, 3].any fun e => e != h && !(s.replicaWrites e 0 [(.phys pa, bs)]).isEmpty

section
variable {s : State} {h : Nat} {w : Who} {x : Write} {pa : Nat} {clears : Bool} {vec : List Nat} {num : Nat}
variable (hloc : x.loc = .phys pa) (hhost : isHost pa = false)
include hloc hhost

/-- A write of this package's memory is done at its home `h` and reported; where another die holds a replica of its line, the others are sent
a message between. -/
theorem performAt_write : ((s.written w x pa clears).heldBeside h pa x.bytes = false →
      s.performAt h w [.write x] clears vec num = s.reportWatched (s.written w x pa clears)) ∧
    ((s.written w x pa clears).heldBeside h pa x.bytes = true → ∃ sends,
      s.performAt h w [.write x] clears vec num = s.reportWatched (((s.written w x pa clears).announce h vec sends).mergeSent w h)) := by
  obtain ⟨loc, va, bs, tso⟩ := x
  cases hloc
  unfold State.performAt State.heldBeside State.written
  cases clears <;> simp only [List.map_cons, List.map_nil, List.foldl_cons, List.foldl_nil, Act.loc, State.crossed, State.performAll, State.perform,
    List.find?_cons, Act.isAtom, List.find?_nil, Option.map_none, State.noteHost, hhost, Bool.false_eq_true, if_false, if_true]
  all_goals
    constructor
    · intro hheld
      rw [hheld]
      rfl
    · intro hheld
      rw [hheld]
      exact ⟨_, rfl⟩

variable (hown : look 0 s.owners (pa / 64) = 0 ∨ look 0 s.owners (pa / 64) = s.ownerTag w x.va)
include hown

/-- However many replicas follow, memory takes the write's bytes and the package's registers stay. -/
theorem performAt_write_memory : (s.performAt h w [.write x] clears vec num).mem = (s.setBytes pa x.bytes).mem ∧
    (s.performAt h w [.write x] clears vec num).pkg = s.pkg := by
  obtain ⟨hsame, hmem⟩ := written_phys clears hown
  obtain ⟨halone, hheld⟩ := performAt_write (s := s) (h := h) (w := w) (clears := clears) (vec := vec) (num := num) hloc hhost
  cases hcase : (s.written w x pa clears).heldBeside h pa x.bytes with
  | false =>
    rw [halone hcase, reportWatched_mem, (SameReplicas.reportWatched _ _).pkg]
    exact ⟨hmem, hsame.pkg⟩
  | true =>
    obtain ⟨sends, heq⟩ := hheld hcase
    rw [heq, reportWatched_mem, (SameReplicas.reportWatched _ _).pkg]
    exact ⟨(announce_mem _ _ _ _).trans hmem, (announce_pkg _ _ _ _).trans hsame.pkg⟩

theorem byte_performAt_write (a : Nat) : (s.performAt h w [.write x] clears vec num).byte a =
    if pa ≤ a ∧ a < pa + x.bytes.length then x.bytes.getD (a - pa) 0#8 else s.byte a := by
  rw [State.byte, (performAt_write_memory hloc hhost hown).1]
  exact byte_setBytes s pa a x.bytes

/-- Where no die holds a replica of the line, no die is told. -/
theorem performAt_write_sameReplicas (hnone : ∀ e, (s.die e).replicates (pa / 64) = false) : SameReplicas s (s.performAt h w [.write x] clears vec num) := by
  obtain ⟨hsame, -⟩ := written_phys clears hown
  have hheld : (s.written w x pa clears).heldBeside h pa x.bytes = false := by
    simp [State.heldBeside, State.replicaWrites, hsame.replicates, hnone]
  rw [(performAt_write hloc hhost).1 hheld]
  exact hsame.trans (.reportWatched _ _)

end

end Sys2Proof

/-!
# Messages between dies, their replicas and their links (R306 to R308)
-/

namespace Sys2Proof

open Machine

/-! ## Messages (R308) -/

/-- A message that has come to its turn: its writes are applied, and its sender's counter is taken over. -/
theorem execCausalMessage_applies {s : State} {src dst : Nat} {m : Msg} {rest : List Msg} (hcur : s.cur = none)
    (hmsgs : look [] s.msgs (src * 4 + dst) = m :: rest) (hmay : s.mayApply src dst m = true) : exec (.causalMessage src dst) s =
      .next ((m.writes.foldl (fun (t : State) w => t.applyWrite dst m.vec w.1 w.2) { s with msgs := put [] s.msgs (src * 4 + dst) rest }).onDie dst
        fun x => { x with applied := x.applied.set src (m.vec.getD src 0) }) := by
  rw [exec_causalMessage, execCausalMessage, hmsgs]
  dsimp only
  rw [if_pos (by simp [hcur, hmay])]

/-- An effect that its home has performed stands in no commit's way. -/
theorem performedAway_effs {s : State} {o q : Out} (hq : q ∈ (s.performedAway o).drain) (hid : q.id = o.id) : q.effs = [] := by
  unfold State.performedAway at hq
  dsimp only at hq
  split at hq
  · obtain ⟨p, -, rfl⟩ := List.mem_map.1 hq
    split at hid
    next h => rw [if_pos h]
    next h => exact absurd hid h
  · exact absurd hid (by simpa [State.dropOut] using (List.mem_filter.1 hq).2)

theorem performedAway_mem (s : State) (o : Out) : (s.performedAway o).mem = s.mem := by
  unfold State.performedAway
  dsimp only
  split <;> rfl

theorem performedAway_dies (s : State) (o : Out) : (s.performedAway o).dies = s.dies := by
  unfold State.performedAway
  dsimp only
  split <;> rfl

section
variable {s : State} {w : Write} {pa : Nat} (hloc : w.loc = .phys pa)
include hloc

/-- A write that comes home is performed for those who made it. -/
theorem applyWrite_home {dst num : Nat} {vec : List Nat} {o : Out} (hhome : homeDie pa = dst) (hdrain : (s.drain.find? fun q => q.id == num) = some o) :
    s.applyWrite dst vec num (.acts [.write w]) = (s.performAt dst o.who [.write w] o.clears (mergeVec vec (s.vector dst)) num).performedAway o := by
  unfold State.applyWrite
  simp only [List.head?_cons, Option.map_some, Act.loc, hloc, hhome, if_true, hdrain]

/-- A write of another die's line goes to the replica that is held of it. -/
theorem applyWrite_replica {dst : Nat} {vec : List Nat} (haway : homeDie pa ≠ dst) :
    s.applyWrite dst vec 0 (.acts [.write w]) = s.reportWatched (s.toReplica dst pa w.bytes) := by
  unfold State.applyWrite State.updateReplica
  obtain ⟨loc, va, bs, tso⟩ := w
  cases hloc
  simp only [List.head?_cons, Option.map_some, Act.loc, haway, if_false, if_true, List.foldl_cons, List.foldl_nil]

end

/-- A line with bytes written over it from an offset on. -/
theorem getD_overlayLine {bs new : List Byte} {off i : Nat} (hi : i < bs.length) : (overlayLine bs off new).getD i 0#8 =
    if off ≤ i ∧ i < off + new.length then new.getD (i - off) 0#8 else bs.getD i 0#8 := by
  have hget : (overlayLine bs off new).getD i 0#8 = if off ≤ i then new.getD (i - off) (bs.getD i 0#8) else bs.getD i 0#8 := by
    simp [overlayLine, List.getD_eq_getElem?_getD, hi]
  rw [hget]
  by_cases hoff : off ≤ i
  · by_cases hlt : i < off + new.length
    · have hk : i - off < new.length := by omega
      simp [hoff, hlt, List.getD_eq_getElem?_getD, hk]
    · have hk : new.length ≤ i - off := by omega
      simp [hoff, hlt, List.getD_eq_getElem?_getD, hk]
  · simp [hoff]

/-- The replica of a line whose bytes are written. -/
theorem look?_toReplica {s : State} {e pa : Nat} {bs : List Byte} {old : Replica} (hold : look? (s.die e).replicas (pa / 64) = some old) :
    look? ((s.toReplica e pa bs).die e).replicas (pa / 64) = some { old with bytes := overlayLine old.bytes (pa % 64) bs } := by
  unfold State.toReplica
  dsimp only
  rw [SameReplicas.dropL1.replicas, die_onDie_same]
  dsimp only
  rw [alter?, look?_put?_same, hold, Option.map_some]

theorem toReplica_applied (s : State) (e pa : Nat) (bs : List Byte) (d : Nat) : ((s.toReplica e pa bs).die d).applied = (s.die d).applied := by
  unfold State.toReplica
  dsimp only
  rw [SameReplicas.dropL1.applied, die_onDie]
  split
  next h => rw [h]
  next => rfl

/-- The key of a write's line does not depend on the messages on their way. -/
theorem ownerTag_setMsgs (s : State) (ms : List (Nat × List Msg)) (w : Who) (va : DWord) : State.ownerTag { s with msgs := ms } w va = s.ownerTag w va := by
  have hsame : SameButChecks s { s with msgs := ms } fun e => (s.die e).pathChecks := ⟨fun _ => rfl, rfl, rfl, rfl, rfl, rfl, rfl⟩
  rw [State.ownerTag, hsame.tlb?, hsame.walk, State.ownerTag]

section
variable {s : State} {src dst : Nat} {m : Msg} {rest : List Msg} {w : Write} {pa : Nat}
variable (hcur : s.cur = none) (hmsgs : look [] s.msgs (src * 4 + dst) = m :: rest) (hmay : s.mayApply src dst m = true) (hloc : w.loc = .phys pa)
include hcur hmsgs hmay hloc

/-- A message with a write of its home's memory, of a line that no die holds a replica of and nobody has written through another key. -/
theorem causalMessage_home {o : Out} (hhost : isHost pa = false) (hwrites : m.writes = [(o.id, .acts [.write w])]) (hhome : homeDie pa = dst)
    (hdrain : (s.drain.find? fun q => q.id == o.id) = some o)
    (hown : look 0 s.owners (pa / 64) = 0 ∨ look 0 s.owners (pa / 64) = s.ownerTag o.who w.va) (hnone : ∀ e, (s.die e).replicates (pa / 64) = false) :
    ∃ t, exec (.causalMessage src dst) s = .next t ∧ (t.die dst).applied = (s.die dst).applied.set src (m.vec.getD src 0) ∧
      (∀ a, t.byte a = if pa ≤ a ∧ a < pa + w.bytes.length then w.bytes.getD (a - pa) 0#8 else s.byte a) ∧ ∀ q ∈ t.drain, q.id = o.id → q.effs = [] := by
  have hexec := execCausalMessage_applies hcur hmsgs hmay
  rw [hwrites, List.foldl_cons, List.foldl_nil] at hexec
  generalize hu : ({ s with msgs := put [] s.msgs (src * 4 + dst) rest } : State) = u at hexec
  rw [applyWrite_home hloc hhome (by rw [← hu]; exact hdrain)] at hexec
  have hown' : look 0 u.owners (pa / 64) = 0 ∨ look 0 u.owners (pa / 64) = u.ownerTag o.who w.va := by
    rw [← hu, ownerTag_setMsgs]
    exact hown
  have hsame := performAt_write_sameReplicas (s := u) (h := dst) (clears := o.clears) (vec := mergeVec m.vec (u.vector dst)) (num := o.id) hloc hhost hown'
    (by rw [← hu]; exact hnone)
  refine ⟨_, hexec, ?_, fun a => ?_, fun q hq hid => performedAway_effs hq hid⟩
  · rw [die_onDie_same]
    dsimp only
    rw [State.die, performedAway_dies, ← State.die, hsame.applied, ← hu]
    rfl
  · rw [State.byte, State.onDie_mem, performedAway_mem, ← State.byte, byte_performAt_write hloc hhost hown', ← hu]
    rfl

/-- A message with a write of a line of another die's, of which this one holds a replica. -/
theorem causalMessage_replica {old : Replica} (hwrites : m.writes = [(0, .acts [.write w])]) (haway : homeDie pa ≠ dst)
    (hold : look? (s.die dst).replicas (pa / 64) = some old) (hlen : old.bytes.length = 64) :
    ∃ t new, exec (.causalMessage src dst) s = .next t ∧ (t.die dst).applied = (s.die dst).applied.set src (m.vec.getD src 0) ∧ t.mem = s.mem ∧
      look? (t.die dst).replicas (pa / 64) = some new ∧ ∀ i < 64, new.bytes.getD i 0#8 =
        if pa % 64 ≤ i ∧ i < pa % 64 + w.bytes.length then w.bytes.getD (i - pa % 64) 0#8 else old.bytes.getD i 0#8 := by
  have hexec := execCausalMessage_applies hcur hmsgs hmay
  rw [hwrites, List.foldl_cons, List.foldl_nil, applyWrite_replica hloc haway] at hexec
  generalize hu : ({ s with msgs := put [] s.msgs (src * 4 + dst) rest } : State) = u at hexec
  have hsame := SameReplicas.reportWatched u (u.toReplica dst pa w.bytes)
  refine ⟨_, { old with bytes := overlayLine old.bytes (pa % 64) w.bytes }, hexec, ?_, ?_, ?_, fun i hi => getD_overlayLine (by rw [hlen]; exact hi)⟩
  · rw [die_onDie_same]
    dsimp only
    rw [hsame.applied, toReplica_applied, ← hu]
    rfl
  · rw [State.onDie_mem, reportWatched_mem, ← hu]
    rfl
  · rw [die_onDie_same]
    dsimp only
    rw [hsame.replicas]
    exact look?_toReplica (by rw [← hu]; exact hold)

end

/-! ## Replicas (R307) -/

section
variable {s : State} {d line : Nat}

/-- A line that has come, and that what its home had has been applied for, is installed where the L2 has room. -/
theorem replicaFill_installs {bs : Replica} {v : List Nat} (hcur : s.cur = none)
    (hfill : ((s.die d).pendingFill.find? fun e => e.1 == line) = some (line, bs, v)) (hcovers : s.covers d v = true)
    (hroom : (s.die d).replicas.length < l2Lines) : ∃ t, exec (.replicaFill d line) s = .next t ∧
      look? (t.die d).replicas line = some bs ∧ (∀ e ∈ (t.die d).pendingFill, e.1 ≠ line) ∧ t.mem = s.mem := by
  rw [exec_replicaFill, execReplicaFill, hfill]
  dsimp only
  rw [if_pos (by simp [hcur, hcovers, hroom])]
  refine ⟨_, rfl, ?_, fun e he => ?_, rfl⟩
  · rw [die_onDie_same]
    exact look?_put?_same (s.die d).replicas line (some bs)
  · rw [die_onDie_same] at he
    simpa using (List.mem_filter.1 he).2

/-- A core whose L1 loses a line, unless it is spared. -/
def Machine.Core.withoutLine (line but c : Nat) (x : Core) : Core := if c = but then x else { x with l1 := x.l1.filter (· != line) }

theorem core_dropL1 (but c : Nat) : (s.dropL1 d line but).core d c = (s.core d c).withoutLine line but c := by
  have hentry : (fun e : Nat × Core => if e.1 = but then e else (e.1, { e.2 with l1 := e.2.l1.filter (· != line) })) =
      fun e => (e.1, e.2.withoutLine line but e.1) := by
    funext e
    unfold Core.withoutLine
    split <;> rfl
  rw [State.core, State.dropL1, die_onDie_same, hentry]
  unfold Die.core look
  dsimp only
  rw [look?_mapEntries (Core.withoutLine line but), State.core, Die.core, look]
  cases look? (s.die d).cores c with
  | none =>
    unfold Core.withoutLine
    split <;> rfl
  | some x => rfl

/-- A replica that is dropped is in no cache of its die. -/
theorem replicaDrop_drops (hheld : (look? (s.die d).replicas line).isSome = true) : ∃ t, exec (.replicaDrop d line) s = .next t ∧
    look? (t.die d).replicas line = none ∧ (∀ c ≤ 128, line ∉ (t.core d c).l1) ∧ t.mem = s.mem := by
  rw [exec_replicaDrop, execReplicaDrop, if_pos hheld]
  refine ⟨_, rfl, ?_, fun c hc => ?_, rfl⟩
  · rw [SameReplicas.dropL1.replicas, die_onDie_same]
    dsimp only
    rw [look?_erase, if_pos rfl]
  · rw [core_dropL1, Core.withoutLine, if_neg (by omega)]
    simp

end

/-! ## Links that fail (R306) -/

/-- A link that has failed keeps no replica up to date; one that carried nothing loses nothing (log 18). -/
theorem d2dLinkFail_drops {s : State} {src dst : Nat} (hne : src ≠ dst) (hsrc : src < 4) (hdst : dst < 4) : ∃ t, exec (.d2dLinkFail src dst) s = .next t ∧
    (∀ e ∈ (t.die dst).replicas, homeDie (e.1 * 64) ≠ src) ∧
    (look [] s.msgs (src * 4 + dst) = [] → (∀ e, e ∈ t.pkg.deadLinks ↔ e ∈ s.pkg.deadLinks ∨ e = src * 4 + dst) ∧ t.mem = s.mem) := by
  rw [exec_d2dLinkFail, execD2dLinkFail, if_neg (by simp; omega)]
  refine ⟨_, rfl, fun e he => ?_, fun hnone => ⟨fun e => ?_, ?_⟩⟩
  · rw [die_onDie_same] at he
    simpa using (List.mem_filter.1 he).2
  · simp only [State.onDie_pkg, hnone, List.foldl_nil, List.mem_eraseDups, List.mem_append, List.mem_singleton]
  · simp only [State.onDie_mem, hnone, List.foldl_nil]

end Sys2Proof

/-!
# Other packages (R325 to R329)
-/

namespace Sys2Proof

open Machine

/-! ## Requests from other packages (R325, R326) -/

/-- The window that admits an access, if one does. -/
theorem admitting_eq_none {s : State} {src addr n : Nat} {write : Bool} (h : s.admits src addr n write = false) : s.admitting src addr n write = none := by
  simpa [State.admits] using h

theorem exists_admitting {s : State} {src addr n : Nat} {write : Bool} (h : s.admits src addr n write = true) : ∃ k, s.admitting src addr n write = some k :=
  Option.isSome_iff_exists.1 h

/-- The bytes of a line are all of one home. -/
theorem homeDie_add {pa i : Nat} (h : pa % 64 + i < 64) : homeDie (pa + i) = homeDie pa := by
  have hdiv (n : Nat) : (pa + i) / 2 ^ (6 + n) = pa / 2 ^ (6 + n) := by
    rw [pow_add, ← Nat.div_div_eq_div_mul, ← Nat.div_div_eq_div_mul, show (pa + i) / 2 ^ 6 = pa / 2 ^ 6 by omega]
  rw [homeDie, homeDie, hdiv 32, hdiv 30]

/-- A line's bytes at its home are those of memory. -/
theorem readN_home {s : State} {inst pa n : Nat} (hline : pa % 64 + n ≤ 64) : s.readN (homeDie pa) inst (.phys pa) n = s.bytes pa n := by
  unfold State.readN State.bytes
  refine List.map_congr_left fun i hi => ?_
  have hi' := List.mem_range.1 hi
  simp [State.read, Loc.plus, State.dieByte, homeDie_add (show pa % 64 + i < 64 by omega)]

/-- A line that nobody has written through a key reads as it is (log 53). -/
theorem seal_line_unowned {s : State} {d c ctx va pa : Nat} {bs : List Byte} (hline : pa % 64 + bs.length ≤ 64) (hnone : look 0 s.owners (pa / 64) = 0) :
    s.seal d c ctx va (.phys pa) bs = bs := by
  unfold State.seal
  dsimp only
  split
  · rfl
  · refine (List.map_congr_left (g := Prod.fst) fun e he => ?_).trans (List.map_fst_zip (by simp))
    have hk : e.2 < bs.length := List.mem_range.1 (List.of_mem_zip he).2
    rw [show (pa + e.2) / 64 = pa / 64 by omega, hnone]
    simp

theorem reply_replies (s : State) (src : Nat) (ok : Bool) (bs : List Byte) : (s.reply src ok bs).pkg.replies = s.pkg.replies ++ [(src, ok, bs)] := rfl

theorem byte_reply (s : State) (src : Nat) (ok : Bool) (bs : List Byte) (a : Nat) : (s.reply src ok bs).byte a = s.byte a := rfl

theorem fabActs_write (src addr : Nat) (bs : List Byte) : fabActs ⟨src, addr, .write bs⟩ = ([.write ⟨.phys addr, 0#64, bs, false⟩], bs.length, true) := rfl

theorem fabActs_load (src addr n : Nat) : fabActs ⟨src, addr, .load n⟩ = ([], n, false) := rfl

section
variable {s : State} {src addr : Nat} {bs : List Byte} (hbs : bs ≠ []) (hline : addr % 64 + bs.length ≤ 64) (haddr : addr < 2 ^ 38)
include hbs hline haddr

/-- A write or a load of bytes of one line of this package's memory goes by the windows alone. -/
theorem fabricRequest_wellFormed : ¬ (decide (bs.length = 0) || decide (64 < addr % 64 + bs.length) || decide (2 ^ 38 ≤ addr) || !true) = true := by
  have hpos : bs.length ≠ 0 := fun h => hbs (List.eq_nil_of_length_eq_zero h)
  simp only [Bool.or_eq_true, decide_eq_true_eq, Bool.not_true, Bool.false_eq_true, or_false]
  omega

theorem fabricWrite_refused (h : s.admits src addr bs.length true = false) : exec (.fabricRequest ⟨src, addr, .write bs⟩) s = .next (s.reply src false []) := by
  rw [exec_fabricRequest, execFabricRequest, fabActs_write]
  dsimp only
  rw [if_neg (fabricRequest_wellFormed hbs hline haddr), admitting_eq_none h]

theorem fabricLoad_refused (h : s.admits src addr bs.length false = false) :
    exec (.fabricRequest ⟨src, addr, .load bs.length⟩) s = .next (s.reply src false []) := by
  rw [exec_fabricRequest, execFabricRequest, fabActs_load]
  dsimp only
  rw [if_neg (fabricRequest_wellFormed hbs hline haddr), admitting_eq_none h]

/-- A load that a window admits is answered with the bytes at the home. -/
theorem fabricLoad_admitted (h : s.admits src addr bs.length false = true) (hown : look 0 s.owners (addr / 64) = 0)
    (hgood : s.badN (homeDie addr) 256 (.phys addr) bs.length = false) :
    exec (.fabricRequest ⟨src, addr, .load bs.length⟩) s = .next (s.reply src true (s.bytes addr bs.length)) := by
  obtain ⟨k, hk⟩ := exists_admitting h
  have hread (w : Who) : s.oldBytes w (.phys addr) 0#64 bs.length = s.bytes addr bs.length := by
    rw [State.oldBytes, Who.homeOf, readN_home hline, seal_line_unowned (by simpa [State.bytes] using hline) hown]
  rw [exec_fabricRequest, execFabricRequest, fabActs_load]
  dsimp only
  rw [if_neg (fabricRequest_wellFormed hbs hline haddr), hk]
  simp only [hgood, hread, List.isEmpty_nil, if_true, Bool.false_eq_true, if_false]

/-- A write that a window admits is performed at its home and answered. -/
theorem fabricWrite_admitted (h : s.admits src addr bs.length true = true) (hown : look 0 s.owners (addr / 64) = 0) :
    ∃ t, exec (.fabricRequest ⟨src, addr, .write bs⟩) s = .next t ∧ t.pkg.replies = s.pkg.replies ++ [(src, true, [])] ∧
      ∀ a, t.byte a = if addr ≤ a ∧ a < addr + bs.length then bs.getD (a - addr) 0#8 else s.byte a := by
  obtain ⟨k, hk⟩ := exists_admitting h
  have hhost : isHost addr = false := by
    rw [isHost, Nat.div_eq_of_lt haddr]
    rfl
  rw [exec_fabricRequest, execFabricRequest, fabActs_write]
  dsimp only
  rw [if_neg (fabricRequest_wellFormed hbs hline haddr), hk]
  simp only [List.isEmpty_cons, Bool.false_eq_true, if_false]
  refine ⟨_, rfl, ?_, fun a => ?_⟩
  · rw [reply_replies, (performAt_write_memory rfl hhost (.inl hown)).2]
  · rw [byte_reply, byte_performAt_write rfl hhost (.inl hown)]

end

/-! ## Requests to other packages (R327, R329) -/

/-- Acts that bring no old value deliver nothing. -/
theorem deliverAll_noAtoms {s : State} {as : List Act} (h : as.filter Act.isAtom = []) : s.deliverAll as [] = s := by
  induction as with
  | nil => rfl
  | cons a as ih =>
    cases a with
    | write x => exact ih (by simpa [Act.isAtom] using h)
    | merge x mask => exact ih (by simpa [Act.isAtom] using h)
    | atom minor p tag => simp [Act.isAtom] at h

theorem unperformed_still (s : State) (w : Who) (as : List Act) : Still s (s.unperformed w as) := by
  unfold State.unperformed
  extract_lets t
  have ht : Still s t := by
    refine foldl_keeps (P := Still s) (fun u a hu => ?_) _ .refl
    cases a <;> exact ⟨hu.mem, hu.drain⟩
  split
  · exact ⟨ht.mem, ht.drain⟩
  · exact ht

theorem copyOver_still (s : State) (d core key seq : Nat) : Still s (s.copyOver d core key seq) := ⟨rfl, rfl⟩

theorem engineFault_still (s : State) (w : Who) (q seq code : Nat) (info site : DWord) (siteIdx : Nat) : Still s (s.engineFault w q seq code info site siteIdx) := by
  have herr : Still s (s.setErr w.die w.inst w.core q) := ⟨rfl, rfl⟩
  exact herr.trans report_quiet.1.toStill

theorem copyFault_still (s : State) (d core key seq : Nat) (w : Who) (code : Nat) (info : DWord) : Still s (s.copyFault d core key seq w code info) := by
  unfold State.copyFault
  dsimp only
  split
  · exact engineFault_still _ _ _ _ _ _ _ _
  · exact (engineFault_still _ _ _ _ _ _ _ _).trans (copyOver_still _ _ _ _ _)

theorem enginePath_still (s : State) (n : Nat) (va : DWord) : Still s (s.enginePath n va) := by
  unfold State.enginePath
  split
  · split
    · exact .refl
    · exact copyFault_still _ _ _ _ _ _ _ _
  · exact .refl

section
variable {s : State} {f : FabOut} (hf : (s.pkg.fabricOut.find? fun q => q.id == f.id) = some f)
include hf

/-- A request before which its package has another to answer is not answered yet (log 41). -/
theorem fabricAck_early (hfirst : s.isFirst f = false) (bs : List Byte) : exec (.fabricAck f.id bs) s = .fault (.notEnabled "FABRIC_ACK") := by
  simp [execFabricAck, hf, hfirst]

section
variable {n : Nat} (hclient : f.client = .out n) (hfirst : s.isFirst f = true)
include hclient hfirst

/-- An acknowledgement of an effect that is no more is one of the request alone. -/
theorem fabricAck_gone (hnone : (s.drain.find? fun q => q.id == n) = none) (bs : List Byte) : exec (.fabricAck f.id bs) s = .next (s.dropFab f.id) := by
  simp [execFabricAck, hf, hfirst, hclient, hnone]

variable {o : Out} (ho : (s.drain.find? fun q => q.id == n) = some o)
include ho

/-- Writes that are performed are over (log 67). -/
theorem fabricAck_performed (hnone : o.acts.filter Act.isAtom = []) : exec (.fabricAck f.id [0#8]) s = .next ((s.dropOut n).dropFab f.id) := by
  simp [execFabricAck, hf, hfirst, hclient, ho, hnone, deliverAll_noAtoms]

/-- An effect that its package refuses is over, and nothing of it is written (log 67). -/
theorem fabricAck_refused : ∃ t, exec (.fabricAck f.id [1#8]) s = .next t ∧ t.mem = s.mem ∧ (∀ q ∈ t.drain, q.id ≠ n) ∧ ∀ q ∈ t.pkg.fabricOut, q.id ≠ f.id := by
  rw [exec_fabricAck, execFabricAck, hf]
  simp only [hfirst, hclient, ho, Bool.not_true, Bool.false_eq_true, if_false]
  rw [if_pos (by decide)]
  have hpath := enginePath_still ((s.unperformed o.maker o.acts).dropOut n) n ((o.acts.head?.map Act.va).getD 0#64)
  refine ⟨_, rfl, hpath.mem.trans (unperformed_still _ _ _).mem, fun q hq => ?_, fun q hq => ?_⟩
  · rw [State.dropFab, hpath.drain] at hq
    simpa using (List.mem_filter.1 hq).2
  · simpa using (List.mem_filter.1 hq).2

end

/-- A request that is not acknowledged in time is lost with the path to its package (log 30). -/
theorem fabricTimeout_runs (hcur : s.cur = none) (hdue : f.sentAt + s.fabricNs ≤ s.time) : exec (.fabricTimeout f.id) s =
    .next ({ s with pkg := { s.pkg with deadPkgs := (s.pkg.deadPkgs ++ [f.pkg]).eraseDups } } : State).lostRequests := by
  simp only [exec_fabricTimeout, execFabricTimeout, hf, hcur, hdue, Option.isNone_none, decide_true, Bool.and_self, if_true]

end

/-- A fabric link that fails takes the requests with it that have no other path. -/
theorem fabricLinkFail_runs {s : State} {link : Nat} (hlink : link < 16) : exec (.fabricLinkFail link) s =
    .next ({ s with pkg := { s.pkg with deadFabric := (s.pkg.deadFabric ++ [link]).eraseDups } } : State).lostRequests := by
  rw [exec_fabricLinkFail, execFabricLinkFail, if_neg (by omega)]

/-! ## The statement about dies and packages -/

/-- Settles O58: a message applies each of its writes (`execCausalMessage_applies`), a write at its home is one of memory
(`byte_performAt_write`), and what windows, links and packages refuse leaves memory as it was. -/
theorem packageEvents : Obligations.PackageEvents := by
  unfold Obligations.PackageEvents
  intro s
  refine ⟨fun src dst m rest hcur hmsgs hmay hnone => ?_, fun src dst m rest o w pa hcur hmsgs hmay hloc hhost _ =>
      ⟨fun hwrites hhome hdrain hown hreplicas => causalMessage_home hcur hmsgs hmay hloc hhost hwrites hhome hdrain hown hreplicas,
       fun old hwrites haway hold hlen => causalMessage_replica hcur hmsgs hmay hloc hwrites haway hold hlen⟩,
    fun d line bs v => replicaFill_installs, fun d line => replicaDrop_drops, fun src dst => d2dLinkFail_drops, fun src addr bs hbs hline haddr => ?_,
    fun f n hf hclient => ⟨fun hfirst => fabricAck_early hf hfirst [], fun hfirst => ⟨fun o ho => ⟨fabricAck_performed hf hclient hfirst ho,
      fabricAck_refused hf hclient hfirst ho⟩, fun hnone => fabricAck_gone hf hclient hfirst hnone []⟩⟩,
    fun link => fabricLinkFail_runs, fun f hcur hf hdue => fabricTimeout_runs hf hcur hdue⟩
  · rw [execCausalMessage_applies hcur hmsgs hmay, hnone]
    rfl
  · exact ⟨fun h => ⟨_, fabricWrite_refused hbs hline haddr h, rfl, rfl⟩, fun h => ⟨_, fabricLoad_refused hbs hline haddr h, rfl, rfl⟩,
      fun h hown hgood => ⟨_, fabricLoad_admitted hbs hline haddr h hown hgood, rfl, rfl⟩, fun h hown => fabricWrite_admitted hbs hline haddr h hown⟩

end Sys2Proof
